-- ==== Sys2Proof/Word.lean ====
section
/-! DEFINITION. Word types (R2) and their plainest arithmetic. -/

namespace Sys2Proof

/-- A dword of R2: a scalar register, a control register, a virtual address. -/
abbrev Word := BitVec 64

/-- A byte of R2. -/
abbrev Byte := BitVec 8

/-- The words of a Fladitus instruction (R180). -/
abbrev IWord := BitVec 32

end Sys2Proof
end

