-- ==== Sys2Proof/Syntax.lean ====
section
/-! DEFINITION. The one inductive of instructions and steps: one constructor per row of spec/opcode_table.json.
The first 416 are instruction words (08_encoding.md, majors 0x01 to 0x44); the last 86 are the steps of the other
agents (95_what_each_step_holds.md), which have no encoding. Argument names follow Table 8.1: `d a b` register
fields, `fa fb` the policy bits FA and FB, `xm` the bit XM. -/

set_option genSizeOfSpec false

namespace Sys2Proof

inductive Instr where
  | nop
  | trap (a : BitVec 5) (fa : Bool)
  | brk
  | eret
  | wfe (d : BitVec 5) (a : BitVec 5) (fa : Bool)
  | yield
  | pollp (d : BitVec 5)
  | halt
  | cinval (scope : BitVec 5) (a : BitVec 5) (b : BitVec 5) (fa : Bool) (fb : Bool)
  | tlbsync (scope : BitVec 5) (a : BitVec 5) (b : BitVec 5) (fa : Bool) (fb : Bool)
  | qnext (d : BitVec 5) (a : BitVec 5) (b : BitVec 5) (fa : Bool) (fb : Bool)
  | exit
  | csrrw (d : BitVec 5) (a : BitVec 5) (fa : Bool) (csr : BitVec 12)
  | csrrs (d : BitVec 5) (a : BitVec 5) (fa : Bool) (csr : BitVec 12)
  | csrrc (d : BitVec 5) (a : BitVec 5) (fa : Bool) (csr : BitVec 12)
  | fwait (a : BitVec 5) (fa : Bool)
  | fwaitv (a : BitVec 5) (fa : Bool)
  | fsts (d : BitVec 5) (a : BitVec 5)
  | fstv (d : BitVec 5) (a : BitVec 5)
  | fwall
  | add (d : BitVec 5) (a : BitVec 5) (b : BitVec 5) (fa : Bool) (fb : Bool)
  | sub (d : BitVec 5) (a : BitVec 5) (b : BitVec 5) (fa : Bool) (fb : Bool)
  | and (d : BitVec 5) (a : BitVec 5) (b : BitVec 5) (fa : Bool) (fb : Bool)
  | or (d : BitVec 5) (a : BitVec 5) (b : BitVec 5) (fa : Bool) (fb : Bool)
  | xor (d : BitVec 5) (a : BitVec 5) (b : BitVec 5) (fa : Bool) (fb : Bool)
  | andn (d : BitVec 5) (a : BitVec 5) (b : BitVec 5) (fa : Bool) (fb : Bool)
  | sll (d : BitVec 5) (a : BitVec 5) (b : BitVec 5) (fa : Bool) (fb : Bool)
  | srl (d : BitVec 5) (a : BitVec 5) (b : BitVec 5) (fa : Bool) (fb : Bool)
  | sra (d : BitVec 5) (a : BitVec 5) (b : BitVec 5) (fa : Bool) (fb : Bool)
  | rol (d : BitVec 5) (a : BitVec 5) (b : BitVec 5) (fa : Bool) (fb : Bool)
  | ror (d : BitVec 5) (a : BitVec 5) (b : BitVec 5) (fa : Bool) (fb : Bool)
  | slt (d : BitVec 5) (a : BitVec 5) (b : BitVec 5) (fa : Bool) (fb : Bool)
  | sltn (d : BitVec 5) (a : BitVec 5) (b : BitVec 5) (fa : Bool) (fb : Bool)
  | seq (d : BitVec 5) (a : BitVec 5) (b : BitVec 5) (fa : Bool) (fb : Bool)
  | min (d : BitVec 5) (a : BitVec 5) (b : BitVec 5) (fa : Bool) (fb : Bool)
  | max (d : BitVec 5) (a : BitVec 5) (b : BitVec 5) (fa : Bool) (fb : Bool)
  | minn (d : BitVec 5) (a : BitVec 5) (b : BitVec 5) (fa : Bool) (fb : Bool)
  | maxn (d : BitVec 5) (a : BitVec 5) (b : BitVec 5) (fa : Bool) (fb : Bool)
  | clz (d : BitVec 5) (a : BitVec 5) (fa : Bool)
  | ctz (d : BitVec 5) (a : BitVec 5) (fa : Bool)
  | cpop (d : BitVec 5) (a : BitVec 5) (fa : Bool)
  | sextB (d : BitVec 5) (a : BitVec 5) (fa : Bool)
  | sextH (d : BitVec 5) (a : BitVec 5) (fa : Bool)
  | sextW (d : BitVec 5) (a : BitVec 5) (fa : Bool)
  | zextH (d : BitVec 5) (a : BitVec 5) (fa : Bool)
  | zextW (d : BitVec 5) (a : BitVec 5) (fa : Bool)
  | mul (d : BitVec 5) (a : BitVec 5) (b : BitVec 5) (fa : Bool) (fb : Bool)
  | mulh (d : BitVec 5) (a : BitVec 5) (b : BitVec 5) (fa : Bool) (fb : Bool)
  | mulhn (d : BitVec 5) (a : BitVec 5) (b : BitVec 5) (fa : Bool) (fb : Bool)
  | mulhsn (d : BitVec 5) (a : BitVec 5) (b : BitVec 5) (fa : Bool) (fb : Bool)
  | div (d : BitVec 5) (a : BitVec 5) (b : BitVec 5) (fa : Bool) (fb : Bool)
  | divn (d : BitVec 5) (a : BitVec 5) (b : BitVec 5) (fa : Bool) (fb : Bool)
  | rem (d : BitVec 5) (a : BitVec 5) (b : BitVec 5) (fa : Bool) (fb : Bool)
  | remn (d : BitVec 5) (a : BitVec 5) (b : BitVec 5) (fa : Bool) (fb : Bool)
  | faddD (d : BitVec 5) (a : BitVec 5) (b : BitVec 5) (fa : Bool) (fb : Bool)
  | fsubD (d : BitVec 5) (a : BitVec 5) (b : BitVec 5) (fa : Bool) (fb : Bool)
  | fmulD (d : BitVec 5) (a : BitVec 5) (b : BitVec 5) (fa : Bool) (fb : Bool)
  | fdivD (d : BitVec 5) (a : BitVec 5) (b : BitVec 5) (fa : Bool) (fb : Bool)
  | fsqrtD (d : BitVec 5) (a : BitVec 5) (fa : Bool)
  | fmacD (d : BitVec 5) (a : BitVec 5) (b : BitVec 5) (fa : Bool) (fb : Bool)
  | fminD (d : BitVec 5) (a : BitVec 5) (b : BitVec 5) (fa : Bool) (fb : Bool)
  | fmaxD (d : BitVec 5) (a : BitVec 5) (b : BitVec 5) (fa : Bool) (fb : Bool)
  | fnegD (d : BitVec 5) (a : BitVec 5) (fa : Bool)
  | fabsD (d : BitVec 5) (a : BitVec 5) (fa : Bool)
  | feqD (d : BitVec 5) (a : BitVec 5) (b : BitVec 5) (fa : Bool) (fb : Bool)
  | fltD (d : BitVec 5) (a : BitVec 5) (b : BitVec 5) (fa : Bool) (fb : Bool)
  | fleD (d : BitVec 5) (a : BitVec 5) (b : BitVec 5) (fa : Bool) (fb : Bool)
  | fclassD (d : BitVec 5) (a : BitVec 5) (fa : Bool)
  | ftoiD (d : BitVec 5) (a : BitVec 5) (fa : Bool)
  | ftonD (d : BitVec 5) (a : BitVec 5) (fa : Bool)
  | itofD (d : BitVec 5) (a : BitVec 5) (fa : Bool)
  | ntofD (d : BitVec 5) (a : BitVec 5) (fa : Bool)
  | fcvtDS (d : BitVec 5) (a : BitVec 5) (fa : Bool)
  | faddS (d : BitVec 5) (a : BitVec 5) (b : BitVec 5) (fa : Bool) (fb : Bool)
  | fsubS (d : BitVec 5) (a : BitVec 5) (b : BitVec 5) (fa : Bool) (fb : Bool)
  | fmulS (d : BitVec 5) (a : BitVec 5) (b : BitVec 5) (fa : Bool) (fb : Bool)
  | fdivS (d : BitVec 5) (a : BitVec 5) (b : BitVec 5) (fa : Bool) (fb : Bool)
  | fsqrtS (d : BitVec 5) (a : BitVec 5) (fa : Bool)
  | fmacS (d : BitVec 5) (a : BitVec 5) (b : BitVec 5) (fa : Bool) (fb : Bool)
  | fminS (d : BitVec 5) (a : BitVec 5) (b : BitVec 5) (fa : Bool) (fb : Bool)
  | fmaxS (d : BitVec 5) (a : BitVec 5) (b : BitVec 5) (fa : Bool) (fb : Bool)
  | fnegS (d : BitVec 5) (a : BitVec 5) (fa : Bool)
  | fabsS (d : BitVec 5) (a : BitVec 5) (fa : Bool)
  | feqS (d : BitVec 5) (a : BitVec 5) (b : BitVec 5) (fa : Bool) (fb : Bool)
  | fltS (d : BitVec 5) (a : BitVec 5) (b : BitVec 5) (fa : Bool) (fb : Bool)
  | fleS (d : BitVec 5) (a : BitVec 5) (b : BitVec 5) (fa : Bool) (fb : Bool)
  | fclassS (d : BitVec 5) (a : BitVec 5) (fa : Bool)
  | ftoiS (d : BitVec 5) (a : BitVec 5) (fa : Bool)
  | ftonS (d : BitVec 5) (a : BitVec 5) (fa : Bool)
  | itofS (d : BitVec 5) (a : BitVec 5) (fa : Bool)
  | ntofS (d : BitVec 5) (a : BitVec 5) (fa : Bool)
  | fcvtSD (d : BitVec 5) (a : BitVec 5) (fa : Bool)
  | addi (d : BitVec 5) (a : BitVec 5) (fa : Bool) (imm : BitVec 14)
  | andi (d : BitVec 5) (a : BitVec 5) (fa : Bool) (imm : BitVec 14)
  | ori (d : BitVec 5) (a : BitVec 5) (fa : Bool) (imm : BitVec 14)
  | xori (d : BitVec 5) (a : BitVec 5) (fa : Bool) (imm : BitVec 14)
  | slli (d : BitVec 5) (a : BitVec 5) (fa : Bool) (sh : BitVec 6)
  | srli (d : BitVec 5) (a : BitVec 5) (fa : Bool) (sh : BitVec 6)
  | srai (d : BitVec 5) (a : BitVec 5) (fa : Bool) (sh : BitVec 6)
  | slti (d : BitVec 5) (a : BitVec 5) (fa : Bool) (imm : BitVec 14)
  | ldhi (d : BitVec 5) (imm : BitVec 20)
  | pcadd (d : BitVec 5) (imm : BitVec 20)
  | jal (off : BitVec 25)
  | jalr (d : BitVec 5) (a : BitVec 5) (fa : Bool) (imm : BitVec 14)
  | beq (a : BitVec 5) (b : BitVec 5) (fa : Bool) (off : BitVec 14)
  | bne (a : BitVec 5) (b : BitVec 5) (fa : Bool) (off : BitVec 14)
  | blt (a : BitVec 5) (b : BitVec 5) (fa : Bool) (off : BitVec 14)
  | bge (a : BitVec 5) (b : BitVec 5) (fa : Bool) (off : BitVec 14)
  | bltn (a : BitVec 5) (b : BitVec 5) (fa : Bool) (off : BitVec 14)
  | bgen (a : BitVec 5) (b : BitVec 5) (fa : Bool) (off : BitVec 14)
  | loop (a : BitVec 5) (fa : Bool) (imm : BitVec 14)
  | lbrk
  | lidx (d : BitVec 5) (n : BitVec 5)
  | lrem (d : BitVec 5) (n : BitVec 5)
  | lclr
  | ldb (d : BitVec 5) (a : BitVec 5) (fa : Bool) (imm : BitVec 14)
  | ldbn (d : BitVec 5) (a : BitVec 5) (fa : Bool) (imm : BitVec 14)
  | ldh (d : BitVec 5) (a : BitVec 5) (fa : Bool) (imm : BitVec 14)
  | ldhn (d : BitVec 5) (a : BitVec 5) (fa : Bool) (imm : BitVec 14)
  | ldw (d : BitVec 5) (a : BitVec 5) (fa : Bool) (imm : BitVec 14)
  | ldwn (d : BitVec 5) (a : BitVec 5) (fa : Bool) (imm : BitVec 14)
  | ldd (d : BitVec 5) (a : BitVec 5) (fa : Bool) (imm : BitVec 14)
  | stb (d : BitVec 5) (a : BitVec 5) (fa : Bool) (imm : BitVec 14)
  | sth (d : BitVec 5) (a : BitVec 5) (fa : Bool) (imm : BitVec 14)
  | stw (d : BitVec 5) (a : BitVec 5) (fa : Bool) (imm : BitVec 14)
  | std (d : BitVec 5) (a : BitVec 5) (fa : Bool) (imm : BitVec 14)
  | ldbAcq (d : BitVec 5) (a : BitVec 5) (fa : Bool) (scope : BitVec 3)
  | ldbnAcq (d : BitVec 5) (a : BitVec 5) (fa : Bool) (scope : BitVec 3)
  | ldhAcq (d : BitVec 5) (a : BitVec 5) (fa : Bool) (scope : BitVec 3)
  | ldhnAcq (d : BitVec 5) (a : BitVec 5) (fa : Bool) (scope : BitVec 3)
  | ldwAcq (d : BitVec 5) (a : BitVec 5) (fa : Bool) (scope : BitVec 3)
  | ldwnAcq (d : BitVec 5) (a : BitVec 5) (fa : Bool) (scope : BitVec 3)
  | lddAcq (d : BitVec 5) (a : BitVec 5) (fa : Bool) (scope : BitVec 3)
  | stbRel (d : BitVec 5) (a : BitVec 5) (fa : Bool) (scope : BitVec 3)
  | sthRel (d : BitVec 5) (a : BitVec 5) (fa : Bool) (scope : BitVec 3)
  | stwRel (d : BitVec 5) (a : BitVec 5) (fa : Bool) (scope : BitVec 3)
  | stdRel (d : BitVec 5) (a : BitVec 5) (fa : Bool) (scope : BitVec 3)
  | amoSwapW (d : BitVec 5) (a : BitVec 5) (ord : BitVec 2) (scope : BitVec 3) (fa : Bool)
  | amoSwapD (d : BitVec 5) (a : BitVec 5) (ord : BitVec 2) (scope : BitVec 3) (fa : Bool)
  | amoCasW (d : BitVec 5) (a : BitVec 5) (ord : BitVec 2) (scope : BitVec 3) (fa : Bool)
  | amoCasD (d : BitVec 5) (a : BitVec 5) (ord : BitVec 2) (scope : BitVec 3) (fa : Bool)
  | amoAddW (d : BitVec 5) (a : BitVec 5) (ord : BitVec 2) (scope : BitVec 3) (fa : Bool)
  | amoAddD (d : BitVec 5) (a : BitVec 5) (ord : BitVec 2) (scope : BitVec 3) (fa : Bool)
  | amoAndW (d : BitVec 5) (a : BitVec 5) (ord : BitVec 2) (scope : BitVec 3) (fa : Bool)
  | amoAndD (d : BitVec 5) (a : BitVec 5) (ord : BitVec 2) (scope : BitVec 3) (fa : Bool)
  | amoOrW (d : BitVec 5) (a : BitVec 5) (ord : BitVec 2) (scope : BitVec 3) (fa : Bool)
  | amoOrD (d : BitVec 5) (a : BitVec 5) (ord : BitVec 2) (scope : BitVec 3) (fa : Bool)
  | amoXorW (d : BitVec 5) (a : BitVec 5) (ord : BitVec 2) (scope : BitVec 3) (fa : Bool)
  | amoXorD (d : BitVec 5) (a : BitVec 5) (ord : BitVec 2) (scope : BitVec 3) (fa : Bool)
  | amoMinW (d : BitVec 5) (a : BitVec 5) (ord : BitVec 2) (scope : BitVec 3) (fa : Bool)
  | amoMinD (d : BitVec 5) (a : BitVec 5) (ord : BitVec 2) (scope : BitVec 3) (fa : Bool)
  | amoMaxW (d : BitVec 5) (a : BitVec 5) (ord : BitVec 2) (scope : BitVec 3) (fa : Bool)
  | amoMaxD (d : BitVec 5) (a : BitVec 5) (ord : BitVec 2) (scope : BitVec 3) (fa : Bool)
  | amoMinnW (d : BitVec 5) (a : BitVec 5) (ord : BitVec 2) (scope : BitVec 3) (fa : Bool)
  | amoMinnD (d : BitVec 5) (a : BitVec 5) (ord : BitVec 2) (scope : BitVec 3) (fa : Bool)
  | amoMaxnW (d : BitVec 5) (a : BitVec 5) (ord : BitVec 2) (scope : BitVec 3) (fa : Bool)
  | amoMaxnD (d : BitVec 5) (a : BitVec 5) (ord : BitVec 2) (scope : BitVec 3) (fa : Bool)
  | amoFaddS (d : BitVec 5) (a : BitVec 5) (ord : BitVec 2) (scope : BitVec 3) (fa : Bool)
  | amoFmaxS (d : BitVec 5) (a : BitVec 5) (ord : BitVec 2) (scope : BitVec 3) (fa : Bool)
  | amoFminS (d : BitVec 5) (a : BitVec 5) (ord : BitVec 2) (scope : BitVec 3) (fa : Bool)
  | fenceRel (scope : BitVec 5)
  | fenceAcq (scope : BitVec 5)
  | fenceAr (scope : BitVec 5)
  | fenceSc (scope : BitVec 5)
  | fenceAll
  | boltArm (a : BitVec 5) (b : BitVec 5) (fa : Bool) (fb : Bool)
  | boltArrive (scope : BitVec 5) (a : BitVec 5) (b : BitVec 5) (fa : Bool) (fb : Bool)
  | boltWait (d : BitVec 5) (a : BitVec 5) (b : BitVec 5) (fa : Bool) (fb : Bool)
  | boltRd (d : BitVec 5) (a : BitVec 5) (fa : Bool)
  | pfR (a : BitVec 5) (fa : Bool) (imm : BitVec 14)
  | pfS (a : BitVec 5) (fa : Bool) (imm : BitVec 14)
  | pfW (a : BitVec 5) (fa : Bool) (imm : BitVec 14)
  | pfDrop (a : BitVec 5) (fa : Bool) (imm : BitVec 14)
  | vsetvl (d : BitVec 5) (a : BitVec 5) (b : BitVec 5) (fa : Bool) (fb : Bool)
  | vsetvlmax (d : BitVec 5) (b : BitVec 5) (fb : Bool)
  | vsetvli (d : BitVec 5) (a : BitVec 5) (ty : BitVec 4) (fa : Bool) (blen : BitVec 3) (sat : Bool)
  | vld (d : BitVec 5) (a : BitVec 5) (fa : Bool)
  | vldX8 (d : BitVec 5) (a : BitVec 5) (b : BitVec 5) (fa : Bool) (fb : Bool)
  | vldX16 (d : BitVec 5) (a : BitVec 5) (b : BitVec 5) (fa : Bool) (fb : Bool)
  | vldX32 (d : BitVec 5) (a : BitVec 5) (b : BitVec 5) (fa : Bool) (fb : Bool)
  | vldX (d : BitVec 5) (a : BitVec 5) (b : BitVec 5) (fa : Bool) (fb : Bool)
  | vldX8O (d : BitVec 5) (a : BitVec 5) (b : BitVec 5) (fa : Bool) (fb : Bool)
  | vldX16O (d : BitVec 5) (a : BitVec 5) (b : BitVec 5) (fa : Bool) (fb : Bool)
  | vldX32O (d : BitVec 5) (a : BitVec 5) (b : BitVec 5) (fa : Bool) (fb : Bool)
  | vldXO (d : BitVec 5) (a : BitVec 5) (b : BitVec 5) (fa : Bool) (fb : Bool)
  | vldX32Acq (d : BitVec 5) (a : BitVec 5) (b : BitVec 5) (fa : Bool) (fb : Bool) (scope : BitVec 3)
  | vldXAcq (d : BitVec 5) (a : BitVec 5) (b : BitVec 5) (fa : Bool) (fb : Bool) (scope : BitVec 3)
  | vldX32OAcq (d : BitVec 5) (a : BitVec 5) (b : BitVec 5) (fa : Bool) (fb : Bool) (scope : BitVec 3)
  | vldXOAcq (d : BitVec 5) (a : BitVec 5) (b : BitVec 5) (fa : Bool) (fb : Bool) (scope : BitVec 3)
  | vldsN2 (d : BitVec 5) (a : BitVec 5) (fa : Bool)
  | vldsN3 (d : BitVec 5) (a : BitVec 5) (fa : Bool)
  | vldsN4 (d : BitVec 5) (a : BitVec 5) (fa : Bool)
  | vldsN5 (d : BitVec 5) (a : BitVec 5) (fa : Bool)
  | vldsN6 (d : BitVec 5) (a : BitVec 5) (fa : Bool)
  | vldsN7 (d : BitVec 5) (a : BitVec 5) (fa : Bool)
  | vldsN8 (d : BitVec 5) (a : BitVec 5) (fa : Bool)
  | vst (d : BitVec 5) (a : BitVec 5) (fa : Bool)
  | vstX8 (d : BitVec 5) (a : BitVec 5) (b : BitVec 5) (fa : Bool) (fb : Bool)
  | vstX16 (d : BitVec 5) (a : BitVec 5) (b : BitVec 5) (fa : Bool) (fb : Bool)
  | vstX32 (d : BitVec 5) (a : BitVec 5) (b : BitVec 5) (fa : Bool) (fb : Bool)
  | vstX (d : BitVec 5) (a : BitVec 5) (b : BitVec 5) (fa : Bool) (fb : Bool)
  | vstX8O (d : BitVec 5) (a : BitVec 5) (b : BitVec 5) (fa : Bool) (fb : Bool)
  | vstX16O (d : BitVec 5) (a : BitVec 5) (b : BitVec 5) (fa : Bool) (fb : Bool)
  | vstX32O (d : BitVec 5) (a : BitVec 5) (b : BitVec 5) (fa : Bool) (fb : Bool)
  | vstXO (d : BitVec 5) (a : BitVec 5) (b : BitVec 5) (fa : Bool) (fb : Bool)
  | vstsN2 (d : BitVec 5) (a : BitVec 5) (fa : Bool)
  | vstsN3 (d : BitVec 5) (a : BitVec 5) (fa : Bool)
  | vstsN4 (d : BitVec 5) (a : BitVec 5) (fa : Bool)
  | vstsN5 (d : BitVec 5) (a : BitVec 5) (fa : Bool)
  | vstsN6 (d : BitVec 5) (a : BitVec 5) (fa : Bool)
  | vstsN7 (d : BitVec 5) (a : BitVec 5) (fa : Bool)
  | vstsN8 (d : BitVec 5) (a : BitVec 5) (fa : Bool)
  | vldscSca (a : BitVec 5) (fa : Bool)
  | vldscScb (a : BitVec 5) (fa : Bool)
  | vstbm (d : BitVec 5) (a : BitVec 5) (b : BitVec 5) (fa : Bool) (fb : Bool)
  | vldbm (d : BitVec 5) (a : BitVec 5) (fa : Bool)
  | vpfR (a : BitVec 5) (fa : Bool)
  | vpfS (a : BitVec 5) (fa : Bool)
  | vpfRX32 (a : BitVec 5) (b : BitVec 5) (fa : Bool) (fb : Bool)
  | vpfRX (a : BitVec 5) (b : BitVec 5) (fa : Bool) (fb : Bool)
  | vhaccX32 (d : BitVec 5) (a : BitVec 5) (b : BitVec 5) (fa : Bool) (fb : Bool) (rel : Bool) (scope : BitVec 3)
  | vhaccX (d : BitVec 5) (a : BitVec 5) (b : BitVec 5) (fa : Bool) (fb : Bool) (rel : Bool) (scope : BitVec 3)
  | vscaddX32 (d : BitVec 5) (a : BitVec 5) (b : BitVec 5) (fa : Bool) (fb : Bool) (rel : Bool) (scope : BitVec 3)
  | vscaddX (d : BitVec 5) (a : BitVec 5) (b : BitVec 5) (fa : Bool) (fb : Bool) (rel : Bool) (scope : BitVec 3)
  | vadd (d : BitVec 5) (a : BitVec 5) (b : BitVec 5) (fa : Bool) (fb : Bool) (xm : Bool)
  | vaddVs (d : BitVec 5) (a : BitVec 5) (b : BitVec 5) (fa : Bool) (fb : Bool) (xm : Bool)
  | vsub (d : BitVec 5) (a : BitVec 5) (b : BitVec 5) (fa : Bool) (fb : Bool) (xm : Bool)
  | vsubVs (d : BitVec 5) (a : BitVec 5) (b : BitVec 5) (fa : Bool) (fb : Bool) (xm : Bool)
  | vrsub (d : BitVec 5) (a : BitVec 5) (b : BitVec 5) (fa : Bool) (fb : Bool) (xm : Bool)
  | vrsubVs (d : BitVec 5) (a : BitVec 5) (b : BitVec 5) (fa : Bool) (fb : Bool) (xm : Bool)
  | vmul (d : BitVec 5) (a : BitVec 5) (b : BitVec 5) (fa : Bool) (fb : Bool) (xm : Bool)
  | vmulVs (d : BitVec 5) (a : BitVec 5) (b : BitVec 5) (fa : Bool) (fb : Bool) (xm : Bool)
  | vmulh (d : BitVec 5) (a : BitVec 5) (b : BitVec 5) (fa : Bool) (fb : Bool)
  | vmulhVs (d : BitVec 5) (a : BitVec 5) (b : BitVec 5) (fa : Bool) (fb : Bool)
  | vdiv (d : BitVec 5) (a : BitVec 5) (b : BitVec 5) (fa : Bool) (fb : Bool)
  | vdivVs (d : BitVec 5) (a : BitVec 5) (b : BitVec 5) (fa : Bool) (fb : Bool)
  | vrem (d : BitVec 5) (a : BitVec 5) (b : BitVec 5) (fa : Bool) (fb : Bool)
  | vremVs (d : BitVec 5) (a : BitVec 5) (b : BitVec 5) (fa : Bool) (fb : Bool)
  | vmin (d : BitVec 5) (a : BitVec 5) (b : BitVec 5) (fa : Bool) (fb : Bool)
  | vminVs (d : BitVec 5) (a : BitVec 5) (b : BitVec 5) (fa : Bool) (fb : Bool)
  | vmax (d : BitVec 5) (a : BitVec 5) (b : BitVec 5) (fa : Bool) (fb : Bool)
  | vmaxVs (d : BitVec 5) (a : BitVec 5) (b : BitVec 5) (fa : Bool) (fb : Bool)
  | vand (d : BitVec 5) (a : BitVec 5) (b : BitVec 5) (fa : Bool) (fb : Bool)
  | vandVs (d : BitVec 5) (a : BitVec 5) (b : BitVec 5) (fa : Bool) (fb : Bool)
  | vor (d : BitVec 5) (a : BitVec 5) (b : BitVec 5) (fa : Bool) (fb : Bool)
  | vorVs (d : BitVec 5) (a : BitVec 5) (b : BitVec 5) (fa : Bool) (fb : Bool)
  | vxor (d : BitVec 5) (a : BitVec 5) (b : BitVec 5) (fa : Bool) (fb : Bool)
  | vxorVs (d : BitVec 5) (a : BitVec 5) (b : BitVec 5) (fa : Bool) (fb : Bool)
  | vsll (d : BitVec 5) (a : BitVec 5) (b : BitVec 5) (fa : Bool) (fb : Bool) (xm : Bool)
  | vsllVs (d : BitVec 5) (a : BitVec 5) (b : BitVec 5) (fa : Bool) (fb : Bool) (xm : Bool)
  | vsrl (d : BitVec 5) (a : BitVec 5) (b : BitVec 5) (fa : Bool) (fb : Bool)
  | vsrlVs (d : BitVec 5) (a : BitVec 5) (b : BitVec 5) (fa : Bool) (fb : Bool)
  | vsra (d : BitVec 5) (a : BitVec 5) (b : BitVec 5) (fa : Bool) (fb : Bool)
  | vsraVs (d : BitVec 5) (a : BitVec 5) (b : BitVec 5) (fa : Bool) (fb : Bool)
  | vmseq (d : BitVec 5) (a : BitVec 5) (b : BitVec 5) (fa : Bool) (fb : Bool)
  | vmseqVs (d : BitVec 5) (a : BitVec 5) (b : BitVec 5) (fa : Bool) (fb : Bool)
  | vmsne (d : BitVec 5) (a : BitVec 5) (b : BitVec 5) (fa : Bool) (fb : Bool)
  | vmsneVs (d : BitVec 5) (a : BitVec 5) (b : BitVec 5) (fa : Bool) (fb : Bool)
  | vmslt (d : BitVec 5) (a : BitVec 5) (b : BitVec 5) (fa : Bool) (fb : Bool)
  | vmsltVs (d : BitVec 5) (a : BitVec 5) (b : BitVec 5) (fa : Bool) (fb : Bool)
  | vmsle (d : BitVec 5) (a : BitVec 5) (b : BitVec 5) (fa : Bool) (fb : Bool)
  | vmsleVs (d : BitVec 5) (a : BitVec 5) (b : BitVec 5) (fa : Bool) (fb : Bool)
  | vmsgt (d : BitVec 5) (a : BitVec 5) (b : BitVec 5) (fa : Bool) (fb : Bool)
  | vmsgtVs (d : BitVec 5) (a : BitVec 5) (b : BitVec 5) (fa : Bool) (fb : Bool)
  | vmacc (d : BitVec 5) (a : BitVec 5) (b : BitVec 5) (fa : Bool) (fb : Bool) (xm : Bool)
  | vmaccVs (d : BitVec 5) (a : BitVec 5) (b : BitVec 5) (fa : Bool) (fb : Bool) (xm : Bool)
  | vwadd (d : BitVec 5) (a : BitVec 5) (b : BitVec 5) (fa : Bool) (fb : Bool)
  | vwaddVs (d : BitVec 5) (a : BitVec 5) (b : BitVec 5) (fa : Bool) (fb : Bool)
  | vwsub (d : BitVec 5) (a : BitVec 5) (b : BitVec 5) (fa : Bool) (fb : Bool)
  | vwsubVs (d : BitVec 5) (a : BitVec 5) (b : BitVec 5) (fa : Bool) (fb : Bool)
  | vwmul (d : BitVec 5) (a : BitVec 5) (b : BitVec 5) (fa : Bool) (fb : Bool)
  | vwmulVs (d : BitVec 5) (a : BitVec 5) (b : BitVec 5) (fa : Bool) (fb : Bool)
  | vwmacc (d : BitVec 5) (a : BitVec 5) (b : BitVec 5) (fa : Bool) (fb : Bool) (xm : Bool)
  | vwmaccVs (d : BitVec 5) (a : BitVec 5) (b : BitVec 5) (fa : Bool) (fb : Bool) (xm : Bool)
  | vnsrl (d : BitVec 5) (a : BitVec 5) (b : BitVec 5) (fa : Bool) (fb : Bool) (xm : Bool)
  | vnsrlVs (d : BitVec 5) (a : BitVec 5) (b : BitVec 5) (fa : Bool) (fb : Bool) (xm : Bool)
  | vnsra (d : BitVec 5) (a : BitVec 5) (b : BitVec 5) (fa : Bool) (fb : Bool) (xm : Bool)
  | vnsraVs (d : BitVec 5) (a : BitVec 5) (b : BitVec 5) (fa : Bool) (fb : Bool) (xm : Bool)
  | vsadd (d : BitVec 5) (a : BitVec 5) (b : BitVec 5) (fa : Bool) (fb : Bool) (xm : Bool)
  | vsaddVs (d : BitVec 5) (a : BitVec 5) (b : BitVec 5) (fa : Bool) (fb : Bool) (xm : Bool)
  | vssub (d : BitVec 5) (a : BitVec 5) (b : BitVec 5) (fa : Bool) (fb : Bool) (xm : Bool)
  | vssubVs (d : BitVec 5) (a : BitVec 5) (b : BitVec 5) (fa : Bool) (fb : Bool) (xm : Bool)
  | vaadd (d : BitVec 5) (a : BitVec 5) (b : BitVec 5) (fa : Bool) (fb : Bool)
  | vaaddVs (d : BitVec 5) (a : BitVec 5) (b : BitVec 5) (fa : Bool) (fb : Bool)
  | vasub (d : BitVec 5) (a : BitVec 5) (b : BitVec 5) (fa : Bool) (fb : Bool)
  | vasubVs (d : BitVec 5) (a : BitVec 5) (b : BitVec 5) (fa : Bool) (fb : Bool)
  | vsmul (d : BitVec 5) (a : BitVec 5) (b : BitVec 5) (fa : Bool) (fb : Bool) (xm : Bool)
  | vsmulVs (d : BitVec 5) (a : BitVec 5) (b : BitVec 5) (fa : Bool) (fb : Bool) (xm : Bool)
  | vssrl (d : BitVec 5) (a : BitVec 5) (b : BitVec 5) (fa : Bool) (fb : Bool)
  | vssrlVs (d : BitVec 5) (a : BitVec 5) (b : BitVec 5) (fa : Bool) (fb : Bool)
  | vssra (d : BitVec 5) (a : BitVec 5) (b : BitVec 5) (fa : Bool) (fb : Bool)
  | vssraVs (d : BitVec 5) (a : BitVec 5) (b : BitVec 5) (fa : Bool) (fb : Bool)
  | vfadd (d : BitVec 5) (a : BitVec 5) (b : BitVec 5) (fa : Bool) (fb : Bool) (xm : Bool)
  | vfaddVs (d : BitVec 5) (a : BitVec 5) (b : BitVec 5) (fa : Bool) (fb : Bool) (xm : Bool)
  | vfsub (d : BitVec 5) (a : BitVec 5) (b : BitVec 5) (fa : Bool) (fb : Bool) (xm : Bool)
  | vfsubVs (d : BitVec 5) (a : BitVec 5) (b : BitVec 5) (fa : Bool) (fb : Bool) (xm : Bool)
  | vfmul (d : BitVec 5) (a : BitVec 5) (b : BitVec 5) (fa : Bool) (fb : Bool) (xm : Bool)
  | vfmulVs (d : BitVec 5) (a : BitVec 5) (b : BitVec 5) (fa : Bool) (fb : Bool) (xm : Bool)
  | vfdiv (d : BitVec 5) (a : BitVec 5) (b : BitVec 5) (fa : Bool) (fb : Bool) (xm : Bool)
  | vfdivVs (d : BitVec 5) (a : BitVec 5) (b : BitVec 5) (fa : Bool) (fb : Bool) (xm : Bool)
  | vfsqrt (d : BitVec 5) (a : BitVec 5) (fa : Bool) (xm : Bool)
  | vfmac (d : BitVec 5) (a : BitVec 5) (b : BitVec 5) (fa : Bool) (fb : Bool) (xm : Bool)
  | vfmacVs (d : BitVec 5) (a : BitVec 5) (b : BitVec 5) (fa : Bool) (fb : Bool) (xm : Bool)
  | vfnmac (d : BitVec 5) (a : BitVec 5) (b : BitVec 5) (fa : Bool) (fb : Bool) (xm : Bool)
  | vfnmacVs (d : BitVec 5) (a : BitVec 5) (b : BitVec 5) (fa : Bool) (fb : Bool) (xm : Bool)
  | vfmin (d : BitVec 5) (a : BitVec 5) (b : BitVec 5) (fa : Bool) (fb : Bool) (xm : Bool)
  | vfminVs (d : BitVec 5) (a : BitVec 5) (b : BitVec 5) (fa : Bool) (fb : Bool) (xm : Bool)
  | vfmax (d : BitVec 5) (a : BitVec 5) (b : BitVec 5) (fa : Bool) (fb : Bool) (xm : Bool)
  | vfmaxVs (d : BitVec 5) (a : BitVec 5) (b : BitVec 5) (fa : Bool) (fb : Bool) (xm : Bool)
  | vfneg (d : BitVec 5) (a : BitVec 5) (fa : Bool) (xm : Bool)
  | vfabs (d : BitVec 5) (a : BitVec 5) (fa : Bool) (xm : Bool)
  | vfclass (d : BitVec 5) (a : BitVec 5) (fa : Bool) (xm : Bool)
  | vmfeq (d : BitVec 5) (a : BitVec 5) (b : BitVec 5) (fa : Bool) (fb : Bool) (xm : Bool)
  | vmfeqVs (d : BitVec 5) (a : BitVec 5) (b : BitVec 5) (fa : Bool) (fb : Bool) (xm : Bool)
  | vmflt (d : BitVec 5) (a : BitVec 5) (b : BitVec 5) (fa : Bool) (fb : Bool) (xm : Bool)
  | vmfltVs (d : BitVec 5) (a : BitVec 5) (b : BitVec 5) (fa : Bool) (fb : Bool) (xm : Bool)
  | vmfle (d : BitVec 5) (a : BitVec 5) (b : BitVec 5) (fa : Bool) (fb : Bool) (xm : Bool)
  | vmfleVs (d : BitVec 5) (a : BitVec 5) (b : BitVec 5) (fa : Bool) (fb : Bool) (xm : Bool)
  | vfrec (d : BitVec 5) (a : BitVec 5) (fa : Bool) (xm : Bool)
  | vfrsq (d : BitVec 5) (a : BitVec 5) (fa : Bool) (xm : Bool)
  | vcvt (d : BitVec 5) (a : BitVec 5) (fa : Bool) (xm : Bool) (ty : BitVec 4)
  | vfdot (d : BitVec 5) (a : BitVec 5) (b : BitVec 5) (fa : Bool) (fb : Bool) (xm : Bool)
  | vdot (d : BitVec 5) (a : BitVec 5) (b : BitVec 5) (fa : Bool) (fb : Bool) (xm : Bool)
  | vbq (d : BitVec 5) (a : BitVec 5) (fa : Bool) (xm : Bool) (src : BitVec 2) (bank : Bool)
  | vfreca (d : BitVec 5) (a : BitVec 5) (fa : Bool) (xm : Bool)
  | vfrsqa (d : BitVec 5) (a : BitVec 5) (fa : Bool) (xm : Bool)
  | vmv (d : BitVec 5) (a : BitVec 5) (fa : Bool)
  | vmerge (d : BitVec 5) (a : BitVec 5) (b : BitVec 5) (fa : Bool) (fb : Bool)
  | vbcast (d : BitVec 5) (a : BitVec 5) (fa : Bool)
  | vext (d : BitVec 5) (a : BitVec 5) (b : BitVec 5) (fa : Bool) (fb : Bool)
  | vins (d : BitVec 5) (a : BitVec 5) (b : BitVec 5) (fa : Bool) (fb : Bool)
  | vslideup (d : BitVec 5) (a : BitVec 5) (b : BitVec 5) (fa : Bool) (fb : Bool)
  | vslidedn (d : BitVec 5) (a : BitVec 5) (b : BitVec 5) (fa : Bool) (fb : Bool)
  | vperm (d : BitVec 5) (a : BitVec 5) (b : BitVec 5) (fa : Bool) (fb : Bool)
  | vcpvl (d : BitVec 5) (a : BitVec 5) (fa : Bool)
  | vxrd (d : BitVec 5) (a : BitVec 5) (fa : Bool)
  | vxwr (a : BitVec 5) (b : BitVec 5) (fa : Bool) (fb : Bool)
  | vredsum (d : BitVec 5) (a : BitVec 5) (b : BitVec 5) (fa : Bool) (fb : Bool)
  | vredmin (d : BitVec 5) (a : BitVec 5) (b : BitVec 5) (fa : Bool) (fb : Bool)
  | vredmax (d : BitVec 5) (a : BitVec 5) (b : BitVec 5) (fa : Bool) (fb : Bool)
  | vredand (d : BitVec 5) (a : BitVec 5) (b : BitVec 5) (fa : Bool) (fb : Bool)
  | vredor (d : BitVec 5) (a : BitVec 5) (b : BitVec 5) (fa : Bool) (fb : Bool)
  | vredxor (d : BitVec 5) (a : BitVec 5) (b : BitVec 5) (fa : Bool) (fb : Bool)
  | vfredsum (d : BitVec 5) (a : BitVec 5) (b : BitVec 5) (fa : Bool) (fb : Bool)
  | vfredo (d : BitVec 5) (a : BitVec 5) (b : BitVec 5) (fa : Bool) (fb : Bool)
  | vfredmin (d : BitVec 5) (a : BitVec 5) (b : BitVec 5) (fa : Bool) (fb : Bool)
  | vfredmax (d : BitVec 5) (a : BitVec 5) (b : BitVec 5) (fa : Bool) (fb : Bool)
  | kand (d : BitVec 5) (a : BitVec 5) (b : BitVec 5)
  | kor (d : BitVec 5) (a : BitVec 5) (b : BitVec 5)
  | kxor (d : BitVec 5) (a : BitVec 5) (b : BitVec 5)
  | kandn (d : BitVec 5) (a : BitVec 5) (b : BitVec 5)
  | knot (d : BitVec 5) (a : BitVec 5)
  | kmov (d : BitVec 5) (a : BitVec 5)
  | kset (d : BitVec 5)
  | kclr (d : BitVec 5)
  | kpop (d : BitVec 5) (a : BitVec 5)
  | kfirst (d : BitVec 5) (a : BitVec 5)
  | kiota (d : BitVec 5) (a : BitVec 5)
  | kfromv (d : BitVec 5) (a : BitVec 5) (fa : Bool)
  | ktov (d : BitVec 5) (a : BitVec 5)
  | vsplit (d : BitVec 5) (n : BitVec 5)
  | vjoin
  | xsend (n : BitVec 5) (a : BitVec 5) (b : BitVec 5) (fa : Bool) (fb : Bool)
  | xrecv (d : BitVec 5)
  | vcapp (d : BitVec 5) (a : BitVec 5) (b : BitVec 5) (fa : Bool) (fb : Bool)
  | sadd (d : BitVec 5) (a : BitVec 5) (b : BitVec 5) (fa : Bool) (fb : Bool)
  | smul (d : BitVec 5) (a : BitVec 5) (b : BitVec 5) (fa : Bool) (fb : Bool)
  | sdot (d : BitVec 5) (a : BitVec 5) (b : BitVec 5) (fa : Bool) (fb : Bool)
  | sld (d : BitVec 5) (a : BitVec 5) (b : BitVec 5) (fa : Bool) (fb : Bool)
  | sst (d : BitVec 5) (a : BitVec 5) (fa : Bool)
  | sexp (d : BitVec 5) (a : BitVec 5) (b : BitVec 5) (fa : Bool) (fb : Bool)
  | scmp (d : BitVec 5) (a : BitVec 5) (b : BitVec 5) (fa : Bool) (fb : Bool)
  | vfmacv (d : BitVec 5) (a : BitVec 5) (b : BitVec 5) (fa : Bool) (fb : Bool)
  | vbound (d : BitVec 5) (a : BitVec 5) (b : BitVec 5) (fa : Bool) (fb : Bool)
  | vtraise (n : BitVec 2) (a : BitVec 5) (fa : Bool)
  | vfabr (d : BitVec 5) (a : BitVec 5) (fa : Bool)
  | zon (a : BitVec 5) (fa : Bool)
  | zoff
  | zzero (d : BitVec 5)
  | zmop (d : BitVec 5) (a : BitVec 5) (b : BitVec 5) (fa : Bool) (fb : Bool)
  | zmopb (d : BitVec 5) (a : BitVec 5) (b : BitVec 5) (fa : Bool) (fb : Bool)
  | zmopv (d : BitVec 5) (a : BitVec 5) (b : BitVec 5) (fa : Bool) (fb : Bool)
  | zbnd (d : BitVec 5) (a : BitVec 5) (fa : Bool)
  | zabn (d : BitVec 5) (a : BitVec 5)
  | zrd (d : BitVec 5) (a : BitVec 5) (b : BitVec 5) (fb : Bool)
  | zcd (d : BitVec 5) (a : BitVec 5) (b : BitVec 5) (fb : Bool)
  | zwr (d : BitVec 5) (a : BitVec 5) (b : BitVec 5) (fa : Bool) (fb : Bool)
  | zswap (d : BitVec 5) (slot : BitVec 5)
  | zldS (d : BitVec 5) (a : BitVec 5) (fa : Bool)
  | zstS (d : BitVec 5) (a : BitVec 5) (fa : Bool)
  | zldX32 (d : BitVec 5) (a : BitVec 5) (b : BitVec 5) (fa : Bool) (fb : Bool)
  | zldX (d : BitVec 5) (a : BitVec 5) (b : BitVec 5) (fa : Bool) (fb : Bool)
  | zstX32 (d : BitVec 5) (a : BitVec 5) (b : BitVec 5) (fa : Bool) (fb : Bool)
  | zstX (d : BitVec 5) (a : BitVec 5) (b : BitVec 5) (fa : Bool) (fb : Bool)
  | zldSShadow (d : BitVec 5) (a : BitVec 5) (fa : Bool)
  | zstSShadow (d : BitVec 5) (a : BitVec 5) (fa : Bool)
  | zldX32Shadow (d : BitVec 5) (a : BitVec 5) (b : BitVec 5) (fa : Bool) (fb : Bool)
  | zldXShadow (d : BitVec 5) (a : BitVec 5) (b : BitVec 5) (fa : Bool) (fb : Bool)
  | zstX32Shadow (d : BitVec 5) (a : BitVec 5) (b : BitVec 5) (fa : Bool) (fb : Bool)
  | zstXShadow (d : BitVec 5) (a : BitVec 5) (b : BitVec 5) (fa : Bool) (fb : Bool)
  | cpy (d : BitVec 5) (a : BitVec 5) (fa : Bool)
  | cpym (d : BitVec 5) (a : BitVec 5) (b : BitVec 5) (fa : Bool) (fb : Bool)
  | gsub (d : BitVec 5) (a : BitVec 5) (fa : Bool)
  | dlaunch (d : BitVec 5) (a : BitVec 5) (fa : Bool)
  | frmDec (d : BitVec 5) (a : BitVec 5) (fa : Bool)
  | frmRsz (d : BitVec 5) (a : BitVec 5) (fa : Bool)
  | fcv (d : BitVec 5) (a : BitVec 5) (fa : Bool)
  | barCr
  | barQd
  | barDi
  | barPk
  | barPd
  | shist (d : BitVec 5) (a : BitVec 5) (b : BitVec 5) (fa : Bool) (fb : Bool)
  | shcnt (d : BitVec 5)
  | trrd (d : BitVec 5) (a : BitVec 5) (b : BitVec 5) (fa : Bool) (fb : Bool)
  | vtrim (d : BitVec 5)
  | engineCommandError (seq thr : Nat)
  | regionTranslate (seq thr : Nat)
  | loadResultLands (seq thr k : Nat)
  | writeApply (k : Nat)
  | invalidationApply (die k : Nat)
  | faultRecordWrite (eng : Bool) (unit thr : Nat)
  | pfreplyRetry (die idx : Nat)
  | pfreplyDeliver (die idx : Nat)
  | pfwaitExpiry (seq thr : Nat)
  | holderAck (page holder : Nat)
  | replicaPoison (page holder : Nat)
  | boltOperationApply (k : Nat)
  | boltStall (seq thr : Nat)
  | wfeTimeout (seq thr : Nat)
  | barrierComplete (level unit launch : Nat)
  | qnextComplete (seq : Nat)
  | queuePublish (k : Nat)
  | xsendLanding (seq thr : Nat)
  | queueClose (launch stage : Nat)
  | compactionClaim (k : Nat)
  | compactionSlotDone (k : Nat)
  | bypassCopy (k : Nat)
  | copyRun (unit : Nat)
  | copyComplete (unit : Nat)
  | followonRun (core : Nat)
  | frameOpen (die eng : Nat)
  | frameDecode (die eng : Nat)
  | frameClose (die eng : Nat)
  | resizeRun (die eng : Nat)
  | fcvRun (die : Nat)
  | graphNodeComplete (graph node : Nat)
  | launchPacket (src : Nat)
  | graphPacket (queue : Nat)
  | loadPacket (queue : Nat)
  | unloadPacket (queue : Nat)
  | boltArrivePacket (queue : Nat)
  | boltWaitPacket (queue : Nat)
  | boltPacketStall (queue : Nat)
  | fencePacket (queue : Nat)
  | copyPacket (queue : Nat)
  | sequencerBind (launch stage core groups : Nat)
  | launchComplete (launch : Nat)
  | balancerEpoch (die : Nat)
  | migrationRequestPost (seq : Nat) (request : BitVec 4)
  | preemptRequest (seq : Nat)
  | contextSave (seq : Nat)
  | contextRestore (k core groups : Nat)
  | laneRetire (core lane : Nat)
  | machineCheck (seq thr source : Nat)
  | unitFail (kind die unit : Nat)
  | softErrorCorrected (core : Nat)
  | expansionTableReplace (generation : Nat) (verified : Bool)
  | leadFabricPrefetch (core addr : Nat)
  | deviceReset
  | powerOn (bootErr : BitVec 8)
  | featureCommit
  | contextCreate (c : Nat) (value : BitVec 64)
  | contextTeardown (c : Nat)
  | queueEnable (queue : Nat) (value : BitVec 64)
  | prodWrite (queue : Nat) (value : BitVec 64)
  | apertureEnable (j : Nat) (value : BitVec 64)
  | apertureDisable (j : Nat) (value : BitVec 64)
  | memoryBarWrite (requester off : Nat) (bytes : List (Option (BitVec 8)))
  | memoryBarRead (requester off len : Nat)
  | xlinv (value : BitVec 64)
  | xlinvDone
  | replicate (value : BitVec 64)
  | replicateDone
  | seqkill (value : BitVec 64)
  | quote (value : BitVec 64)
  | install (value : BitVec 64)
  | clear (value : BitVec 64)
  | keySlotClearDone (slot : Nat)
  | swinWrite (die : Nat) (value : BitVec 64)
  | swinChangeDone (die : Nat)
  | balctlWrite (die : Nat) (value : BitVec 64)
  | pwrislWrite (i : Nat) (value : BitVec 64)
  | islandWake (i : Nat)
  | thermalThrottle (tenths : Nat)
  | thermalShutdown (tenths : Nat)
  | peerLaneFail (die port lanes : Nat)
  | podRequestIn (copy : Bool) (fn : Nat) (addr : BitVec 64) (operand : BitVec 64) (bytes : List (BitVec 8))
  | registerWrite (bar : Bool) (off : Nat) (half : Option Bool) (value : BitVec 64)
  | migrationRequestWithdraw (seq : Nat)
  | queueHardwareRestart (k : Nat)
  | thermalThrottleEnd (tenths : Nat)
deriving DecidableEq, Repr

end Sys2Proof
end

