-- ==== Sys2Proof/WellFormed.lean ====
section
/-! DEFINITION. Well-formed instructions: the operand values that the instruction's own entry makes an illegal
instruction are refused here (R272, R275, R279, R286 to R288, R291, R293, R296, R299, R300, R302, R307, R323, R328,
R358). What depends on the machine (`vdecl`, features, `vtype`) is no part of it. -/

namespace Sys2Proof

/-- No operand of the instruction holds a value that its entry refuses. -/
def Instr.wf : Instr → Bool
  | .nop => true
  | .trap _ _ => true
  | .brk => true
  | .eret => true
  | .wfe _ _ _ => true
  | .yield => true
  | .pollp _ => true
  | .halt => true
  | .cinval scope _ _ _ _ => 1 ≤ scope.toNat && scope.toNat ≤ 4
  | .tlbsync scope _ _ _ _ => 1 ≤ scope.toNat && scope.toNat ≤ 4
  | .qnext d _ _ _ _ => d != 0
  | .exit => true
  | .csrrw _ _ _ _ => true
  | .csrrs _ _ _ _ => true
  | .csrrc _ _ _ _ => true
  | .fwait _ _ => true
  | .fwaitv _ _ => true
  | .fsts _ _ => true
  | .fstv _ _ => true
  | .fwall => true
  | .add _ _ _ _ _ => true
  | .sub _ _ _ _ _ => true
  | .and _ _ _ _ _ => true
  | .or _ _ _ _ _ => true
  | .xor _ _ _ _ _ => true
  | .andn _ _ _ _ _ => true
  | .sll _ _ _ _ _ => true
  | .srl _ _ _ _ _ => true
  | .sra _ _ _ _ _ => true
  | .rol _ _ _ _ _ => true
  | .ror _ _ _ _ _ => true
  | .slt _ _ _ _ _ => true
  | .sltn _ _ _ _ _ => true
  | .seq _ _ _ _ _ => true
  | .min _ _ _ _ _ => true
  | .max _ _ _ _ _ => true
  | .minn _ _ _ _ _ => true
  | .maxn _ _ _ _ _ => true
  | .clz _ _ _ => true
  | .ctz _ _ _ => true
  | .cpop _ _ _ => true
  | .sextB _ _ _ => true
  | .sextH _ _ _ => true
  | .sextW _ _ _ => true
  | .zextH _ _ _ => true
  | .zextW _ _ _ => true
  | .mul _ _ _ _ _ => true
  | .mulh _ _ _ _ _ => true
  | .mulhn _ _ _ _ _ => true
  | .mulhsn _ _ _ _ _ => true
  | .div _ _ _ _ _ => true
  | .divn _ _ _ _ _ => true
  | .rem _ _ _ _ _ => true
  | .remn _ _ _ _ _ => true
  | .faddD _ _ _ _ _ => true
  | .fsubD _ _ _ _ _ => true
  | .fmulD _ _ _ _ _ => true
  | .fdivD _ _ _ _ _ => true
  | .fsqrtD _ _ _ => true
  | .fmacD _ _ _ _ _ => true
  | .fminD _ _ _ _ _ => true
  | .fmaxD _ _ _ _ _ => true
  | .fnegD _ _ _ => true
  | .fabsD _ _ _ => true
  | .feqD _ _ _ _ _ => true
  | .fltD _ _ _ _ _ => true
  | .fleD _ _ _ _ _ => true
  | .fclassD _ _ _ => true
  | .ftoiD _ _ _ => true
  | .ftonD _ _ _ => true
  | .itofD _ _ _ => true
  | .ntofD _ _ _ => true
  | .fcvtDS _ _ _ => true
  | .faddS _ _ _ _ _ => true
  | .fsubS _ _ _ _ _ => true
  | .fmulS _ _ _ _ _ => true
  | .fdivS _ _ _ _ _ => true
  | .fsqrtS _ _ _ => true
  | .fmacS _ _ _ _ _ => true
  | .fminS _ _ _ _ _ => true
  | .fmaxS _ _ _ _ _ => true
  | .fnegS _ _ _ => true
  | .fabsS _ _ _ => true
  | .feqS _ _ _ _ _ => true
  | .fltS _ _ _ _ _ => true
  | .fleS _ _ _ _ _ => true
  | .fclassS _ _ _ => true
  | .ftoiS _ _ _ => true
  | .ftonS _ _ _ => true
  | .itofS _ _ _ => true
  | .ntofS _ _ _ => true
  | .fcvtSD _ _ _ => true
  | .addi _ _ _ _ => true
  | .andi _ _ _ _ => true
  | .ori _ _ _ _ => true
  | .xori _ _ _ _ => true
  | .slli _ _ _ _ => true
  | .srli _ _ _ _ => true
  | .srai _ _ _ _ => true
  | .slti _ _ _ _ => true
  | .ldhi _ _ => true
  | .pcadd _ _ => true
  | .jal _ => true
  | .jalr _ _ _ _ => true
  | .beq _ _ _ _ => true
  | .bne _ _ _ _ => true
  | .blt _ _ _ _ => true
  | .bge _ _ _ _ => true
  | .bltn _ _ _ _ => true
  | .bgen _ _ _ _ => true
  | .loop _ _ imm => 2 ≤ imm.toNat && imm.toNat ≤ 257
  | .lbrk => true
  | .lidx _ n => n.toNat ≤ 5
  | .lrem _ n => n.toNat ≤ 5
  | .lclr => true
  | .ldb _ _ _ _ => true
  | .ldbn _ _ _ _ => true
  | .ldh _ _ _ _ => true
  | .ldhn _ _ _ _ => true
  | .ldw _ _ _ _ => true
  | .ldwn _ _ _ _ => true
  | .ldd _ _ _ _ => true
  | .stb _ _ _ _ => true
  | .sth _ _ _ _ => true
  | .stw _ _ _ _ => true
  | .std _ _ _ _ => true
  | .ldbAcq _ _ _ scope => scope.toNat ≤ 4
  | .ldbnAcq _ _ _ scope => scope.toNat ≤ 4
  | .ldhAcq _ _ _ scope => scope.toNat ≤ 4
  | .ldhnAcq _ _ _ scope => scope.toNat ≤ 4
  | .ldwAcq _ _ _ scope => scope.toNat ≤ 4
  | .ldwnAcq _ _ _ scope => scope.toNat ≤ 4
  | .lddAcq _ _ _ scope => scope.toNat ≤ 4
  | .stbRel _ _ _ scope => scope.toNat ≤ 4
  | .sthRel _ _ _ scope => scope.toNat ≤ 4
  | .stwRel _ _ _ scope => scope.toNat ≤ 4
  | .stdRel _ _ _ scope => scope.toNat ≤ 4
  | .amoSwapW _ _ _ scope _ => scope.toNat ≤ 5
  | .amoSwapD _ _ _ scope _ => scope.toNat ≤ 5
  | .amoCasW d _ _ scope _ => scope.toNat ≤ 5 && d.toNat % 2 == 0
  | .amoCasD d _ _ scope _ => scope.toNat ≤ 5 && d.toNat % 2 == 0
  | .amoAddW _ _ _ scope _ => scope.toNat ≤ 5
  | .amoAddD _ _ _ scope _ => scope.toNat ≤ 5
  | .amoAndW _ _ _ scope _ => scope.toNat ≤ 5
  | .amoAndD _ _ _ scope _ => scope.toNat ≤ 5
  | .amoOrW _ _ _ scope _ => scope.toNat ≤ 5
  | .amoOrD _ _ _ scope _ => scope.toNat ≤ 5
  | .amoXorW _ _ _ scope _ => scope.toNat ≤ 5
  | .amoXorD _ _ _ scope _ => scope.toNat ≤ 5
  | .amoMinW _ _ _ scope _ => scope.toNat ≤ 5
  | .amoMinD _ _ _ scope _ => scope.toNat ≤ 5
  | .amoMaxW _ _ _ scope _ => scope.toNat ≤ 5
  | .amoMaxD _ _ _ scope _ => scope.toNat ≤ 5
  | .amoMinnW _ _ _ scope _ => scope.toNat ≤ 5
  | .amoMinnD _ _ _ scope _ => scope.toNat ≤ 5
  | .amoMaxnW _ _ _ scope _ => scope.toNat ≤ 5
  | .amoMaxnD _ _ _ scope _ => scope.toNat ≤ 5
  | .amoFaddS _ _ _ scope _ => scope.toNat ≤ 5
  | .amoFmaxS _ _ _ scope _ => scope.toNat ≤ 5
  | .amoFminS _ _ _ scope _ => scope.toNat ≤ 5
  | .fenceRel scope => scope.toNat ≤ 5
  | .fenceAcq scope => scope.toNat ≤ 5
  | .fenceAr scope => scope.toNat ≤ 5
  | .fenceSc scope => scope.toNat ≤ 5
  | .fenceAll => true
  | .boltArm _ _ _ _ => true
  | .boltArrive scope _ _ _ _ => scope.toNat ≤ 4
  | .boltWait _ _ _ _ _ => true
  | .boltRd d _ _ => 2 ≤ d.toNat && d.toNat ≤ 30 && d.toNat % 2 == 0
  | .pfR _ _ _ => true
  | .pfS _ _ _ => true
  | .pfW _ _ _ => true
  | .pfDrop _ _ _ => true
  | .vsetvl _ _ _ _ _ => true
  | .vsetvlmax _ _ _ => true
  | .vsetvli _ _ _ _ _ _ => true
  | .vld _ _ _ => true
  | .vldX8 _ _ _ _ _ => true
  | .vldX16 _ _ _ _ _ => true
  | .vldX32 _ _ _ _ _ => true
  | .vldX _ _ _ _ _ => true
  | .vldX8O _ _ _ _ _ => true
  | .vldX16O _ _ _ _ _ => true
  | .vldX32O _ _ _ _ _ => true
  | .vldXO _ _ _ _ _ => true
  | .vldX32Acq _ _ _ _ _ scope => scope.toNat ≤ 4
  | .vldXAcq _ _ _ _ _ scope => scope.toNat ≤ 4
  | .vldX32OAcq _ _ _ _ _ scope => scope.toNat ≤ 4
  | .vldXOAcq _ _ _ _ _ scope => scope.toNat ≤ 4
  | .vldsN2 _ _ _ => true
  | .vldsN3 _ _ _ => true
  | .vldsN4 _ _ _ => true
  | .vldsN5 _ _ _ => true
  | .vldsN6 _ _ _ => true
  | .vldsN7 _ _ _ => true
  | .vldsN8 _ _ _ => true
  | .vst _ _ _ => true
  | .vstX8 _ _ _ _ _ => true
  | .vstX16 _ _ _ _ _ => true
  | .vstX32 _ _ _ _ _ => true
  | .vstX _ _ _ _ _ => true
  | .vstX8O _ _ _ _ _ => true
  | .vstX16O _ _ _ _ _ => true
  | .vstX32O _ _ _ _ _ => true
  | .vstXO _ _ _ _ _ => true
  | .vstsN2 _ _ _ => true
  | .vstsN3 _ _ _ => true
  | .vstsN4 _ _ _ => true
  | .vstsN5 _ _ _ => true
  | .vstsN6 _ _ _ => true
  | .vstsN7 _ _ _ => true
  | .vstsN8 _ _ _ => true
  | .vldscSca _ _ => true
  | .vldscScb _ _ => true
  | .vstbm _ _ _ _ _ => true
  | .vldbm _ _ _ => true
  | .vpfR _ _ => true
  | .vpfS _ _ => true
  | .vpfRX32 _ _ _ _ => true
  | .vpfRX _ _ _ _ => true
  | .vhaccX32 _ _ _ _ _ _ scope => scope.toNat ≤ 4
  | .vhaccX _ _ _ _ _ _ scope => scope.toNat ≤ 4
  | .vscaddX32 _ _ _ _ _ _ scope => scope.toNat ≤ 4
  | .vscaddX _ _ _ _ _ _ scope => scope.toNat ≤ 4
  | .vadd _ _ _ _ _ _ => true
  | .vaddVs _ _ _ _ _ _ => true
  | .vsub _ _ _ _ _ _ => true
  | .vsubVs _ _ _ _ _ _ => true
  | .vrsub _ _ _ _ _ _ => true
  | .vrsubVs _ _ _ _ _ _ => true
  | .vmul _ _ _ _ _ _ => true
  | .vmulVs _ _ _ _ _ _ => true
  | .vmulh _ _ _ _ _ => true
  | .vmulhVs _ _ _ _ _ => true
  | .vdiv _ _ _ _ _ => true
  | .vdivVs _ _ _ _ _ => true
  | .vrem _ _ _ _ _ => true
  | .vremVs _ _ _ _ _ => true
  | .vmin _ _ _ _ _ => true
  | .vminVs _ _ _ _ _ => true
  | .vmax _ _ _ _ _ => true
  | .vmaxVs _ _ _ _ _ => true
  | .vand _ _ _ _ _ => true
  | .vandVs _ _ _ _ _ => true
  | .vor _ _ _ _ _ => true
  | .vorVs _ _ _ _ _ => true
  | .vxor _ _ _ _ _ => true
  | .vxorVs _ _ _ _ _ => true
  | .vsll _ _ _ _ _ _ => true
  | .vsllVs _ _ _ _ _ _ => true
  | .vsrl _ _ _ _ _ => true
  | .vsrlVs _ _ _ _ _ => true
  | .vsra _ _ _ _ _ => true
  | .vsraVs _ _ _ _ _ => true
  | .vmseq _ _ _ _ _ => true
  | .vmseqVs _ _ _ _ _ => true
  | .vmsne _ _ _ _ _ => true
  | .vmsneVs _ _ _ _ _ => true
  | .vmslt _ _ _ _ _ => true
  | .vmsltVs _ _ _ _ _ => true
  | .vmsle _ _ _ _ _ => true
  | .vmsleVs _ _ _ _ _ => true
  | .vmsgt _ _ _ _ _ => true
  | .vmsgtVs _ _ _ _ _ => true
  | .vmacc _ _ _ _ _ _ => true
  | .vmaccVs _ _ _ _ _ _ => true
  | .vwadd _ _ _ _ _ => true
  | .vwaddVs _ _ _ _ _ => true
  | .vwsub _ _ _ _ _ => true
  | .vwsubVs _ _ _ _ _ => true
  | .vwmul _ _ _ _ _ => true
  | .vwmulVs _ _ _ _ _ => true
  | .vwmacc _ _ _ _ _ _ => true
  | .vwmaccVs _ _ _ _ _ _ => true
  | .vnsrl _ _ _ _ _ _ => true
  | .vnsrlVs _ _ _ _ _ _ => true
  | .vnsra _ _ _ _ _ _ => true
  | .vnsraVs _ _ _ _ _ _ => true
  | .vsadd _ _ _ _ _ _ => true
  | .vsaddVs _ _ _ _ _ _ => true
  | .vssub _ _ _ _ _ _ => true
  | .vssubVs _ _ _ _ _ _ => true
  | .vaadd _ _ _ _ _ => true
  | .vaaddVs _ _ _ _ _ => true
  | .vasub _ _ _ _ _ => true
  | .vasubVs _ _ _ _ _ => true
  | .vsmul _ _ _ _ _ _ => true
  | .vsmulVs _ _ _ _ _ _ => true
  | .vssrl _ _ _ _ _ => true
  | .vssrlVs _ _ _ _ _ => true
  | .vssra _ _ _ _ _ => true
  | .vssraVs _ _ _ _ _ => true
  | .vfadd _ _ _ _ _ _ => true
  | .vfaddVs _ _ _ _ _ _ => true
  | .vfsub _ _ _ _ _ _ => true
  | .vfsubVs _ _ _ _ _ _ => true
  | .vfmul _ _ _ _ _ _ => true
  | .vfmulVs _ _ _ _ _ _ => true
  | .vfdiv _ _ _ _ _ _ => true
  | .vfdivVs _ _ _ _ _ _ => true
  | .vfsqrt _ _ _ _ => true
  | .vfmac _ _ _ _ _ _ => true
  | .vfmacVs _ _ _ _ _ _ => true
  | .vfnmac _ _ _ _ _ _ => true
  | .vfnmacVs _ _ _ _ _ _ => true
  | .vfmin _ _ _ _ _ _ => true
  | .vfminVs _ _ _ _ _ _ => true
  | .vfmax _ _ _ _ _ _ => true
  | .vfmaxVs _ _ _ _ _ _ => true
  | .vfneg _ _ _ _ => true
  | .vfabs _ _ _ _ => true
  | .vfclass _ _ _ _ => true
  | .vmfeq _ _ _ _ _ _ => true
  | .vmfeqVs _ _ _ _ _ _ => true
  | .vmflt _ _ _ _ _ _ => true
  | .vmfltVs _ _ _ _ _ _ => true
  | .vmfle _ _ _ _ _ _ => true
  | .vmfleVs _ _ _ _ _ _ => true
  | .vfrec _ _ _ _ => true
  | .vfrsq _ _ _ _ => true
  | .vcvt _ _ _ _ ty => ty.toNat ≤ 12
  | .vfdot _ _ _ _ _ _ => true
  | .vdot _ _ _ _ _ _ => true
  | .vbq _ _ _ _ src _ => src.toNat ≤ 2
  | .vfreca _ _ _ _ => true
  | .vfrsqa _ _ _ _ => true
  | .vmv _ _ _ => true
  | .vmerge _ _ _ _ _ => true
  | .vbcast _ _ _ => true
  | .vext _ _ _ _ _ => true
  | .vins _ _ _ _ _ => true
  | .vslideup _ _ _ _ _ => true
  | .vslidedn _ _ _ _ _ => true
  | .vperm _ _ _ _ _ => true
  | .vcpvl _ _ _ => true
  | .vxrd _ _ _ => true
  | .vxwr _ _ _ _ => true
  | .vredsum _ _ _ _ _ => true
  | .vredmin _ _ _ _ _ => true
  | .vredmax _ _ _ _ _ => true
  | .vredand _ _ _ _ _ => true
  | .vredor _ _ _ _ _ => true
  | .vredxor _ _ _ _ _ => true
  | .vfredsum _ _ _ _ _ => true
  | .vfredo _ _ _ _ _ => true
  | .vfredmin _ _ _ _ _ => true
  | .vfredmax _ _ _ _ _ => true
  | .kand _ _ _ => true
  | .kor _ _ _ => true
  | .kxor _ _ _ => true
  | .kandn _ _ _ => true
  | .knot _ _ => true
  | .kmov _ _ => true
  | .kset _ => true
  | .kclr _ => true
  | .kpop _ _ => true
  | .kfirst _ _ => true
  | .kiota _ _ => true
  | .kfromv _ _ _ => true
  | .ktov _ _ => true
  | .vsplit _ _ => true
  | .vjoin => true
  | .xsend _ _ _ _ _ => true
  | .xrecv _ => true
  | .vcapp _ _ _ _ _ => true
  | .sadd _ _ _ _ _ => true
  | .smul _ _ _ _ _ => true
  | .sdot _ _ _ _ _ => true
  | .sld _ _ _ _ _ => true
  | .sst _ _ _ => true
  | .sexp _ _ _ _ _ => true
  | .scmp _ _ _ _ _ => true
  | .vfmacv _ _ _ _ _ => true
  | .vbound _ _ _ _ _ => true
  | .vtraise _ _ _ => true
  | .vfabr _ _ _ => true
  | .zon _ _ => true
  | .zoff => true
  | .zzero _ => true
  | .zmop _ _ _ _ _ => true
  | .zmopb _ _ _ _ _ => true
  | .zmopv _ _ _ _ _ => true
  | .zbnd _ _ _ => true
  | .zabn _ _ => true
  | .zrd _ _ _ _ => true
  | .zcd _ _ _ _ => true
  | .zwr _ _ _ _ _ => true
  | .zswap _ slot => slot.toNat ≤ 15
  | .zldS _ _ _ => true
  | .zstS _ _ _ => true
  | .zldX32 _ _ _ _ _ => true
  | .zldX _ _ _ _ _ => true
  | .zstX32 _ _ _ _ _ => true
  | .zstX _ _ _ _ _ => true
  | .zldSShadow d _ _ => d.toNat ≤ 15
  | .zstSShadow d _ _ => d.toNat ≤ 15
  | .zldX32Shadow d _ _ _ _ => d.toNat ≤ 15
  | .zldXShadow d _ _ _ _ => d.toNat ≤ 15
  | .zstX32Shadow d _ _ _ _ => d.toNat ≤ 15
  | .zstXShadow d _ _ _ _ => d.toNat ≤ 15
  | .cpy _ _ _ => true
  | .cpym _ _ _ _ _ => true
  | .gsub _ _ _ => true
  | .dlaunch _ _ _ => true
  | .frmDec _ _ _ => true
  | .frmRsz _ _ _ => true
  | .fcv _ _ _ => true
  | .barCr => true
  | .barQd => true
  | .barDi => true
  | .barPk => true
  | .barPd => true
  | .shist _ _ _ _ _ => true
  | .shcnt _ => true
  | .trrd _ _ _ _ _ => true
  | .vtrim _ => true
  | .engineCommandError _ _ => true
  | .regionTranslate _ _ => true
  | .loadResultLands _ _ _ => true
  | .writeApply _ => true
  | .invalidationApply _ _ => true
  | .faultRecordWrite _ _ _ => true
  | .pfreplyRetry _ _ => true
  | .pfreplyDeliver _ _ => true
  | .pfwaitExpiry _ _ => true
  | .holderAck _ _ => true
  | .replicaPoison _ _ => true
  | .boltOperationApply _ => true
  | .boltStall _ _ => true
  | .wfeTimeout _ _ => true
  | .barrierComplete _ _ _ => true
  | .qnextComplete _ => true
  | .queuePublish _ => true
  | .xsendLanding _ _ => true
  | .queueClose _ _ => true
  | .compactionClaim _ => true
  | .compactionSlotDone _ => true
  | .bypassCopy _ => true
  | .copyRun _ => true
  | .copyComplete _ => true
  | .followonRun _ => true
  | .frameOpen _ _ => true
  | .frameDecode _ _ => true
  | .frameClose _ _ => true
  | .resizeRun _ _ => true
  | .fcvRun _ => true
  | .graphNodeComplete _ _ => true
  | .launchPacket _ => true
  | .graphPacket _ => true
  | .loadPacket _ => true
  | .unloadPacket _ => true
  | .boltArrivePacket _ => true
  | .boltWaitPacket _ => true
  | .boltPacketStall _ => true
  | .fencePacket _ => true
  | .copyPacket _ => true
  | .sequencerBind _ _ _ _ => true
  | .launchComplete _ => true
  | .balancerEpoch _ => true
  | .migrationRequestPost _ _ => true
  | .preemptRequest _ => true
  | .contextSave _ => true
  | .contextRestore _ _ _ => true
  | .laneRetire _ _ => true
  | .machineCheck _ _ _ => true
  | .unitFail _ _ _ => true
  | .softErrorCorrected _ => true
  | .expansionTableReplace _ _ => true
  | .leadFabricPrefetch _ _ => true
  | .deviceReset => true
  | .powerOn _ => true
  | .featureCommit => true
  | .contextCreate _ _ => true
  | .contextTeardown _ => true
  | .queueEnable _ _ => true
  | .prodWrite _ _ => true
  | .apertureEnable _ _ => true
  | .apertureDisable _ _ => true
  | .memoryBarWrite _ _ _ => true
  | .memoryBarRead _ _ _ => true
  | .xlinv _ => true
  | .xlinvDone => true
  | .replicate _ => true
  | .replicateDone => true
  | .seqkill _ => true
  | .quote _ => true
  | .install _ => true
  | .clear _ => true
  | .keySlotClearDone _ => true
  | .swinWrite _ _ => true
  | .swinChangeDone _ => true
  | .balctlWrite _ _ => true
  | .pwrislWrite _ _ => true
  | .islandWake _ => true
  | .thermalThrottle _ => true
  | .thermalShutdown _ => true
  | .peerLaneFail _ _ _ => true
  | .podRequestIn _ _ _ _ _ => true
  | .registerWrite _ _ _ _ => true
  | .migrationRequestWithdraw _ => true
  | .queueHardwareRestart _ => true
  | .thermalThrottleEnd _ => true

/-- The instruction is a word of the opcode tables, and not a step of another agent. -/
def Instr.hasWord : Instr → Bool
  | .nop => true
  | .trap _ _ => true
  | .brk => true
  | .eret => true
  | .wfe _ _ _ => true
  | .yield => true
  | .pollp _ => true
  | .halt => true
  | .cinval _ _ _ _ _ => true
  | .tlbsync _ _ _ _ _ => true
  | .qnext _ _ _ _ _ => true
  | .exit => true
  | .csrrw _ _ _ _ => true
  | .csrrs _ _ _ _ => true
  | .csrrc _ _ _ _ => true
  | .fwait _ _ => true
  | .fwaitv _ _ => true
  | .fsts _ _ => true
  | .fstv _ _ => true
  | .fwall => true
  | .add _ _ _ _ _ => true
  | .sub _ _ _ _ _ => true
  | .and _ _ _ _ _ => true
  | .or _ _ _ _ _ => true
  | .xor _ _ _ _ _ => true
  | .andn _ _ _ _ _ => true
  | .sll _ _ _ _ _ => true
  | .srl _ _ _ _ _ => true
  | .sra _ _ _ _ _ => true
  | .rol _ _ _ _ _ => true
  | .ror _ _ _ _ _ => true
  | .slt _ _ _ _ _ => true
  | .sltn _ _ _ _ _ => true
  | .seq _ _ _ _ _ => true
  | .min _ _ _ _ _ => true
  | .max _ _ _ _ _ => true
  | .minn _ _ _ _ _ => true
  | .maxn _ _ _ _ _ => true
  | .clz _ _ _ => true
  | .ctz _ _ _ => true
  | .cpop _ _ _ => true
  | .sextB _ _ _ => true
  | .sextH _ _ _ => true
  | .sextW _ _ _ => true
  | .zextH _ _ _ => true
  | .zextW _ _ _ => true
  | .mul _ _ _ _ _ => true
  | .mulh _ _ _ _ _ => true
  | .mulhn _ _ _ _ _ => true
  | .mulhsn _ _ _ _ _ => true
  | .div _ _ _ _ _ => true
  | .divn _ _ _ _ _ => true
  | .rem _ _ _ _ _ => true
  | .remn _ _ _ _ _ => true
  | .faddD _ _ _ _ _ => true
  | .fsubD _ _ _ _ _ => true
  | .fmulD _ _ _ _ _ => true
  | .fdivD _ _ _ _ _ => true
  | .fsqrtD _ _ _ => true
  | .fmacD _ _ _ _ _ => true
  | .fminD _ _ _ _ _ => true
  | .fmaxD _ _ _ _ _ => true
  | .fnegD _ _ _ => true
  | .fabsD _ _ _ => true
  | .feqD _ _ _ _ _ => true
  | .fltD _ _ _ _ _ => true
  | .fleD _ _ _ _ _ => true
  | .fclassD _ _ _ => true
  | .ftoiD _ _ _ => true
  | .ftonD _ _ _ => true
  | .itofD _ _ _ => true
  | .ntofD _ _ _ => true
  | .fcvtDS _ _ _ => true
  | .faddS _ _ _ _ _ => true
  | .fsubS _ _ _ _ _ => true
  | .fmulS _ _ _ _ _ => true
  | .fdivS _ _ _ _ _ => true
  | .fsqrtS _ _ _ => true
  | .fmacS _ _ _ _ _ => true
  | .fminS _ _ _ _ _ => true
  | .fmaxS _ _ _ _ _ => true
  | .fnegS _ _ _ => true
  | .fabsS _ _ _ => true
  | .feqS _ _ _ _ _ => true
  | .fltS _ _ _ _ _ => true
  | .fleS _ _ _ _ _ => true
  | .fclassS _ _ _ => true
  | .ftoiS _ _ _ => true
  | .ftonS _ _ _ => true
  | .itofS _ _ _ => true
  | .ntofS _ _ _ => true
  | .fcvtSD _ _ _ => true
  | .addi _ _ _ _ => true
  | .andi _ _ _ _ => true
  | .ori _ _ _ _ => true
  | .xori _ _ _ _ => true
  | .slli _ _ _ _ => true
  | .srli _ _ _ _ => true
  | .srai _ _ _ _ => true
  | .slti _ _ _ _ => true
  | .ldhi _ _ => true
  | .pcadd _ _ => true
  | .jal _ => true
  | .jalr _ _ _ _ => true
  | .beq _ _ _ _ => true
  | .bne _ _ _ _ => true
  | .blt _ _ _ _ => true
  | .bge _ _ _ _ => true
  | .bltn _ _ _ _ => true
  | .bgen _ _ _ _ => true
  | .loop _ _ _ => true
  | .lbrk => true
  | .lidx _ _ => true
  | .lrem _ _ => true
  | .lclr => true
  | .ldb _ _ _ _ => true
  | .ldbn _ _ _ _ => true
  | .ldh _ _ _ _ => true
  | .ldhn _ _ _ _ => true
  | .ldw _ _ _ _ => true
  | .ldwn _ _ _ _ => true
  | .ldd _ _ _ _ => true
  | .stb _ _ _ _ => true
  | .sth _ _ _ _ => true
  | .stw _ _ _ _ => true
  | .std _ _ _ _ => true
  | .ldbAcq _ _ _ _ => true
  | .ldbnAcq _ _ _ _ => true
  | .ldhAcq _ _ _ _ => true
  | .ldhnAcq _ _ _ _ => true
  | .ldwAcq _ _ _ _ => true
  | .ldwnAcq _ _ _ _ => true
  | .lddAcq _ _ _ _ => true
  | .stbRel _ _ _ _ => true
  | .sthRel _ _ _ _ => true
  | .stwRel _ _ _ _ => true
  | .stdRel _ _ _ _ => true
  | .amoSwapW _ _ _ _ _ => true
  | .amoSwapD _ _ _ _ _ => true
  | .amoCasW _ _ _ _ _ => true
  | .amoCasD _ _ _ _ _ => true
  | .amoAddW _ _ _ _ _ => true
  | .amoAddD _ _ _ _ _ => true
  | .amoAndW _ _ _ _ _ => true
  | .amoAndD _ _ _ _ _ => true
  | .amoOrW _ _ _ _ _ => true
  | .amoOrD _ _ _ _ _ => true
  | .amoXorW _ _ _ _ _ => true
  | .amoXorD _ _ _ _ _ => true
  | .amoMinW _ _ _ _ _ => true
  | .amoMinD _ _ _ _ _ => true
  | .amoMaxW _ _ _ _ _ => true
  | .amoMaxD _ _ _ _ _ => true
  | .amoMinnW _ _ _ _ _ => true
  | .amoMinnD _ _ _ _ _ => true
  | .amoMaxnW _ _ _ _ _ => true
  | .amoMaxnD _ _ _ _ _ => true
  | .amoFaddS _ _ _ _ _ => true
  | .amoFmaxS _ _ _ _ _ => true
  | .amoFminS _ _ _ _ _ => true
  | .fenceRel _ => true
  | .fenceAcq _ => true
  | .fenceAr _ => true
  | .fenceSc _ => true
  | .fenceAll => true
  | .boltArm _ _ _ _ => true
  | .boltArrive _ _ _ _ _ => true
  | .boltWait _ _ _ _ _ => true
  | .boltRd _ _ _ => true
  | .pfR _ _ _ => true
  | .pfS _ _ _ => true
  | .pfW _ _ _ => true
  | .pfDrop _ _ _ => true
  | .vsetvl _ _ _ _ _ => true
  | .vsetvlmax _ _ _ => true
  | .vsetvli _ _ _ _ _ _ => true
  | .vld _ _ _ => true
  | .vldX8 _ _ _ _ _ => true
  | .vldX16 _ _ _ _ _ => true
  | .vldX32 _ _ _ _ _ => true
  | .vldX _ _ _ _ _ => true
  | .vldX8O _ _ _ _ _ => true
  | .vldX16O _ _ _ _ _ => true
  | .vldX32O _ _ _ _ _ => true
  | .vldXO _ _ _ _ _ => true
  | .vldX32Acq _ _ _ _ _ _ => true
  | .vldXAcq _ _ _ _ _ _ => true
  | .vldX32OAcq _ _ _ _ _ _ => true
  | .vldXOAcq _ _ _ _ _ _ => true
  | .vldsN2 _ _ _ => true
  | .vldsN3 _ _ _ => true
  | .vldsN4 _ _ _ => true
  | .vldsN5 _ _ _ => true
  | .vldsN6 _ _ _ => true
  | .vldsN7 _ _ _ => true
  | .vldsN8 _ _ _ => true
  | .vst _ _ _ => true
  | .vstX8 _ _ _ _ _ => true
  | .vstX16 _ _ _ _ _ => true
  | .vstX32 _ _ _ _ _ => true
  | .vstX _ _ _ _ _ => true
  | .vstX8O _ _ _ _ _ => true
  | .vstX16O _ _ _ _ _ => true
  | .vstX32O _ _ _ _ _ => true
  | .vstXO _ _ _ _ _ => true
  | .vstsN2 _ _ _ => true
  | .vstsN3 _ _ _ => true
  | .vstsN4 _ _ _ => true
  | .vstsN5 _ _ _ => true
  | .vstsN6 _ _ _ => true
  | .vstsN7 _ _ _ => true
  | .vstsN8 _ _ _ => true
  | .vldscSca _ _ => true
  | .vldscScb _ _ => true
  | .vstbm _ _ _ _ _ => true
  | .vldbm _ _ _ => true
  | .vpfR _ _ => true
  | .vpfS _ _ => true
  | .vpfRX32 _ _ _ _ => true
  | .vpfRX _ _ _ _ => true
  | .vhaccX32 _ _ _ _ _ _ _ => true
  | .vhaccX _ _ _ _ _ _ _ => true
  | .vscaddX32 _ _ _ _ _ _ _ => true
  | .vscaddX _ _ _ _ _ _ _ => true
  | .vadd _ _ _ _ _ _ => true
  | .vaddVs _ _ _ _ _ _ => true
  | .vsub _ _ _ _ _ _ => true
  | .vsubVs _ _ _ _ _ _ => true
  | .vrsub _ _ _ _ _ _ => true
  | .vrsubVs _ _ _ _ _ _ => true
  | .vmul _ _ _ _ _ _ => true
  | .vmulVs _ _ _ _ _ _ => true
  | .vmulh _ _ _ _ _ => true
  | .vmulhVs _ _ _ _ _ => true
  | .vdiv _ _ _ _ _ => true
  | .vdivVs _ _ _ _ _ => true
  | .vrem _ _ _ _ _ => true
  | .vremVs _ _ _ _ _ => true
  | .vmin _ _ _ _ _ => true
  | .vminVs _ _ _ _ _ => true
  | .vmax _ _ _ _ _ => true
  | .vmaxVs _ _ _ _ _ => true
  | .vand _ _ _ _ _ => true
  | .vandVs _ _ _ _ _ => true
  | .vor _ _ _ _ _ => true
  | .vorVs _ _ _ _ _ => true
  | .vxor _ _ _ _ _ => true
  | .vxorVs _ _ _ _ _ => true
  | .vsll _ _ _ _ _ _ => true
  | .vsllVs _ _ _ _ _ _ => true
  | .vsrl _ _ _ _ _ => true
  | .vsrlVs _ _ _ _ _ => true
  | .vsra _ _ _ _ _ => true
  | .vsraVs _ _ _ _ _ => true
  | .vmseq _ _ _ _ _ => true
  | .vmseqVs _ _ _ _ _ => true
  | .vmsne _ _ _ _ _ => true
  | .vmsneVs _ _ _ _ _ => true
  | .vmslt _ _ _ _ _ => true
  | .vmsltVs _ _ _ _ _ => true
  | .vmsle _ _ _ _ _ => true
  | .vmsleVs _ _ _ _ _ => true
  | .vmsgt _ _ _ _ _ => true
  | .vmsgtVs _ _ _ _ _ => true
  | .vmacc _ _ _ _ _ _ => true
  | .vmaccVs _ _ _ _ _ _ => true
  | .vwadd _ _ _ _ _ => true
  | .vwaddVs _ _ _ _ _ => true
  | .vwsub _ _ _ _ _ => true
  | .vwsubVs _ _ _ _ _ => true
  | .vwmul _ _ _ _ _ => true
  | .vwmulVs _ _ _ _ _ => true
  | .vwmacc _ _ _ _ _ _ => true
  | .vwmaccVs _ _ _ _ _ _ => true
  | .vnsrl _ _ _ _ _ _ => true
  | .vnsrlVs _ _ _ _ _ _ => true
  | .vnsra _ _ _ _ _ _ => true
  | .vnsraVs _ _ _ _ _ _ => true
  | .vsadd _ _ _ _ _ _ => true
  | .vsaddVs _ _ _ _ _ _ => true
  | .vssub _ _ _ _ _ _ => true
  | .vssubVs _ _ _ _ _ _ => true
  | .vaadd _ _ _ _ _ => true
  | .vaaddVs _ _ _ _ _ => true
  | .vasub _ _ _ _ _ => true
  | .vasubVs _ _ _ _ _ => true
  | .vsmul _ _ _ _ _ _ => true
  | .vsmulVs _ _ _ _ _ _ => true
  | .vssrl _ _ _ _ _ => true
  | .vssrlVs _ _ _ _ _ => true
  | .vssra _ _ _ _ _ => true
  | .vssraVs _ _ _ _ _ => true
  | .vfadd _ _ _ _ _ _ => true
  | .vfaddVs _ _ _ _ _ _ => true
  | .vfsub _ _ _ _ _ _ => true
  | .vfsubVs _ _ _ _ _ _ => true
  | .vfmul _ _ _ _ _ _ => true
  | .vfmulVs _ _ _ _ _ _ => true
  | .vfdiv _ _ _ _ _ _ => true
  | .vfdivVs _ _ _ _ _ _ => true
  | .vfsqrt _ _ _ _ => true
  | .vfmac _ _ _ _ _ _ => true
  | .vfmacVs _ _ _ _ _ _ => true
  | .vfnmac _ _ _ _ _ _ => true
  | .vfnmacVs _ _ _ _ _ _ => true
  | .vfmin _ _ _ _ _ _ => true
  | .vfminVs _ _ _ _ _ _ => true
  | .vfmax _ _ _ _ _ _ => true
  | .vfmaxVs _ _ _ _ _ _ => true
  | .vfneg _ _ _ _ => true
  | .vfabs _ _ _ _ => true
  | .vfclass _ _ _ _ => true
  | .vmfeq _ _ _ _ _ _ => true
  | .vmfeqVs _ _ _ _ _ _ => true
  | .vmflt _ _ _ _ _ _ => true
  | .vmfltVs _ _ _ _ _ _ => true
  | .vmfle _ _ _ _ _ _ => true
  | .vmfleVs _ _ _ _ _ _ => true
  | .vfrec _ _ _ _ => true
  | .vfrsq _ _ _ _ => true
  | .vcvt _ _ _ _ _ => true
  | .vfdot _ _ _ _ _ _ => true
  | .vdot _ _ _ _ _ _ => true
  | .vbq _ _ _ _ _ _ => true
  | .vfreca _ _ _ _ => true
  | .vfrsqa _ _ _ _ => true
  | .vmv _ _ _ => true
  | .vmerge _ _ _ _ _ => true
  | .vbcast _ _ _ => true
  | .vext _ _ _ _ _ => true
  | .vins _ _ _ _ _ => true
  | .vslideup _ _ _ _ _ => true
  | .vslidedn _ _ _ _ _ => true
  | .vperm _ _ _ _ _ => true
  | .vcpvl _ _ _ => true
  | .vxrd _ _ _ => true
  | .vxwr _ _ _ _ => true
  | .vredsum _ _ _ _ _ => true
  | .vredmin _ _ _ _ _ => true
  | .vredmax _ _ _ _ _ => true
  | .vredand _ _ _ _ _ => true
  | .vredor _ _ _ _ _ => true
  | .vredxor _ _ _ _ _ => true
  | .vfredsum _ _ _ _ _ => true
  | .vfredo _ _ _ _ _ => true
  | .vfredmin _ _ _ _ _ => true
  | .vfredmax _ _ _ _ _ => true
  | .kand _ _ _ => true
  | .kor _ _ _ => true
  | .kxor _ _ _ => true
  | .kandn _ _ _ => true
  | .knot _ _ => true
  | .kmov _ _ => true
  | .kset _ => true
  | .kclr _ => true
  | .kpop _ _ => true
  | .kfirst _ _ => true
  | .kiota _ _ => true
  | .kfromv _ _ _ => true
  | .ktov _ _ => true
  | .vsplit _ _ => true
  | .vjoin => true
  | .xsend _ _ _ _ _ => true
  | .xrecv _ => true
  | .vcapp _ _ _ _ _ => true
  | .sadd _ _ _ _ _ => true
  | .smul _ _ _ _ _ => true
  | .sdot _ _ _ _ _ => true
  | .sld _ _ _ _ _ => true
  | .sst _ _ _ => true
  | .sexp _ _ _ _ _ => true
  | .scmp _ _ _ _ _ => true
  | .vfmacv _ _ _ _ _ => true
  | .vbound _ _ _ _ _ => true
  | .vtraise _ _ _ => true
  | .vfabr _ _ _ => true
  | .zon _ _ => true
  | .zoff => true
  | .zzero _ => true
  | .zmop _ _ _ _ _ => true
  | .zmopb _ _ _ _ _ => true
  | .zmopv _ _ _ _ _ => true
  | .zbnd _ _ _ => true
  | .zabn _ _ => true
  | .zrd _ _ _ _ => true
  | .zcd _ _ _ _ => true
  | .zwr _ _ _ _ _ => true
  | .zswap _ _ => true
  | .zldS _ _ _ => true
  | .zstS _ _ _ => true
  | .zldX32 _ _ _ _ _ => true
  | .zldX _ _ _ _ _ => true
  | .zstX32 _ _ _ _ _ => true
  | .zstX _ _ _ _ _ => true
  | .zldSShadow _ _ _ => true
  | .zstSShadow _ _ _ => true
  | .zldX32Shadow _ _ _ _ _ => true
  | .zldXShadow _ _ _ _ _ => true
  | .zstX32Shadow _ _ _ _ _ => true
  | .zstXShadow _ _ _ _ _ => true
  | .cpy _ _ _ => true
  | .cpym _ _ _ _ _ => true
  | .gsub _ _ _ => true
  | .dlaunch _ _ _ => true
  | .frmDec _ _ _ => true
  | .frmRsz _ _ _ => true
  | .fcv _ _ _ => true
  | .barCr => true
  | .barQd => true
  | .barDi => true
  | .barPk => true
  | .barPd => true
  | .shist _ _ _ _ _ => true
  | .shcnt _ => true
  | .trrd _ _ _ _ _ => true
  | .vtrim _ => true
  | .engineCommandError _ _ => false
  | .regionTranslate _ _ => false
  | .loadResultLands _ _ _ => false
  | .writeApply _ => false
  | .invalidationApply _ _ => false
  | .faultRecordWrite _ _ _ => false
  | .pfreplyRetry _ _ => false
  | .pfreplyDeliver _ _ => false
  | .pfwaitExpiry _ _ => false
  | .holderAck _ _ => false
  | .replicaPoison _ _ => false
  | .boltOperationApply _ => false
  | .boltStall _ _ => false
  | .wfeTimeout _ _ => false
  | .barrierComplete _ _ _ => false
  | .qnextComplete _ => false
  | .queuePublish _ => false
  | .xsendLanding _ _ => false
  | .queueClose _ _ => false
  | .compactionClaim _ => false
  | .compactionSlotDone _ => false
  | .bypassCopy _ => false
  | .copyRun _ => false
  | .copyComplete _ => false
  | .followonRun _ => false
  | .frameOpen _ _ => false
  | .frameDecode _ _ => false
  | .frameClose _ _ => false
  | .resizeRun _ _ => false
  | .fcvRun _ => false
  | .graphNodeComplete _ _ => false
  | .launchPacket _ => false
  | .graphPacket _ => false
  | .loadPacket _ => false
  | .unloadPacket _ => false
  | .boltArrivePacket _ => false
  | .boltWaitPacket _ => false
  | .boltPacketStall _ => false
  | .fencePacket _ => false
  | .copyPacket _ => false
  | .sequencerBind _ _ _ _ => false
  | .launchComplete _ => false
  | .balancerEpoch _ => false
  | .migrationRequestPost _ _ => false
  | .preemptRequest _ => false
  | .contextSave _ => false
  | .contextRestore _ _ _ => false
  | .laneRetire _ _ => false
  | .machineCheck _ _ _ => false
  | .unitFail _ _ _ => false
  | .softErrorCorrected _ => false
  | .expansionTableReplace _ _ => false
  | .leadFabricPrefetch _ _ => false
  | .deviceReset => false
  | .powerOn _ => false
  | .featureCommit => false
  | .contextCreate _ _ => false
  | .contextTeardown _ => false
  | .queueEnable _ _ => false
  | .prodWrite _ _ => false
  | .apertureEnable _ _ => false
  | .apertureDisable _ _ => false
  | .memoryBarWrite _ _ _ => false
  | .memoryBarRead _ _ _ => false
  | .xlinv _ => false
  | .xlinvDone => false
  | .replicate _ => false
  | .replicateDone => false
  | .seqkill _ => false
  | .quote _ => false
  | .install _ => false
  | .clear _ => false
  | .keySlotClearDone _ => false
  | .swinWrite _ _ => false
  | .swinChangeDone _ => false
  | .balctlWrite _ _ => false
  | .pwrislWrite _ _ => false
  | .islandWake _ => false
  | .thermalThrottle _ => false
  | .thermalShutdown _ => false
  | .peerLaneFail _ _ _ => false
  | .podRequestIn _ _ _ _ _ => false
  | .registerWrite _ _ _ _ => false
  | .migrationRequestWithdraw _ => false
  | .queueHardwareRestart _ => false
  | .thermalThrottleEnd _ => false

end Sys2Proof
end

