-- ==== Sys2Proof/Decode.lean ====
section
/-! DEFINITION. The decoder (R180 to R185, R193, R195) and the encoder. One match arm per row of the encoding
tables of 11_scalar.md to 17_traps_context.md.

The compiler of Lean gives no code to a constructor that has fields and a place above 244 in its inductive; the rows of
the table are 502. The decoder is therefore noncomputable to the compiler, and plain structural matching to the kernel. -/

namespace Sys2Proof

noncomputable section

/-- Why a word is no instruction, by the static rows of Table 8.8. The rows that depend on the machine (features,
CSR numbers, `vdecl`, `vtype`) are checked where the instruction executes. -/
inductive Reject where
  /-- 0x0000_0000 or 0xFFFF_FFFF (R185) -/
  | zeroOrOnes
  /-- OP reserved in Table 8.7 -/
  | reservedMajor
  /-- OP 0x70 to 0x7F: firmware mode only (Table 8.7) -/
  | firmwareMajor
  /-- FN or sub-form unassigned, a reserved bit set, or FA, FB or XM set where forbidden -/
  | unassigned
  /-- an operand value that the instruction's entry makes an illegal instruction -/
  | operand
deriving DecidableEq, Repr

/-! ## Fields of a word, Table 8.1 -/

/-- OP, bits 31:25 in every format. -/
def fieldOP (w : IWord) : BitVec 7 := w.extractLsb' 25 7
/-- D of F-R, F-I, F-M and F-U; A of F-B. -/
def fieldD (w : IWord) : BitVec 5 := w.extractLsb' 20 5
/-- A of F-R, F-I and F-M; B of F-B. -/
def fieldA (w : IWord) : BitVec 5 := w.extractLsb' 15 5
/-- B of F-R. -/
def fieldB (w : IWord) : BitVec 5 := w.extractLsb' 10 5
/-- FA of F-R. -/
def fieldFA (w : IWord) : Bool := w.getLsbD 9
/-- FB of F-R. -/
def fieldFB (w : IWord) : Bool := w.getLsbD 8
/-- XM of F-R. -/
def fieldXM (w : IWord) : Bool := w.getLsbD 7
/-- FN of F-R. -/
def fieldFN (w : IWord) : BitVec 7 := w.extractLsb' 0 7
/-- FA of F-I, F-M and F-B. -/
def fieldFA14 (w : IWord) : Bool := w.getLsbD 14
/-- IMM of F-I and F-M; OFF of F-B. -/
def fieldImm (w : IWord) : BitVec 14 := w.extractLsb' 0 14
/-- IMM of F-U. -/
def fieldImm20 (w : IWord) : BitVec 20 := w.extractLsb' 0 20
/-- OFF of F-J. -/
def fieldOff25 (w : IWord) : BitVec 25 := w.extractLsb' 0 25

/-- A row whose unused fields must be zero (R182, R183, R184). -/
def only (ok : Bool) (i : Instr) : Option Instr := if ok then some i else none

/-- Major 0x01: the rows of its FN table; every other FN value is unassigned (R193). -/
def decMajor01 (d a b : BitVec 5) (fa fb xm : Bool) (fn : BitVec 7) : Option Instr :=
  match fn.toNat with
  | 0x00 => only (d == 0 && a == 0 && b == 0 && !fa && !fb && !xm) (.nop)
  | 0x01 => only (d == 0 && b == 0 && !fb && !xm) (.trap a fa)
  | 0x02 => only (d == 0 && a == 0 && b == 0 && !fa && !fb && !xm) (.brk)
  | 0x03 => only (d == 0 && a == 0 && b == 0 && !fa && !fb && !xm) (.eret)
  | 0x04 => only (b == 0 && !fb && !xm) (.wfe d a fa)
  | 0x05 => only (d == 0 && a == 0 && b == 0 && !fa && !fb && !xm) (.yield)
  | 0x06 => only (a == 0 && b == 0 && !fa && !fb && !xm) (.pollp d)
  | 0x07 => only (d == 0 && a == 0 && b == 0 && !fa && !fb && !xm) (.halt)
  | 0x08 => only (!xm) (.cinval d a b fa fb)
  | 0x09 => only (!xm) (.tlbsync d a b fa fb)
  | 0x0a => only (!xm) (.qnext d a b fa fb)
  | 0x0b => only (d == 0 && a == 0 && b == 0 && !fa && !fb && !xm) (.exit)
  | _ => none

/-- Major 0x03: the rows of its FN table; every other FN value is unassigned (R193). -/
def decMajor03 (d a b : BitVec 5) (fa fb xm : Bool) (fn : BitVec 7) : Option Instr :=
  match fn.toNat with
  | 0x00 => only (d == 0 && b == 0 && !fb && !xm) (.fwait a fa)
  | 0x01 => only (d == 0 && b == 0 && !fb && !xm) (.fwaitv a fa)
  | 0x02 => only (b == 0 && !fa && !fb && !xm) (.fsts d a)
  | 0x03 => only (b == 0 && !fa && !fb && !xm) (.fstv d a)
  | 0x04 => only (d == 0 && a == 0 && b == 0 && !fa && !fb && !xm) (.fwall)
  | _ => none

/-- Major 0x04: the rows of its FN table; every other FN value is unassigned (R193). -/
def decMajor04 (d a b : BitVec 5) (fa fb xm : Bool) (fn : BitVec 7) : Option Instr :=
  match fn.toNat with
  | 0x00 => only (!xm) (.add d a b fa fb)
  | 0x01 => only (!xm) (.sub d a b fa fb)
  | 0x02 => only (!xm) (.and d a b fa fb)
  | 0x03 => only (!xm) (.or d a b fa fb)
  | 0x04 => only (!xm) (.xor d a b fa fb)
  | 0x05 => only (!xm) (.andn d a b fa fb)
  | 0x06 => only (!xm) (.sll d a b fa fb)
  | 0x07 => only (!xm) (.srl d a b fa fb)
  | 0x08 => only (!xm) (.sra d a b fa fb)
  | 0x09 => only (!xm) (.rol d a b fa fb)
  | 0x0a => only (!xm) (.ror d a b fa fb)
  | 0x0b => only (!xm) (.slt d a b fa fb)
  | 0x0c => only (!xm) (.sltn d a b fa fb)
  | 0x0d => only (!xm) (.seq d a b fa fb)
  | 0x0e => only (!xm) (.min d a b fa fb)
  | 0x0f => only (!xm) (.max d a b fa fb)
  | 0x10 => only (!xm) (.minn d a b fa fb)
  | 0x11 => only (!xm) (.maxn d a b fa fb)
  | 0x12 => only (b == 0 && !fb && !xm) (.clz d a fa)
  | 0x13 => only (b == 0 && !fb && !xm) (.ctz d a fa)
  | 0x14 => only (b == 0 && !fb && !xm) (.cpop d a fa)
  | 0x15 => only (b == 0 && !fb && !xm) (.sextB d a fa)
  | 0x16 => only (b == 0 && !fb && !xm) (.sextH d a fa)
  | 0x17 => only (b == 0 && !fb && !xm) (.sextW d a fa)
  | 0x18 => only (b == 0 && !fb && !xm) (.zextH d a fa)
  | 0x19 => only (b == 0 && !fb && !xm) (.zextW d a fa)
  | _ => none

/-- Major 0x05: the rows of its FN table; every other FN value is unassigned (R193). -/
def decMajor05 (d a b : BitVec 5) (fa fb xm : Bool) (fn : BitVec 7) : Option Instr :=
  match fn.toNat with
  | 0x00 => only (!xm) (.mul d a b fa fb)
  | 0x01 => only (!xm) (.mulh d a b fa fb)
  | 0x02 => only (!xm) (.mulhn d a b fa fb)
  | 0x03 => only (!xm) (.mulhsn d a b fa fb)
  | 0x04 => only (!xm) (.div d a b fa fb)
  | 0x05 => only (!xm) (.divn d a b fa fb)
  | 0x06 => only (!xm) (.rem d a b fa fb)
  | 0x07 => only (!xm) (.remn d a b fa fb)
  | _ => none

/-- Major 0x06: the rows of its FN table; every other FN value is unassigned (R193). -/
def decMajor06 (d a b : BitVec 5) (fa fb xm : Bool) (fn : BitVec 7) : Option Instr :=
  match fn.toNat with
  | 0x00 => only (!xm) (.faddD d a b fa fb)
  | 0x01 => only (!xm) (.fsubD d a b fa fb)
  | 0x02 => only (!xm) (.fmulD d a b fa fb)
  | 0x03 => only (!xm) (.fdivD d a b fa fb)
  | 0x04 => only (b == 0 && !fb && !xm) (.fsqrtD d a fa)
  | 0x05 => only (!xm) (.fmacD d a b fa fb)
  | 0x06 => only (!xm) (.fminD d a b fa fb)
  | 0x07 => only (!xm) (.fmaxD d a b fa fb)
  | 0x08 => only (b == 0 && !fb && !xm) (.fnegD d a fa)
  | 0x09 => only (b == 0 && !fb && !xm) (.fabsD d a fa)
  | 0x0a => only (!xm) (.feqD d a b fa fb)
  | 0x0b => only (!xm) (.fltD d a b fa fb)
  | 0x0c => only (!xm) (.fleD d a b fa fb)
  | 0x0d => only (b == 0 && !fb && !xm) (.fclassD d a fa)
  | 0x0e => only (b == 0 && !fb && !xm) (.ftoiD d a fa)
  | 0x0f => only (b == 0 && !fb && !xm) (.ftonD d a fa)
  | 0x10 => only (b == 0 && !fb && !xm) (.itofD d a fa)
  | 0x11 => only (b == 0 && !fb && !xm) (.ntofD d a fa)
  | 0x12 => only (b == 0 && !fb && !xm) (.fcvtDS d a fa)
  | 0x40 => only (!xm) (.faddS d a b fa fb)
  | 0x41 => only (!xm) (.fsubS d a b fa fb)
  | 0x42 => only (!xm) (.fmulS d a b fa fb)
  | 0x43 => only (!xm) (.fdivS d a b fa fb)
  | 0x44 => only (b == 0 && !fb && !xm) (.fsqrtS d a fa)
  | 0x45 => only (!xm) (.fmacS d a b fa fb)
  | 0x46 => only (!xm) (.fminS d a b fa fb)
  | 0x47 => only (!xm) (.fmaxS d a b fa fb)
  | 0x48 => only (b == 0 && !fb && !xm) (.fnegS d a fa)
  | 0x49 => only (b == 0 && !fb && !xm) (.fabsS d a fa)
  | 0x4a => only (!xm) (.feqS d a b fa fb)
  | 0x4b => only (!xm) (.fltS d a b fa fb)
  | 0x4c => only (!xm) (.fleS d a b fa fb)
  | 0x4d => only (b == 0 && !fb && !xm) (.fclassS d a fa)
  | 0x4e => only (b == 0 && !fb && !xm) (.ftoiS d a fa)
  | 0x4f => only (b == 0 && !fb && !xm) (.ftonS d a fa)
  | 0x50 => only (b == 0 && !fb && !xm) (.itofS d a fa)
  | 0x51 => only (b == 0 && !fb && !xm) (.ntofS d a fa)
  | 0x52 => only (b == 0 && !fb && !xm) (.fcvtSD d a fa)
  | _ => none

/-- Major 0x1b: the rows of its FN table; every other FN value is unassigned (R193). -/
def decMajor1B (d a b : BitVec 5) (fa fb xm : Bool) (fn : BitVec 7) : Option Instr :=
  match fn.toNat with
  | 0x00 => only (d == 0 && a == 0 && b == 0 && !fa && !fb && !xm) (.lbrk)
  | 0x01 => only (b == 0 && !fa && !fb && !xm) (.lidx d a)
  | 0x02 => only (b == 0 && !fa && !fb && !xm) (.lrem d a)
  | 0x03 => only (d == 0 && a == 0 && b == 0 && !fa && !fb && !xm) (.lclr)
  | _ => none

/-- Major 0x2c: the rows of its FN table; every other FN value is unassigned (R193). -/
def decMajor2C (d a b : BitVec 5) (fa fb xm : Bool) (fn : BitVec 7) : Option Instr :=
  match fn.toNat with
  | 0x00 => only (!fb && !xm) (.amoSwapW d a (b.extractLsb' 3 2) (b.extractLsb' 0 3) fa)
  | 0x01 => only (!fb && !xm) (.amoSwapD d a (b.extractLsb' 3 2) (b.extractLsb' 0 3) fa)
  | 0x02 => only (!fb && !xm) (.amoCasW d a (b.extractLsb' 3 2) (b.extractLsb' 0 3) fa)
  | 0x03 => only (!fb && !xm) (.amoCasD d a (b.extractLsb' 3 2) (b.extractLsb' 0 3) fa)
  | 0x04 => only (!fb && !xm) (.amoAddW d a (b.extractLsb' 3 2) (b.extractLsb' 0 3) fa)
  | 0x05 => only (!fb && !xm) (.amoAddD d a (b.extractLsb' 3 2) (b.extractLsb' 0 3) fa)
  | 0x06 => only (!fb && !xm) (.amoAndW d a (b.extractLsb' 3 2) (b.extractLsb' 0 3) fa)
  | 0x07 => only (!fb && !xm) (.amoAndD d a (b.extractLsb' 3 2) (b.extractLsb' 0 3) fa)
  | 0x08 => only (!fb && !xm) (.amoOrW d a (b.extractLsb' 3 2) (b.extractLsb' 0 3) fa)
  | 0x09 => only (!fb && !xm) (.amoOrD d a (b.extractLsb' 3 2) (b.extractLsb' 0 3) fa)
  | 0x0a => only (!fb && !xm) (.amoXorW d a (b.extractLsb' 3 2) (b.extractLsb' 0 3) fa)
  | 0x0b => only (!fb && !xm) (.amoXorD d a (b.extractLsb' 3 2) (b.extractLsb' 0 3) fa)
  | 0x0c => only (!fb && !xm) (.amoMinW d a (b.extractLsb' 3 2) (b.extractLsb' 0 3) fa)
  | 0x0d => only (!fb && !xm) (.amoMinD d a (b.extractLsb' 3 2) (b.extractLsb' 0 3) fa)
  | 0x0e => only (!fb && !xm) (.amoMaxW d a (b.extractLsb' 3 2) (b.extractLsb' 0 3) fa)
  | 0x0f => only (!fb && !xm) (.amoMaxD d a (b.extractLsb' 3 2) (b.extractLsb' 0 3) fa)
  | 0x10 => only (!fb && !xm) (.amoMinnW d a (b.extractLsb' 3 2) (b.extractLsb' 0 3) fa)
  | 0x11 => only (!fb && !xm) (.amoMinnD d a (b.extractLsb' 3 2) (b.extractLsb' 0 3) fa)
  | 0x12 => only (!fb && !xm) (.amoMaxnW d a (b.extractLsb' 3 2) (b.extractLsb' 0 3) fa)
  | 0x13 => only (!fb && !xm) (.amoMaxnD d a (b.extractLsb' 3 2) (b.extractLsb' 0 3) fa)
  | 0x14 => only (!fb && !xm) (.amoFaddS d a (b.extractLsb' 3 2) (b.extractLsb' 0 3) fa)
  | 0x15 => only (!fb && !xm) (.amoFmaxS d a (b.extractLsb' 3 2) (b.extractLsb' 0 3) fa)
  | 0x16 => only (!fb && !xm) (.amoFminS d a (b.extractLsb' 3 2) (b.extractLsb' 0 3) fa)
  | _ => none

/-- Major 0x2d: the rows of its FN table; every other FN value is unassigned (R193). -/
def decMajor2D (d a b : BitVec 5) (fa fb xm : Bool) (fn : BitVec 7) : Option Instr :=
  match fn.toNat with
  | 0x00 => only (a == 0 && b == 0 && !fa && !fb && !xm) (.fenceRel d)
  | 0x01 => only (a == 0 && b == 0 && !fa && !fb && !xm) (.fenceAcq d)
  | 0x02 => only (a == 0 && b == 0 && !fa && !fb && !xm) (.fenceAr d)
  | 0x03 => only (a == 0 && b == 0 && !fa && !fb && !xm) (.fenceSc d)
  | 0x7f => only (d == 0 && a == 0 && b == 0 && !fa && !fb && !xm) (.fenceAll)
  | _ => none

/-- Major 0x2e: the rows of its FN table; every other FN value is unassigned (R193). -/
def decMajor2E (d a b : BitVec 5) (fa fb xm : Bool) (fn : BitVec 7) : Option Instr :=
  match fn.toNat with
  | 0x00 => only (d == 0 && !xm) (.boltArm a b fa fb)
  | 0x01 => only (!xm) (.boltArrive d a b fa fb)
  | 0x02 => only (!xm) (.boltWait d a b fa fb)
  | 0x03 => only (b == 0 && !fb && !xm) (.boltRd d a fa)
  | _ => none

/-- Major 0x30: the rows of its FN table; every other FN value is unassigned (R193). -/
def decMajor30 (d a b : BitVec 5) (fa fb xm : Bool) (fn : BitVec 7) : Option Instr :=
  if fn.getLsbD 6 then only (!b.getLsbD 4 && fn.extractLsb' 0 2 == 0 && !fb && !xm) (.vsetvli d a (b.extractLsb' 0 4) fa (fn.extractLsb' 3 3) (fn.getLsbD 2))
  else
    match fn.toNat with
    | 0x00 => only (!xm) (.vsetvl d a b fa fb)
    | 0x01 => only (a == 0 && !fa && !xm) (.vsetvlmax d b fb)
    | _ => none

/-- Major 0x31: the rows of its FN table; every other FN value is unassigned (R193). -/
def decMajor31 (d a b : BitVec 5) (fa fb xm : Bool) (fn : BitVec 7) : Option Instr :=
  match (fn.extractLsb' 4 3).toNat with
  | 3 => if fn.getLsbD 0 then only (!xm) (.vldXAcq d a b fa fb (fn.extractLsb' 1 3)) else only (!xm) (.vldX32Acq d a b fa fb (fn.extractLsb' 1 3))
  | 4 => if fn.getLsbD 0 then only (!xm) (.vldXOAcq d a b fa fb (fn.extractLsb' 1 3)) else only (!xm) (.vldX32OAcq d a b fa fb (fn.extractLsb' 1 3))
  | _ =>
    match fn.toNat with
    | 0x00 => only (b == 0 && !fb && !xm) (.vld d a fa)
    | 0x10 => only (!xm) (.vldX8 d a b fa fb)
    | 0x11 => only (!xm) (.vldX16 d a b fa fb)
    | 0x12 => only (!xm) (.vldX32 d a b fa fb)
    | 0x13 => only (!xm) (.vldX d a b fa fb)
    | 0x20 => only (!xm) (.vldX8O d a b fa fb)
    | 0x21 => only (!xm) (.vldX16O d a b fa fb)
    | 0x22 => only (!xm) (.vldX32O d a b fa fb)
    | 0x23 => only (!xm) (.vldXO d a b fa fb)
    | 0x51 => only (b == 0 && !fb && !xm) (.vldsN2 d a fa)
    | 0x52 => only (b == 0 && !fb && !xm) (.vldsN3 d a fa)
    | 0x53 => only (b == 0 && !fb && !xm) (.vldsN4 d a fa)
    | 0x54 => only (b == 0 && !fb && !xm) (.vldsN5 d a fa)
    | 0x55 => only (b == 0 && !fb && !xm) (.vldsN6 d a fa)
    | 0x56 => only (b == 0 && !fb && !xm) (.vldsN7 d a fa)
    | 0x57 => only (b == 0 && !fb && !xm) (.vldsN8 d a fa)
    | _ => none

/-- Major 0x32: the rows of its FN table; every other FN value is unassigned (R193). -/
def decMajor32 (d a b : BitVec 5) (fa fb xm : Bool) (fn : BitVec 7) : Option Instr :=
  match fn.toNat with
  | 0x00 => only (b == 0 && !fb && !xm) (.vst d a fa)
  | 0x10 => only (!xm) (.vstX8 d a b fa fb)
  | 0x11 => only (!xm) (.vstX16 d a b fa fb)
  | 0x12 => only (!xm) (.vstX32 d a b fa fb)
  | 0x13 => only (!xm) (.vstX d a b fa fb)
  | 0x20 => only (!xm) (.vstX8O d a b fa fb)
  | 0x21 => only (!xm) (.vstX16O d a b fa fb)
  | 0x22 => only (!xm) (.vstX32O d a b fa fb)
  | 0x23 => only (!xm) (.vstXO d a b fa fb)
  | 0x51 => only (b == 0 && !fb && !xm) (.vstsN2 d a fa)
  | 0x52 => only (b == 0 && !fb && !xm) (.vstsN3 d a fa)
  | 0x53 => only (b == 0 && !fb && !xm) (.vstsN4 d a fa)
  | 0x54 => only (b == 0 && !fb && !xm) (.vstsN5 d a fa)
  | 0x55 => only (b == 0 && !fb && !xm) (.vstsN6 d a fa)
  | 0x56 => only (b == 0 && !fb && !xm) (.vstsN7 d a fa)
  | 0x57 => only (b == 0 && !fb && !xm) (.vstsN8 d a fa)
  | _ => none

/-- Major 0x33: the rows of its FN table; every other FN value is unassigned (R193). -/
def decMajor33 (d a b : BitVec 5) (fa fb xm : Bool) (fn : BitVec 7) : Option Instr :=
  match (fn.extractLsb' 4 3).toNat with
  | 4 => only (!xm) (.vhaccX32 d a b fa fb (fn.getLsbD 3) (fn.extractLsb' 0 3))
  | 5 => only (!xm) (.vhaccX d a b fa fb (fn.getLsbD 3) (fn.extractLsb' 0 3))
  | 6 => only (!xm) (.vscaddX32 d a b fa fb (fn.getLsbD 3) (fn.extractLsb' 0 3))
  | 7 => only (!xm) (.vscaddX d a b fa fb (fn.getLsbD 3) (fn.extractLsb' 0 3))
  | _ =>
    match fn.toNat with
    | 0x00 => only (d == 0 && b == 0 && !fb && !xm) (.vldscSca a fa)
    | 0x01 => only (d == 0 && b == 0 && !fb && !xm) (.vldscScb a fa)
    | 0x02 => only (!xm) (.vstbm d a b fa fb)
    | 0x03 => only (b == 0 && !fb && !xm) (.vldbm d a fa)
    | 0x04 => only (d == 0 && b == 0 && !fb && !xm) (.vpfR a fa)
    | 0x05 => only (d == 0 && b == 0 && !fb && !xm) (.vpfS a fa)
    | 0x06 => only (d == 0 && !xm) (.vpfRX32 a b fa fb)
    | 0x07 => only (d == 0 && !xm) (.vpfRX a b fa fb)
    | _ => none

/-- Major 0x34: the rows of its FN table; every other FN value is unassigned (R193). -/
def decMajor34 (d a b : BitVec 5) (fa fb xm : Bool) (fn : BitVec 7) : Option Instr :=
  match fn.toNat with
  | 0x00 => only (true) (.vadd d a b fa fb xm)
  | 0x40 => only (true) (.vaddVs d a b fa fb xm)
  | 0x01 => only (true) (.vsub d a b fa fb xm)
  | 0x41 => only (true) (.vsubVs d a b fa fb xm)
  | 0x02 => only (true) (.vrsub d a b fa fb xm)
  | 0x42 => only (true) (.vrsubVs d a b fa fb xm)
  | 0x03 => only (true) (.vmul d a b fa fb xm)
  | 0x43 => only (true) (.vmulVs d a b fa fb xm)
  | 0x04 => only (!xm) (.vmulh d a b fa fb)
  | 0x44 => only (!xm) (.vmulhVs d a b fa fb)
  | 0x05 => only (!xm) (.vdiv d a b fa fb)
  | 0x45 => only (!xm) (.vdivVs d a b fa fb)
  | 0x06 => only (!xm) (.vrem d a b fa fb)
  | 0x46 => only (!xm) (.vremVs d a b fa fb)
  | 0x07 => only (!xm) (.vmin d a b fa fb)
  | 0x47 => only (!xm) (.vminVs d a b fa fb)
  | 0x08 => only (!xm) (.vmax d a b fa fb)
  | 0x48 => only (!xm) (.vmaxVs d a b fa fb)
  | 0x09 => only (!xm) (.vand d a b fa fb)
  | 0x49 => only (!xm) (.vandVs d a b fa fb)
  | 0x0a => only (!xm) (.vor d a b fa fb)
  | 0x4a => only (!xm) (.vorVs d a b fa fb)
  | 0x0b => only (!xm) (.vxor d a b fa fb)
  | 0x4b => only (!xm) (.vxorVs d a b fa fb)
  | 0x0c => only (true) (.vsll d a b fa fb xm)
  | 0x4c => only (true) (.vsllVs d a b fa fb xm)
  | 0x0d => only (!xm) (.vsrl d a b fa fb)
  | 0x4d => only (!xm) (.vsrlVs d a b fa fb)
  | 0x0e => only (!xm) (.vsra d a b fa fb)
  | 0x4e => only (!xm) (.vsraVs d a b fa fb)
  | 0x10 => only (!xm) (.vmseq d a b fa fb)
  | 0x50 => only (!xm) (.vmseqVs d a b fa fb)
  | 0x11 => only (!xm) (.vmsne d a b fa fb)
  | 0x51 => only (!xm) (.vmsneVs d a b fa fb)
  | 0x12 => only (!xm) (.vmslt d a b fa fb)
  | 0x52 => only (!xm) (.vmsltVs d a b fa fb)
  | 0x13 => only (!xm) (.vmsle d a b fa fb)
  | 0x53 => only (!xm) (.vmsleVs d a b fa fb)
  | 0x14 => only (!xm) (.vmsgt d a b fa fb)
  | 0x54 => only (!xm) (.vmsgtVs d a b fa fb)
  | 0x18 => only (true) (.vmacc d a b fa fb xm)
  | 0x58 => only (true) (.vmaccVs d a b fa fb xm)
  | _ => none

/-- Major 0x35: the rows of its FN table; every other FN value is unassigned (R193). -/
def decMajor35 (d a b : BitVec 5) (fa fb xm : Bool) (fn : BitVec 7) : Option Instr :=
  match fn.toNat with
  | 0x00 => only (!xm) (.vwadd d a b fa fb)
  | 0x40 => only (!xm) (.vwaddVs d a b fa fb)
  | 0x01 => only (!xm) (.vwsub d a b fa fb)
  | 0x41 => only (!xm) (.vwsubVs d a b fa fb)
  | 0x02 => only (!xm) (.vwmul d a b fa fb)
  | 0x42 => only (!xm) (.vwmulVs d a b fa fb)
  | 0x03 => only (true) (.vwmacc d a b fa fb xm)
  | 0x43 => only (true) (.vwmaccVs d a b fa fb xm)
  | 0x08 => only (true) (.vnsrl d a b fa fb xm)
  | 0x48 => only (true) (.vnsrlVs d a b fa fb xm)
  | 0x09 => only (true) (.vnsra d a b fa fb xm)
  | 0x49 => only (true) (.vnsraVs d a b fa fb xm)
  | 0x10 => only (true) (.vsadd d a b fa fb xm)
  | 0x50 => only (true) (.vsaddVs d a b fa fb xm)
  | 0x11 => only (true) (.vssub d a b fa fb xm)
  | 0x51 => only (true) (.vssubVs d a b fa fb xm)
  | 0x12 => only (!xm) (.vaadd d a b fa fb)
  | 0x52 => only (!xm) (.vaaddVs d a b fa fb)
  | 0x13 => only (!xm) (.vasub d a b fa fb)
  | 0x53 => only (!xm) (.vasubVs d a b fa fb)
  | 0x14 => only (true) (.vsmul d a b fa fb xm)
  | 0x54 => only (true) (.vsmulVs d a b fa fb xm)
  | 0x15 => only (!xm) (.vssrl d a b fa fb)
  | 0x55 => only (!xm) (.vssrlVs d a b fa fb)
  | 0x16 => only (!xm) (.vssra d a b fa fb)
  | 0x56 => only (!xm) (.vssraVs d a b fa fb)
  | _ => none

/-- Major 0x36: the rows of its FN table; every other FN value is unassigned (R193). -/
def decMajor36 (d a b : BitVec 5) (fa fb xm : Bool) (fn : BitVec 7) : Option Instr :=
  match fn.toNat with
  | 0x00 => only (true) (.vfadd d a b fa fb xm)
  | 0x40 => only (true) (.vfaddVs d a b fa fb xm)
  | 0x01 => only (true) (.vfsub d a b fa fb xm)
  | 0x41 => only (true) (.vfsubVs d a b fa fb xm)
  | 0x02 => only (true) (.vfmul d a b fa fb xm)
  | 0x42 => only (true) (.vfmulVs d a b fa fb xm)
  | 0x03 => only (true) (.vfdiv d a b fa fb xm)
  | 0x43 => only (true) (.vfdivVs d a b fa fb xm)
  | 0x04 => only (b == 0 && !fb) (.vfsqrt d a fa xm)
  | 0x05 => only (true) (.vfmac d a b fa fb xm)
  | 0x45 => only (true) (.vfmacVs d a b fa fb xm)
  | 0x06 => only (true) (.vfnmac d a b fa fb xm)
  | 0x46 => only (true) (.vfnmacVs d a b fa fb xm)
  | 0x07 => only (true) (.vfmin d a b fa fb xm)
  | 0x47 => only (true) (.vfminVs d a b fa fb xm)
  | 0x08 => only (true) (.vfmax d a b fa fb xm)
  | 0x48 => only (true) (.vfmaxVs d a b fa fb xm)
  | 0x09 => only (b == 0 && !fb) (.vfneg d a fa xm)
  | 0x0a => only (b == 0 && !fb) (.vfabs d a fa xm)
  | 0x0b => only (b == 0 && !fb) (.vfclass d a fa xm)
  | 0x10 => only (true) (.vmfeq d a b fa fb xm)
  | 0x50 => only (true) (.vmfeqVs d a b fa fb xm)
  | 0x11 => only (true) (.vmflt d a b fa fb xm)
  | 0x51 => only (true) (.vmfltVs d a b fa fb xm)
  | 0x12 => only (true) (.vmfle d a b fa fb xm)
  | 0x52 => only (true) (.vmfleVs d a b fa fb xm)
  | _ => none

/-- Major 0x37: the rows of its FN table; every other FN value is unassigned (R193). -/
def decMajor37 (d a b : BitVec 5) (fa fb xm : Bool) (fn : BitVec 7) : Option Instr :=
  match (fn.extractLsb' 4 3).toNat with
  | 1 => only (b == 0 && !fb) (.vcvt d a fa xm (fn.extractLsb' 0 4))
  | 3 => only (!fn.getLsbD 3 && b == 0 && !fb) (.vbq d a fa xm (fn.extractLsb' 1 2) (fn.getLsbD 0))
  | _ =>
    match fn.toNat with
    | 0x00 => only (b == 0 && !fb) (.vfrec d a fa xm)
    | 0x01 => only (b == 0 && !fb) (.vfrsq d a fa xm)
    | 0x20 => only (true) (.vfdot d a b fa fb xm)
    | 0x21 => only (true) (.vdot d a b fa fb xm)
    | 0x7e => only (b == 0 && !fb) (.vfreca d a fa xm)
    | 0x7f => only (b == 0 && !fb) (.vfrsqa d a fa xm)
    | _ => none

/-- Major 0x38: the rows of its FN table; every other FN value is unassigned (R193). -/
def decMajor38 (d a b : BitVec 5) (fa fb xm : Bool) (fn : BitVec 7) : Option Instr :=
  match fn.toNat with
  | 0x00 => only (b == 0 && !fb && !xm) (.vmv d a fa)
  | 0x01 => only (!xm) (.vmerge d a b fa fb)
  | 0x02 => only (b == 0 && !fb && !xm) (.vbcast d a fa)
  | 0x03 => only (!xm) (.vext d a b fa fb)
  | 0x04 => only (!xm) (.vins d a b fa fb)
  | 0x08 => only (!xm) (.vslideup d a b fa fb)
  | 0x09 => only (!xm) (.vslidedn d a b fa fb)
  | 0x0a => only (!xm) (.vperm d a b fa fb)
  | 0x0c => only (b == 0 && !fb && !xm) (.vcpvl d a fa)
  | 0x10 => only (b == 0 && !fb && !xm) (.vxrd d a fa)
  | 0x11 => only (d == 0 && !xm) (.vxwr a b fa fb)
  | _ => none

/-- Major 0x39: the rows of its FN table; every other FN value is unassigned (R193). -/
def decMajor39 (d a b : BitVec 5) (fa fb xm : Bool) (fn : BitVec 7) : Option Instr :=
  match fn.toNat with
  | 0x00 => only (!xm) (.vredsum d a b fa fb)
  | 0x01 => only (!xm) (.vredmin d a b fa fb)
  | 0x02 => only (!xm) (.vredmax d a b fa fb)
  | 0x03 => only (!xm) (.vredand d a b fa fb)
  | 0x04 => only (!xm) (.vredor d a b fa fb)
  | 0x05 => only (!xm) (.vredxor d a b fa fb)
  | 0x08 => only (!xm) (.vfredsum d a b fa fb)
  | 0x09 => only (!xm) (.vfredo d a b fa fb)
  | 0x0a => only (!xm) (.vfredmin d a b fa fb)
  | 0x0b => only (!xm) (.vfredmax d a b fa fb)
  | _ => none

/-- Major 0x3a: the rows of its FN table; every other FN value is unassigned (R193). -/
def decMajor3A (d a b : BitVec 5) (fa fb xm : Bool) (fn : BitVec 7) : Option Instr :=
  match fn.toNat with
  | 0x00 => only (!fa && !fb && !xm) (.kand d a b)
  | 0x01 => only (!fa && !fb && !xm) (.kor d a b)
  | 0x02 => only (!fa && !fb && !xm) (.kxor d a b)
  | 0x03 => only (!fa && !fb && !xm) (.kandn d a b)
  | 0x04 => only (b == 0 && !fa && !fb && !xm) (.knot d a)
  | 0x05 => only (b == 0 && !fa && !fb && !xm) (.kmov d a)
  | 0x06 => only (a == 0 && b == 0 && !fa && !fb && !xm) (.kset d)
  | 0x07 => only (a == 0 && b == 0 && !fa && !fb && !xm) (.kclr d)
  | 0x10 => only (b == 0 && !fa && !fb && !xm) (.kpop d a)
  | 0x11 => only (b == 0 && !fa && !fb && !xm) (.kfirst d a)
  | 0x12 => only (b == 0 && !fa && !fb && !xm) (.kiota d a)
  | 0x13 => only (b == 0 && !fb && !xm) (.kfromv d a fa)
  | 0x14 => only (b == 0 && !fa && !fb && !xm) (.ktov d a)
  | _ => none

/-- Major 0x3b: the rows of its FN table; every other FN value is unassigned (R193). -/
def decMajor3B (d a b : BitVec 5) (fa fb xm : Bool) (fn : BitVec 7) : Option Instr :=
  match fn.toNat with
  | 0x00 => only (b == 0 && !fa && !fb && !xm) (.vsplit d a)
  | 0x01 => only (d == 0 && a == 0 && b == 0 && !fa && !fb && !xm) (.vjoin)
  | 0x08 => only (!xm) (.xsend d a b fa fb)
  | 0x09 => only (a == 0 && b == 0 && !fa && !fb && !xm) (.xrecv d)
  | 0x10 => only (!xm) (.vcapp d a b fa fb)
  | _ => none

/-- Major 0x3c: the rows of its FN table; every other FN value is unassigned (R193). -/
def decMajor3C (d a b : BitVec 5) (fa fb xm : Bool) (fn : BitVec 7) : Option Instr :=
  match fn.toNat with
  | 0x00 => only (!xm) (.sadd d a b fa fb)
  | 0x01 => only (!xm) (.smul d a b fa fb)
  | 0x02 => only (!xm) (.sdot d a b fa fb)
  | 0x03 => only (!xm) (.sld d a b fa fb)
  | 0x04 => only (b == 0 && !fb && !xm) (.sst d a fa)
  | 0x05 => only (!xm) (.sexp d a b fa fb)
  | 0x06 => only (!xm) (.scmp d a b fa fb)
  | _ => none

/-- Major 0x3d: the rows of its FN table; every other FN value is unassigned (R193). -/
def decMajor3D (d a b : BitVec 5) (fa fb xm : Bool) (fn : BitVec 7) : Option Instr :=
  match fn.toNat with
  | 0x00 => only (!xm) (.vfmacv d a b fa fb)
  | 0x01 => only (!xm) (.vbound d a b fa fb)
  | 0x02 => only (d.extractLsb' 2 3 == 0 && b == 0 && !fb && !xm) (.vtraise (d.extractLsb' 0 2) a fa)
  | 0x03 => only (b == 0 && !fb && !xm) (.vfabr d a fa)
  | _ => none

/-- Major 0x40: the rows of its FN table; every other FN value is unassigned (R193). -/
def decMajor40 (d a b : BitVec 5) (fa fb xm : Bool) (fn : BitVec 7) : Option Instr :=
  match fn.toNat with
  | 0x00 => only (d == 0 && b == 0 && !fb && !xm) (.zon a fa)
  | 0x01 => only (d == 0 && a == 0 && b == 0 && !fa && !fb && !xm) (.zoff)
  | 0x02 => only (a == 0 && b == 0 && !fa && !fb && !xm) (.zzero d)
  | 0x08 => only (!xm) (.zmop d a b fa fb)
  | 0x09 => only (!xm) (.zmopb d a b fa fb)
  | 0x0a => only (!xm) (.zmopv d a b fa fb)
  | 0x0b => only (b == 0 && !fb && !xm) (.zbnd d a fa)
  | 0x0c => only (b == 0 && !fa && !fb && !xm) (.zabn d a)
  | 0x10 => only (!fa && !xm) (.zrd d a b fb)
  | 0x11 => only (!fa && !xm) (.zcd d a b fb)
  | 0x12 => only (!xm) (.zwr d a b fa fb)
  | 0x14 => only (b == 0 && !fa && !fb && !xm) (.zswap d a)
  | _ => none

/-- Major 0x41: the rows of its FN table; every other FN value is unassigned (R193). -/
def decMajor41 (d a b : BitVec 5) (fa fb xm : Bool) (fn : BitVec 7) : Option Instr :=
  match fn.toNat with
  | 0x00 => only (b == 0 && !fb && !xm) (.zldS d a fa)
  | 0x01 => only (b == 0 && !fb && !xm) (.zstS d a fa)
  | 0x02 => only (!xm) (.zldX32 d a b fa fb)
  | 0x03 => only (!xm) (.zldX d a b fa fb)
  | 0x04 => only (!xm) (.zstX32 d a b fa fb)
  | 0x05 => only (!xm) (.zstX d a b fa fb)
  | 0x08 => only (b == 0 && !fb && !xm) (.zldSShadow d a fa)
  | 0x09 => only (b == 0 && !fb && !xm) (.zstSShadow d a fa)
  | 0x0a => only (!xm) (.zldX32Shadow d a b fa fb)
  | 0x0b => only (!xm) (.zldXShadow d a b fa fb)
  | 0x0c => only (!xm) (.zstX32Shadow d a b fa fb)
  | 0x0d => only (!xm) (.zstXShadow d a b fa fb)
  | _ => none

/-- Major 0x42: the rows of its FN table; every other FN value is unassigned (R193). -/
def decMajor42 (d a b : BitVec 5) (fa fb xm : Bool) (fn : BitVec 7) : Option Instr :=
  match fn.toNat with
  | 0x00 => only (b == 0 && !fb && !xm) (.cpy d a fa)
  | 0x01 => only (!xm) (.cpym d a b fa fb)
  | 0x08 => only (b == 0 && !fb && !xm) (.gsub d a fa)
  | 0x09 => only (b == 0 && !fb && !xm) (.dlaunch d a fa)
  | 0x10 => only (b == 0 && !fb && !xm) (.frmDec d a fa)
  | 0x11 => only (b == 0 && !fb && !xm) (.frmRsz d a fa)
  | 0x18 => only (b == 0 && !fb && !xm) (.fcv d a fa)
  | _ => none

/-- Major 0x43: the rows of its FN table; every other FN value is unassigned (R193). -/
def decMajor43 (d a b : BitVec 5) (fa fb xm : Bool) (fn : BitVec 7) : Option Instr :=
  match fn.toNat with
  | 0x01 => only (d == 0 && a == 0 && b == 0 && !fa && !fb && !xm) (.barCr)
  | 0x02 => only (d == 0 && a == 0 && b == 0 && !fa && !fb && !xm) (.barQd)
  | 0x03 => only (d == 0 && a == 0 && b == 0 && !fa && !fb && !xm) (.barDi)
  | 0x04 => only (d == 0 && a == 0 && b == 0 && !fa && !fb && !xm) (.barPk)
  | 0x05 => only (d == 0 && a == 0 && b == 0 && !fa && !fb && !xm) (.barPd)
  | _ => none

/-- Major 0x44: the rows of its FN table; every other FN value is unassigned (R193). -/
def decMajor44 (d a b : BitVec 5) (fa fb xm : Bool) (fn : BitVec 7) : Option Instr :=
  match fn.toNat with
  | 0x00 => only (!xm) (.shist d a b fa fb)
  | 0x01 => only (a == 0 && b == 0 && !fa && !fb && !xm) (.shcnt d)
  | 0x02 => only (!xm) (.trrd d a b fa fb)
  | 0x04 => only (a == 0 && b == 0 && !fa && !fb && !xm) (.vtrim d)
  | _ => none

/-- Major 0x02 (F-I or F-M). -/
def decMajor02 (d a : BitVec 5) (fa : Bool) (imm : BitVec 14) : Option Instr :=
  match (imm.extractLsb' 12 2).toNat with
    | 0 => some (.csrrw d a fa (imm.extractLsb' 0 12))
    | 1 => some (.csrrs d a fa (imm.extractLsb' 0 12))
    | 2 => some (.csrrc d a fa (imm.extractLsb' 0 12))
    | _ => none

/-- Major 0x08 (F-I or F-M). -/
def decMajor08 (d a : BitVec 5) (fa : Bool) (imm : BitVec 14) : Option Instr :=
  some (.addi d a fa imm)

/-- Major 0x09 (F-I or F-M). -/
def decMajor09 (d a : BitVec 5) (fa : Bool) (imm : BitVec 14) : Option Instr :=
  some (.andi d a fa imm)

/-- Major 0x0a (F-I or F-M). -/
def decMajor0A (d a : BitVec 5) (fa : Bool) (imm : BitVec 14) : Option Instr :=
  some (.ori d a fa imm)

/-- Major 0x0b (F-I or F-M). -/
def decMajor0B (d a : BitVec 5) (fa : Bool) (imm : BitVec 14) : Option Instr :=
  some (.xori d a fa imm)

/-- Major 0x0c (F-I or F-M). -/
def decMajor0C (d a : BitVec 5) (fa : Bool) (imm : BitVec 14) : Option Instr :=
  only (imm.extractLsb' 6 8 == 0) (.slli d a fa (imm.extractLsb' 0 6))

/-- Major 0x0d (F-I or F-M). -/
def decMajor0D (d a : BitVec 5) (fa : Bool) (imm : BitVec 14) : Option Instr :=
  only (imm.extractLsb' 6 8 == 0) (.srli d a fa (imm.extractLsb' 0 6))

/-- Major 0x0e (F-I or F-M). -/
def decMajor0E (d a : BitVec 5) (fa : Bool) (imm : BitVec 14) : Option Instr :=
  only (imm.extractLsb' 6 8 == 0) (.srai d a fa (imm.extractLsb' 0 6))

/-- Major 0x0f (F-I or F-M). -/
def decMajor0F (d a : BitVec 5) (fa : Bool) (imm : BitVec 14) : Option Instr :=
  some (.slti d a fa imm)

/-- Major 0x13 (F-I or F-M). -/
def decMajor13 (d a : BitVec 5) (fa : Bool) (imm : BitVec 14) : Option Instr :=
  some (.jalr d a fa imm)

/-- Major 0x1a (F-I or F-M). -/
def decMajor1A (d a : BitVec 5) (fa : Bool) (imm : BitVec 14) : Option Instr :=
  only (d == 0) (.loop a fa imm)

/-- Major 0x20 (F-I or F-M). -/
def decMajor20 (d a : BitVec 5) (fa : Bool) (imm : BitVec 14) : Option Instr :=
  some (.ldb d a fa imm)

/-- Major 0x21 (F-I or F-M). -/
def decMajor21 (d a : BitVec 5) (fa : Bool) (imm : BitVec 14) : Option Instr :=
  some (.ldbn d a fa imm)

/-- Major 0x22 (F-I or F-M). -/
def decMajor22 (d a : BitVec 5) (fa : Bool) (imm : BitVec 14) : Option Instr :=
  some (.ldh d a fa imm)

/-- Major 0x23 (F-I or F-M). -/
def decMajor23 (d a : BitVec 5) (fa : Bool) (imm : BitVec 14) : Option Instr :=
  some (.ldhn d a fa imm)

/-- Major 0x24 (F-I or F-M). -/
def decMajor24 (d a : BitVec 5) (fa : Bool) (imm : BitVec 14) : Option Instr :=
  some (.ldw d a fa imm)

/-- Major 0x25 (F-I or F-M). -/
def decMajor25 (d a : BitVec 5) (fa : Bool) (imm : BitVec 14) : Option Instr :=
  some (.ldwn d a fa imm)

/-- Major 0x26 (F-I or F-M). -/
def decMajor26 (d a : BitVec 5) (fa : Bool) (imm : BitVec 14) : Option Instr :=
  some (.ldd d a fa imm)

/-- Major 0x27 (F-I or F-M). -/
def decMajor27 (d a : BitVec 5) (fa : Bool) (imm : BitVec 14) : Option Instr :=
  some (.stb d a fa imm)

/-- Major 0x28 (F-I or F-M). -/
def decMajor28 (d a : BitVec 5) (fa : Bool) (imm : BitVec 14) : Option Instr :=
  some (.sth d a fa imm)

/-- Major 0x29 (F-I or F-M). -/
def decMajor29 (d a : BitVec 5) (fa : Bool) (imm : BitVec 14) : Option Instr :=
  some (.stw d a fa imm)

/-- Major 0x2a (F-I or F-M). -/
def decMajor2A (d a : BitVec 5) (fa : Bool) (imm : BitVec 14) : Option Instr :=
  some (.std d a fa imm)

/-- Major 0x2b (F-I or F-M). -/
def decMajor2B (d a : BitVec 5) (fa : Bool) (imm : BitVec 14) : Option Instr :=
  match (imm.extractLsb' 3 11).toNat with
    | 0 => some (.ldbAcq d a fa (imm.extractLsb' 0 3))
    | 4 => some (.ldbnAcq d a fa (imm.extractLsb' 0 3))
    | 1 => some (.ldhAcq d a fa (imm.extractLsb' 0 3))
    | 5 => some (.ldhnAcq d a fa (imm.extractLsb' 0 3))
    | 2 => some (.ldwAcq d a fa (imm.extractLsb' 0 3))
    | 6 => some (.ldwnAcq d a fa (imm.extractLsb' 0 3))
    | 3 => some (.lddAcq d a fa (imm.extractLsb' 0 3))
    | 8 => some (.stbRel d a fa (imm.extractLsb' 0 3))
    | 9 => some (.sthRel d a fa (imm.extractLsb' 0 3))
    | 10 => some (.stwRel d a fa (imm.extractLsb' 0 3))
    | 11 => some (.stdRel d a fa (imm.extractLsb' 0 3))
    | _ => none

/-- Major 0x2f (F-I or F-M). -/
def decMajor2F (d a : BitVec 5) (fa : Bool) (imm : BitVec 14) : Option Instr :=
  match d.toNat with
    | 0 => some (.pfR a fa imm)
    | 1 => some (.pfS a fa imm)
    | 2 => some (.pfW a fa imm)
    | 3 => some (.pfDrop a fa imm)
    | _ => none

/-- A row's answer, or the name of the rejection. -/
def orReject : Option Instr → Except Reject Instr
  | some i => .ok i
  | none => .error .unassigned

/-- Table 8.7: the major opcode selects the format and the rows. -/
def decodeRow (w : IWord) : Except Reject Instr :=
  match (fieldOP w).toNat with
  | 0x01 => orReject (decMajor01 (fieldD w) (fieldA w) (fieldB w) (fieldFA w) (fieldFB w) (fieldXM w) (fieldFN w))
  | 0x02 => orReject (decMajor02 (fieldD w) (fieldA w) (fieldFA14 w) (fieldImm w))
  | 0x03 => orReject (decMajor03 (fieldD w) (fieldA w) (fieldB w) (fieldFA w) (fieldFB w) (fieldXM w) (fieldFN w))
  | 0x04 => orReject (decMajor04 (fieldD w) (fieldA w) (fieldB w) (fieldFA w) (fieldFB w) (fieldXM w) (fieldFN w))
  | 0x05 => orReject (decMajor05 (fieldD w) (fieldA w) (fieldB w) (fieldFA w) (fieldFB w) (fieldXM w) (fieldFN w))
  | 0x06 => orReject (decMajor06 (fieldD w) (fieldA w) (fieldB w) (fieldFA w) (fieldFB w) (fieldXM w) (fieldFN w))
  | 0x08 => orReject (decMajor08 (fieldD w) (fieldA w) (fieldFA14 w) (fieldImm w))
  | 0x09 => orReject (decMajor09 (fieldD w) (fieldA w) (fieldFA14 w) (fieldImm w))
  | 0x0a => orReject (decMajor0A (fieldD w) (fieldA w) (fieldFA14 w) (fieldImm w))
  | 0x0b => orReject (decMajor0B (fieldD w) (fieldA w) (fieldFA14 w) (fieldImm w))
  | 0x0c => orReject (decMajor0C (fieldD w) (fieldA w) (fieldFA14 w) (fieldImm w))
  | 0x0d => orReject (decMajor0D (fieldD w) (fieldA w) (fieldFA14 w) (fieldImm w))
  | 0x0e => orReject (decMajor0E (fieldD w) (fieldA w) (fieldFA14 w) (fieldImm w))
  | 0x0f => orReject (decMajor0F (fieldD w) (fieldA w) (fieldFA14 w) (fieldImm w))
  | 0x10 => .ok (.ldhi (fieldD w) (fieldImm20 w))
  | 0x11 => .ok (.pcadd (fieldD w) (fieldImm20 w))
  | 0x12 => .ok (.jal (fieldOff25 w))
  | 0x13 => orReject (decMajor13 (fieldD w) (fieldA w) (fieldFA14 w) (fieldImm w))
  | 0x14 => .ok (.beq (fieldD w) (fieldA w) (fieldFA14 w) (fieldImm w))
  | 0x15 => .ok (.bne (fieldD w) (fieldA w) (fieldFA14 w) (fieldImm w))
  | 0x16 => .ok (.blt (fieldD w) (fieldA w) (fieldFA14 w) (fieldImm w))
  | 0x17 => .ok (.bge (fieldD w) (fieldA w) (fieldFA14 w) (fieldImm w))
  | 0x18 => .ok (.bltn (fieldD w) (fieldA w) (fieldFA14 w) (fieldImm w))
  | 0x19 => .ok (.bgen (fieldD w) (fieldA w) (fieldFA14 w) (fieldImm w))
  | 0x1a => orReject (decMajor1A (fieldD w) (fieldA w) (fieldFA14 w) (fieldImm w))
  | 0x1b => orReject (decMajor1B (fieldD w) (fieldA w) (fieldB w) (fieldFA w) (fieldFB w) (fieldXM w) (fieldFN w))
  | 0x20 => orReject (decMajor20 (fieldD w) (fieldA w) (fieldFA14 w) (fieldImm w))
  | 0x21 => orReject (decMajor21 (fieldD w) (fieldA w) (fieldFA14 w) (fieldImm w))
  | 0x22 => orReject (decMajor22 (fieldD w) (fieldA w) (fieldFA14 w) (fieldImm w))
  | 0x23 => orReject (decMajor23 (fieldD w) (fieldA w) (fieldFA14 w) (fieldImm w))
  | 0x24 => orReject (decMajor24 (fieldD w) (fieldA w) (fieldFA14 w) (fieldImm w))
  | 0x25 => orReject (decMajor25 (fieldD w) (fieldA w) (fieldFA14 w) (fieldImm w))
  | 0x26 => orReject (decMajor26 (fieldD w) (fieldA w) (fieldFA14 w) (fieldImm w))
  | 0x27 => orReject (decMajor27 (fieldD w) (fieldA w) (fieldFA14 w) (fieldImm w))
  | 0x28 => orReject (decMajor28 (fieldD w) (fieldA w) (fieldFA14 w) (fieldImm w))
  | 0x29 => orReject (decMajor29 (fieldD w) (fieldA w) (fieldFA14 w) (fieldImm w))
  | 0x2a => orReject (decMajor2A (fieldD w) (fieldA w) (fieldFA14 w) (fieldImm w))
  | 0x2b => orReject (decMajor2B (fieldD w) (fieldA w) (fieldFA14 w) (fieldImm w))
  | 0x2c => orReject (decMajor2C (fieldD w) (fieldA w) (fieldB w) (fieldFA w) (fieldFB w) (fieldXM w) (fieldFN w))
  | 0x2d => orReject (decMajor2D (fieldD w) (fieldA w) (fieldB w) (fieldFA w) (fieldFB w) (fieldXM w) (fieldFN w))
  | 0x2e => orReject (decMajor2E (fieldD w) (fieldA w) (fieldB w) (fieldFA w) (fieldFB w) (fieldXM w) (fieldFN w))
  | 0x2f => orReject (decMajor2F (fieldD w) (fieldA w) (fieldFA14 w) (fieldImm w))
  | 0x30 => orReject (decMajor30 (fieldD w) (fieldA w) (fieldB w) (fieldFA w) (fieldFB w) (fieldXM w) (fieldFN w))
  | 0x31 => orReject (decMajor31 (fieldD w) (fieldA w) (fieldB w) (fieldFA w) (fieldFB w) (fieldXM w) (fieldFN w))
  | 0x32 => orReject (decMajor32 (fieldD w) (fieldA w) (fieldB w) (fieldFA w) (fieldFB w) (fieldXM w) (fieldFN w))
  | 0x33 => orReject (decMajor33 (fieldD w) (fieldA w) (fieldB w) (fieldFA w) (fieldFB w) (fieldXM w) (fieldFN w))
  | 0x34 => orReject (decMajor34 (fieldD w) (fieldA w) (fieldB w) (fieldFA w) (fieldFB w) (fieldXM w) (fieldFN w))
  | 0x35 => orReject (decMajor35 (fieldD w) (fieldA w) (fieldB w) (fieldFA w) (fieldFB w) (fieldXM w) (fieldFN w))
  | 0x36 => orReject (decMajor36 (fieldD w) (fieldA w) (fieldB w) (fieldFA w) (fieldFB w) (fieldXM w) (fieldFN w))
  | 0x37 => orReject (decMajor37 (fieldD w) (fieldA w) (fieldB w) (fieldFA w) (fieldFB w) (fieldXM w) (fieldFN w))
  | 0x38 => orReject (decMajor38 (fieldD w) (fieldA w) (fieldB w) (fieldFA w) (fieldFB w) (fieldXM w) (fieldFN w))
  | 0x39 => orReject (decMajor39 (fieldD w) (fieldA w) (fieldB w) (fieldFA w) (fieldFB w) (fieldXM w) (fieldFN w))
  | 0x3a => orReject (decMajor3A (fieldD w) (fieldA w) (fieldB w) (fieldFA w) (fieldFB w) (fieldXM w) (fieldFN w))
  | 0x3b => orReject (decMajor3B (fieldD w) (fieldA w) (fieldB w) (fieldFA w) (fieldFB w) (fieldXM w) (fieldFN w))
  | 0x3c => orReject (decMajor3C (fieldD w) (fieldA w) (fieldB w) (fieldFA w) (fieldFB w) (fieldXM w) (fieldFN w))
  | 0x3d => orReject (decMajor3D (fieldD w) (fieldA w) (fieldB w) (fieldFA w) (fieldFB w) (fieldXM w) (fieldFN w))
  | 0x40 => orReject (decMajor40 (fieldD w) (fieldA w) (fieldB w) (fieldFA w) (fieldFB w) (fieldXM w) (fieldFN w))
  | 0x41 => orReject (decMajor41 (fieldD w) (fieldA w) (fieldB w) (fieldFA w) (fieldFB w) (fieldXM w) (fieldFN w))
  | 0x42 => orReject (decMajor42 (fieldD w) (fieldA w) (fieldB w) (fieldFA w) (fieldFB w) (fieldXM w) (fieldFN w))
  | 0x43 => orReject (decMajor43 (fieldD w) (fieldA w) (fieldB w) (fieldFA w) (fieldFB w) (fieldXM w) (fieldFN w))
  | 0x44 => orReject (decMajor44 (fieldD w) (fieldA w) (fieldB w) (fieldFA w) (fieldFB w) (fieldXM w) (fieldFN w))
  | n => if n < 0x70 then .error .reservedMajor else .error .firmwareMajor

/-- The instruction a word holds, or why it holds none (R195, the rows that no machine state decides). -/
def decode (w : IWord) : Except Reject Instr :=
  if w = 0 ∨ w = 0xFFFFFFFF then .error .zeroOrOnes
  else
    match decodeRow w with
    | .ok i => if i.wf then .ok i else .error .operand
    | .error r => .error r

/-- The word at the head of a byte sequence, little-endian (R3), with the bytes after it. -/
def wordOfBytes : List Byte → Option (IWord × List Byte)
  | b0 :: b1 :: b2 :: b3 :: rest => some (b3 ++ b2 ++ b1 ++ b0, rest)
  | _ => none

/-- Decoding of any bytes: the instruction and the bytes after it. -/
def decodeBytes (bs : List Byte) : Except Reject (Instr × List Byte) :=
  match wordOfBytes bs with
  | none => .error .unassigned
  | some (w, rest) =>
    match decode w with
    | .ok i => .ok (i, rest)
    | .error r => .error r

/-! ## The encoder -/

/-- A word of format F-R. -/
def packFR (op : BitVec 7) (d a b : BitVec 5) (fa fb xm : Bool) (fn : BitVec 7) : IWord :=
  op ++ (d ++ (a ++ (b ++ (BitVec.ofBool fa ++ (BitVec.ofBool fb ++ (BitVec.ofBool xm ++ fn))))))

/-- A word of format F-I, F-M or F-B. -/
def packFI (op : BitVec 7) (d a : BitVec 5) (fa : Bool) (imm : BitVec 14) : IWord :=
  op ++ (d ++ (a ++ (BitVec.ofBool fa ++ imm)))

/-- A word of format F-U. -/
def packFU (op : BitVec 7) (d : BitVec 5) (imm : BitVec 20) : IWord := op ++ (d ++ imm)

/-- A word of format F-J. -/
def packFJ (op : BitVec 7) (off : BitVec 25) : IWord := op ++ off

/-- The word of an instruction; the steps of the other agents have none and give the word 0, which is no
instruction (R185). -/
def encode : Instr → IWord
  | .nop => packFR 0x01 0 0 0 false false false 0x00
  | .trap a fa => packFR 0x01 0 a 0 fa false false 0x01
  | .brk => packFR 0x01 0 0 0 false false false 0x02
  | .eret => packFR 0x01 0 0 0 false false false 0x03
  | .wfe d a fa => packFR 0x01 d a 0 fa false false 0x04
  | .yield => packFR 0x01 0 0 0 false false false 0x05
  | .pollp d => packFR 0x01 d 0 0 false false false 0x06
  | .halt => packFR 0x01 0 0 0 false false false 0x07
  | .cinval scope a b fa fb => packFR 0x01 scope a b fa fb false 0x08
  | .tlbsync scope a b fa fb => packFR 0x01 scope a b fa fb false 0x09
  | .qnext d a b fa fb => packFR 0x01 d a b fa fb false 0x0a
  | .exit => packFR 0x01 0 0 0 false false false 0x0b
  | .csrrw d a fa csr => packFI 0x02 d a fa (0#2 ++ csr)
  | .csrrs d a fa csr => packFI 0x02 d a fa (1#2 ++ csr)
  | .csrrc d a fa csr => packFI 0x02 d a fa (2#2 ++ csr)
  | .fwait a fa => packFR 0x03 0 a 0 fa false false 0x00
  | .fwaitv a fa => packFR 0x03 0 a 0 fa false false 0x01
  | .fsts d a => packFR 0x03 d a 0 false false false 0x02
  | .fstv d a => packFR 0x03 d a 0 false false false 0x03
  | .fwall => packFR 0x03 0 0 0 false false false 0x04
  | .add d a b fa fb => packFR 0x04 d a b fa fb false 0x00
  | .sub d a b fa fb => packFR 0x04 d a b fa fb false 0x01
  | .and d a b fa fb => packFR 0x04 d a b fa fb false 0x02
  | .or d a b fa fb => packFR 0x04 d a b fa fb false 0x03
  | .xor d a b fa fb => packFR 0x04 d a b fa fb false 0x04
  | .andn d a b fa fb => packFR 0x04 d a b fa fb false 0x05
  | .sll d a b fa fb => packFR 0x04 d a b fa fb false 0x06
  | .srl d a b fa fb => packFR 0x04 d a b fa fb false 0x07
  | .sra d a b fa fb => packFR 0x04 d a b fa fb false 0x08
  | .rol d a b fa fb => packFR 0x04 d a b fa fb false 0x09
  | .ror d a b fa fb => packFR 0x04 d a b fa fb false 0x0a
  | .slt d a b fa fb => packFR 0x04 d a b fa fb false 0x0b
  | .sltn d a b fa fb => packFR 0x04 d a b fa fb false 0x0c
  | .seq d a b fa fb => packFR 0x04 d a b fa fb false 0x0d
  | .min d a b fa fb => packFR 0x04 d a b fa fb false 0x0e
  | .max d a b fa fb => packFR 0x04 d a b fa fb false 0x0f
  | .minn d a b fa fb => packFR 0x04 d a b fa fb false 0x10
  | .maxn d a b fa fb => packFR 0x04 d a b fa fb false 0x11
  | .clz d a fa => packFR 0x04 d a 0 fa false false 0x12
  | .ctz d a fa => packFR 0x04 d a 0 fa false false 0x13
  | .cpop d a fa => packFR 0x04 d a 0 fa false false 0x14
  | .sextB d a fa => packFR 0x04 d a 0 fa false false 0x15
  | .sextH d a fa => packFR 0x04 d a 0 fa false false 0x16
  | .sextW d a fa => packFR 0x04 d a 0 fa false false 0x17
  | .zextH d a fa => packFR 0x04 d a 0 fa false false 0x18
  | .zextW d a fa => packFR 0x04 d a 0 fa false false 0x19
  | .mul d a b fa fb => packFR 0x05 d a b fa fb false 0x00
  | .mulh d a b fa fb => packFR 0x05 d a b fa fb false 0x01
  | .mulhn d a b fa fb => packFR 0x05 d a b fa fb false 0x02
  | .mulhsn d a b fa fb => packFR 0x05 d a b fa fb false 0x03
  | .div d a b fa fb => packFR 0x05 d a b fa fb false 0x04
  | .divn d a b fa fb => packFR 0x05 d a b fa fb false 0x05
  | .rem d a b fa fb => packFR 0x05 d a b fa fb false 0x06
  | .remn d a b fa fb => packFR 0x05 d a b fa fb false 0x07
  | .faddD d a b fa fb => packFR 0x06 d a b fa fb false 0x00
  | .fsubD d a b fa fb => packFR 0x06 d a b fa fb false 0x01
  | .fmulD d a b fa fb => packFR 0x06 d a b fa fb false 0x02
  | .fdivD d a b fa fb => packFR 0x06 d a b fa fb false 0x03
  | .fsqrtD d a fa => packFR 0x06 d a 0 fa false false 0x04
  | .fmacD d a b fa fb => packFR 0x06 d a b fa fb false 0x05
  | .fminD d a b fa fb => packFR 0x06 d a b fa fb false 0x06
  | .fmaxD d a b fa fb => packFR 0x06 d a b fa fb false 0x07
  | .fnegD d a fa => packFR 0x06 d a 0 fa false false 0x08
  | .fabsD d a fa => packFR 0x06 d a 0 fa false false 0x09
  | .feqD d a b fa fb => packFR 0x06 d a b fa fb false 0x0a
  | .fltD d a b fa fb => packFR 0x06 d a b fa fb false 0x0b
  | .fleD d a b fa fb => packFR 0x06 d a b fa fb false 0x0c
  | .fclassD d a fa => packFR 0x06 d a 0 fa false false 0x0d
  | .ftoiD d a fa => packFR 0x06 d a 0 fa false false 0x0e
  | .ftonD d a fa => packFR 0x06 d a 0 fa false false 0x0f
  | .itofD d a fa => packFR 0x06 d a 0 fa false false 0x10
  | .ntofD d a fa => packFR 0x06 d a 0 fa false false 0x11
  | .fcvtDS d a fa => packFR 0x06 d a 0 fa false false 0x12
  | .faddS d a b fa fb => packFR 0x06 d a b fa fb false 0x40
  | .fsubS d a b fa fb => packFR 0x06 d a b fa fb false 0x41
  | .fmulS d a b fa fb => packFR 0x06 d a b fa fb false 0x42
  | .fdivS d a b fa fb => packFR 0x06 d a b fa fb false 0x43
  | .fsqrtS d a fa => packFR 0x06 d a 0 fa false false 0x44
  | .fmacS d a b fa fb => packFR 0x06 d a b fa fb false 0x45
  | .fminS d a b fa fb => packFR 0x06 d a b fa fb false 0x46
  | .fmaxS d a b fa fb => packFR 0x06 d a b fa fb false 0x47
  | .fnegS d a fa => packFR 0x06 d a 0 fa false false 0x48
  | .fabsS d a fa => packFR 0x06 d a 0 fa false false 0x49
  | .feqS d a b fa fb => packFR 0x06 d a b fa fb false 0x4a
  | .fltS d a b fa fb => packFR 0x06 d a b fa fb false 0x4b
  | .fleS d a b fa fb => packFR 0x06 d a b fa fb false 0x4c
  | .fclassS d a fa => packFR 0x06 d a 0 fa false false 0x4d
  | .ftoiS d a fa => packFR 0x06 d a 0 fa false false 0x4e
  | .ftonS d a fa => packFR 0x06 d a 0 fa false false 0x4f
  | .itofS d a fa => packFR 0x06 d a 0 fa false false 0x50
  | .ntofS d a fa => packFR 0x06 d a 0 fa false false 0x51
  | .fcvtSD d a fa => packFR 0x06 d a 0 fa false false 0x52
  | .addi d a fa imm => packFI 0x08 d a fa imm
  | .andi d a fa imm => packFI 0x09 d a fa imm
  | .ori d a fa imm => packFI 0x0a d a fa imm
  | .xori d a fa imm => packFI 0x0b d a fa imm
  | .slli d a fa sh => packFI 0x0c d a fa (0#8 ++ sh)
  | .srli d a fa sh => packFI 0x0d d a fa (0#8 ++ sh)
  | .srai d a fa sh => packFI 0x0e d a fa (0#8 ++ sh)
  | .slti d a fa imm => packFI 0x0f d a fa imm
  | .ldhi d imm => packFU 0x10 d imm
  | .pcadd d imm => packFU 0x11 d imm
  | .jal off => packFJ 0x12 off
  | .jalr d a fa imm => packFI 0x13 d a fa imm
  | .beq a b fa off => packFI 0x14 a b fa off
  | .bne a b fa off => packFI 0x15 a b fa off
  | .blt a b fa off => packFI 0x16 a b fa off
  | .bge a b fa off => packFI 0x17 a b fa off
  | .bltn a b fa off => packFI 0x18 a b fa off
  | .bgen a b fa off => packFI 0x19 a b fa off
  | .loop a fa imm => packFI 0x1a 0 a fa imm
  | .lbrk => packFR 0x1b 0 0 0 false false false 0x00
  | .lidx d n => packFR 0x1b d n 0 false false false 0x01
  | .lrem d n => packFR 0x1b d n 0 false false false 0x02
  | .lclr => packFR 0x1b 0 0 0 false false false 0x03
  | .ldb d a fa imm => packFI 0x20 d a fa imm
  | .ldbn d a fa imm => packFI 0x21 d a fa imm
  | .ldh d a fa imm => packFI 0x22 d a fa imm
  | .ldhn d a fa imm => packFI 0x23 d a fa imm
  | .ldw d a fa imm => packFI 0x24 d a fa imm
  | .ldwn d a fa imm => packFI 0x25 d a fa imm
  | .ldd d a fa imm => packFI 0x26 d a fa imm
  | .stb d a fa imm => packFI 0x27 d a fa imm
  | .sth d a fa imm => packFI 0x28 d a fa imm
  | .stw d a fa imm => packFI 0x29 d a fa imm
  | .std d a fa imm => packFI 0x2a d a fa imm
  | .ldbAcq d a fa scope => packFI 0x2b d a fa (0#11 ++ scope)
  | .ldbnAcq d a fa scope => packFI 0x2b d a fa (4#11 ++ scope)
  | .ldhAcq d a fa scope => packFI 0x2b d a fa (1#11 ++ scope)
  | .ldhnAcq d a fa scope => packFI 0x2b d a fa (5#11 ++ scope)
  | .ldwAcq d a fa scope => packFI 0x2b d a fa (2#11 ++ scope)
  | .ldwnAcq d a fa scope => packFI 0x2b d a fa (6#11 ++ scope)
  | .lddAcq d a fa scope => packFI 0x2b d a fa (3#11 ++ scope)
  | .stbRel d a fa scope => packFI 0x2b d a fa (8#11 ++ scope)
  | .sthRel d a fa scope => packFI 0x2b d a fa (9#11 ++ scope)
  | .stwRel d a fa scope => packFI 0x2b d a fa (10#11 ++ scope)
  | .stdRel d a fa scope => packFI 0x2b d a fa (11#11 ++ scope)
  | .amoSwapW d a ord scope fa => packFR 0x2c d a (ord ++ scope) fa false false 0x00
  | .amoSwapD d a ord scope fa => packFR 0x2c d a (ord ++ scope) fa false false 0x01
  | .amoCasW d a ord scope fa => packFR 0x2c d a (ord ++ scope) fa false false 0x02
  | .amoCasD d a ord scope fa => packFR 0x2c d a (ord ++ scope) fa false false 0x03
  | .amoAddW d a ord scope fa => packFR 0x2c d a (ord ++ scope) fa false false 0x04
  | .amoAddD d a ord scope fa => packFR 0x2c d a (ord ++ scope) fa false false 0x05
  | .amoAndW d a ord scope fa => packFR 0x2c d a (ord ++ scope) fa false false 0x06
  | .amoAndD d a ord scope fa => packFR 0x2c d a (ord ++ scope) fa false false 0x07
  | .amoOrW d a ord scope fa => packFR 0x2c d a (ord ++ scope) fa false false 0x08
  | .amoOrD d a ord scope fa => packFR 0x2c d a (ord ++ scope) fa false false 0x09
  | .amoXorW d a ord scope fa => packFR 0x2c d a (ord ++ scope) fa false false 0x0a
  | .amoXorD d a ord scope fa => packFR 0x2c d a (ord ++ scope) fa false false 0x0b
  | .amoMinW d a ord scope fa => packFR 0x2c d a (ord ++ scope) fa false false 0x0c
  | .amoMinD d a ord scope fa => packFR 0x2c d a (ord ++ scope) fa false false 0x0d
  | .amoMaxW d a ord scope fa => packFR 0x2c d a (ord ++ scope) fa false false 0x0e
  | .amoMaxD d a ord scope fa => packFR 0x2c d a (ord ++ scope) fa false false 0x0f
  | .amoMinnW d a ord scope fa => packFR 0x2c d a (ord ++ scope) fa false false 0x10
  | .amoMinnD d a ord scope fa => packFR 0x2c d a (ord ++ scope) fa false false 0x11
  | .amoMaxnW d a ord scope fa => packFR 0x2c d a (ord ++ scope) fa false false 0x12
  | .amoMaxnD d a ord scope fa => packFR 0x2c d a (ord ++ scope) fa false false 0x13
  | .amoFaddS d a ord scope fa => packFR 0x2c d a (ord ++ scope) fa false false 0x14
  | .amoFmaxS d a ord scope fa => packFR 0x2c d a (ord ++ scope) fa false false 0x15
  | .amoFminS d a ord scope fa => packFR 0x2c d a (ord ++ scope) fa false false 0x16
  | .fenceRel scope => packFR 0x2d scope 0 0 false false false 0x00
  | .fenceAcq scope => packFR 0x2d scope 0 0 false false false 0x01
  | .fenceAr scope => packFR 0x2d scope 0 0 false false false 0x02
  | .fenceSc scope => packFR 0x2d scope 0 0 false false false 0x03
  | .fenceAll => packFR 0x2d 0 0 0 false false false 0x7f
  | .boltArm a b fa fb => packFR 0x2e 0 a b fa fb false 0x00
  | .boltArrive scope a b fa fb => packFR 0x2e scope a b fa fb false 0x01
  | .boltWait d a b fa fb => packFR 0x2e d a b fa fb false 0x02
  | .boltRd d a fa => packFR 0x2e d a 0 fa false false 0x03
  | .pfR a fa imm => packFI 0x2f 0 a fa imm
  | .pfS a fa imm => packFI 0x2f 1 a fa imm
  | .pfW a fa imm => packFI 0x2f 2 a fa imm
  | .pfDrop a fa imm => packFI 0x2f 3 a fa imm
  | .vsetvl d a b fa fb => packFR 0x30 d a b fa fb false 0x00
  | .vsetvlmax d b fb => packFR 0x30 d 0 b false fb false 0x01
  | .vsetvli d a ty fa blen sat => packFR 0x30 d a (0#1 ++ ty) fa false false (1#1 ++ (blen ++ (BitVec.ofBool sat ++ 0#2)))
  | .vld d a fa => packFR 0x31 d a 0 fa false false 0x00
  | .vldX8 d a b fa fb => packFR 0x31 d a b fa fb false 0x10
  | .vldX16 d a b fa fb => packFR 0x31 d a b fa fb false 0x11
  | .vldX32 d a b fa fb => packFR 0x31 d a b fa fb false 0x12
  | .vldX d a b fa fb => packFR 0x31 d a b fa fb false 0x13
  | .vldX8O d a b fa fb => packFR 0x31 d a b fa fb false 0x20
  | .vldX16O d a b fa fb => packFR 0x31 d a b fa fb false 0x21
  | .vldX32O d a b fa fb => packFR 0x31 d a b fa fb false 0x22
  | .vldXO d a b fa fb => packFR 0x31 d a b fa fb false 0x23
  | .vldX32Acq d a b fa fb scope => packFR 0x31 d a b fa fb false (3#3 ++ (scope ++ 0#1))
  | .vldXAcq d a b fa fb scope => packFR 0x31 d a b fa fb false (3#3 ++ (scope ++ 1#1))
  | .vldX32OAcq d a b fa fb scope => packFR 0x31 d a b fa fb false (4#3 ++ (scope ++ 0#1))
  | .vldXOAcq d a b fa fb scope => packFR 0x31 d a b fa fb false (4#3 ++ (scope ++ 1#1))
  | .vldsN2 d a fa => packFR 0x31 d a 0 fa false false 0x51
  | .vldsN3 d a fa => packFR 0x31 d a 0 fa false false 0x52
  | .vldsN4 d a fa => packFR 0x31 d a 0 fa false false 0x53
  | .vldsN5 d a fa => packFR 0x31 d a 0 fa false false 0x54
  | .vldsN6 d a fa => packFR 0x31 d a 0 fa false false 0x55
  | .vldsN7 d a fa => packFR 0x31 d a 0 fa false false 0x56
  | .vldsN8 d a fa => packFR 0x31 d a 0 fa false false 0x57
  | .vst d a fa => packFR 0x32 d a 0 fa false false 0x00
  | .vstX8 d a b fa fb => packFR 0x32 d a b fa fb false 0x10
  | .vstX16 d a b fa fb => packFR 0x32 d a b fa fb false 0x11
  | .vstX32 d a b fa fb => packFR 0x32 d a b fa fb false 0x12
  | .vstX d a b fa fb => packFR 0x32 d a b fa fb false 0x13
  | .vstX8O d a b fa fb => packFR 0x32 d a b fa fb false 0x20
  | .vstX16O d a b fa fb => packFR 0x32 d a b fa fb false 0x21
  | .vstX32O d a b fa fb => packFR 0x32 d a b fa fb false 0x22
  | .vstXO d a b fa fb => packFR 0x32 d a b fa fb false 0x23
  | .vstsN2 d a fa => packFR 0x32 d a 0 fa false false 0x51
  | .vstsN3 d a fa => packFR 0x32 d a 0 fa false false 0x52
  | .vstsN4 d a fa => packFR 0x32 d a 0 fa false false 0x53
  | .vstsN5 d a fa => packFR 0x32 d a 0 fa false false 0x54
  | .vstsN6 d a fa => packFR 0x32 d a 0 fa false false 0x55
  | .vstsN7 d a fa => packFR 0x32 d a 0 fa false false 0x56
  | .vstsN8 d a fa => packFR 0x32 d a 0 fa false false 0x57
  | .vldscSca a fa => packFR 0x33 0 a 0 fa false false 0x00
  | .vldscScb a fa => packFR 0x33 0 a 0 fa false false 0x01
  | .vstbm d a b fa fb => packFR 0x33 d a b fa fb false 0x02
  | .vldbm d a fa => packFR 0x33 d a 0 fa false false 0x03
  | .vpfR a fa => packFR 0x33 0 a 0 fa false false 0x04
  | .vpfS a fa => packFR 0x33 0 a 0 fa false false 0x05
  | .vpfRX32 a b fa fb => packFR 0x33 0 a b fa fb false 0x06
  | .vpfRX a b fa fb => packFR 0x33 0 a b fa fb false 0x07
  | .vhaccX32 d a b fa fb rel scope => packFR 0x33 d a b fa fb false (4#3 ++ (BitVec.ofBool rel ++ scope))
  | .vhaccX d a b fa fb rel scope => packFR 0x33 d a b fa fb false (5#3 ++ (BitVec.ofBool rel ++ scope))
  | .vscaddX32 d a b fa fb rel scope => packFR 0x33 d a b fa fb false (6#3 ++ (BitVec.ofBool rel ++ scope))
  | .vscaddX d a b fa fb rel scope => packFR 0x33 d a b fa fb false (7#3 ++ (BitVec.ofBool rel ++ scope))
  | .vadd d a b fa fb xm => packFR 0x34 d a b fa fb xm 0x00
  | .vaddVs d a b fa fb xm => packFR 0x34 d a b fa fb xm 0x40
  | .vsub d a b fa fb xm => packFR 0x34 d a b fa fb xm 0x01
  | .vsubVs d a b fa fb xm => packFR 0x34 d a b fa fb xm 0x41
  | .vrsub d a b fa fb xm => packFR 0x34 d a b fa fb xm 0x02
  | .vrsubVs d a b fa fb xm => packFR 0x34 d a b fa fb xm 0x42
  | .vmul d a b fa fb xm => packFR 0x34 d a b fa fb xm 0x03
  | .vmulVs d a b fa fb xm => packFR 0x34 d a b fa fb xm 0x43
  | .vmulh d a b fa fb => packFR 0x34 d a b fa fb false 0x04
  | .vmulhVs d a b fa fb => packFR 0x34 d a b fa fb false 0x44
  | .vdiv d a b fa fb => packFR 0x34 d a b fa fb false 0x05
  | .vdivVs d a b fa fb => packFR 0x34 d a b fa fb false 0x45
  | .vrem d a b fa fb => packFR 0x34 d a b fa fb false 0x06
  | .vremVs d a b fa fb => packFR 0x34 d a b fa fb false 0x46
  | .vmin d a b fa fb => packFR 0x34 d a b fa fb false 0x07
  | .vminVs d a b fa fb => packFR 0x34 d a b fa fb false 0x47
  | .vmax d a b fa fb => packFR 0x34 d a b fa fb false 0x08
  | .vmaxVs d a b fa fb => packFR 0x34 d a b fa fb false 0x48
  | .vand d a b fa fb => packFR 0x34 d a b fa fb false 0x09
  | .vandVs d a b fa fb => packFR 0x34 d a b fa fb false 0x49
  | .vor d a b fa fb => packFR 0x34 d a b fa fb false 0x0a
  | .vorVs d a b fa fb => packFR 0x34 d a b fa fb false 0x4a
  | .vxor d a b fa fb => packFR 0x34 d a b fa fb false 0x0b
  | .vxorVs d a b fa fb => packFR 0x34 d a b fa fb false 0x4b
  | .vsll d a b fa fb xm => packFR 0x34 d a b fa fb xm 0x0c
  | .vsllVs d a b fa fb xm => packFR 0x34 d a b fa fb xm 0x4c
  | .vsrl d a b fa fb => packFR 0x34 d a b fa fb false 0x0d
  | .vsrlVs d a b fa fb => packFR 0x34 d a b fa fb false 0x4d
  | .vsra d a b fa fb => packFR 0x34 d a b fa fb false 0x0e
  | .vsraVs d a b fa fb => packFR 0x34 d a b fa fb false 0x4e
  | .vmseq d a b fa fb => packFR 0x34 d a b fa fb false 0x10
  | .vmseqVs d a b fa fb => packFR 0x34 d a b fa fb false 0x50
  | .vmsne d a b fa fb => packFR 0x34 d a b fa fb false 0x11
  | .vmsneVs d a b fa fb => packFR 0x34 d a b fa fb false 0x51
  | .vmslt d a b fa fb => packFR 0x34 d a b fa fb false 0x12
  | .vmsltVs d a b fa fb => packFR 0x34 d a b fa fb false 0x52
  | .vmsle d a b fa fb => packFR 0x34 d a b fa fb false 0x13
  | .vmsleVs d a b fa fb => packFR 0x34 d a b fa fb false 0x53
  | .vmsgt d a b fa fb => packFR 0x34 d a b fa fb false 0x14
  | .vmsgtVs d a b fa fb => packFR 0x34 d a b fa fb false 0x54
  | .vmacc d a b fa fb xm => packFR 0x34 d a b fa fb xm 0x18
  | .vmaccVs d a b fa fb xm => packFR 0x34 d a b fa fb xm 0x58
  | .vwadd d a b fa fb => packFR 0x35 d a b fa fb false 0x00
  | .vwaddVs d a b fa fb => packFR 0x35 d a b fa fb false 0x40
  | .vwsub d a b fa fb => packFR 0x35 d a b fa fb false 0x01
  | .vwsubVs d a b fa fb => packFR 0x35 d a b fa fb false 0x41
  | .vwmul d a b fa fb => packFR 0x35 d a b fa fb false 0x02
  | .vwmulVs d a b fa fb => packFR 0x35 d a b fa fb false 0x42
  | .vwmacc d a b fa fb xm => packFR 0x35 d a b fa fb xm 0x03
  | .vwmaccVs d a b fa fb xm => packFR 0x35 d a b fa fb xm 0x43
  | .vnsrl d a b fa fb xm => packFR 0x35 d a b fa fb xm 0x08
  | .vnsrlVs d a b fa fb xm => packFR 0x35 d a b fa fb xm 0x48
  | .vnsra d a b fa fb xm => packFR 0x35 d a b fa fb xm 0x09
  | .vnsraVs d a b fa fb xm => packFR 0x35 d a b fa fb xm 0x49
  | .vsadd d a b fa fb xm => packFR 0x35 d a b fa fb xm 0x10
  | .vsaddVs d a b fa fb xm => packFR 0x35 d a b fa fb xm 0x50
  | .vssub d a b fa fb xm => packFR 0x35 d a b fa fb xm 0x11
  | .vssubVs d a b fa fb xm => packFR 0x35 d a b fa fb xm 0x51
  | .vaadd d a b fa fb => packFR 0x35 d a b fa fb false 0x12
  | .vaaddVs d a b fa fb => packFR 0x35 d a b fa fb false 0x52
  | .vasub d a b fa fb => packFR 0x35 d a b fa fb false 0x13
  | .vasubVs d a b fa fb => packFR 0x35 d a b fa fb false 0x53
  | .vsmul d a b fa fb xm => packFR 0x35 d a b fa fb xm 0x14
  | .vsmulVs d a b fa fb xm => packFR 0x35 d a b fa fb xm 0x54
  | .vssrl d a b fa fb => packFR 0x35 d a b fa fb false 0x15
  | .vssrlVs d a b fa fb => packFR 0x35 d a b fa fb false 0x55
  | .vssra d a b fa fb => packFR 0x35 d a b fa fb false 0x16
  | .vssraVs d a b fa fb => packFR 0x35 d a b fa fb false 0x56
  | .vfadd d a b fa fb xm => packFR 0x36 d a b fa fb xm 0x00
  | .vfaddVs d a b fa fb xm => packFR 0x36 d a b fa fb xm 0x40
  | .vfsub d a b fa fb xm => packFR 0x36 d a b fa fb xm 0x01
  | .vfsubVs d a b fa fb xm => packFR 0x36 d a b fa fb xm 0x41
  | .vfmul d a b fa fb xm => packFR 0x36 d a b fa fb xm 0x02
  | .vfmulVs d a b fa fb xm => packFR 0x36 d a b fa fb xm 0x42
  | .vfdiv d a b fa fb xm => packFR 0x36 d a b fa fb xm 0x03
  | .vfdivVs d a b fa fb xm => packFR 0x36 d a b fa fb xm 0x43
  | .vfsqrt d a fa xm => packFR 0x36 d a 0 fa false xm 0x04
  | .vfmac d a b fa fb xm => packFR 0x36 d a b fa fb xm 0x05
  | .vfmacVs d a b fa fb xm => packFR 0x36 d a b fa fb xm 0x45
  | .vfnmac d a b fa fb xm => packFR 0x36 d a b fa fb xm 0x06
  | .vfnmacVs d a b fa fb xm => packFR 0x36 d a b fa fb xm 0x46
  | .vfmin d a b fa fb xm => packFR 0x36 d a b fa fb xm 0x07
  | .vfminVs d a b fa fb xm => packFR 0x36 d a b fa fb xm 0x47
  | .vfmax d a b fa fb xm => packFR 0x36 d a b fa fb xm 0x08
  | .vfmaxVs d a b fa fb xm => packFR 0x36 d a b fa fb xm 0x48
  | .vfneg d a fa xm => packFR 0x36 d a 0 fa false xm 0x09
  | .vfabs d a fa xm => packFR 0x36 d a 0 fa false xm 0x0a
  | .vfclass d a fa xm => packFR 0x36 d a 0 fa false xm 0x0b
  | .vmfeq d a b fa fb xm => packFR 0x36 d a b fa fb xm 0x10
  | .vmfeqVs d a b fa fb xm => packFR 0x36 d a b fa fb xm 0x50
  | .vmflt d a b fa fb xm => packFR 0x36 d a b fa fb xm 0x11
  | .vmfltVs d a b fa fb xm => packFR 0x36 d a b fa fb xm 0x51
  | .vmfle d a b fa fb xm => packFR 0x36 d a b fa fb xm 0x12
  | .vmfleVs d a b fa fb xm => packFR 0x36 d a b fa fb xm 0x52
  | .vfrec d a fa xm => packFR 0x37 d a 0 fa false xm 0x00
  | .vfrsq d a fa xm => packFR 0x37 d a 0 fa false xm 0x01
  | .vcvt d a fa xm ty => packFR 0x37 d a 0 fa false xm (1#3 ++ ty)
  | .vfdot d a b fa fb xm => packFR 0x37 d a b fa fb xm 0x20
  | .vdot d a b fa fb xm => packFR 0x37 d a b fa fb xm 0x21
  | .vbq d a fa xm src bank => packFR 0x37 d a 0 fa false xm (3#3 ++ (0#1 ++ (src ++ BitVec.ofBool bank)))
  | .vfreca d a fa xm => packFR 0x37 d a 0 fa false xm 0x7e
  | .vfrsqa d a fa xm => packFR 0x37 d a 0 fa false xm 0x7f
  | .vmv d a fa => packFR 0x38 d a 0 fa false false 0x00
  | .vmerge d a b fa fb => packFR 0x38 d a b fa fb false 0x01
  | .vbcast d a fa => packFR 0x38 d a 0 fa false false 0x02
  | .vext d a b fa fb => packFR 0x38 d a b fa fb false 0x03
  | .vins d a b fa fb => packFR 0x38 d a b fa fb false 0x04
  | .vslideup d a b fa fb => packFR 0x38 d a b fa fb false 0x08
  | .vslidedn d a b fa fb => packFR 0x38 d a b fa fb false 0x09
  | .vperm d a b fa fb => packFR 0x38 d a b fa fb false 0x0a
  | .vcpvl d a fa => packFR 0x38 d a 0 fa false false 0x0c
  | .vxrd d a fa => packFR 0x38 d a 0 fa false false 0x10
  | .vxwr a b fa fb => packFR 0x38 0 a b fa fb false 0x11
  | .vredsum d a b fa fb => packFR 0x39 d a b fa fb false 0x00
  | .vredmin d a b fa fb => packFR 0x39 d a b fa fb false 0x01
  | .vredmax d a b fa fb => packFR 0x39 d a b fa fb false 0x02
  | .vredand d a b fa fb => packFR 0x39 d a b fa fb false 0x03
  | .vredor d a b fa fb => packFR 0x39 d a b fa fb false 0x04
  | .vredxor d a b fa fb => packFR 0x39 d a b fa fb false 0x05
  | .vfredsum d a b fa fb => packFR 0x39 d a b fa fb false 0x08
  | .vfredo d a b fa fb => packFR 0x39 d a b fa fb false 0x09
  | .vfredmin d a b fa fb => packFR 0x39 d a b fa fb false 0x0a
  | .vfredmax d a b fa fb => packFR 0x39 d a b fa fb false 0x0b
  | .kand d a b => packFR 0x3a d a b false false false 0x00
  | .kor d a b => packFR 0x3a d a b false false false 0x01
  | .kxor d a b => packFR 0x3a d a b false false false 0x02
  | .kandn d a b => packFR 0x3a d a b false false false 0x03
  | .knot d a => packFR 0x3a d a 0 false false false 0x04
  | .kmov d a => packFR 0x3a d a 0 false false false 0x05
  | .kset d => packFR 0x3a d 0 0 false false false 0x06
  | .kclr d => packFR 0x3a d 0 0 false false false 0x07
  | .kpop d a => packFR 0x3a d a 0 false false false 0x10
  | .kfirst d a => packFR 0x3a d a 0 false false false 0x11
  | .kiota d a => packFR 0x3a d a 0 false false false 0x12
  | .kfromv d a fa => packFR 0x3a d a 0 fa false false 0x13
  | .ktov d a => packFR 0x3a d a 0 false false false 0x14
  | .vsplit d n => packFR 0x3b d n 0 false false false 0x00
  | .vjoin => packFR 0x3b 0 0 0 false false false 0x01
  | .xsend n a b fa fb => packFR 0x3b n a b fa fb false 0x08
  | .xrecv d => packFR 0x3b d 0 0 false false false 0x09
  | .vcapp d a b fa fb => packFR 0x3b d a b fa fb false 0x10
  | .sadd d a b fa fb => packFR 0x3c d a b fa fb false 0x00
  | .smul d a b fa fb => packFR 0x3c d a b fa fb false 0x01
  | .sdot d a b fa fb => packFR 0x3c d a b fa fb false 0x02
  | .sld d a b fa fb => packFR 0x3c d a b fa fb false 0x03
  | .sst d a fa => packFR 0x3c d a 0 fa false false 0x04
  | .sexp d a b fa fb => packFR 0x3c d a b fa fb false 0x05
  | .scmp d a b fa fb => packFR 0x3c d a b fa fb false 0x06
  | .vfmacv d a b fa fb => packFR 0x3d d a b fa fb false 0x00
  | .vbound d a b fa fb => packFR 0x3d d a b fa fb false 0x01
  | .vtraise n a fa => packFR 0x3d (0#3 ++ n) a 0 fa false false 0x02
  | .vfabr d a fa => packFR 0x3d d a 0 fa false false 0x03
  | .zon a fa => packFR 0x40 0 a 0 fa false false 0x00
  | .zoff => packFR 0x40 0 0 0 false false false 0x01
  | .zzero d => packFR 0x40 d 0 0 false false false 0x02
  | .zmop d a b fa fb => packFR 0x40 d a b fa fb false 0x08
  | .zmopb d a b fa fb => packFR 0x40 d a b fa fb false 0x09
  | .zmopv d a b fa fb => packFR 0x40 d a b fa fb false 0x0a
  | .zbnd d a fa => packFR 0x40 d a 0 fa false false 0x0b
  | .zabn d a => packFR 0x40 d a 0 false false false 0x0c
  | .zrd d a b fb => packFR 0x40 d a b false fb false 0x10
  | .zcd d a b fb => packFR 0x40 d a b false fb false 0x11
  | .zwr d a b fa fb => packFR 0x40 d a b fa fb false 0x12
  | .zswap d slot => packFR 0x40 d slot 0 false false false 0x14
  | .zldS d a fa => packFR 0x41 d a 0 fa false false 0x00
  | .zstS d a fa => packFR 0x41 d a 0 fa false false 0x01
  | .zldX32 d a b fa fb => packFR 0x41 d a b fa fb false 0x02
  | .zldX d a b fa fb => packFR 0x41 d a b fa fb false 0x03
  | .zstX32 d a b fa fb => packFR 0x41 d a b fa fb false 0x04
  | .zstX d a b fa fb => packFR 0x41 d a b fa fb false 0x05
  | .zldSShadow d a fa => packFR 0x41 d a 0 fa false false 0x08
  | .zstSShadow d a fa => packFR 0x41 d a 0 fa false false 0x09
  | .zldX32Shadow d a b fa fb => packFR 0x41 d a b fa fb false 0x0a
  | .zldXShadow d a b fa fb => packFR 0x41 d a b fa fb false 0x0b
  | .zstX32Shadow d a b fa fb => packFR 0x41 d a b fa fb false 0x0c
  | .zstXShadow d a b fa fb => packFR 0x41 d a b fa fb false 0x0d
  | .cpy d a fa => packFR 0x42 d a 0 fa false false 0x00
  | .cpym d a b fa fb => packFR 0x42 d a b fa fb false 0x01
  | .gsub d a fa => packFR 0x42 d a 0 fa false false 0x08
  | .dlaunch d a fa => packFR 0x42 d a 0 fa false false 0x09
  | .frmDec d a fa => packFR 0x42 d a 0 fa false false 0x10
  | .frmRsz d a fa => packFR 0x42 d a 0 fa false false 0x11
  | .fcv d a fa => packFR 0x42 d a 0 fa false false 0x18
  | .barCr => packFR 0x43 0 0 0 false false false 0x01
  | .barQd => packFR 0x43 0 0 0 false false false 0x02
  | .barDi => packFR 0x43 0 0 0 false false false 0x03
  | .barPk => packFR 0x43 0 0 0 false false false 0x04
  | .barPd => packFR 0x43 0 0 0 false false false 0x05
  | .shist d a b fa fb => packFR 0x44 d a b fa fb false 0x00
  | .shcnt d => packFR 0x44 d 0 0 false false false 0x01
  | .trrd d a b fa fb => packFR 0x44 d a b fa fb false 0x02
  | .vtrim d => packFR 0x44 d 0 0 false false false 0x04
  | .engineCommandError _ _ => 0
  | .regionTranslate _ _ => 0
  | .loadResultLands _ _ _ => 0
  | .writeApply _ => 0
  | .invalidationApply _ _ => 0
  | .faultRecordWrite _ _ _ => 0
  | .pfreplyRetry _ _ => 0
  | .pfreplyDeliver _ _ => 0
  | .pfwaitExpiry _ _ => 0
  | .holderAck _ _ => 0
  | .replicaPoison _ _ => 0
  | .boltOperationApply _ => 0
  | .boltStall _ _ => 0
  | .wfeTimeout _ _ => 0
  | .barrierComplete _ _ _ => 0
  | .qnextComplete _ => 0
  | .queuePublish _ => 0
  | .xsendLanding _ _ => 0
  | .queueClose _ _ => 0
  | .compactionClaim _ => 0
  | .compactionSlotDone _ => 0
  | .bypassCopy _ => 0
  | .copyRun _ => 0
  | .copyComplete _ => 0
  | .followonRun _ => 0
  | .frameOpen _ _ => 0
  | .frameDecode _ _ => 0
  | .frameClose _ _ => 0
  | .resizeRun _ _ => 0
  | .fcvRun _ => 0
  | .graphNodeComplete _ _ => 0
  | .launchPacket _ => 0
  | .graphPacket _ => 0
  | .loadPacket _ => 0
  | .unloadPacket _ => 0
  | .boltArrivePacket _ => 0
  | .boltWaitPacket _ => 0
  | .boltPacketStall _ => 0
  | .fencePacket _ => 0
  | .copyPacket _ => 0
  | .sequencerBind _ _ _ _ => 0
  | .launchComplete _ => 0
  | .balancerEpoch _ => 0
  | .migrationRequestPost _ _ => 0
  | .preemptRequest _ => 0
  | .contextSave _ => 0
  | .contextRestore _ _ _ => 0
  | .laneRetire _ _ => 0
  | .machineCheck _ _ _ => 0
  | .unitFail _ _ _ => 0
  | .softErrorCorrected _ => 0
  | .expansionTableReplace _ _ => 0
  | .leadFabricPrefetch _ _ => 0
  | .deviceReset => 0
  | .powerOn _ => 0
  | .featureCommit => 0
  | .contextCreate _ _ => 0
  | .contextTeardown _ => 0
  | .queueEnable _ _ => 0
  | .prodWrite _ _ => 0
  | .apertureEnable _ _ => 0
  | .apertureDisable _ _ => 0
  | .memoryBarWrite _ _ _ => 0
  | .memoryBarRead _ _ _ => 0
  | .xlinv _ => 0
  | .xlinvDone => 0
  | .replicate _ => 0
  | .replicateDone => 0
  | .seqkill _ => 0
  | .quote _ => 0
  | .install _ => 0
  | .clear _ => 0
  | .keySlotClearDone _ => 0
  | .swinWrite _ _ => 0
  | .swinChangeDone _ => 0
  | .balctlWrite _ _ => 0
  | .pwrislWrite _ _ => 0
  | .islandWake _ => 0
  | .thermalThrottle _ => 0
  | .thermalShutdown _ => 0
  | .peerLaneFail _ _ _ => 0
  | .podRequestIn _ _ _ _ _ => 0
  | .registerWrite _ _ _ _ => 0
  | .migrationRequestWithdraw _ => 0
  | .queueHardwareRestart _ => 0
  | .thermalThrottleEnd _ => 0

/-- The bytes of an instruction as memory holds them (R3). -/
def encodeBytes (i : Instr) : List Byte :=
  let w := encode i
  [w.extractLsb' 0 8, w.extractLsb' 8 8, w.extractLsb' 16 8, w.extractLsb' 24 8]

/-- The decoder on an instruction given as one number (spec/opcode_table.json numbers bit 0 as the least significant
of the one word; every row has 32 bits). -/
def decodeTableWord (nbits w : Nat) : Option Instr :=
  if nbits ≤ 32 then
    match decodeBytes (((List.range 4).map fun k => BitVec.ofNat 8 (w >>> (8 * k)))) with
    | .ok (i, _) => some i
    | .error _ => none
  else none

end

end Sys2Proof
end

