-- ==== Sys2Proof/Machine/Cipher.lean ====
section
/-! DEFINITION. The memory cipher of R42: AES-256 in XTS mode over data units of one 128-byte line. Blocks are naturals
whose byte i is bits 8i + 7 : 8i; R42 names the cipher, and its tables are those of the published standards (log 12). -/

namespace Sys2Proof.Machine

/-! ## AES-256 -/

/-- The 16 bytes of a block, the first the least significant. -/
def blockBytes (b : Nat) : List Nat := (List.range 16).map fun i => (b >>> (8 * i)) % 256

/-- The block that bytes spell. -/
def ofBlockBytes : List Nat → Nat
  | [] => 0
  | b :: bs => b + 256 * ofBlockBytes bs

/-- The substitution box, 16 entries a row, the first in the low byte. -/
def sboxRows : List Nat :=
  [0x76abd7fe2b670130c56f6bf27b777c63, 0xc072a49cafa2d4adf04759fa7dc982ca, 0x1531d871f1e5a534ccf73f362693fdb7,
   0x75b227ebe28012079a059618c323c704, 0x842fe329b3d63b52a05a6e1b1a2c8309, 0xcf584c4a39becb6a5bb1fc20ed00d153,
   0xa89f3c507f02f94585334d43fbaaefd0, 0xd2f3ff1021dab6bcf5389d928f40a351, 0x73195d643d7ea7c41744975fec130ccd,
   0xdb0b5ede14b8ee4688902a22dc4f8160, 0x79e4959162acd3c25c2406490a3a32e0, 0x08ae7a65eaf4566ca94ed58d6d37c8e7,
   0x8a8bbd4b1f74dde8c6b4a61c2e2578ba, 0x9e1dc186b95735610ef6034866b53e70, 0xdf2855cee9871e9b948ed9691198f8e1,
   0x16bb54b00f2d99416842e6bf0d89a18c]

/-- The inverse substitution box. -/
def invSboxRows : List Nat :=
  [0xfbd7f3819ea340bf38a53630d56a0952, 0xcbe9dec444438e3487ff2f9b8239e37c, 0x4ec3fa420b954cee3d23c2a632947b54,
   0x25d18b6d49a25b76b224d92866a12e08, 0x92b6655dcc5ca4d41698688664f6f872, 0x849d8da75746155edab9edfd5048706c,
   0x0645b3b80558e4f70ad3bc8c00abd890, 0x6b8a130103bdafc1020f3fca8f1e2cd0, 0x73e6b4f0cecff297eadc674f4111913a,
   0x6edf751ce837f9e28535ade72274ac96, 0x1bbe18aa0e62b76f89c5291d711af147, 0xf45acd78fec0db9a2079d2c64b3e56fc,
   0x5fec8027591012b131c7078833a8dd1f, 0xef9cc9939f7ae52d0d4ab519a97f5160, 0x619953833cbbebc8b0f52aae4d3be0a0,
   0x7d0c2155631469e126d677ba7e042b17]

def subByte (rows : List Nat) (x : Nat) : Nat := (rows.getD (x / 16) 0 >>> (8 * (x % 16))) % 256

/-- Multiplication by x in the byte field. -/
def xtime (a : Nat) : Nat := if a < 128 then 2 * a else (2 * a) ^^^ 0x11B

/-- Multiplication by a constant below 16 in the byte field. -/
def fieldMul (c a : Nat) : Nat :=
  (if c.testBit 0 then a else 0) ^^^ (if c.testBit 1 then xtime a else 0) ^^^
    (if c.testBit 2 then xtime (xtime a) else 0) ^^^ (if c.testBit 3 then xtime (xtime (xtime a)) else 0)

/-- Columns of four bytes multiplied by the circulant of four constants. -/
def mixWith (c0 c1 c2 c3 : Nat) : List Nat → List Nat
  | a :: b :: c :: d :: r =>
    (fieldMul c0 a ^^^ fieldMul c1 b ^^^ fieldMul c2 c ^^^ fieldMul c3 d) ::
    (fieldMul c3 a ^^^ fieldMul c0 b ^^^ fieldMul c1 c ^^^ fieldMul c2 d) ::
    (fieldMul c2 a ^^^ fieldMul c3 b ^^^ fieldMul c0 c ^^^ fieldMul c1 d) ::
    (fieldMul c1 a ^^^ fieldMul c2 b ^^^ fieldMul c3 c ^^^ fieldMul c0 d) :: mixWith c0 c1 c2 c3 r
  | _ => []

/-- The rows of the state rotated by k times their number: k = 1 forward, k = 3 back. -/
def shiftRows (k : Nat) (l : List Nat) : List Nat :=
  (List.range 16).map fun i => l.getD (4 * ((i / 4 + k * (i % 4)) % 4) + i % 4) 0

/-- One word of the key schedule after the word before it and the word eight before. -/
def keyWord (i : Nat) (prev old : List Nat) : List Nat :=
  let t :=
    if i % 8 = 0 then
      match prev.map (subByte sboxRows) with
      | a :: b :: c :: d :: _ => [b ^^^ (2 ^ (i / 8 - 1)), c, d, a]
      | l => l
    else if i % 8 = 4 then prev.map (subByte sboxRows)
    else prev
  List.zipWith (fun a b => a ^^^ b) t old

/-- The key schedule, newest word first: n words after the eight of the key. -/
def keyWords (key : List (List Nat)) : Nat → List (List Nat)
  | 0 => key.reverse
  | n + 1 =>
    let ws := keyWords key n
    keyWord (n + 8) (ws.headD []) (ws.getD 7 []) :: ws

/-- The 15 round keys of a 256-bit key, in order. -/
def roundKeys (key : Nat) : List Nat :=
  let ws := ((keyWords ((List.range 8).map fun j => (List.range 4).map fun i =>
    (key >>> (32 * j + 8 * i)) % 256) 52).reverse)
  (List.range 15).map fun r => ofBlockBytes ((ws.drop (4 * r)).take 4).flatten

/-- AES-256 of one block. -/
def aesEncrypt (rks : List Nat) (b : Nat) : Nat :=
  let b := (List.range 13).foldl (fun b r =>
    ofBlockBytes (mixWith 2 3 1 1 (shiftRows 1 ((blockBytes b).map (subByte sboxRows)))) ^^^ rks.getD (r + 1) 0)
    (b ^^^ rks.getD 0 0)
  ofBlockBytes (shiftRows 1 ((blockBytes b).map (subByte sboxRows))) ^^^ rks.getD 14 0

/-- The inverse of `aesEncrypt`. -/
def aesDecrypt (rks : List Nat) (b : Nat) : Nat :=
  let b := (List.range 13).foldl (fun b r =>
    ofBlockBytes (mixWith 14 11 13 9 (blockBytes
      (ofBlockBytes ((shiftRows 3 (blockBytes b)).map (subByte invSboxRows)) ^^^ rks.getD (13 - r) 0))))
    (b ^^^ rks.getD 14 0)
  ofBlockBytes ((shiftRows 3 (blockBytes b)).map (subByte invSboxRows)) ^^^ rks.getD 0 0

/-! ## XTS -/

/-- The data key and the tweak key of a slot's 512 key bits (R42). -/
def dataKey (key : BitVec 512) : Nat := key.toNat % 2 ^ 256
def tweakKey (key : BitVec 512) : Nat := key.toNat / 2 ^ 256

/-- The mask of the next block of a data unit: multiplication by the field's generator. -/
def nextMask (t : Nat) : Nat := (2 * t) % 2 ^ 128 ^^^ (if t < 2 ^ 127 then 0 else 0x87)

/-- The masks of n blocks of a data unit, from the first. -/
def unitMasks : Nat → Nat → List Nat
  | 0, _ => []
  | n + 1, t => t :: unitMasks n (nextMask t)

/-- A line's eight blocks under a block function of the data key. The tweak is the line's address, which R42 gives as a
128-bit little-endian integer. -/
def xtsLine (f : List Nat → Nat → Nat) (key : BitVec 512) (addr : Nat) (line : BitVec 1024) : BitVec 1024 :=
  let rks := roundKeys (dataKey key)
  let ms := unitMasks 8 (aesEncrypt (roundKeys (tweakKey key)) addr)
  BitVec.ofNat 1024 ((List.range 8).foldl (fun r j =>
    r + ((f rks ((line.toNat >>> (128 * j)) % 2 ^ 128 ^^^ ms.getD j 0) ^^^ ms.getD j 0) <<< (128 * j))) 0)

def xtsEncrypt (key : BitVec 512) (addr : Nat) (line : BitVec 1024) : BitVec 1024 := xtsLine aesEncrypt key addr line
def xtsDecrypt (key : BitVec 512) (addr : Nat) (line : BitVec 1024) : BitVec 1024 := xtsLine aesDecrypt key addr line

/-- What a line written under the first key reads as under the second, at a line address (R45): the ciphertext of the
one, decrypted under the other. -/
def recrypt (k0 k : BitVec 512) (addr : Nat) (line : BitVec 1024) : BitVec 1024 :=
  xtsDecrypt k addr (xtsEncrypt k0 addr line)

end Sys2Proof.Machine
end

