-- ==== Sys2Proof/Config.lean ====
section
/-! DEFINITION. What one part fixes, and the free values: values the spec leaves open, given here as constants with
no body, so that no proof can see them (notes/assumptions 4, 12 to 15, 17, 19, 38). -/

namespace Sys2Proof.Config

/-- A value nothing fixes: the n-th one asked for. Cycle counts, timer readings and counts of the lead thread (R163,
R431; log 4 and 16) are drawn from it. -/
opaque freeWord : Nat → BitVec 64

/-- How far the reference timer counts on during the n-th step (R431). Log 4. -/
opaque tick : Nat → BitVec 64

/-- The 512 key bits (data key and tweak key, R42) that the n-th key drawn or installed holds. Log 12. -/
opaque freeKey : Nat → BitVec 512

/-- What decoding an access unit gives (R372, R373): the errors found; whether the unit begins at a random access point;
whether its profile and level are those of Table 15.11; whether its picture is shown; whether it is a first field, and
whether the picture is a pair of fields; the picture's width, height and bit depth; its display order; the samples of
luma, row by row, and of Cb and Cr in turn, the rows of a first field before those of the second; the bytes written to
planes of a unit that could not be decoded (plane, row, byte of the row); the bytes written to context memory; and which
of several errors is reported. -/
structure FrameOut where
  badSyntax : Bool
  missing : Bool
  access : Bool
  profile : Bool
  shown : Bool
  firstField : Bool
  fields : Bool
  width : Nat
  height : Nat
  ten : Bool
  order : BitVec 32
  luma : List Nat
  chroma : List Nat
  damage : List (Bool × Nat × Nat × BitVec 8)
  mem : List (Nat × BitVec 8)
  pick : Nat
deriving DecidableEq, Repr, Inhabited

/-- The frame decoder of R372: codec and NEWSEQ; the access units the context has decoded; what it read of the context
memory; the bitstream bytes. The external standards are not written out. Log 13. -/
opaque frameDecode : List Nat → List (List (BitVec 8)) → List (BitVec 8) → List (BitVec 8) → FrameOut

/-- The 128-byte blocks of its context memory that the decoder reads for an access unit (R372). Log 13. -/
opaque frameReads : List Nat → List (List (BitVec 8)) → List (BitVec 8) → List Nat

/-- What a quote of R430 says of the part and its boot: the device identity public key; the three measurements and the
ML-KEM encapsulation key of the n-th boot; and the n-th signature asked for, over the bytes before it and the nonce.
Log 14. -/
opaque deviceKey : BitVec 512
opaque measured : Nat → BitVec 768
opaque kemKey : Nat → BitVec 12544
opaque quoteSignature : Nat → List (BitVec 8) → BitVec 238336

/-- Whether the n-th INSTALL request's decapsulation and tag verify (R430). Log 14. -/
opaque installOk : Nat → List (BitVec 8) → BitVec 7 → Bool

/-- The value another module of the pod returns to the n-th pod request (R121, R298), and whether it succeeded.
Log 15. -/
opaque podReply : Nat → BitVec 64
opaque podFails : Nat → Bool

/-- Whether the other modules of the pod have reported a `bar.pd` instance when it is tested, the n-th free value (R178).
Log 15. -/
opaque podReported : Nat → Bool

/-- The page of a die's HBM that the n-th new replica is given (R68). Log 38. -/
opaque replicaPage : Nat → Nat → Nat

/-- Where the n-th LOAD places an object of the given number of pages (R231): the virtual address of the first, and
physical pages of memory in no use, those of the sections first and then pages for new page tables; none where there
is no memory. Log 19. -/
opaque loadPlace : Nat → Nat → Option (BitVec 64 × List Nat)

/-- The n-th free value of a vector register, or of a row of a tile: what an uncorrectable error leaves (R419). Log 17. -/
opaque freeRow : Nat → BitVec 32768

end Sys2Proof.Config
end

