-- ==== Sys2Proof/Machine/State.lean ====
section
/-! DEFINITION. The state of the module: plain data, holding every piece of state of INVENTORY.md's list, the faults
and refusals of a step, and the state after a device reset (R186 and the Reset columns of the tables). -/

set_option genSizeOfSpec false

namespace Sys2Proof.Machine

/-- A total map that lists only some keys, in rising order; the reader names what an unlisted key reads as. -/
abbrev Sparse (α : Type) := List (Nat × α)

/-- The value at a key, or `d` where the key is not listed. -/
def Sparse.get {α : Type} (d : α) : Sparse α → Nat → α
  | [], _ => d
  | (k', v) :: m, k => if k = k' then v else Sparse.get d m k

/-- The map with a key's value replaced. -/
def Sparse.set {α : Type} : Sparse α → Nat → α → Sparse α
  | [], k, v => [(k, v)]
  | (k', v') :: m, k, v =>
    if k < k' then (k, v) :: (k', v') :: m
    else if k = k' then (k, v) :: m
    else (k', v') :: Sparse.set m k v

/-- A vector clock of R106: component d in bits 32d + 31 : 32d. -/
abbrev Stamp := BitVec 256

/-- Privilege level of a thread (R190). Firmware level is out of the model (log 10). -/
inductive Level where
  | program
  | supervisor
deriving DecidableEq, Repr

/-- What a faulting walk found, as a fault record needs it (R55, Tables 3.1 and 3.2). `resume` is the `vstart` a Retry
continues from (R58, R129). -/
structure PageFault where
  va : Word
  kind : Nat
  cause : Nat
  elem : Nat
  rem : Nat
  stride : Word
  esz : Nat
  lvl : Nat
  reason : Nat
  asid : Nat
  resume : Nat
  /-- what `telem` holds if the fault is delivered: the element, or the column of a tile row (R365) -/
  telem : Nat
deriving DecidableEq, Repr

/-- The header of a stage queue as hardware keeps it: its physical address, and the key slot of the leaf that it was
translated through (R42). -/
structure Head where
  pa : Nat
  slot : Nat
deriving DecidableEq, Repr

/-- Why a thread does not issue. -/
inductive Wait where
  /-- the thread is ready -/
  | none
  /-- an operand or destination is empty (R189) -/
  | regs
  /-- an earlier access is not yet performed, or a page is collapsing (R70, R108, R114, R117) -/
  | memory
  /-- a fault record is to be written (R54, R57) -/
  | record (f : PageFault)
  /-- the record with this index is outstanding on the die (R58, R59) -/
  | pager (die idx : Nat) (f : PageFault)
  /-- registered at a bolt (physical and virtual address) with the observed phase (R141) -/
  | bolt (pa : Nat) (va : Word) (phase : Bool)
  /-- the registered wait was woken; PH at the waking (R140) -/
  | boltDone (phase : Bool)
  /-- arrived at a hardware barrier of the level (R149) -/
  | barrier (level : Nat)
  /-- waits in `vjoin` (R158) -/
  | join
  /-- `vcapp` waits for space (R166) -/
  | space
  /-- `wfe`, with a limit or without (R282) -/
  | wfe (limited : Bool)
  /-- the limit of a `wfe` has passed (R282) -/
  | wfeOver
  /-- `xsend` waits for the peer register (R176) -/
  | peer
  /-- an engine's queue is full, or its commands have not completed (R289, R366, R370) -/
  | engine
  /-- the word at the position is not fetched yet (R54, R107) -/
  | fetch
  /-- the instruction has not begun: a `qnext` before it is outstanding (R102, R131) -/
  | order
  /-- a trap at the position, taken once the `qnext` before it is complete (R220) -/
  | trap (cause : Nat) (tval telem tinfo : Word)
deriving DecidableEq, Repr

/-- How a thread's last instruction ended; the model's own (log 9). -/
inductive Ended where
  | retired
  | waiting
  | trapped
deriving DecidableEq, Repr

/-- One vector register or `vx` slot: bits (dword g of R76 at bits 64g + 63 : 64g), valid length in bytes (R413), and
the empty bit of R189. -/
structure VReg where
  bits : BitVec 32768 := 0
  vb : Nat := 0
  empty : Bool := false
deriving DecidableEq, Repr

/-- A result a thread has issued and not received (R189). -/
inductive Pend where
  /-- a load's value for a scalar register -/
  | scalar (r : Nat) (v : Word)
  /-- a load's, gather's or reduction's register -/
  | vector (r : Nat) (v : VReg)
  /-- the ticket of an engine command (R366), by the command's identity -/
  | ticket (r cmd : Nat)
  /-- the work a `qnext` asked for (R168): the queue's header, and its virtual address; the entries asked -/
  | claim (r : Nat) (header : Head) (va : Word) (n : Nat)
deriving DecidableEq, Repr

/-- An entry of the strip history (Table 17.7), dword by dword. -/
structure Hist where
  vpc : Word
  first : Word
  last : Word
  info : Word
deriving DecidableEq, Repr

/-- One thread of a sequencer (R153, R156, R402). The control registers are held as their CSR images. -/
structure Thread where
  pc : Word := 0
  level : Level := .program
  /-- the word being executed: the model's own (log 9) -/
  ir : IWord := 0
  x : Sparse Word := []
  /-- bit r set: `sr` is empty (R189) -/
  xempty : BitVec 32 := 0
  v : Sparse VReg := []
  k : Sparse (BitVec 4096) := []
  /-- bit j set: mask j written since binding (R410) -/
  kw : BitVec 16 := 0
  sca : BitVec 4096 := 0
  scb : BitVec 4096 := 0
  scaw : Bool := false
  scbw : Bool := false
  vl : Word := 0
  vtype : Word := 0x8000000000000000#64
  vstride : Word := 0
  vmsk : Word := 0x210#64
  vstart : Word := 0
  xrm : Word := 0
  frm : Word := 0
  fflags : Word := 0
  vxsat : Word := 0
  ftrap : Word := 0x20#64
  vverd : Word := 0x400#64
  vt : Sparse Word := []
  qlen : Sparse Word := []
  vlmaxb : Word := 32768#64
  /-- `vdecl` (Table 4.3), the same in every thread of a sequencer -/
  vdecl : Word := 0x2080#64
  /-- live physical lanes of the thread (R73, R155) -/
  lanes : List Nat := List.range 64
  /-- physical lanes of the layout the registers are in (R76, R418) -/
  layout : List Nat := List.range 64
  lecnt : Sparse Word := []
  leidx : Sparse Word := []
  lebeg : Sparse Word := []
  leend : Sparse Word := []
  ldepth : Word := 0
  tpc : Word := 0
  tcause : Word := 0
  tval : Word := 0
  telem : Word := 0
  tinfo : Word := 0
  tloop : Word := 0
  tstat : Word := 0
  tscratch : Word := 0
  instret : Word := 0
  emucount : Word := 0
  krmiss : Word := 0
  krxlat : Word := 0
  latch : Word := 0
  /-- what the parts of the element at `vstart` already performed gave, in order: a Retry or a wait does not repeat
  them (R58, R130); the model's own (log 9) -/
  past : List Nat := []
  /-- index vector of the indexed access in progress, for going on after a wait: the model's own (log 9) -/
  idx : BitVec 32768 := 0
  /-- the line that the load or fetch in progress found in no tile buffer before it waited (R436): the model's own
  (log 9) -/
  missed : Option Nat := Option.none
  /-- the counts of the dies when the lead was last forked from the thread (R162), and whether the thread has since
  loaded what has been written since: the model's own (log 16) -/
  forkAt : Stamp := 0
  doubt : Bool := false
  wait : Wait := .none
  ended : Ended := .retired
  pend : List Pend := []
  hist : List Hist := []
  histN : Word := 0
  /-- strip-history fields of the instruction in progress: `vstart` at issue, first and last address (R420) -/
  opStart : Word := 0
  opFirst : Option Word := Option.none
  opLast : Option Word := Option.none
  /-- `vl`, and the mask that selects the active elements, as the instruction began (R420) -/
  opVl : Nat := 0
  opMask : BitVec 4096 := 0
  /-- the region the thread executes from: physical address of its first word, words begun; none at a region entry
  (R212) -/
  region : Option (Nat × Nat) := Option.none
  /-- lane-retired notices and engine command errors (issuing pc, status word) pending (R401, R405) -/
  laneNotices : List Nat := []
  engineErrors : List (Word × Word) := []
deriving DecidableEq, Repr

/-- One tile (R356): values Z and monitor heads H as rows of 128 f32, row bounds RB, VR, CNT and CHK. -/
structure Tile where
  z : Sparse (BitVec 4096) := []
  h : Sparse (BitVec 4096) := []
  rb : BitVec 4096 := 0
  vr : Nat := 0
  cnt : Nat := 0
  chk : Nat := 0
deriving DecidableEq, Repr

/-- What a sequencer is bound to (R153, R392). -/
structure Binding where
  launch : Nat
  stage : Nat
  ctx : Nat
deriving DecidableEq, Repr

/-- Entries of a stage queue a sequencer has claimed and not freed (R169): the header, its virtual address, and the
tables that is of. -/
structure Claim where
  header : Head
  va : Word
  dxp : Word
  first : Nat
  count : Nat
deriving DecidableEq, Repr

/-- An arrival at a hardware barrier (R149, R150): identity 0 once its instance has completed; what the member's
accesses before it, or then every member's, are covered by (R122). -/
structure Arrival where
  level : Nat
  unit : Nat
  id : Nat
  front : Stamp
deriving DecidableEq, Repr

/-- One sequencer: slot `q` of core `c` has number 4c + q (R154). -/
structure Seq where
  bound : Option Binding := none
  groups : BitVec 4 := 0
  /-- 1, 2 or 4 threads (R156) -/
  split : Nat := 1
  tiles : Nat := 48
  dxp : Word := 0
  tvec : Word := 0
  tsave : Word := 0
  pfwait : Word := 0x2710#64
  boltlim : Word := 0xF4240#64
  zon : Bool := false
  zn : Nat := 0
  tile : Sparse Tile := []
  wbuf : List Host.Cell := []
  wext : Nat := 0
  rbuf : List Host.Cell := []
  rext : Nat := 0
  /-- request that `pollp` reports (Table 11.16), and whether a `pollp` has returned it (R439) -/
  migreq : Word := 0
  polled : Bool := false
  /-- the balancer's rebind request (R396), and the launch and stage that asked for the share -/
  rebind : Bool := false
  rebindFor : Option (Nat × Nat) := none
  /-- whether an appender of the sequencer waited for space in this balancer epoch (R396) -/
  spaceWaited : Bool := false
  /-- virtual addresses of the queues whose `qnext` gave rebind (R168) -/
  rebound : List Nat := []
  gen : BitVec 32 := 0
  /-- stopped by `halt` or a trap it could not enter (R285, R403) -/
  stopped : Bool := false
  /-- a pre-emption, yield or core retirement waits for its save: CAUSE (R407, R415, R419) -/
  saving : Option Nat := none
  /-- the threads that a pre-emption has found at a boundary whose instruction has no trap due (R401): the model's own
  (log 9) -/
  held : List Nat := []
  claims : List Claim := []
  arrivals : List Arrival := []
  /-- counts at the `vsplit` (R442) -/
  splitCounts : List Word := []
  /-- tiles a follow-on command is working on (R370) -/
  follow : List Nat := []
  /-- the share kind that the request named which a `pollp` returned before the `yield` that waits to be saved (R440) -/
  resumeOn : Option Nat := none
  /-- the thread as it stood at a `qnext` that is outstanding, where a pre-emption presents it (R407): the model's own
  (log 44) -/
  shadow : Option Thread := none
  /-- a page fault of the save in progress, and the index of its record once that is written (R54, R57) -/
  asked : Option (PageFault × Option Nat) := none
deriving DecidableEq, Repr

/-- An engine command in a unit's queue (R366). -/
structure Command where
  id : Nat
  /-- `cpy`, `cpym`, `frm.dec`, `frm.rsz`, `fcv`: 0 to 4 -/
  kind : Nat
  desc : List Byte
  seq : Option Nat
  thr : Nat
  ticket : Nat
  pc : Word
  front : Stamp
  dxp : Word
  level : Level
  ctx : Nat
  follow : Word
  frm : Word
  /-- packet queue, or graph and node, that issued it -/
  queue : Option Nat
  node : Option (Nat × Nat)
  /-- bytes or rows done -/
  done : Nat
  /-- the code it ended with, once its accesses are made -/
  code : Option Nat
  /-- the follow-on part has still to run (R370) -/
  followDue : Bool
  /-- 0 running; 1 a fault record is to be written; 2 it waits for the pager -/
  pagerStage : Nat
  fault : Option PageFault
  record : Nat
  /-- the frontier captured at issue, and the stamps of the command's own writes (R120, R138, R139) -/
  cap : Stamp
  wrote : Stamp
  /-- what the accesses made since the last counted progress gave, in order: going on repeats none of them (R58); the
  model's own (log 9) -/
  past : List Nat
deriving DecidableEq, Repr

/-- A cached translation (R46 to R48): virtual page number, page size in bits, leaf, its address, ASID. -/
structure TlbEntry where
  vpn : Nat
  bits : Nat
  leaf : Word
  leafPa : Nat
  level : Nat
  asid : Nat
  host : Bool
deriving DecidableEq, Repr

/-- A cached region (R212, R216): tag, words, and where they lie. -/
structure Region where
  pa : Nat
  ctx : Nat
  gen : BitVec 32
  version : BitVec 32
  n : Nat
  level : Level
  words : List IWord
  /-- physical address of the page that its words go on into, where they reach a second one (R214); else 0 -/
  next : Nat
deriving DecidableEq, Repr

/-- One core pair. -/
structure CorePair where
  frontier : Stamp := 0
  /-- pair counters by CSR number, 0x210 to 0x217 (R163) -/
  counters : Sparse Word := []
  serrcnt : Word := 0
  trcctl : Word := 0
  trcpos : Word := 0
  trgctl : Sparse Word := []
  trgaddr : Sparse Word := []
  /-- trace ring, newest first (R422) -/
  trace : List (Word × Word) := []
  live : BitVec 64 := BitVec.allOnes 64
  copyq : List Command := []
  tileBuffer : List Nat := []
  tlb : List TlbEntry := []
  ring : List Region := []
  /-- lines the lead has prefetched and nothing has used (R94) -/
  prefetched : List Nat := []
  /-- lines whose prefetch by the lead has not arrived, oldest first: address, memory type, key slot (R91) -/
  leadOut : List (Nat × Nat × Nat) := []
  /-- words that the hinge compares (R161) executed since `refork` was last read: the model's own (log 16) -/
  compared : Nat := 0
  /-- the register `cycle` when it was last read (R190, log 4) -/
  cycle : Word := 0
deriving DecidableEq, Repr

/-- A copy of a line of another die (R93): the logical slice of the holder die it lies in, bytes, the stamp of the last
write applied to it, key bits. -/
structure Copy where
  slice : Nat
  bytes : List Byte
  stamp : Stamp
  key : Option (BitVec 512)
deriving DecidableEq, Repr

/-- A write that its die has not applied (R107): invalidations carry it to the holders (R93). -/
structure Inval where
  line : Nat
  origin : Nat
  stamp : Stamp
deriving DecidableEq, Repr

/-- What a walker has still to do for a graph, in order (R146); the model's own (log 9). -/
inductive GraphTask where
  /-- LEFT and STATE of a node set -/
  | init (n : Nat)
  /-- the nodes without predecessors dispatched, once all are set -/
  | first
  | dispatch (n : Nat)
  /-- a node's STATE and STATUS, and its successors -/
  | finish (n status : Nat) (bad : Bool)
  /-- one successor m of node n counted down -/
  | succ (n m : Nat)
  /-- whether every node is done -/
  | check
deriving DecidableEq, Repr

/-- A graph in flight (R144 to R148). -/
structure Graph where
  id : Nat
  die : Nat
  header : Word
  dxp : Word
  level : Level
  ctx : Nat
  seq : Option Nat
  thr : Nat
  ticket : Nat
  pc : Word
  queue : Option Nat
  nnode : Nat
  done : Nat
  /-- nodes dispatched and not complete -/
  running : List Nat
  /-- matrix nodes that wait for their sequencer to be resident (Table 6.6) -/
  parked : List Nat
  /-- dispatched nodes whose work is done: node, status word, whether it failed, bolt operation it waits for or 0 -/
  results : List (Nat × Nat × Bool × Nat)
  /-- error code and failing node once the graph is ending -/
  ending : Option (Nat × Nat)
  /-- what the walker has begun on it; the nodes found to have no predecessors; the accesses of the first task that are
  made (log 9) -/
  todo : List GraphTask
  ready : List Nat
  past : List Nat
  /-- a page fault of the walker, and the index of its record once that is written; whether the pager has answered
  Deliver (R54, R58) -/
  asked : Option (PageFault × Option Nat)
  refused : Bool
deriving DecidableEq, Repr

/-- A launch packet handed to a dispatcher by `dlaunch` or a graph node and not yet accepted (R394, Table 6.6). -/
structure DLaunch where
  id : Nat
  packet : List Byte
  seq : Option Nat
  thr : Nat
  ticket : Nat
  node : Option (Nat × Nat)
  ctx : Nat
  front : Stamp
deriving DecidableEq, Repr

/-- A stream context of a frame engine (R372). -/
structure FrameCtx where
  codec : Nat
  mem : Word
  len : Word
  maxw : Nat
  maxh : Nat
  history : List (List Byte)
deriving DecidableEq, Repr

/-- A frame engine (R374). -/
structure FrameEngine where
  live : Bool := true
  queue : List Command := []
  ctxs : List (Nat × FrameCtx) := []
  fecnt : Word := 0
  feerr : Word := 0
deriving DecidableEq, Repr

/-- A fault record the pager has not answered (R58). -/
structure Record where
  idx : Nat
  /-- `some (seq, thr)` for a thread, none for an engine -/
  thread : Option (Nat × Nat)
  /-- a unit, 304 + d the walker of die d for a graph, 312 + q the save engine for sequencer q -/
  unit : Nat
deriving DecidableEq, Repr

/-- A peer port (R434). -/
structure Port where
  live : Bool := true
  up : Bool := true
  width : Nat := 8
  partner : Nat := 0
  partnerPort : Nat := 0
  flit : Word := 0
  retry : Word := 0
deriving DecidableEq, Repr

/-- One die. -/
structure Die where
  hbmcap : Nat := 2 ^ 36
  lcmap : BitVec 32 := BitVec.allOnes 32
  sdiv : Nat := 64
  pdiv : Nat := 160
  smap : BitVec 64 := BitVec.allOnes 64
  pmap : BitVec 160 := BitVec.allOnes 160
  sfail : BitVec 64 := 0
  pfail : BitVec 160 := 0
  ways : Nat := 0
  /-- the change of `swin` in progress: the new WAYS (R89) -/
  newWays : Option Nat := none
  fqbase : Word := 0
  fqhead : BitVec 32 := 0
  fqtail : BitVec 32 := 0
  records : List Record := []
  count : BitVec 32 := 0
  /-- counts of each die's writes this die has applied (R107) -/
  applied : Stamp := 0
  copies : Sparse Copy := []
  invals : List Inval := []
  /-- replica directory: the two dwords of an entry (Table 3.6) -/
  rdir : Sparse (Word × Word) := []
  walker : Stamp := 0
  walkq : List Command := []
  dispatcher : Stamp := 0
  dlq : List DLaunch := []
  balEn : Bool := true
  balepoch : Word := 0
  balreq : Word := 0
  balmove : Word := 0
  fe : Sparse FrameEngine := []
  fcvLive : Bool := true
  fcvq : List Command := []
  port : Sparse Port := []
deriving DecidableEq, Repr

/-- A key slot (R43, R44). -/
structure KeySlot where
  loaded : Bool := false
  closing : Bool := false
  key : BitVec 512 := 0
deriving DecidableEq, Repr

/-- A bolt operation on its way to its home slice (R136): kind 0 arm, 1 add bytes, 2 arrive; the bytes (an arm's
expected bytes); an arm's expected arrivals; the stamps it joins into the bolt's open stamp (R139). -/
structure BoltOp where
  op : Nat
  n : Nat
  arr : Nat
  joins : Stamp
deriving DecidableEq, Repr

/-- A stamped write injected and not yet applied at its home (R106, R107), or held by a collapse (R70). -/
structure Flight where
  id : Nat
  /-- the die whose crossbar it entered -/
  die : Nat
  stamp : Stamp
  pa : Nat
  /-- what it writes; those of a bolt operation are found when it is applied -/
  cells : List Host.Cell
  key : BitVec 512
  /-- release scope code, when it releases (R126) -/
  rel : Option Nat
  /-- a collapse of its page holds it; the home page whose collapse held it, which orders it behind those held before
  (R70) -/
  held : Bool
  page : Option Nat
  /-- issuing sequencer, for the performance of its accesses (R113) -/
  seq : Option Nat
  /-- the bolt operation it is, if it is one -/
  op : Option BoltOp
deriving DecidableEq, Repr

/-- What the home slice keeps of one line (R93, R108, R126). -/
structure Line where
  stamp : Stamp := 0
  /-- the dies that hold a copy (R93) -/
  holders : BitVec 8 := 0
  /-- 0 none, 1 to 6 the scopes `.ln` to `.pd` -/
  record : Nat := 0
  /-- key bits the line was written under; none: never written (R45) -/
  key : Option (BitVec 512) := none
deriving DecidableEq, Repr

/-- Hidden stamps of a bolt (R139), by its address. -/
structure BoltStamps where
  opened : Stamp := 0
  last : Stamp := 0
  /-- flips since reset, for CLOSEBOLT (R393); the model's own -/
  flips : Nat := 0
deriving DecidableEq, Repr

/-- A reservation of a stage queue that is not published (R166). -/
structure Resv where
  id : Nat
  header : Head
  first : Nat
  count : Nat
  seq : Option Nat
  thr : Nat
  die : Nat
  front : Stamp
  threshold : Nat
  /-- the header's virtual address, and the tables that is of -/
  va : Word
  dxp : Word
deriving DecidableEq, Repr

/-- A compaction or bypass queue the queue hardware serves (R171 to R173). -/
structure HwQueue where
  header : Head
  va : Word
  dxp : Word
  ctx : Nat
  die : Nat
  /-- next tile-ring slot -/
  slot : Nat
  /-- claimed and copied, its OUTQ entry still to be appended: first index and count -/
  claimed : Option (Nat × Nat)
  /-- tile-ring slots named by OUTQ entries, each with the index of the entry that last named it -/
  named : List (Nat × Nat)
  stopped : Bool
  /-- frontier joined from the publications consumed (R173) -/
  front : Stamp
  /-- launches and stages that have appended to the queue (R170); the model's own -/
  feeders : List (Nat × Nat)
  /-- the accesses of the work in progress that are made (log 9) -/
  past : List Nat
deriving DecidableEq, Repr

/-- A replication in progress (R68), or a collapse (R70). -/
structure Collapse where
  page : Nat
  /-- bits of the holders that have not acknowledged -/
  waiting : BitVec 8
deriving DecidableEq, Repr

/-- A stage entry of a context (R231): handle, kernel, stage, footprint, address. -/
structure StageEntry where
  handle : Nat
  kernel : List Byte
  stage : Nat
  n : Nat
  x : Nat
  tiles : Nat
  share : Nat
  entry : Word
deriving DecidableEq, Repr

/-- A global symbol (R232, R233). -/
structure Symbol where
  name : List Byte
  addr : Word
  hash : BitVec 256
  handle : Nat
deriving DecidableEq, Repr

/-- A loaded object (R231): its handle, the definitions it shares, its sections' pages, and in an ordered context the
queues holding a reference (R237). -/
structure Object where
  handle : Nat
  bytes : List Byte
  /-- handle of the defining object, and the name -/
  shares : List (Nat × List Byte)
  refs : List Nat
  /-- generation at which it was unloaded (R236) -/
  unloadedAt : Option (BitVec 32)
  /-- virtual addresses of its pages -/
  pages : List Word
deriving DecidableEq, Repr

/-- A context entry (Table 16.1) and what belongs to it. -/
structure Context where
  v : Bool := false
  ord : Bool := false
  busy : Bool := false
  dxp : Word := 0
  boltlim : BitVec 32 := 0xF4240#32
  pfwait : BitVec 32 := 0x2710#32
  disc : BitVec 32 := 0
  killed : BitVec 32 := 0
  gen : BitVec 32 := 0
  objects : List Object := []
  symbols : List Symbol := []
  stages : List StageEntry := []
deriving DecidableEq, Repr

/-- A launch queue block (Table 16.2) and the queue's packets in progress (R386). -/
structure Queue where
  en : Bool := false
  prio : Nat := 0
  lsize : Nat := 0
  ctx : Nat := 0
  /-- BASE: the ring's address divided by 64 -/
  base : Nat := 0
  prod : BitVec 32 := 0
  err : Bool := false
  ecode : Nat := 0
  cons : BitVec 32 := 0
  /-- when it was last served (R385): the model's own count -/
  served : Nat := 0
  /-- packets begun and not completed, oldest first: an identity (log 9), the context it began in, bytes -/
  begun : List (BitVec 32 × Nat × List Byte) := []
  /-- frontier acquired from completed packets (R386) -/
  front : Stamp := 0
  /-- a BOLT packet in progress: a wait's bolt address and its flips at registration (R141), or 0 and the identity of
  an arrive -/
  boltWait : Option (Nat × Nat) := none
deriving DecidableEq, Repr

/-- One stage of an accepted launch (Table 16.7, R390). -/
structure StageRun where
  entry : Word
  n : Nat
  x : Nat
  tiles : Nat
  share : Nat
  queue : Word
  header : Head
  minInst : Nat
  maxInst : Nat
  dies : BitVec 8
  claim : Nat
deriving DecidableEq, Repr

/-- An accepted launch (R389 to R393). -/
structure Launch where
  id : Nat
  ctx : Nat
  prio : Nat
  arg : Word
  stages : List StageRun
  compl : Word
  irq : Bool
  vec : Nat
  /-- launch queue and packet index, for a queue packet -/
  queue : Option (Nat × BitVec 32)
  /-- the identity a ticket names, for `dlaunch` (R394) -/
  ticket : Option Nat
  /-- graph and node, for a launch node (Table 6.6) -/
  node : Option (Nat × Nat)
  /-- instances bound over its life -/
  total : Nat
  /-- bolt whose next flip closes stage 0, and its flip count at acceptance (R393) -/
  closeBolt : Option (Nat × Nat)
  /-- that bolt's virtual address -/
  closeVa : Word
  close0 : Bool
  front : Stamp
  die : Nat
  handle : Nat
deriving DecidableEq, Repr

/-- A packet's completion that is not done (R388): where its record goes, what it says, and, once it is written, what
covers the writes. -/
structure Completion where
  die : Nat
  dxp : Word
  compl : Word
  irq : Bool
  vec : Nat
  status : Nat
  info : Word
  src : Nat
  wrote : Option Stamp
deriving DecidableEq, Repr

/-- A saved context the runtime holds (R408, R414). -/
structure Saved where
  id : Nat
  binding : Binding
  area : Word
  dxp : Word
  core : Nat
  arrivals : List Arrival
  claims : List Claim
  tickets : List (Nat × Nat × Nat)
  rebound : List Nat
  gen : BitVec 32
  /-- counts at the `vsplit` (R442) -/
  splitCounts : List Word
  /-- the share kind it is to be restored on until that is refused (R440) -/
  share : Option Nat
  /-- the share it was saved from, whose buffers its copy commands name: groups (R84) -/
  groups : BitVec 4
  /-- what its copy commands have put into a buffer since: buffer, offset, bytes (R407) -/
  fills : List (Nat × Nat × List Byte)
  /-- lane-retired notices its threads had not taken (R405) -/
  notices : List (List Nat)
deriving DecidableEq, Repr

/-- The thread whose instruction is executed. -/
structure Cursor where
  seq : Nat
  thr : Nat
deriving DecidableEq, Repr

/-- Which of the permitted schedules is run (log 5): `lazy` loads land and writes apply by their own steps;
`caching` keeps translations, regions, tile buffers and remote copies. -/
structure Sched where
  lazy : Bool
  caching : Bool
deriving DecidableEq, Repr

/-- The module. -/
structure State where
  /-- steps of other agents and of the outside, which happen first: the model's own (log 1) -/
  agenda : List Instr
  cur : Cursor
  /-- whose turn it is: the model's own (log 3) -/
  turn : Nat
  sched : Sched
  /-- free values drawn: the model's own (log 4) -/
  free : Nat
  /-- identities given out, the last one: the model's own (log 9) -/
  nextId : Nat
  threads : Sparse Thread
  seqs : Sparse Seq
  cores : Sparse CorePair
  dies : Sparse Die
  mem : List Host.Cell
  host : List Host.Cell
  lines : Sparse Line
  flights : List Flight
  bolts : Sparse BoltStamps
  resvs : List Resv
  freed : List Claim
  hwqs : List HwQueue
  collapses : List Collapse
  slots : Sparse KeySlot
  slot0 : KeySlot
  ready : Bool
  bootErr : BitVec 8
  rtimer : Word
  eqbase : Word
  eqhead : BitVec 32
  eqtail : BitVec 32
  dropped : Nat
  xlinva : Word
  xlinvb : Word
  repcmd : Word
  /-- the `repcmd` whose replication is in progress (R68); the model's own latch -/
  repRun : Word
  seqkill : Word
  fwcmd : Word
  fwbuf : Word
  fwlen : Word
  featoff : Word
  featacc : Word
  featstat : Word
  featuse : Word
  xtgen : BitVec 16
  xtver : BitVec 32
  femap : BitVec 32
  ppmap : BitVec 24
  podctl : Word
  pwrisl : Sparse Word
  pwrlim : Word
  thermal : Word
  contexts : Sparse Context
  queues : Sparse Queue
  apertures : Sparse (Word × Word × Word × Word)
  launches : List Launch
  /-- completions whose record is not performed, or whose vector is not raised: the model's own latch (R388) -/
  completions : List Completion
  /-- shares freed by a rebind, kept for the stage that asked: core, groups, launch, stage (R396) -/
  grants : List (Nat × Nat × Nat × Nat)
  graphs : List Graph
  saved : List Saved
  /-- ticket values of commands that completed while their issuer was saved (R407): identity, value, whether it is an
  error to report, issuing pc, the command's frontier (R120) -/
  results : List (Nat × Word × Bool × Word × Stamp)
  /-- MSI-X vectors raised, newest first: the module's output (R388, R427) -/
  msix : List Nat
  /-- completions given to the host, or to another module of the pod, newest first; none is an Unsupported Request or a
  failure: output (R97, R425, R435) -/
  replies : List (Option (List Byte))
  /-- requests sent to other modules, newest first: output (R121, R298) -/
  podOut : List (Word × Word)
  /-- the free number the measurements of the boot in force are of (R430): the model's own (log 4) -/
  bootId : Nat
  /-- the memory BAR's base in the host bus map, as PCI Express configuration set it (R40) -/
  barBase : Nat
  /-- whether the root port completes AtomicOp requests (R41, R295) -/
  hostAtomics : Bool
deriving DecidableEq, Repr

/-- Why a step can stop the machine. -/
inductive Fault where
  /-- Raised by `step` when the agenda holds an instruction word, which only a thread executes: the outside asked for
  something that is not a step of an agent. Safe: the machine stops where the hardware has no such event. -/
  | badStimulus
deriving DecidableEq, Repr

/-- Why a step has no meaning. -/
inductive Refusal where
  /-- Raised by `exec`'s arm of an instruction that has no meaning yet. Safe. -/
  | notModelled (mnemonic : String)
deriving DecidableEq, Repr

/-- The machine after a device reset and before its boot (R186, R429; the unit maps are those of a full part, log 7;
values the spec does not give, log 8). No context, queue or sequencer is in use. -/
def State.reset : State where
  agenda := []
  cur := ⟨0, 0⟩
  turn := 0
  sched := ⟨false, false⟩
  free := 0
  nextId := 0
  threads := []
  seqs := []
  cores := []
  dies := []
  mem := []
  host := []
  lines := []
  flights := []
  bolts := []
  resvs := []
  freed := []
  hwqs := []
  collapses := []
  slots := []
  slot0 := { loaded := false }
  ready := false
  bootErr := 0
  rtimer := 0
  eqbase := 0
  eqhead := 0
  eqtail := 0
  dropped := 0
  xlinva := 0
  xlinvb := 0
  repcmd := 0
  repRun := 0
  seqkill := 0
  fwcmd := 0
  fwbuf := 0
  fwlen := 0
  featoff := 0
  featacc := 0
  featstat := 0
  featuse := 0
  xtgen := 3
  xtver := 0
  femap := 0
  ppmap := 0
  podctl := 0
  pwrisl := []
  pwrlim := 2400
  thermal := 0
  contexts := []
  queues := []
  apertures := []
  launches := []
  completions := []
  grants := []
  graphs := []
  saved := []
  results := []
  msix := []
  replies := []
  podOut := []
  bootId := 0
  barBase := 0x4000000000000
  hostAtomics := true

end Sys2Proof.Machine
end

