-- ==== Sys2Proof/Machine/Ops.lean ====
section
/-! DEFINITION. The shared operations over the state: accessors, the two monads of the meanings, memory as a canonical
list, the event queue, registers with their full/empty bits, loop-stack sequencing, retirement, taking a trap (R403)
and returning from it (R404). -/

namespace Sys2Proof.Machine

/-! ## Accessors -/

/-- Number of thread `t` of sequencer `q` in the thread map. -/
def threadKey (c : Cursor) : Nat := 4 * c.seq + c.thr

def State.thread (s : State) (seq thr : Nat) : Thread := Sparse.get {} s.threads (4 * seq + thr)
def State.setThread (s : State) (seq thr : Nat) (t : Thread) : State :=
  { s with threads := Sparse.set s.threads (4 * seq + thr) t }

/-- A thread changed from outside: also the copy of it that an outstanding `qnext` keeps (log 44). -/
def State.mapThread (s : State) (seq thr : Nat) (f : Thread → Thread) : State :=
  let s := s.setThread seq thr (f (s.thread seq thr))
  let q : Seq := Sparse.get {} s.seqs seq
  if thr = 0 && q.shadow.isSome then { s with seqs := Sparse.set s.seqs seq { q with shadow := q.shadow.map f } } else s

/-- The thread being executed. -/
def State.th (s : State) : Thread := Sparse.get {} s.threads (threadKey s.cur)
def State.setTh (s : State) (t : Thread) : State := { s with threads := Sparse.set s.threads (threadKey s.cur) t }

def State.seq (s : State) (q : Nat) : Seq := Sparse.get {} s.seqs q
def State.setSeq (s : State) (q : Nat) (v : Seq) : State := { s with seqs := Sparse.set s.seqs q v }

/-- The sequencer of the thread being executed. -/
def State.sq (s : State) : Seq := s.seq s.cur.seq
def State.setSq (s : State) (v : Seq) : State := s.setSeq s.cur.seq v

def State.core (s : State) (c : Nat) : CorePair := Sparse.get {} s.cores c
def State.setCore (s : State) (c : Nat) (v : CorePair) : State := { s with cores := Sparse.set s.cores c v }

/-- The core, die and slot of the thread being executed (R13, R154). -/
def State.coreNo (s : State) : Nat := s.cur.seq / 4
def State.dieNo (s : State) : Nat := s.cur.seq / 128
def State.slotNo (s : State) : Nat := s.cur.seq % 4
def State.cp (s : State) : CorePair := s.core s.coreNo
def State.setCp (s : State) (v : CorePair) : State := s.setCore s.coreNo v

def State.die (s : State) (d : Nat) : Die := Sparse.get {} s.dies d
def State.setDie (s : State) (d : Nat) (v : Die) : State := { s with dies := Sparse.set s.dies d v }

def State.context (s : State) (c : Nat) : Context := Sparse.get {} s.contexts c
def State.setContext (s : State) (c : Nat) (v : Context) : State := { s with contexts := Sparse.set s.contexts c v }

def State.queue (s : State) (q : Nat) : Queue := Sparse.get {} s.queues q
def State.setQueue (s : State) (q : Nat) (v : Queue) : State := { s with queues := Sparse.set s.queues q v }

/-- The context of the thread being executed (R153); 0 where it is unbound. -/
def State.ctxNo (s : State) : Nat :=
  match s.sq.bound with
  | some b => b.ctx
  | none => 0

/-- Key slot i (R43); slot 0 apart, because boot loads it. -/
def State.slot (s : State) (i : Nat) : KeySlot := if i = 0 then s.slot0 else Sparse.get {} s.slots i
def State.setSlot (s : State) (i : Nat) (v : KeySlot) : State :=
  if i = 0 then { s with slot0 := v } else { s with slots := Sparse.set s.slots i v }

/-- Whether the committed set holds a feature bit (R227, R230). -/
def State.feature (s : State) (i : Nat) : Bool := s.featuse.getLsbD i

/-- A fresh free value (log 4). -/
def State.draw (s : State) : Word × State := (Config.freeWord s.free, { s with free := s.free + 1 })

/-- A request crosses the peer links: each live port has sent, and replayed, a free number of flits (R434, log 15). -/
def State.peerTraffic (s : State) : State :=
  (List.range 24).foldl (fun (s : State) p =>
    let d := Sparse.get {} s.dies (p / 3)
    let v := Sparse.get {} d.port (p % 3)
    if !v.live then s
    else
      let v := { v with flit := v.flit + Config.freeWord s.free, retry := v.retry + Config.freeWord (s.free + 1) }
      { s with free := s.free + 2, dies := Sparse.set s.dies (p / 3) { d with port := Sparse.set d.port (p % 3) v } }) s

/-- A fresh identity, for commands, barrier occurrences and launches (log 9): never 0. -/
def State.fresh (s : State) : Nat × State := (s.nextId + 1, { s with nextId := s.nextId + 1 })

/-! ## Words and fields -/

def w64 (n : Nat) : Word := BitVec.ofNat 64 n

/-- Bits hi : lo of a dword, as a natural. -/
def fld (w : Word) (hi lo : Nat) : Nat := (w.toNat >>> lo) % 2 ^ (hi + 1 - lo)

/-- The dword with bits hi : lo replaced. -/
def setFld (w : Word) (hi lo : Nat) (v : Nat) : Word :=
  let m := (2 ^ (hi + 1 - lo) - 1) <<< lo
  w64 (w.toNat &&& (2 ^ 64 - 1 - m) ||| ((v % 2 ^ (hi + 1 - lo)) <<< lo))

def bit (w : Word) (i : Nat) : Bool := w.getLsbD i

/-- The signed value of the n low bits of a natural. -/
def sval (n x : Nat) : Int := if x % 2 ^ n < 2 ^ (n - 1) then (x % 2 ^ n : Nat) else (x % 2 ^ n : Nat) - (2 ^ n : Nat)

/-- The n-bit pattern of an integer. -/
def pat (n : Nat) (x : Int) : Nat := (x % (2 ^ n : Nat)).toNat

/-- The 64-bit pattern of an integer. -/
def iword (x : Int) : Word := BitVec.ofInt 64 x

/-! ## The monads of the meanings -/

/-- How a meaning ends early. A page fault goes to the pager first (R54); a wait leaves the thread at the
instruction. -/
inductive Exit where
  | trap (cause : Nat) (tval telem tinfo : Word)
  | page (f : PageFault)
  | wait (w : Wait)
  | refused (r : Refusal)
deriving DecidableEq, Repr

/-- Where the thread continues. -/
inductive Flow where
  /-- at the next word, under `seq_next` (R273) -/
  | seq
  /-- at a jump's target, under `taken` (R274) -/
  | goto (t : Word)
  /-- at the address as given -/
  | raw (t : Word)
  /-- nowhere: the meaning has left the thread as it is to be -/
  | stay
deriving DecidableEq, Repr

/-- A computation on the thread alone: nothing else of the module changes. -/
abbrev T := EStateM Exit Thread

/-- A computation on the module. -/
abbrev M := EStateM Exit State

/-- A thread computation, run on the thread being executed. -/
def liftT {α : Type} (a : T α) : M α := fun s =>
  match a s.th with
  | .ok r t => .ok r (s.setTh t)
  | .error e t => .error e (s.setTh t)

def trapT {α : Type} (cause : Nat) (tval : Word := 0) (telem : Word := 0) (tinfo : Word := 0) : T α :=
  throw (.trap cause tval telem tinfo)
def trapM {α : Type} (cause : Nat) (tval : Word := 0) (telem : Word := 0) (tinfo : Word := 0) : M α :=
  throw (.trap cause tval telem tinfo)
def waitM {α : Type} (w : Wait) : M α := throw (.wait w)

/-! ## Memory as a list -/

/-- The byte at an address: unlisted addresses read 0 (log 6). -/
def memByte : List Host.Cell → Nat → Byte
  | [], _ => 0
  | (a', b) :: m, a => if a = a' then b else memByte m a

/-- The memory with an address no longer listed. -/
def memDel : List Host.Cell → Nat → List Host.Cell
  | [], _ => []
  | (a', b) :: m, a => if a = a' then memDel m a else (a', b) :: memDel m a

/-- The memory with a byte listed at its place among rising addresses. -/
def memIns : List Host.Cell → Nat → Byte → List Host.Cell
  | [], a, b => [(a, b)]
  | (a', b') :: m, a, b =>
    if a < a' then (a, b) :: (a', b') :: m
    else if a = a' then (a, b) :: m
    else (a', b') :: memIns m a b

/-- The memory with one byte replaced, in canonical form: rising addresses, no zero listed. -/
def memPut (m : List Host.Cell) (a : Nat) (b : Byte) : List Host.Cell := if b = 0 then memDel m a else memIns m a b

/-- The canonical form: addresses strictly rising, all at or above the bound, no byte 0. -/
def Memory.wfFrom : Nat → List Host.Cell → Bool
  | _, [] => true
  | lo, (a, b) :: m => decide (lo ≤ a) && b != 0 && Memory.wfFrom (a + 1) m

def Memory.wf (m : List Host.Cell) : Bool := Memory.wfFrom 0 m

/-- Bytes a to a + n - 1, lowest address first. -/
def memBytes (m : List Host.Cell) (a : Nat) : Nat → List Byte
  | 0 => []
  | n + 1 => memByte m a :: memBytes m (a + 1) n

/-- The natural that bytes spell, the first the least significant (R3). -/
def natOfBytes : List Byte → Nat
  | [] => 0
  | b :: bs => b.toNat + 256 * natOfBytes bs

/-- The n low bytes of a natural, the least significant first. -/
def bytesOfNat : Nat → Nat → List Byte
  | 0, _ => []
  | n + 1, v => BitVec.ofNat 8 v :: bytesOfNat n (v / 256)

/-- Cells of bytes stored from an address upward. -/
def cellsAt (a : Nat) : List Byte → List Host.Cell
  | [] => []
  | b :: bs => (a, b) :: cellsAt (a + 1) bs

def memPutAll (m : List Host.Cell) : List Host.Cell → List Host.Cell
  | [] => m
  | (a, b) :: cs => memPutAll (memPut m a b) cs

/-! ## The physical map (R24, R25) -/

/-- What a physical address names (Table 2.2). -/
inductive Place where
  | hbm (die : Nat)
  | window (die : Nat)
  | regs (die off : Nat)
  | host (addr : Nat)
  | hole
deriving DecidableEq, Repr

/-- Bytes of a die's SRAM window (R88). -/
def Die.windowBytes (d : Die) : Nat := d.sdiv * d.ways * 131072

/-- Extents of a die register space (Table 2.3). -/
def regAssigned (off : Nat) : Bool :=
  off < 0x30000 || (0x100000 ≤ off && off < 0x110000) || (0x200000 ≤ off && off < 0x210000) ||
  (0x1000000 ≤ off && off < 0x1004000) || (0x2000000 ≤ off && off < 0x2003000)

/-- What lies at a physical address, reserved and unpopulated addresses being holes (R26). -/
def State.place (s : State) (pa : Nat) : Place :=
  if pa < 0x8000000000 then
    let d := pa / 0x1000000000
    if pa % 0x1000000000 < (s.die d).hbmcap then .hbm d else .hole
  else if pa < 0x10000000000 then .hole
  else if pa < 0x10800000000 then
    let d := (pa - 0x10000000000) / 0x100000000
    if pa % 0x100000000 < (s.die d).windowBytes then .window d else .hole
  else if pa < 0x20000000000 then .hole
  else if pa < 0x20800000000 then
    let d := (pa - 0x20000000000) / 0x100000000
    if regAssigned (pa % 0x100000000) then .regs d (pa % 0x100000000) else .hole
  else if pa < 0x800000000000 then .hole
  else if pa < 0x10000000000000 then .host (pa - 0x800000000000)
  else .hole

/-- Whether the module memory byte at `pa` is in HBM or a window (R99). -/
def Place.isMem : Place → Bool
  | .hbm _ => true
  | .window _ => true
  | _ => false

/-- The home die of a module memory address (R24, R88). -/
def homeDie (pa : Nat) : Nat :=
  if pa < 0x8000000000 then pa / 0x1000000000 else (pa - 0x10000000000) / 0x100000000

/-- The k-th set bit of a map, counting from 0, or the width where there is none. -/
def nthLive (m : Nat) : Nat → Nat → Nat → Nat
  | 0, i, _ => i
  | fuel + 1, i, k =>
    if m.testBit i then (if k = 0 then i else nthLive m fuel (i + 1) (k - 1)) else nthLive m fuel (i + 1) k

/-- A line's number within its home range (R85, R88). -/
def homeLine (pa : Nat) : Nat := if pa < 0x8000000000 then (pa % 0x1000000000) / 128 else (pa % 0x100000000) / 128

/-- Where a module memory line lies on its home die (R85, R88): the physical home slice; for HBM the physical
pseudo-channel and the line within it; for a window line the position among the slice's window lines. -/
structure HomeUnits where
  slice : Nat
  channel : Option Nat
  line : Nat
deriving DecidableEq, Repr

def State.homeUnits (s : State) (pa : Nat) : HomeUnits :=
  let d := s.die (homeDie pa)
  let n := homeLine pa
  let slice := nthLive d.smap.toNat 64 0 (n % d.sdiv)
  if pa < 0x8000000000 then
    ⟨slice, some (nthLive d.pmap.toNat 160 0 ((n / d.sdiv) % d.pdiv)), (n / d.sdiv / d.pdiv) * d.sdiv + n % d.sdiv⟩
  else ⟨slice, none, n / d.sdiv⟩

/-- Whether the slice or channel that holds a module memory address failed in service (R22). -/
def State.unitFailed (s : State) (pa : Nat) : Bool :=
  let d := s.die (homeDie pa)
  if d.sfail = 0 && d.pfail = 0 then false
  else
    let u := s.homeUnits pa
    d.sfail.getLsbD u.slice || (match u.channel with
      | some c => d.pfail.getLsbD c
      | none => false)

/-- Whether a key slot may be used (R43, R44). -/
def State.slotUsable (s : State) (i : Nat) : Bool := (s.slot i).loaded && !(s.slot i).closing

/-- Whether an access of the device's own to its rings and buffers fails (R22, R43): the slice or channel has failed, or
the address is in HBM and key slot 0, under which the device accesses it, may not be used. -/
def State.ownFails (s : State) (pa : Nat) : Bool :=
  s.unitFailed pa || (decide (pa < 0x8000000000) && !s.slotUsable 0)

/-- Bytes that two ranges share. -/
def overlapLen (a n b m : Nat) : Nat := min (a + n) (b + m) - max a b

/-- Bytes of a range that lie in populated HBM or a populated window. -/
def State.memCovered (s : State) (pa n : Nat) : Nat :=
  (List.range 8).foldl (fun r d => r + overlapLen pa n (d * 0x1000000000) (s.die d).hbmcap +
    overlapLen pa n (0x10000000000 + d * 0x100000000) (s.die d).windowBytes) 0

/-- Whether n bytes from `pa` lie wholly in populated HBM, a populated window or host memory: the ring conditions of
R57, R383 and R427. -/
def State.ringOk (s : State) (pa n : Nat) : Bool :=
  s.memCovered pa n = n || decide (0x800000000000 ≤ pa ∧ pa + n ≤ 0x10000000000000)

/-! ## Stamps (R106 to R109) -/

def Stamp.comp (a : Stamp) (d : Nat) : BitVec 32 := a.extractLsb' (32 * d) 32

/-- R109: a is below b. -/
def serialBelow (a b : BitVec 32) : Bool := 1 ≤ (b - a).toNat && (b - a).toNat ≤ 2 ^ 31 - 1

def Stamp.setComp (a : Stamp) (d : Nat) (v : BitVec 32) : Stamp :=
  BitVec.ofNat 256 (a.toNat - (((a.toNat >>> (32 * d)) % 2 ^ 32) <<< (32 * d)) + (v.toNat <<< (32 * d)))

/-- The componentwise later of two stamps; one of zeros is that of a line or bolt that has none, and adds nothing. -/
def Stamp.join (a b : Stamp) : Stamp :=
  if b = 0 then a else if a = 0 then b else
  (List.range 8).foldl (fun r d => if serialBelow (r.comp d) (b.comp d) then r.setComp d (b.comp d) else r) a

/-- Whether a component lags its die's count by 2^30 or more (R109). -/
def State.lags (s : State) (f : Stamp) (d : Nat) : Bool := 2 ^ 30 ≤ ((s.die d).count - f.comp d).toNat

/-- A frontier with every component that lags its die's count by 2^30 or more raised to that count less 2^30 (R109). -/
def State.lift (s : State) (f : Stamp) : Stamp :=
  (List.range 8).foldl (fun r d => if s.lags r d then r.setComp d ((s.die d).count - 0x40000000#32) else r) f

/-- The frontier of a core (R108), under the limit of R109. -/
def State.frontier (s : State) (c : Nat) : Stamp := s.lift (s.core c).frontier

/-- The frontier of the current core. -/
def State.front (s : State) : Stamp := s.frontier s.coreNo

/-- Raise the frontier of a core (R108). -/
def State.raiseFrontier (s : State) (c : Nat) (st : Stamp) : State :=
  s.setCore c { s.core c with frontier := (s.frontier c).join st }

/-- Raise the frontier of the current core. -/
def State.raise (s : State) (st : Stamp) : State := s.raiseFrontier s.coreNo st

/-- Whether die e has still to apply a write of die j that a component covers (R107). A component that j has not yet
given out, as a host write's zero can be after 2^31 stores, covers nothing. -/
def State.behind (s : State) (e j : Nat) (c : BitVec 32) : Bool :=
  serialBelow ((s.die e).applied.comp j) c && !serialBelow (s.die j).count c

/-- The store counts of the dies, as one stamp. -/
def State.counts (s : State) : Stamp := (List.range 8).foldl (fun r d => r.setComp d (s.die d).count) 0

/-- The lead is forked from the thread (R162): nothing that the thread has loaded can have changed since. -/
def Thread.fork (t : Thread) (counts : Stamp) : Thread := { t with forkAt := counts, doubt := false }

/-- The lead is forked from the current thread. -/
def State.fork (s : State) : State := s.setTh (s.th.fork s.counts)

/-- Whether a line with a stamp may have been written since the lead was forked from a thread. -/
def State.sinceFork (s : State) (t : Thread) (st : Stamp) : Bool :=
  (List.range 8).any fun d => serialBelow (t.forkAt.comp d) (st.comp d) || s.lags t.forkAt d

/-- Lines (128 bytes) of module memory. -/
def lineOf (pa : Nat) : Nat := pa / 128

def State.line (s : State) (n : Nat) : Line := Sparse.get {} s.lines n

/-- The 1,024 bits of a line as held at home. -/
def State.lineBits (s : State) (n : Nat) : BitVec 1024 := BitVec.ofNat 1024 (natOfBytes (memBytes s.mem (128 * n) 128))

/-- The bytes of module memory from `pa`, within one line, as a reader under the given key bits sees them (R45): where
the line was written under other key bits, the cipher's bytes. -/
def State.homeBytes (s : State) (pa n : Nat) (key : Option (BitVec 512)) : List Byte :=
  let plain := memBytes s.mem pa n
  match (s.line (lineOf pa)).key, key with
  | some k0, some k =>
    if k0 = k then plain
    else
      let l := recrypt k0 k (128 * lineOf pa) (s.lineBits (lineOf pa))
      (List.range n).map fun i => l.extractLsb' (8 * (pa % 128 + i)) 8
  | _, _ => plain

/-- The line re-filled under new key bits before a write through them (R45). -/
def State.rekey (s : State) (n : Nat) (key : Option (BitVec 512)) : State :=
  match (s.line n).key, key with
  | some k0, some k =>
    if k0 = k then s
    else
      let l := recrypt k0 k (128 * n) (s.lineBits n)
      { s with mem := memPutAll s.mem (cellsAt (128 * n) (bytesOfNat 128 l.toNat)),
               lines := Sparse.set s.lines n { s.line n with key := some k } }
  | none, some k => { s with lines := Sparse.set s.lines n { s.line n with key := some k } }
  | _, none => s

/-- Prefetched lines that nothing has used are lost, and counted in `fabpfwaste` (R94). -/
def CorePair.waste (c : CorePair) (p : Nat → Bool) : CorePair :=
  let n := (c.prefetched.filter p).length
  if n = 0 then c
  else { c with prefetched := c.prefetched.filter fun l => !p l,
                counters := Sparse.set c.counters 0x215 (Sparse.get 0 c.counters 0x215 + w64 n) }

/-- A line leaves a core's tile buffer. -/
def CorePair.dropTile (c : CorePair) (p : Nat → Bool) : CorePair :=
  { c with tileBuffer := c.tileBuffer.filter fun l => !p l }

/-- Every copy of a line outside its home goes. -/
def State.dropCopies (s : State) (line : Nat) : State :=
  if s.sched.caching then
    { s with
      dies := s.dies.map fun (k, d) => (k, { d with copies := d.copies.filter fun c => c.1 ≠ line }),
      lines := Sparse.set s.lines line { s.line line with holders := 0 },
      cores := s.cores.map fun (k, c) => (k, (c.dropTile (· = line)).waste (· = line)) }
  else s

/-- A plain physical write of bytes within one line, with no stamp: the device's own writes of records, entries and
page tables. -/
def State.physWrite (s : State) (pa : Nat) (bs : List Byte) (key : Option (BitVec 512)) : State :=
  match s.place pa with
  | .host a => { s with host := memPutAll s.host (cellsAt a bs) }
  | .hbm _ =>
    let s := (s.rekey (lineOf pa) key).dropCopies (lineOf pa)
    { s with mem := memPutAll s.mem (cellsAt pa bs) }
  | .window _ =>
    let s := s.dropCopies (lineOf pa)
    { s with mem := memPutAll s.mem (cellsAt pa bs) }
  | _ => s

/-- The bytes at a physical address within one line, with no ordering. -/
def State.physRead (s : State) (pa n : Nat) (key : Option (BitVec 512)) : List Byte :=
  match s.place pa with
  | .host a => memBytes s.host a n
  | .hbm _ => s.homeBytes pa n key
  | .window _ => memBytes s.mem pa n
  | _ => List.replicate n 0

/-- Key bits of slot 0, under which the device's rings in HBM are written. -/
def State.key0 (s : State) : Option (BitVec 512) := some s.slot0.key

def dwordBytes (w : Word) : List Byte := bytesOfNat 8 w.toNat

/-! ## The event queue (R427) -/

/-- Raise an MSI-X vector. -/
def State.raiseVector (s : State) (v : Nat) : State := { s with msix := v :: s.msix }

/-- The first dword of an entry of the event queue (Table 18.6). -/
def eventWord (ph kind die core slot dropped code : Nat) : Word :=
  w64 (ph * 2 ^ 63 + kind % 128 * 2 ^ 56 + die % 8 * 2 ^ 53 + core % 32 * 2 ^ 48 + slot % 4 * 2 ^ 46 +
    dropped % 2 ^ 14 * 2 ^ 32 + code % 2 ^ 32)

/-- Write an entry of the event queue, or count it dropped (R427, Table 18.6): also where the write of the entry would
fail (R22, R43; DESIGN CHOICE, log 49). -/
def State.event (s : State) (kind die core slot code : Nat) (data addr aux : Word) : State :=
  let n := fld s.eqbase 3 0
  let base := fld s.eqbase 63 6 * 64
  let a := base + 32 * (s.eqtail.toNat % 2 ^ n)
  if n < 6 || 12 < n || !s.ringOk base (32 * 2 ^ n) || 2 ^ n ≤ (s.eqtail - s.eqhead).toNat || s.ownFails a then
    { s with dropped := min (s.dropped + 1) 0x3FFF }
  else
    let ph : Nat := if (s.eqtail.toNat / 2 ^ n) % 2 = 0 then 1 else 0
    let d0 := eventWord ph kind die core slot s.dropped code
    let empty := s.eqtail = s.eqhead
    let s := s.physWrite a (dwordBytes d0 ++ dwordBytes data ++ dwordBytes addr ++ dwordBytes aux) s.key0
    let s := { s with eqtail := s.eqtail + 1, dropped := 0 }
    if empty then s.raiseVector 8 else s

/-- An event that names a sequencer. -/
def State.seqEvent (s : State) (kind q code : Nat) (data addr : Word) : State :=
  s.event kind (q / 128) (q / 4 % 32) (q % 4) code data addr 0

/-! ## The trace buffer and the strip history (R420 to R423) -/

/-- Whether the trace registers enable the current slot's thread. -/
def CorePair.traced (c : CorePair) (slot : Nat) : Bool := bit c.trcctl (8 + slot)
def CorePair.frozen (c : CorePair) : Bool := bit c.trcctl 63

/-- The register `cycle`: it has moved on by a free amount since it was last read (log 4). -/
def State.readCycle (s : State) : Word × State :=
  let (n, s) := s.draw
  (s.cp.cycle + n, s.setCp { s.cp with cycle := s.cp.cycle + n })

/-- Record a trace entry of a kind (R422). Kinds 1 to 4 need their EN bit. -/
def State.traceEntry (s : State) (kind : Nat) (dw : Word) : State :=
  let c := s.cp
  if c.frozen || !c.traced s.slotNo || (kind ≤ 4 && !bit c.trcctl (kind - 1)) then s
  else
    let (cyc, s) := s.readCycle
    let c := s.cp
    let d0 := w64 (kind <<< 60 ||| s.slotNo <<< 58 ||| s.cur.thr <<< 56 ||| cyc.toNat % 2 ^ 56)
    s.setCp { c with trace := ((d0, dw) :: c.trace).take 4096, trcpos := c.trcpos + 1 }

/-- Bytes of an element width exponent of `vtype.etype` (Table 8.6): log2 of the element bytes. -/
def ewLog (etype : Nat) : Nat :=
  if etype < 8 then etype % 4 else if etype ≤ 9 then 1 else if etype = 10 then 2 else 0

/-- One bits of a mask below n. -/
def popBelow (m : Nat) : Nat → Nat
  | 0 => 0
  | n + 1 => (if m.testBit n then 1 else 0) + popBelow m n

/-- Whether a word's major is one the strip history records (R420). -/
def histMajor (w : IWord) : Bool :=
  let op := (w >>> 25).toNat
  (0x30 ≤ op && op ≤ 0x3D) || op = 0x40 || op = 0x41

/-- The strip-history entry of the instruction just ended (Table 17.7): `vl` and the active elements are those it began
with. -/
def Thread.pushHist (t : Thread) (cap : Nat) (pc : Word) (trapped : Bool) : Thread :=
  let vl := t.opVl % 8192
  let info := w64 (vl * 2 ^ 51 + ewLog (fld t.vtype 3 0) * 2 ^ 48 + popBelow t.opMask.toNat vl * 2 ^ 35 +
    (if t.opFirst.isSome then 2 ^ 34 else 0) + (if trapped then 2 ^ 33 else 0) + t.opStart.toNat % 8192 * 2 ^ 20)
  { t with hist := (⟨pc, t.opFirst.getD 0, t.opLast.getD 0, info⟩ :: t.hist).take cap, histN := t.histN + 1 }

/-- History entries a thread owns: 256, 128 or 64 by share, divided among split threads (R420). -/
def Seq.histCap (q : Seq) : Nat :=
  (256 * ((if q.groups.getLsbD 0 then 1 else 0) + (if q.groups.getLsbD 1 then 1 else 0) +
    (if q.groups.getLsbD 2 then 1 else 0) + (if q.groups.getLsbD 3 then 1 else 0)) / 4) / q.split

def State.history (s : State) (pc : Word) (trapped : Bool) : State :=
  if histMajor s.th.ir then s.setTh (s.th.pushHist s.sq.histCap pc trapped) else s

/-! ## Loops and sequencing (R273, R274) -/

/-- `seq_next(p)` of R273, and the thread with its loop stack advanced. -/
def seqNext (t : Thread) (p : Word) : Word × Thread :=
  go 7 t
where
  go : Nat → Thread → Word × Thread
    | 0, t => (p + 4, t)
    | fuel + 1, t =>
      let e := t.ldepth.toNat - 1
      if t.ldepth.toNat = 0 || p ≠ Sparse.get 0 t.leend e then (p + 4, t)
      else if Sparse.get 0 t.lecnt e ≠ 0 then
        (Sparse.get 0 t.lebeg e,
          { t with lecnt := Sparse.set t.lecnt e (Sparse.get 0 t.lecnt e - 1),
                   leidx := Sparse.set t.leidx e (Sparse.get 0 t.leidx e + 1) })
      else go fuel { t with ldepth := w64 e }

/-- `taken(t)` of R274: pop every level whose body lacks the target. -/
def takenDepth (t : Thread) (target : Word) : Nat → Nat
  | 0 => 0
  | e + 1 =>
    if (Sparse.get 0 t.lebeg e).toNat ≤ target.toNat && target.toNat ≤ (Sparse.get 0 t.leend e).toNat then e + 1
    else takenDepth t target e

/-- The thread past an instruction at its pc that completed and continues as given. -/
def Thread.advance (t : Thread) : Flow → Thread
  | .seq =>
    let (n, t') := seqNext t t.pc
    { t' with pc := n }
  | .goto target => { t with ldepth := w64 (takenDepth t target t.ldepth.toNat), pc := target }
  | .raw target => { t with pc := target }
  | .stay => t

/-- Retirement: the count, the position, and what the debug buffers record (R220, R420, R422). -/
def retire (f : Flow) (s : State) : State :=
  match f with
  | .stay => s
  | _ =>
    let pc := s.th.pc
    let s := s.setTh { (s.th.advance f) with instret := s.th.instret + 1, wait := .none, ended := .retired }
    let s := s.history pc false
    match f with
    | .goto t => s.traceEntry 1 t
    | _ => s

/-! ## Registers and results outstanding (R188, R189) -/

def Thread.xFull (t : Thread) (r : Nat) : Bool := r = 0 || !t.xempty.getLsbD r
def Thread.getX (t : Thread) (r : Nat) : Word := if r = 0 then 0 else Sparse.get 0 t.x r
def Thread.setX (t : Thread) (r : Nat) (v : Word) : Thread :=
  if r = 0 then t else { t with x := Sparse.set t.x r v }

def Thread.emptyX (t : Thread) (r : Nat) : Thread :=
  if r = 0 then t else { t with xempty := t.xempty ||| (1#32 <<< r) }
def Thread.fillX (t : Thread) (r : Nat) (v : Word) : Thread :=
  { t.setX r v with xempty := t.xempty &&& ~~~(1#32 <<< r) }

def Thread.vreg (t : Thread) (k : Nat) : VReg := Sparse.get {} t.v k
def Thread.setVreg (t : Thread) (k : Nat) (r : VReg) : Thread := { t with v := Sparse.set t.v k r }

/-- An outstanding result has no time bound: a ticket, or a `qnext`'s work (R407). -/
def Pend.unbounded : Pend → Bool
  | .ticket _ _ => true
  | .claim _ _ _ _ => true
  | _ => false

def Pend.isTicket : Pend → Bool
  | .ticket _ _ => true
  | _ => false

/-- A `qnext` of the thread is outstanding. -/
def Thread.claiming (t : Thread) : Bool := t.pend.any fun p => p.unbounded && !p.isTicket

/-- Every outstanding result that has a time bound lands (R220, R407). -/
def Thread.landAll (t : Thread) : Thread :=
  let t' := t.pend.foldl (fun t p => match p with
    | .scalar r v => t.fillX r v
    | .vector r v => t.setVreg r { v with empty := false }
    | .ticket _ _ => t
    | .claim _ _ _ _ => t) t
  { t' with pend := t.pend.filter Pend.unbounded }

/-! ## Taking a trap, and returning from one (R403, R404) -/

/-- R285 steps 2 and 3 and R403: the sequencer stops issuing and is reported. CODE is 0 for `halt`, else the cause. -/
def stopSeq (code : Nat) (pc : Word) (s : State) : State :=
  let q := s.cur.seq
  (s.setSq { s.sq with stopped := true }).seqEvent 1 q code 0 pc

/-- `tloop` of Table 17.2: the depth, and LECNT of each level saturated at 1,023. -/
def Thread.tloopNow (t : Thread) : Word :=
  let d := t.ldepth.toNat
  w64 (d <<< 61 ||| ((List.range d).foldl (fun r j =>
    r ||| (min (Sparse.get 0 t.lecnt (d - 1 - j)).toNat 1023) <<< (10 * j)) 0))

/-- The trap registers written and the level changed (R403), with the handler's address. -/
def Thread.enter (t : Thread) (cause : Nat) (p tval telem tinfo vec : Word) : Thread :=
  { t with
    tpc := p, tcause := w64 cause, tval := tval, telem := telem, tinfo := tinfo, tloop := t.tloopNow,
    tstat := w64 (32 + (if t.level = .supervisor then 16 else 0) + t.ldepth.toNat % 8),
    ldepth := 0, level := .supervisor, pc := vec, wait := .none, region := none, ended := .trapped }

/-- Taking a trap other than pre-emption and yield at boundary `p` (R403): every earlier instruction is complete (R220);
the handler is entered on the thread, or the sequencer stops where there is no handler or NEST is 1. -/
def enterTrap (cause : Nat) (p tval telem tinfo : Word) (s : State) : State :=
  let s := s.setTh s.th.landAll
  if s.sq.tvec = 0 ∨ bit s.th.tstat 5 = true then
    stopSeq cause p (s.setTh { s.th with wait := .none, ended := .trapped })
  else s.setTh (s.th.enter cause p tval telem tinfo s.sq.tvec)

/-- A trap at the current instruction, with what the debug buffers record of it. -/
def takeTrap (cause : Nat) (tval telem tinfo : Word) (s : State) : State :=
  let p := s.th.pc
  let s := s.history p true
  enterTrap cause p tval telem tinfo (s.traceEntry 4 (w64 cause))

/-- A trap of a notice at a boundary, which is of no instruction (R401). -/
def boundaryTrap (cause : Nat) (tval telem : Word) (s : State) : State :=
  enterTrap cause s.th.pc tval telem 0 (s.traceEntry 4 (w64 cause))

/-- `eret` (R404): level, `ldepth` and NEST restored; the position is `tpc`. An LDEP of 7, which `ldepth` cannot hold
(R271), leaves it as it is (log 48). -/
def Thread.eret (t : Thread) : Thread :=
  { t with
    level := if bit t.tstat 4 then .supervisor else .program,
    ldepth := if fld t.tstat 2 0 = 7 then t.ldepth else w64 (fld t.tstat 2 0),
    tstat := setFld t.tstat 5 5 0, pc := t.tpc, region := none }

/-! ## Page faults and the pager (R54 to R58) -/

/-- `tinfo` of a memory fault (Table 17.2): REM, and the stride where it fits 32 bits. -/
def faultInfo (rem : Nat) (stride : Word) : Word :=
  let st : Nat := if -2 ^ 31 < stride.toInt ∧ stride.toInt < 2 ^ 31 then stride.toNat % 2 ^ 32 else 0x80000000
  w64 (rem % 2 ^ 32 * 2 ^ 32 + st)

/-- Whether a die's fault queue is closed, or its next record cannot be written (R57): the ring does not lie in memory,
or the write of the slot at the tail would fail (R22, R43). -/
def State.fqClosed (s : State) (d : Nat) : Bool :=
  let v := s.die d
  let n := fld v.fqbase 3 0
  let base := fld v.fqbase 63 6 * 64
  n < 6 || 12 < n || !s.ringOk base (64 * 2 ^ n) || s.ownFails (base + 64 * (v.fqtail.toNat % 2 ^ n))

/-- A Deliver answer, or a closed queue: the trap is taken as a page fault (R57, R58). -/
def deliverFault (f : PageFault) (s : State) : State :=
  takeTrap f.cause f.va (w64 f.telem) (faultInfo f.rem f.stride)
    (s.setTh { s.th with vstart := w64 f.resume })

/-- A page fault of the thread: recorded and answered under R54 to R59, or taken at once while the queue is closed. -/
def pageFault (f : PageFault) (s : State) : State :=
  if s.fqClosed s.dieNo then deliverFault f s
  else s.setTh { s.th with wait := .record f, ended := .waiting,
                           vstart := if f.kind = 0 ∨ f.kind = 3 ∨ f.kind = 7 ∨ f.kind = 10 then s.th.vstart
                             else w64 f.resume }

/-! ## Running a meaning -/

/-- The state after a meaning ended early. A trap past a `qnext` that is outstanding is taken once that is complete
(R220). -/
def finish (e : Exit) (s : State) : Host.Outcome State Fault Refusal :=
  match e with
  | .trap cause tval telem tinfo =>
    if s.th.claiming then .next (s.setTh { s.th with wait := .trap cause tval telem tinfo, ended := .waiting })
    else .next (takeTrap cause tval telem tinfo s)
  | .page f => .next (pageFault f s)
  | .wait w => .next (s.setTh { s.th with wait := w, ended := .waiting })
  | .refused r => .refused r

/-- Whether trigger `j` of the core is enabled, is of one of some kinds, and compares equal (R423). -/
def CorePair.trigHit (c : CorePair) (j : Nat) (kinds : List Nat) (addr : Word) : Bool :=
  let ctl := Sparse.get 0 c.trgctl j
  let m := fld ctl 5 0
  bit ctl 63 && kinds.contains (fld ctl 61 60) && (Sparse.get 0 c.trgaddr j).toNat >>> m = addr.toNat >>> m

/-- The triggers of the core of some kinds against an address: the state with the matches recorded, and whether one of
them also traps. A match sets FROZEN; two record two entries, in trigger order. -/
def trigger (kinds : List Nat) (addr : Word) (s : State) : Bool × State :=
  if !s.cp.traced s.slotNo then (false, s)
  else
    let h0 := s.cp.trigHit 0 kinds addr
    let h1 := s.cp.trigHit 1 kinds addr
    let act := (h0 && bit (Sparse.get 0 s.cp.trgctl 0) 62) || (h1 && bit (Sparse.get 0 s.cp.trgctl 1) 62)
    let frozen := s.cp.frozen
    let s := if h0 then s.traceEntry 5 0 else s
    let s := if h1 then s.traceEntry 5 1 else s
    if (h0 || h1) && !frozen then
      (act, s.setCp { s.cp with trcctl := s.cp.trcctl ||| 0x8000000000000000#64 })
    else (act, s)

/-- Whether a thread in a wait has begun the instruction at its position. -/
def Wait.begun : Wait → Bool
  | .none | .fetch | .order | .trap _ _ _ _ => false
  | _ => true

/-- A program-counter trigger, before the instruction has effect (R423). -/
def pcTrigger : M Unit := fun s =>
  if s.th.wait.begun then .ok () s
  else
    match trigger [0] s.th.pc s with
    | (true, s') => .error (.trap 0x22 s.th.pc 0 0) s'
    | (false, s') => .ok () s'

/-- The mask of the active elements: all, where `vmsk` masks nothing. -/
def Thread.activeMask (t : Thread) : BitVec 4096 :=
  if bit t.vmsk 4 then BitVec.allOnes 4096 else Sparse.get 0 t.k (fld t.vmsk 3 0)

/-- An instruction begins: the fields of the strip history that name its issue (R420), and no part of it performed. One
that goes on after a wait keeps them. -/
def Thread.begin (t : Thread) : Thread :=
  if t.wait.begun then t
  else
    { t with
      opStart := t.vstart, opFirst := none, opLast := none, opVl := t.vl.toNat, opMask := t.activeMask, past := [],
      missed := none }

/-- Part k of the current element: performed once. An instruction that goes on after a wait takes what it gave before
(R58, R130). -/
def once (k : Nat) (act : M Nat) : M Nat := fun s =>
  match s.th.past[k]? with
  | some v => .ok v s
  | none =>
    match act s with
    | .ok v s' => .ok v (s'.setTh { s'.th with past := s'.th.past ++ [v] })
    | .error e s' => .error e s'

/-- A part that gives no value. -/
def onceU (k : Nat) (act : M Unit) : M Unit := do
  let _ ← once k (do act; pure 0)

/-- Run a meaning as one instruction of the current thread. -/
def run (act : M Flow) (s : State) : Host.Outcome State Fault Refusal :=
  match pcTrigger (s.setTh s.th.begin) with
  | .error e s' => finish e s'
  | .ok _ s' =>
    match act s' with
    | .ok f s'' => .next (retire f s'')
    | .error e s'' => finish e s''

/-- Run a meaning that touches the thread alone. -/
def runT (act : T Flow) (s : State) : Host.Outcome State Fault Refusal := run (liftT act) s

/-- Run a thread meaning that continues at the next word. -/
def runS (act : T Unit) (s : State) : Host.Outcome State Fault Refusal := run (liftT (act *> pure .seq)) s

/-! ## Operands of scalar registers (R188, R189) -/

/-- `src` of Table 8.15 for a scalar register: an empty one traps under policy 1 and waits under policy 0. -/
def rx (r : BitVec 5) (p : Bool) : T Word := fun t =>
  if t.xFull r.toNat then .ok (t.getX r.toNat) t
  else if p then .error (.trap 0x0D (w64 r.toNat) 0 0) t
  else .error (.wait .regs) t

/-- An instruction whose destination is empty waits until it is full (R189). -/
def destX (r : BitVec 5) : T Unit := fun t => if t.xFull r.toNat then .ok () t else .error (.wait .regs) t

/-- Write a scalar destination, after waiting for it. -/
def wx (r : BitVec 5) (v : Word) : T Unit := fun t =>
  if t.xFull r.toNat then .ok () (t.setX r.toNat v) else .error (.wait .regs) t

/-- An instruction of supervisor level at program level is illegal (R263): `tval` is the word. -/
def illegal {α : Type} : T α := fun t => .error (.trap 0x01 (w64 t.ir.toNat) 0 0) t
def supervisorOnly : T Unit := fun t =>
  if t.level = .supervisor then .ok () t else .error (.trap 0x01 (w64 t.ir.toNat) 0 0) t

def getT : T Thread := fun t => .ok t t
def modT (f : Thread → Thread) : T Unit := fun t => .ok () (f t)
def getS : M State := fun s => .ok s s
def modS (f : State → State) : M Unit := fun s => .ok () (f s)

/-- A gated form whose feature bit is not committed is illegal (R194). -/
def needFeature (i : Nat) : M Unit := fun s =>
  if s.feature i then .ok () s else .error (.trap 0x01 (w64 s.th.ir.toNat) 0 0) s

/-- The thread is one of a split sequencer (R157). -/
def notSplit : M Unit := fun s =>
  if s.sq.split = 1 then .ok () s else .error (.trap 0x03 0 0 0) s

end Sys2Proof.Machine
end

