-- ==== Sys2Proof/Machine/Flags.lean ====
section
/-! DEFINITION. Numbers and flags (10_numbers.md): exact values, the rounding of R243 and R244, every floating
operation with the flags of Table 10.3, integer division, fixed-point rounding, conversions, the tumbler formats,
block scales, and the recording of flags for a scalar (R211). A floating function answers the bits and the flags, NX
being bit 0 and AB bit 5. -/

namespace Sys2Proof.Machine

/-! ## Flags -/

def fNX : Nat := 1
def fUF : Nat := 2
def fOF : Nat := 4
def fDZ : Nat := 8
def fNV : Nat := 16
def fAB : Nat := 32

/-! ## Formats and exact values -/

/-- A floating format (Table 10.1): exponent and fraction widths. -/
structure Fmt where
  eb : Nat
  fb : Nat
deriving DecidableEq, Repr

def f64 : Fmt := ⟨11, 52⟩
def f32 : Fmt := ⟨8, 23⟩
def f16 : Fmt := ⟨5, 10⟩
def bf16 : Fmt := ⟨8, 7⟩

def Fmt.bias (t : Fmt) : Nat := 2 ^ (t.eb - 1) - 1
def Fmt.width (t : Fmt) : Nat := 1 + t.eb + t.fb
/-- Exponent of the smallest normal. -/
def Fmt.emin (t : Fmt) : Int := 1 - (t.bias : Int)
/-- The canonical NaN (R242). -/
def Fmt.nan (t : Fmt) : Nat := (2 ^ t.eb - 1) <<< t.fb ||| 2 ^ (t.fb - 1)
def Fmt.inf (t : Fmt) (neg : Bool) : Nat := (2 ^ t.eb - 1) <<< t.fb ||| (if neg then 2 ^ (t.eb + t.fb) else 0)
def Fmt.maxFinite (t : Fmt) (neg : Bool) : Nat :=
  ((2 ^ t.eb - 1) <<< t.fb) - 1 + (if neg then 2 ^ (t.eb + t.fb) else 0)
def Fmt.zero (t : Fmt) (neg : Bool) : Nat := if neg then 2 ^ (t.eb + t.fb) else 0

/-- An exact value: a NaN (signalling or not, abandoned or not), an infinity, or sign, m and e of m × 2^e. -/
inductive FVal where
  | nan (sig abn : Bool)
  | inf (neg : Bool)
  | num (neg : Bool) (m : Nat) (e : Int)
deriving DecidableEq, Repr

/-- Whether bits are the abandoned result (R256). -/
def isAbn (t : Fmt) (x : Nat) : Bool :=
  (t = f32 && x / 65536 = 0x7FAA) || (t = bf16 && x = 0x7FAA)

/-- The value of a format's bits. -/
def Fmt.val (t : Fmt) (x0 : Nat) : FVal :=
  let x := x0 % 2 ^ t.width
  let neg := x.testBit (t.eb + t.fb)
  let ex := (x >>> t.fb) % 2 ^ t.eb
  let fr := x % 2 ^ t.fb
  if ex = 2 ^ t.eb - 1 then
    if fr = 0 then .inf neg else .nan (!fr.testBit (t.fb - 1)) (isAbn t x)
  else if ex = 0 then .num neg fr (t.emin - t.fb)
  else .num neg (2 ^ t.fb + fr) (t.emin - t.fb + (ex - 1 : Nat))

def FVal.neg? : FVal → Bool
  | .nan _ _ => false
  | .inf n => n
  | .num n _ _ => n

def FVal.isNan : FVal → Bool
  | .nan _ _ => true
  | _ => false

def FVal.isZero : FVal → Bool
  | .num _ 0 _ => true
  | _ => false

/-- NV for a signalling NaN, AB as well for an abandoned one (R242, R258). -/
def FVal.nanFlags : FVal → Nat
  | .nan sig abn => (if sig then fNV else 0) ||| (if abn then fNV ||| fAB else 0)
  | _ => 0

def bitLen (m : Nat) : Nat := if m = 0 then 0 else Nat.log2 m + 1

/-! ## Rounding (R243, R244) -/

/-- Round m / 2^d to a natural under a mode, the sign being given; and whether it was inexact. -/
def roundShift (mode : Nat) (neg : Bool) (m d : Nat) : Nat × Bool :=
  if d = 0 then (m, false)
  else
    let v := m >>> d
    let r := m % 2 ^ d
    let half := 2 ^ (d - 1)
    let up :=
      if mode = 0 then decide (half < r) || (r = half && v % 2 = 1)
      else if mode = 1 then false
      else if mode = 2 then neg && r != 0
      else if mode = 3 then !neg && r != 0
      else decide (half ≤ r)
    (if up then v + 1 else v, r != 0)

/-- Round m × 2^e to a multiple of 2^q: the multiple and whether it was inexact. -/
def roundAt (mode : Nat) (neg : Bool) (m : Nat) (e q : Int) : Nat × Bool :=
  if q ≤ e then (m <<< (e - q).toNat, false) else roundShift mode neg m (q - e).toNat

/-- Overflow results (Table 10.2), `big` being the largest finite magnitude's bits. -/
def overflowBits (t : Fmt) (mode : Nat) (neg : Bool) (big : Nat) : Nat :=
  if mode = 1 ∨ (mode = 2 ∧ neg = false) ∨ (mode = 3 ∧ neg = true) then big + t.zero neg else t.inf neg

/-- Round an exact nonzero value to p significant bits of a format: below the normal range, to the p − 1 fraction bits of
the smallest normal (R262). -/
def roundTo (t : Fmt) (p : Nat) (mode : Nat) (neg : Bool) (m : Nat) (e : Int) : Nat × Nat :=
  if m = 0 then (t.zero neg, 0)
  else
    let ex : Int := e + (bitLen m : Nat) - 1
    let qmin : Int := t.emin - t.fb
    let q : Int := max (ex - (p - 1 : Nat)) (t.emin - (p - 1 : Nat))
    let (n, inexact) := roundAt mode neg m e q
    -- n has at most t.fb + 1 bits, or is the power of two above them: its encoding is exact
    let sh := (q - qmin).toNat
    let ln := bitLen n
    let bits :=
      if n = 0 then 0
      else if ln + sh ≤ t.fb + 1 then n <<< sh
      else
        let k := ln + sh - (t.fb + 1)
        (n <<< (t.fb + 1 - ln)) >>> (ln - (t.fb + 1)) + k * 2 ^ t.fb
    if (2 ^ t.eb - 1) <<< t.fb ≤ bits then
      let big := (((2 ^ t.eb - 1) <<< t.fb) - 2 ^ (t.fb + 1 - p))
      (overflowBits t mode neg big, fOF ||| fNX)
    else
      let tiny := ex < t.emin && !(ex = t.emin - 1 &&
        (roundAt mode neg m e (ex - (p - 1 : Nat))).1 = 2 ^ p)
      (bits + t.zero neg, (if inexact then fNX else 0) ||| (if inexact && tiny then fUF else 0))

/-- `round_f64` and its siblings on an exact value (Table 8.15). -/
def Fmt.round (t : Fmt) (mode : Nat) (neg : Bool) (m : Nat) (e : Int) : Nat × Nat := roundTo t (t.fb + 1) mode neg m e

/-! ## Exact sums and products -/

/-- Signed integer of a sign and magnitude scaled from exponent e to exponent q ≤ e. -/
def scaled (neg : Bool) (m : Nat) (e q : Int) : Int :=
  let v : Int := ((m <<< (e - q).toNat : Nat) : Int)
  if neg then -v else v

/-- The exact product of two values, with NV for 0 × ∞. A NaN operand gives a quiet NaN; its flags are apart. -/
def FVal.mul (x y : FVal) : FVal × Nat :=
  match x, y with
  | .nan _ _, _ => (.nan false false, 0)
  | _, .nan _ _ => (.nan false false, 0)
  | .inf a, .inf b => (.inf (a != b), 0)
  | .inf a, .num b m _ => if m = 0 then (.nan false false, fNV) else (.inf (a != b), 0)
  | .num a m _, .inf b => if m = 0 then (.nan false false, fNV) else (.inf (a != b), 0)
  | .num a m e, .num b n g => (.num (a != b) (m * n) (e + g), 0)

/-- Exponent at or below every finite term's. -/
def minExp : List FVal → Int → Int
  | [], q => q
  | .num _ m e :: l, q => if m = 0 then minExp l q else minExp l (min e q)
  | _ :: l, q => minExp l q

/-- The exact sum of finite terms at an exponent. -/
def sumAt (q : Int) : List FVal → Int
  | [] => 0
  | .num n m e :: l => (if m = 0 then 0 else scaled n m e q) + sumAt q l
  | _ :: l => sumAt q l

/-- The exact sum of terms, rounded once: NaNs give the canonical NaN, infinities of both signs NV; a zero sum's sign
follows R244. Flags of signalling operands are the caller's. -/
def sumRound (t : Fmt) (mode : Nat) (terms : List FVal) : Nat × Nat :=
  let pos := terms.any (fun x => x = .inf false)
  let ng := terms.any (fun x => x = .inf true)
  if pos && ng then (t.nan, fNV)
  else if terms.any FVal.isNan then (t.nan, 0)
  else
    if pos then (t.inf false, 0)
    else if ng then (t.inf true, 0)
    else
      let q := minExp terms 4096
      let v := sumAt q terms
      if v = 0 then
        if terms.all FVal.neg? && terms ≠ [] then (t.zero true, 0)
        else if terms.all (fun x => !x.neg?) then (t.zero false, 0)
        else (t.zero (mode = 2), 0)
      else t.round mode (v < 0) v.natAbs q

/-! ## Operations on bits -/

def fAdd (t : Fmt) (mode x y : Nat) : Nat × Nat :=
  let a := t.val x; let b := t.val y
  let (r, f) := sumRound t mode [a, b]
  (r, f ||| a.nanFlags ||| b.nanFlags)

/-- Sign of a value inverted. -/
def FVal.negate : FVal → FVal
  | .nan s a => .nan s a
  | .inf n => .inf !n
  | .num n m e => .num (!n) m e

def fSub (t : Fmt) (mode x y : Nat) : Nat × Nat :=
  let a := t.val x; let b := t.val y
  let (r, f) := sumRound t mode [a, b.negate]
  (r, f ||| a.nanFlags ||| b.nanFlags)

def fMul (t : Fmt) (mode x y : Nat) : Nat × Nat :=
  let a := t.val x; let b := t.val y
  let (p, f) := a.mul b
  let fl := f ||| a.nanFlags ||| b.nanFlags
  match p with
  | .nan _ _ => (t.nan, fl)
  | .inf n => (t.inf n, fl)
  | .num n m e => let (r, g) := t.round mode n m e; (r, g ||| fl)

/-- x × y + z rounded once; `sub` subtracts the product. -/
def fFma (t : Fmt) (mode : Nat) (sub : Bool) (x y z : Nat) : Nat × Nat :=
  let a := t.val x; let b := t.val y; let c := t.val z
  let (p, f) := a.mul b
  let p := if sub then p.negate else p
  let (r, g) := sumRound t mode [p, c]
  (r, g ||| f ||| a.nanFlags ||| b.nanFlags ||| c.nanFlags)

/-- A quotient m / n × 2^e with its remainder folded into a lowest bit: at least 130 significant bits. -/
def quot (m n : Nat) (e : Int) : Nat × Int :=
  let k := bitLen n + 130
  let a := m <<< k
  (2 * (a / n) + (if a % n = 0 then 0 else 1), e - (k : Nat) - 1)

def fDiv (t : Fmt) (mode x y : Nat) : Nat × Nat :=
  let a := t.val x; let b := t.val y
  let fl := a.nanFlags ||| b.nanFlags
  match a, b with
  | .nan _ _, _ => (t.nan, fl)
  | _, .nan _ _ => (t.nan, fl)
  | .inf _, .inf _ => (t.nan, fNV)
  | .inf p, .num n _ _ => (t.inf (p != n), 0)
  | .num p _ _, .inf n => (t.zero (p != n), 0)
  | .num p m e, .num n k g =>
    if k = 0 then (if m = 0 then (t.nan, fNV) else (t.inf (p != n), fDZ))
    else if m = 0 then (t.zero (p != n), 0)
    else
      let (q, h) := quot m k (e - g)
      t.round mode (p != n) q h

/-- Integer square root of n below 2^(2 × bits), bit by bit. -/
def isqrt (n : Nat) : Nat → Nat → Nat
  | 0, r => r
  | b + 1, r => isqrt n b (if (r + 2 ^ b) * (r + 2 ^ b) ≤ n then r + 2 ^ b else r)

/-- √(m × 2^e) with a lowest bit for the remainder. -/
def rootOf (m : Nat) (e : Int) : Nat × Int :=
  let k := 2 * 70 + (if e % 2 = 0 then 0 else 1)
  let a := m <<< k
  let r := isqrt a ((bitLen a + 1) / 2 + 1) 0
  (2 * r + (if r * r = a then 0 else 1), (e - (k : Nat)) / 2 - 1)

def fSqrt (t : Fmt) (mode x : Nat) : Nat × Nat :=
  match t.val x with
  | .nan s a => (t.nan, (FVal.nan s a).nanFlags)
  | .inf false => (t.inf false, 0)
  | .inf true => (t.nan, fNV)
  | .num n m e =>
    if m = 0 then (t.zero n, 0)
    else if n then (t.nan, fNV)
    else let (r, h) := rootOf m e; t.round mode false r h

/-- Order of two values that are not NaNs: none of `<`, `=`, `>` is left out. −0 equals +0. -/
def fvCmp (x y : FVal) : Ordering :=
  match x, y with
  | .inf a, .inf b => if a = b then .eq else if a then .lt else .gt
  | .inf a, _ => if a then .lt else .gt
  | _, .inf b => if b then .gt else .lt
  | .num a m e, .num b n g =>
    let q := min e g
    compare (scaled a m e q) (scaled b n g q)
  | _, _ => .eq

/-- `fmin` (`mx` false) and `fmax`: −0 below +0; a NaN gives the other operand (Table 11.5). -/
def fMinMax (t : Fmt) (mx : Bool) (x y : Nat) : Nat × Nat :=
  let x := x % 2 ^ t.width; let y := y % 2 ^ t.width
  let a := t.val x; let b := t.val y
  let fl := a.nanFlags ||| b.nanFlags
  if a.isNan && b.isNan then (t.nan, fl)
  else if a.isNan then (y, fl)
  else if b.isNan then (x, fl)
  else
    let less := fvCmp a b = .lt || (fvCmp a b = .eq && a.neg? && !b.neg?)
    (if less = mx then y else x, fl)

def fNeg (t : Fmt) (x : Nat) : Nat × Nat :=
  let x := x % 2 ^ t.width
  if (t.val x).isNan then (t.nan, (t.val x).nanFlags) else (x ^^^ 2 ^ (t.eb + t.fb), 0)

def fAbs (t : Fmt) (x : Nat) : Nat × Nat :=
  let x := x % 2 ^ t.width
  if (t.val x).isNan then (t.nan, (t.val x).nanFlags) else (x % 2 ^ (t.eb + t.fb), 0)

/-- `feq`: NV only for a signalling NaN. -/
def fEq (t : Fmt) (x y : Nat) : Nat × Nat :=
  let a := t.val x; let b := t.val y
  if a.isNan || b.isNan then (0, a.nanFlags ||| b.nanFlags)
  else (if fvCmp a b = .eq then 1 else 0, 0)

/-- `flt`, `fle`: NV for any NaN. -/
def fLess (t : Fmt) (orEq : Bool) (x y : Nat) : Nat × Nat :=
  let a := t.val x; let b := t.val y
  if a.isNan || b.isNan then (0, fNV ||| a.nanFlags ||| b.nanFlags)
  else (if fvCmp a b = .lt || (orEq && fvCmp a b = .eq) then 1 else 0, 0)

/-- `fclass` (Table 11.5); an abandoned operand raises NV and AB (R268). -/
def fClass (t : Fmt) (x : Nat) : Nat × Nat :=
  match t.val x with
  | .nan s a => (if s then 256 else 512, if a then fNV ||| fAB else 0)
  | .inf n => (if n then 1 else 128, 0)
  | .num n m _ =>
    if m = 0 then (if n then 8 else 16, 0)
    else if m < 2 ^ t.fb then (if n then 4 else 32, 0)
    else (if n then 2 else 64, 0)

/-- A value to an n-bit integer, signed or natural (R247). The answer is the integer. -/
def FVal.toInt (mode : Nat) (signed : Bool) (n : Nat) (v : FVal) : Int × Nat :=
  let hi : Int := if signed then 2 ^ (n - 1) - 1 else 2 ^ n - 1
  let lo : Int := if signed then -(2 ^ (n - 1)) else 0
  match v with
  | .nan _ a => (hi, fNV ||| (if a then fAB else 0))
  | .inf s => (if s then lo else hi, fNV)
  | .num s m e =>
    let (v, inex) := roundAt mode s m e 0
    let iv : Int := if s then -(v : Int) else v
    if hi < iv then (hi, fNV) else if iv < lo then (lo, fNV) else (iv, if inex then fNX else 0)

/-- Floating to an n-bit integer. -/
def fToInt (t : Fmt) (mode : Nat) (signed : Bool) (n x : Nat) : Int × Nat := (t.val x).toInt mode signed n

/-- An integer to floating (R248). -/
def fOfInt (t : Fmt) (mode : Nat) (v : Int) : Nat × Nat := t.round mode (v < 0) v.natAbs 0

/-- Between formats (R248); f32 to bf16 and back carry the abandoned result (R257). -/
def fCvt (s t : Fmt) (mode x : Nat) : Nat × Nat :=
  let x := x % 2 ^ s.width
  if isAbn s x && ((s = f32 && t = bf16) || (s = bf16 && t = f32)) then
    (if t = bf16 then 0x7FAA else 0x7FAA0000, 0)
  else
    match s.val x with
    | .nan g a => (t.nan, (FVal.nan g a).nanFlags)
    | .inf n => (t.inf n, 0)
    | .num n m e => t.round mode n m e

/-- Significant bits of an estimate (R262). -/
def Fmt.estBits (t : Fmt) : Nat := min 12 (t.fb + 1)

/-- `vfrec` (Table 10.9). -/
def fRec (t : Fmt) (mode x : Nat) : Nat × Nat :=
  match t.val x with
  | .nan s a => (t.nan, (FVal.nan s a).nanFlags)
  | .inf n => (t.zero n, 0)
  | .num n m e =>
    if m = 0 then (t.inf n, fDZ)
    else let (q, h) := quot 1 m (-e); roundTo t t.estBits mode n q h

/-- `vfrsq` (Table 10.10): 1 ÷ √(m × 2^e) = √(2^2k ÷ m') × 2^… with a lowest bit for the remainder. -/
def fRsq (t : Fmt) (mode x : Nat) : Nat × Nat :=
  match t.val x with
  | .nan s a => (t.nan, (FVal.nan s a).nanFlags)
  | .inf n => if n then (t.nan, fNV) else (t.zero false, 0)
  | .num n m e =>
    if m = 0 then (t.inf n, fDZ)
    else if n then (t.nan, fNV)
    else
      let odd := e % 2 ≠ 0
      let m' := if odd then 2 * m else m
      let e' : Int := if odd then e - 1 else e
      let k := 2 * (bitLen m' + 70)
      let a := 2 ^ k / m'
      let r := isqrt a ((bitLen a + 1) / 2 + 1) 0
      let exact := r * r * m' = 2 ^ k
      roundTo t t.estBits mode false (2 * r + (if exact then 0 else 1)) (-(k / 2 : Nat) - e' / 2 - 1)

/-- The shortening of `vfreca` and `vfrsqa` (R198): fraction bits below the six most significant of a finite nonzero
result cleared. -/
def fShorten (t : Fmt) (r : Nat) : Nat :=
  match t.val r with
  | .num n m _ =>
    if m = 0 then r
    else
      let body := r % 2 ^ (t.eb + t.fb)
      (body >>> (t.fb - 6)) <<< (t.fb - 6) + t.zero n
  | _ => r

/-! ## Integers -/

/-- Quotient truncated toward zero and remainder of the dividend's sign (R239), on n-bit patterns. -/
def intDiv (signed : Bool) (n x y : Nat) : Nat × Nat :=
  let x := x % 2 ^ n; let y := y % 2 ^ n
  if y = 0 then (2 ^ n - 1, x)
  else if signed then
    let a := sval n x; let b := sval n y
    (pat n (Int.tdiv a b), pat n (Int.tmod a b))
  else (x / y, x % y)

/-- `xround` (R246) of an exact integer. -/
def xround (xrm : Nat) (x : Int) (d : Nat) : Int :=
  if d = 0 then x
  else
    let v := x / 2 ^ d
    let r := (x - v * 2 ^ d).toNat
    let top := decide (2 ^ (d - 1) ≤ r)
    if xrm = 0 then v + (if top then 1 else 0)
    else if xrm = 1 then v + (if top && (r ≠ 2 ^ (d - 1) || v % 2 = 1) then 1 else 0)
    else if xrm = 2 then v
    else if r ≠ 0 && v % 2 = 0 then v + 1
    else v

/-- Clamp to the n-bit range, and whether it was clamped (`sat_i`, `sat_n`). -/
def satTo (signed : Bool) (n : Nat) (x : Int) : Nat × Bool :=
  let hi : Int := if signed then 2 ^ (n - 1) - 1 else 2 ^ n - 1
  let lo : Int := if signed then -(2 ^ (n - 1)) else 0
  if hi < x then (pat n hi, true) else if x < lo then (pat n lo, true) else (pat n x, false)

/-- `fit_i`, `fit_n`: `sat` when `vtype.sat` is 1, else `wrap` (R238). -/
def fitTo (sat signed : Bool) (n : Nat) (x : Int) : Nat × Bool :=
  if sat then satTo signed n x else (pat n x, false)

/-! ## Tumbler formats (R249 to R254) -/

/-- Leading bits equal to bit `i` of `x`, from bit i down to bit 0. -/
def runLen (x : Nat) (b : Bool) : Nat → Nat
  | 0 => 0
  | i + 1 => if x.testBit i = b then 1 + runLen x b i else 0

/-- Magnitude m × 2^e of a nonzero tb8 body (R249). -/
def tb8Mag (body : Nat) : Nat × Int :=
  let one := body.testBit 6
  let m := runLen body one 7
  let k : Int := if one then (m : Int) - 1 else -(m : Int)
  let left := 7 - min 7 (m + 1)
  let e : Nat := if left ≥ 1 then (if body.testBit (left - 1) then 1 else 0) else 0
  let nf := left - 1
  (2 ^ nf + body % 2 ^ nf, 2 * k + e - nf)

/-- Magnitude of a nonzero tb6 body (R250). -/
def tb6Mag (body : Nat) : Nat × Int :=
  let one := body.testBit 4
  let m := runLen body one 5
  let k : Int := if one then (m : Int) - 1 else -(m : Int)
  let nf := 5 - min 5 (m + 1)
  (2 ^ nf + body % 2 ^ nf, k - nf)

/-- A tumbler element decoded: `six` for a tb6 container. A void gives a signalling NaN, so that its consumer raises
NV (R250, R251). -/
def tbVal (six : Bool) (c : Nat) : FVal :=
  let c := c % 256
  if six then
    if 64 ≤ c || c = 32 then .nan true false
    else if c = 0 then .num false 0 0
    else let (m, e) := tb6Mag (c % 32); .num (c.testBit 5) m e
  else
    if c = 128 then .nan true false
    else if c = 0 then .num false 0 0
    else let (m, e) := tb8Mag (c % 128); .num (c.testBit 7) m e

/-- The body whose magnitude is the largest not above the value at exponent −24, scanning upward from `b`. -/
def tbFloor (six : Bool) (v : Nat) : Nat → Nat → Nat
  | 0, b => b
  | fuel + 1, b =>
    let (m, e) := if six then tb6Mag (b + 1) else tb8Mag (b + 1)
    if m <<< (e + 24).toNat ≤ v then tbFloor six v fuel (b + 1) else b

/-- `enc_tb8` and `enc_tb6` of an exact value (R252). The magnitude is scaled to 2^−24 units, with a lowest bit for
what is cut, so that ties are seen exactly. -/
def tbEnc (six : Bool) (x : FVal) : Nat × Nat :=
  let sgn := if six then 32 else 128
  let top := if six then 31 else 127
  match x with
  | .nan _ a => (sgn, fNV ||| (if a then fAB else 0))
  | .inf n => (top + (if n then sgn else 0), fOF ||| fNX)
  | .num n m e =>
    if m = 0 then (0, 0)
    else
      -- units of 2^-26: bits below are folded into bit 0
      let v2 : Nat :=
        if -26 ≤ e then (m <<< (min 4096 (e + 26).toNat))
        else
          let d := (-26 - e).toNat
          let d := min d (bitLen m + 1)
          2 * ((m >>> d) / 2) + (if m % 2 ^ (d + 1) = 0 then 0 else 1)
      let mag (b : Nat) : Nat := if b = 0 then 0 else
        let (mm, ee) := if six then tb6Mag b else tb8Mag b
        mm <<< (ee + 26).toNat
      if mag top < v2 then (top + (if n then sgn else 0), fOF ||| fNX)
      else
        let lo := tbFloor six (v2 / 4) top 0
        let lo := if lo = 0 then 0 else lo
        if mag lo = v2 then (lo + (if n then sgn else 0), 0)
        else
          let hi := lo + 1
          let dl := 2 * (v2 - mag lo)
          let gap := mag hi - mag lo
          let b := if dl < gap then lo else if gap < dl then hi else if lo % 2 = 0 then lo else hi
          let fl := if lo = 0 then fUF ||| fNX else fNX
          (if b = 0 then 0 else b + (if n then sgn else 0), fl)

/-- A scale byte applied to a decoded element (R254): 2^(b − 127), or a void group. -/
def scaleVal (b : Nat) (x : FVal) : FVal :=
  if b = 255 then .nan true false
  else
    match x with
    | .num n m e => .num n m (e + b - 127)
    | v => v

/-! ## Recording flags (R210, R211) -/

/-- The rounding mode in force. -/
def Thread.mode (t : Thread) : Nat := fld t.frm 2 0

/-- `raise(0, f)`: flags recorded; a trapping flag traps with cause 0x11 for AB, else 0x10, after the result is
written, with `vstart` 0. -/
def raiseX (f : Nat) : T Unit := fun t =>
  let t' := { t with fflags := t.fflags ||| w64 f }
  let tr := f &&& (t.ftrap.toNat % 64)
  if tr = 0 then .ok () t'
  else .error (.trap (if tr.testBit 5 then 0x11 else 0x10) 0 0 0) { t' with vstart := 0 }

/-- Set `vxsat` where a result was clamped. -/
def satX (c : Bool) : T Unit := fun t => .ok () (if c then { t with vxsat := t.vxsat ||| 1 } else t)

end Sys2Proof.Machine
end

