-- ==== Sys2Proof/Machine/Operands.lean ====
section
/-! DEFINITION. Operand forms: immediates, vector registers with their declaration and full/empty checks (R77, R187,
R189), masks, the element loop of R316 with exception bits and flags (R184, R211, R318), and the writing back of a
loop's result with its valid length (R413). -/

namespace Sys2Proof.Machine

/-! ## Immediates and addresses -/

/-- A signed field, extended to a dword. -/
def simm {n : Nat} (i : BitVec n) : Word := i.signExtend 64

/-- The IMM of `ldhi` and `pcadd`: `sext`(IMM × 4,096, 32) (R265). -/
def himm (i : BitVec 20) : Word := ((i.setWidth 32) <<< 12).signExtend 64

/-! ## Register checks -/

def Thread.vn (t : Thread) : Nat := fld t.vdecl 13 8
def Thread.vx (t : Thread) : Nat := fld t.vdecl 23 14
def Thread.depth (t : Thread) : Nat := fld t.vdecl 7 4

/-- A vector field within the declaration (R77). -/
def vOk (r : BitVec 5) : T Unit := fun t =>
  if r.toNat < t.vn then .ok () t else .error (.trap 0x02 (w64 r.toNat) 0 0) t

/-- A mask field below 16 (R187). -/
def kOk (r : BitVec 5) : T Unit := fun t =>
  if r.toNat < 16 then .ok () t else .error (.trap 0x02 (w64 r.toNat) 0 0) t

/-- "Distinct" operands (R317): a destination equal to a source is refused. -/
def distinct (d s : BitVec 5) : T Unit := fun t =>
  if d = s then .error (.trap 0x02 (w64 d.toNat) 0 0) t else .ok () t

/-- While VILL is 1 the instruction traps with cause 0x03 (R192). -/
def notVill : T Unit := fun t => if bit t.vtype 63 then .error (.trap 0x03 0 0 0) t else .ok () t

/-- An illegal configuration, cause 0x03, where the condition fails. -/
def need (b : Bool) : T Unit := fun t => if b then .ok () t else .error (.trap 0x03 0 0 0) t

def Thread.etype (t : Thread) : Nat := fld t.vtype 3 0
def Thread.ew (t : Thread) : Nat := 8 <<< ewLog t.etype
def Thread.vlN (t : Thread) : Nat := fld t.vl 12 0
def Thread.startN (t : Thread) : Nat := fld t.vstart 12 0
def Thread.vlmaxN (t : Thread) : Nat := t.vlmaxb.toNat
def Thread.blenN (t : Thread) : Nat := 2 ^ (fld t.vtype 6 4 + 3)
def Thread.satOn (t : Thread) : Bool := bit t.vtype 11
def Thread.xmReg (t : Thread) : Nat := fld t.vtype 10 7

/-- Element types by kind (Table 8.6). -/
def isInt (e : Nat) : Bool := e < 8
def isSigned (e : Nat) : Bool := e < 4
def isFp (e : Nat) : Bool := e = 8 || e = 9 || e = 10
def isTb (e : Nat) : Bool := e = 11 || e = 12
/-- The format of a floating element type. -/
def fmtOf (e : Nat) : Fmt := if e = 8 then bf16 else if e = 9 then f16 else f32

/-! ## Vector registers -/

def Thread.vFull (t : Thread) (k : Nat) : Bool := !(t.vreg k).empty

/-- The `tval` of an empty vector register: file 1 for a named one, 2 for a slot (R189). -/
def vEmptyVal (k : Nat) : Word := if k < 32 then w64 (1 <<< 10 ||| k) else w64 (2 <<< 10 ||| (k - 32))

/-- `src` for a vector register: its bits as a natural. -/
def rvK (k : Nat) (p : Bool) : T Nat := fun t =>
  if t.vFull k then .ok (t.vreg k).bits.toNat t
  else if p then .error (.trap 0x0D (vEmptyVal k) 0 0) t
  else .error (.wait .regs) t
def rv (r : BitVec 5) (p : Bool) : T Nat := rvK r.toNat p

/-- A destination register waits until it is full (R189). -/
def destVK (k : Nat) : T Unit := fun t => if t.vFull k then .ok () t else .error (.wait .regs) t
def destV (r : BitVec 5) : T Unit := destVK r.toNat

/-- Element i of a register's bits at width w. -/
def elemAt (w x i : Nat) : Nat := (x >>> (w * i)) % 2 ^ w

/-- Element i replaced. -/
def setElem (w x i v : Nat) : Nat :=
  let o := w * i
  x - ((x >>> o) % 2 ^ w) <<< o + (v % 2 ^ w) <<< o

/-- Bytes of valid length that reach element i of width w (R413). -/
def vbOf (w i : Nat) : Nat := 8 * (i * w / 64 + 1)

/-- Write back a register's bits; `hi` is one past the highest element written, at width w. -/
def Thread.putV (t : Thread) (k w bits hi : Nat) : Thread :=
  let r := t.vreg k
  if hi = 0 then t
  else t.setVreg k { r with bits := BitVec.ofNat 32768 bits, vb := max r.vb (vbOf w (hi - 1)) }

/-! ## Masks -/

def Thread.mask (t : Thread) (k : Nat) : Nat := (Sparse.get (0 : BitVec 4096) t.k k).toNat
def Thread.setMask (t : Thread) (k m : Nat) : Thread :=
  { t with k := Sparse.set t.k k (BitVec.ofNat 4096 m), kw := t.kw ||| (1#16 <<< k) }

/-- Bit i of a mask's bits replaced. -/
def setBit (m i : Nat) (b : Bool) : Nat :=
  if m.testBit i = b then m else if b then m + 2 ^ i else m - 2 ^ i

/-- `active(i)` as it stands at issue (R316). -/
def Thread.active (t : Thread) (i : Nat) : Bool :=
  bit t.vmsk 4 || (t.mask (fld t.vmsk 3 0)).testBit i

/-- `cactive(j)`. -/
def Thread.cactive (t : Thread) (j : Nat) : Bool :=
  bit t.vmsk 9 || (t.mask (fld t.vmsk 8 5)).testBit j

/-! ## The element loop (R316) -/

/-- What an element's body gives: the value written (none: nothing is), the flags, the exception bit of an integer
row, and whether it saturated. -/
structure ERes where
  val : Option Nat
  fl : Nat := 0
  x : Bool := false
  sat : Bool := false
deriving DecidableEq, Repr

/-- The loop's progress: destination bits, exception mask bits, flags, saturation, one past the highest element
written, and the element and flags of a trap. -/
structure Loop where
  dst : Nat
  xk : Nat
  fl : Nat := 0
  sat : Bool := false
  hi : Nat := 0
  stop : Option (Nat × Nat) := none
deriving DecidableEq, Repr

/-- How the loop runs: the width of a destination element (0: bits of a mask), the elements that take part, whether
an element's exception bit is written, and the trapping flags. -/
structure LoopCfg where
  w : Nat
  act : Nat → Bool
  xm : Nat → Bool
  ftrap : Nat

/-- Element i's result taken into the loop (R211, R318). -/
def Loop.take (c : LoopCfg) (l : Loop) (i : Nat) (r : ERes) : Loop :=
  let dst := match r.val with
    | some v => if c.w = 0 then setBit l.dst i (v % 2 = 1) else setElem c.w l.dst i v
    | none => l.dst
  let xk := if c.xm i then setBit l.xk i (r.x || r.fl ≠ 0) else l.xk
  { dst, xk, fl := l.fl ||| r.fl, sat := l.sat || r.sat,
    hi := if r.val.isSome then i + 1 else l.hi,
    stop := if r.fl &&& c.ftrap ≠ 0 then some (i, r.fl &&& c.ftrap) else none }

/-- The loop over n elements from i. The body sees the destination bits as they stand. -/
def eloop (c : LoopCfg) (body : Nat → Nat → ERes) : Nat → Nat → Loop → Loop
  | 0, _, l => l
  | n + 1, i, l =>
    if c.act i then
      let l' := l.take c i (body i l.dst)
      if l'.stop.isSome then l' else eloop c body n (i + 1) l'
    else eloop c body n (i + 1) l

/-- After a loop: flags, `vxsat`, the exception mask, `vstart`; a trapping flag traps (R211, R245). -/
def endLoop (xm : Bool) (l : Loop) : T Unit := fun t =>
  let t := { t with fflags := t.fflags ||| w64 l.fl, vxsat := if l.sat then t.vxsat ||| 1 else t.vxsat }
  let t := if xm && l.hi ≠ 0 then t.setMask t.xmReg l.xk else t
  match l.stop with
  | none => .ok () { t with vstart := 0 }
  | some (i, f) =>
    .error (.trap (if f.testBit 5 then 0x11 else 0x10) 0 (w64 i) 0) { t with vstart := w64 i }

/-- The configuration of a loop of the thread. -/
def Thread.loopCfg (t : Thread) (w : Nat) (xm : Bool) (fp : Bool) : LoopCfg :=
  ⟨w, t.active, fun _ => xm, if fp then t.ftrap.toNat % 64 else 0⟩

/-- An instruction over elements of a vector destination d at width w. -/
def loopV (d : BitVec 5) (w : Nat) (xm fp : Bool) (body : Nat → Nat → ERes) : T Unit := fun t =>
  let l := eloop (t.loopCfg w xm fp) body (t.vlN - t.startN) t.startN
    { dst := (t.vreg d.toNat).bits.toNat, xk := t.mask t.xmReg }
  endLoop xm l (t.putV d.toNat w l.dst l.hi)

/-- An instruction over bits of a mask destination. -/
def loopK (d : BitVec 5) (xm fp : Bool) (body : Nat → Nat → ERes) : T Unit := fun t =>
  let l := eloop (t.loopCfg 0 xm fp) body (t.vlN - t.startN) t.startN
    { dst := t.mask d.toNat, xk := t.mask t.xmReg }
  endLoop xm l (if l.hi = 0 then t else t.setMask d.toNat l.dst)

/-- Operand B of the `.vs` forms (R315): the low bits of a scalar register stand for every element. -/
def bScalar (w : Nat) (v : Word) : Nat → Nat := fun _ => v.toNat % 2 ^ w
/-- Operand B of the vector forms. -/
def bVector (w x : Nat) : Nat → Nat := fun i => elemAt w x i

/-- The value of an integer element in the type of `vtype.etype`. -/
def ival (e w x : Nat) : Int := if isSigned e then sval w x else ((x % 2 ^ w : Nat) : Int)

end Sys2Proof.Machine
end

