-- ==== Sys2Proof/Machine/Alu.lean ====
section
/-! DEFINITION. Integer arithmetic of the scalar registers: majors 0x04, 0x05, 0x08 to 0x0F, 0x10 and 0x11 (R263 to
R266). -/

namespace Sys2Proof.Machine

/-- A register–register operation (R264): both sources, then the destination. -/
def alu2 (d a b : BitVec 5) (fa fb : Bool) (f : Word → Word → Word) : T Unit := do
  let x ← rx a fa
  let y ← rx b fb
  wx d (f x y)

/-- A one-source operation. -/
def alu1 (d a : BitVec 5) (fa : Bool) (f : Word → Word) : T Unit := do
  let x ← rx a fa
  wx d (f x)

def ofBool (b : Bool) : Word := if b then 1 else 0

/-- Leading zero bits, 0 to 64. -/
def clz64 (a : Word) : Word := w64 (64 - bitLen a.toNat)

/-- Trailing zero bits from bit i of 64. -/
def ctzFrom (a : Nat) : Nat → Nat → Nat
  | 0, i => i
  | n + 1, i => if a.testBit i then i else ctzFrom a n (i + 1)
def ctz64 (a : Word) : Word := w64 (ctzFrom a.toNat 64 0)

/-- One bits of a dword. -/
def cpop64 (a : Word) : Word := w64 (popBelow a.toNat 64)

/-- Bits 127:64 of a product of two integers. -/
def highProd (x y : Int) : Word := BitVec.ofInt 64 (x * y / 2 ^ 64)

/-- `add` (Table 11.1). -/
def execAdd (d : BitVec 5) (a : BitVec 5) (b : BitVec 5) (fa : Bool) (fb : Bool) (s : State) :
    Host.Outcome State Fault Refusal :=
  runS (alu2 d a b fa fb fun x y => x + y) s

/-- `sub` (Table 11.1). -/
def execSub (d : BitVec 5) (a : BitVec 5) (b : BitVec 5) (fa : Bool) (fb : Bool) (s : State) :
    Host.Outcome State Fault Refusal :=
  runS (alu2 d a b fa fb fun x y => x - y) s

/-- `and` (Table 11.1). -/
def execAnd (d : BitVec 5) (a : BitVec 5) (b : BitVec 5) (fa : Bool) (fb : Bool) (s : State) :
    Host.Outcome State Fault Refusal :=
  runS (alu2 d a b fa fb fun x y => x &&& y) s

/-- `or` (Table 11.1). -/
def execOr (d : BitVec 5) (a : BitVec 5) (b : BitVec 5) (fa : Bool) (fb : Bool) (s : State) :
    Host.Outcome State Fault Refusal :=
  runS (alu2 d a b fa fb fun x y => x ||| y) s

/-- `xor` (Table 11.1). -/
def execXor (d : BitVec 5) (a : BitVec 5) (b : BitVec 5) (fa : Bool) (fb : Bool) (s : State) :
    Host.Outcome State Fault Refusal :=
  runS (alu2 d a b fa fb fun x y => x ^^^ y) s

/-- `andn` (Table 11.1). -/
def execAndn (d : BitVec 5) (a : BitVec 5) (b : BitVec 5) (fa : Bool) (fb : Bool) (s : State) :
    Host.Outcome State Fault Refusal :=
  runS (alu2 d a b fa fb fun x y => x &&& ~~~y) s

/-- `sll` (Table 11.1). -/
def execSll (d : BitVec 5) (a : BitVec 5) (b : BitVec 5) (fa : Bool) (fb : Bool) (s : State) :
    Host.Outcome State Fault Refusal :=
  runS (alu2 d a b fa fb fun x y => x <<< (y.toNat % 64)) s

/-- `srl` (Table 11.1). -/
def execSrl (d : BitVec 5) (a : BitVec 5) (b : BitVec 5) (fa : Bool) (fb : Bool) (s : State) :
    Host.Outcome State Fault Refusal :=
  runS (alu2 d a b fa fb fun x y => x >>> (y.toNat % 64)) s

/-- `sra` (Table 11.1). -/
def execSra (d : BitVec 5) (a : BitVec 5) (b : BitVec 5) (fa : Bool) (fb : Bool) (s : State) :
    Host.Outcome State Fault Refusal :=
  runS (alu2 d a b fa fb fun x y => x.sshiftRight (y.toNat % 64)) s

/-- `rol` (Table 11.1). -/
def execRol (d : BitVec 5) (a : BitVec 5) (b : BitVec 5) (fa : Bool) (fb : Bool) (s : State) :
    Host.Outcome State Fault Refusal :=
  runS (alu2 d a b fa fb fun x y => x.rotateLeft (y.toNat % 64)) s

/-- `ror` (Table 11.1). -/
def execRor (d : BitVec 5) (a : BitVec 5) (b : BitVec 5) (fa : Bool) (fb : Bool) (s : State) :
    Host.Outcome State Fault Refusal :=
  runS (alu2 d a b fa fb fun x y => x.rotateRight (y.toNat % 64)) s

/-- `slt` (Table 11.1). -/
def execSlt (d : BitVec 5) (a : BitVec 5) (b : BitVec 5) (fa : Bool) (fb : Bool) (s : State) :
    Host.Outcome State Fault Refusal :=
  runS (alu2 d a b fa fb fun x y => ofBool (x.slt y)) s

/-- `sltn` (Table 11.1). -/
def execSltn (d : BitVec 5) (a : BitVec 5) (b : BitVec 5) (fa : Bool) (fb : Bool) (s : State) :
    Host.Outcome State Fault Refusal :=
  runS (alu2 d a b fa fb fun x y => ofBool (x.ult y)) s

/-- `seq` (Table 11.1). -/
def execSeq (d : BitVec 5) (a : BitVec 5) (b : BitVec 5) (fa : Bool) (fb : Bool) (s : State) :
    Host.Outcome State Fault Refusal :=
  runS (alu2 d a b fa fb fun x y => ofBool (x == y)) s

/-- `min` (Table 11.1). -/
def execMin (d : BitVec 5) (a : BitVec 5) (b : BitVec 5) (fa : Bool) (fb : Bool) (s : State) :
    Host.Outcome State Fault Refusal :=
  runS (alu2 d a b fa fb fun x y => if y.slt x then y else x) s

/-- `max` (Table 11.1). -/
def execMax (d : BitVec 5) (a : BitVec 5) (b : BitVec 5) (fa : Bool) (fb : Bool) (s : State) :
    Host.Outcome State Fault Refusal :=
  runS (alu2 d a b fa fb fun x y => if x.slt y then y else x) s

/-- `minn` (Table 11.1). -/
def execMinn (d : BitVec 5) (a : BitVec 5) (b : BitVec 5) (fa : Bool) (fb : Bool) (s : State) :
    Host.Outcome State Fault Refusal :=
  runS (alu2 d a b fa fb fun x y => if y.ult x then y else x) s

/-- `maxn` (Table 11.1). -/
def execMaxn (d : BitVec 5) (a : BitVec 5) (b : BitVec 5) (fa : Bool) (fb : Bool) (s : State) :
    Host.Outcome State Fault Refusal :=
  runS (alu2 d a b fa fb fun x y => if x.ult y then y else x) s

/-- `mul` (Table 11.3). -/
def execMul (d : BitVec 5) (a : BitVec 5) (b : BitVec 5) (fa : Bool) (fb : Bool) (s : State) :
    Host.Outcome State Fault Refusal :=
  runS (alu2 d a b fa fb fun x y => x * y) s

/-- `mulh` (Table 11.3). -/
def execMulh (d : BitVec 5) (a : BitVec 5) (b : BitVec 5) (fa : Bool) (fb : Bool) (s : State) :
    Host.Outcome State Fault Refusal :=
  runS (alu2 d a b fa fb fun x y => highProd x.toInt y.toInt) s

/-- `mulhn` (Table 11.3). -/
def execMulhn (d : BitVec 5) (a : BitVec 5) (b : BitVec 5) (fa : Bool) (fb : Bool) (s : State) :
    Host.Outcome State Fault Refusal :=
  runS (alu2 d a b fa fb fun x y => highProd x.toNat y.toNat) s

/-- `mulhsn` (Table 11.3). -/
def execMulhsn (d : BitVec 5) (a : BitVec 5) (b : BitVec 5) (fa : Bool) (fb : Bool) (s : State) :
    Host.Outcome State Fault Refusal :=
  runS (alu2 d a b fa fb fun x y => highProd x.toInt y.toNat) s

/-- `div` (Table 11.3). -/
def execDiv (d : BitVec 5) (a : BitVec 5) (b : BitVec 5) (fa : Bool) (fb : Bool) (s : State) :
    Host.Outcome State Fault Refusal :=
  runS (alu2 d a b fa fb fun x y => w64 (intDiv true 64 x.toNat y.toNat).1) s

/-- `divn` (Table 11.3). -/
def execDivn (d : BitVec 5) (a : BitVec 5) (b : BitVec 5) (fa : Bool) (fb : Bool) (s : State) :
    Host.Outcome State Fault Refusal :=
  runS (alu2 d a b fa fb fun x y => w64 (intDiv false 64 x.toNat y.toNat).1) s

/-- `rem` (Table 11.3). -/
def execRem (d : BitVec 5) (a : BitVec 5) (b : BitVec 5) (fa : Bool) (fb : Bool) (s : State) :
    Host.Outcome State Fault Refusal :=
  runS (alu2 d a b fa fb fun x y => w64 (intDiv true 64 x.toNat y.toNat).2) s

/-- `remn` (Table 11.3). -/
def execRemn (d : BitVec 5) (a : BitVec 5) (b : BitVec 5) (fa : Bool) (fb : Bool) (s : State) :
    Host.Outcome State Fault Refusal :=
  runS (alu2 d a b fa fb fun x y => w64 (intDiv false 64 x.toNat y.toNat).2) s

/-- `clz` (Table 11.1). -/
def execClz (d : BitVec 5) (a : BitVec 5) (fa : Bool) (s : State) : Host.Outcome State Fault Refusal :=
  runS (alu1 d a fa (clz64)) s

/-- `ctz` (Table 11.1). -/
def execCtz (d : BitVec 5) (a : BitVec 5) (fa : Bool) (s : State) : Host.Outcome State Fault Refusal :=
  runS (alu1 d a fa (ctz64)) s

/-- `cpop` (Table 11.1). -/
def execCpop (d : BitVec 5) (a : BitVec 5) (fa : Bool) (s : State) : Host.Outcome State Fault Refusal :=
  runS (alu1 d a fa (cpop64)) s

/-- `sext.b` (Table 11.1). -/
def execSextB (d : BitVec 5) (a : BitVec 5) (fa : Bool) (s : State) : Host.Outcome State Fault Refusal :=
  runS (alu1 d a fa (fun x => (x.setWidth 8).signExtend 64)) s

/-- `sext.h` (Table 11.1). -/
def execSextH (d : BitVec 5) (a : BitVec 5) (fa : Bool) (s : State) : Host.Outcome State Fault Refusal :=
  runS (alu1 d a fa (fun x => (x.setWidth 16).signExtend 64)) s

/-- `sext.w` (Table 11.1). -/
def execSextW (d : BitVec 5) (a : BitVec 5) (fa : Bool) (s : State) : Host.Outcome State Fault Refusal :=
  runS (alu1 d a fa (fun x => (x.setWidth 32).signExtend 64)) s

/-- `zext.h` (Table 11.1). -/
def execZextH (d : BitVec 5) (a : BitVec 5) (fa : Bool) (s : State) : Host.Outcome State Fault Refusal :=
  runS (alu1 d a fa (fun x => (x.setWidth 16).setWidth 64)) s

/-- `zext.w` (Table 11.1). -/
def execZextW (d : BitVec 5) (a : BitVec 5) (fa : Bool) (s : State) : Host.Outcome State Fault Refusal :=
  runS (alu1 d a fa (fun x => (x.setWidth 32).setWidth 64)) s

/-- `addi` (Table 11.2). -/
def execAddi (d : BitVec 5) (a : BitVec 5) (fa : Bool) (imm : BitVec 14) (s : State) :
    Host.Outcome State Fault Refusal :=
  runS (alu1 d a fa fun x => x + simm imm) s

/-- `andi` (Table 11.2). -/
def execAndi (d : BitVec 5) (a : BitVec 5) (fa : Bool) (imm : BitVec 14) (s : State) :
    Host.Outcome State Fault Refusal :=
  runS (alu1 d a fa fun x => x &&& simm imm) s

/-- `ori` (Table 11.2). -/
def execOri (d : BitVec 5) (a : BitVec 5) (fa : Bool) (imm : BitVec 14) (s : State) :
    Host.Outcome State Fault Refusal :=
  runS (alu1 d a fa fun x => x ||| simm imm) s

/-- `xori` (Table 11.2). -/
def execXori (d : BitVec 5) (a : BitVec 5) (fa : Bool) (imm : BitVec 14) (s : State) :
    Host.Outcome State Fault Refusal :=
  runS (alu1 d a fa fun x => x ^^^ simm imm) s

/-- `slli` (Table 11.2). -/
def execSlli (d : BitVec 5) (a : BitVec 5) (fa : Bool) (sh : BitVec 6) (s : State) :
    Host.Outcome State Fault Refusal :=
  runS (alu1 d a fa fun x => x <<< sh.toNat) s

/-- `srli` (Table 11.2). -/
def execSrli (d : BitVec 5) (a : BitVec 5) (fa : Bool) (sh : BitVec 6) (s : State) :
    Host.Outcome State Fault Refusal :=
  runS (alu1 d a fa fun x => x >>> sh.toNat) s

/-- `srai` (Table 11.2). -/
def execSrai (d : BitVec 5) (a : BitVec 5) (fa : Bool) (sh : BitVec 6) (s : State) :
    Host.Outcome State Fault Refusal :=
  runS (alu1 d a fa fun x => x.sshiftRight sh.toNat) s

/-- `slti` (Table 11.2). -/
def execSlti (d : BitVec 5) (a : BitVec 5) (fa : Bool) (imm : BitVec 14) (s : State) :
    Host.Outcome State Fault Refusal :=
  runS (alu1 d a fa fun x => ofBool (x.slt (simm imm))) s

/-- `ldhi` (R265). -/
def execLdhi (d : BitVec 5) (imm : BitVec 20) (s : State) : Host.Outcome State Fault Refusal :=
  runS (wx d (himm imm)) s

/-- `pcadd` (R265): relative to its own virtual PC. -/
def execPcadd (d : BitVec 5) (imm : BitVec 20) (s : State) : Host.Outcome State Fault Refusal :=
  runS (do let t ← getT; wx d (t.pc + himm imm)) s

end Sys2Proof.Machine
end

