-- ==== Sys2Proof/Machine/Memory.lean ====
section
/-! DEFINITION. The ordering model's mechanism (05_ordering.md): stamped writes, their application at each die, held
writes and replicas (R70), loads and atomics at home; and translation (R33 to R36, R443) with the A and D updates of
R51. -/

namespace Sys2Proof.Machine

/-! ## Replicas (R67 to R71) -/

/-- Whether a directory entry's home page holds a physical address. -/
def repMatch (e : Word × Word) (pa : Nat) : Bool :=
  let sh := if fld e.1 61 60 = 0 then 0 else if fld e.1 61 60 = 1 then 4 else 9
  (pa / 4096) >>> sh = fld e.1 39 0 >>> sh

/-- The entry of a directory for a page: index and dwords. -/
def repFind (p : Word × Word → Bool) : Sparse (Word × Word) → Option (Nat × Word × Word)
  | [] => none
  | (i, e) :: m => if p e then some (i, e) else repFind p m

/-- The home entry of an address: valid, with LPPN = HPPN (R67). -/
def State.homeEntry (s : State) (pa : Nat) : Option (Nat × Word × Word) :=
  repFind (fun e => bit e.1 63 && repMatch e pa && fld e.2 39 0 = fld e.1 39 0) (s.die (homeDie pa)).rdir

/-- The dies that hold a replica of the page of an address (R70). -/
def State.holders (s : State) (pa : Nat) : BitVec 8 :=
  match s.homeEntry pa with
  | some (_, e) => BitVec.ofNat 8 (fld e.2 47 40)
  | none => 0

/-- Whether a die's directory has a poisoned entry for an address (R71). -/
def State.poisoned (s : State) (die pa : Nat) : Bool :=
  (repFind (fun e => bit e.1 62 && repMatch e pa) (s.die die).rdir).isSome

/-- The address of the replica that serves a read on a die (R69), or the address itself. -/
def State.replicaOf (s : State) (die pa : Nat) : Nat :=
  match repFind (fun e => bit e.1 63 && !bit e.1 62 && repMatch e pa) (s.die die).rdir with
  | some (_, e) =>
    let sz := if fld e.1 61 60 = 0 then 4096 else if fld e.1 61 60 = 1 then 65536 else 2097152
    fld e.2 39 0 * 4096 + pa % sz
  | none => pa

/-- The replica collapse in progress on the page of an address (R70). -/
def State.collapsing (s : State) (pa : Nat) : Option Nat :=
  match s.homeEntry pa with
  | some (_, e) => if s.collapses.any (fun c => c.page = fld e.1 39 0) then some (fld e.1 39 0) else none
  | none => none

/-- A collapse begins where the page has holders and none is in progress (R70 step 1). -/
def State.startCollapse (s : State) (pa : Nat) : State :=
  match s.homeEntry pa with
  | some (_, e) =>
    let page := fld e.1 39 0
    if fld e.2 47 40 ≠ 0 ∧ ¬ s.collapses.any (fun c => c.page = page) then
      { s with collapses := s.collapses ++ [⟨page, BitVec.ofNat 8 (fld e.2 47 40)⟩] }
    else s
  | none => s

/-! ## Writes: injection and application (R106, R107) -/

/-- Whether a die may apply a write: every write below the stamp's own component is applied there, and every write of
the other dies it covers. -/
def State.canApply (s : State) (e origin : Nat) (st : Stamp) : Bool :=
  (List.range 8).all fun j => !s.behind e j (if j = origin then st.comp j - 1 else st.comp j)

/-- A die's count of one origin raised to a stamp's. -/
def Die.markApplied (d : Die) (origin : Nat) (st : Stamp) : Die :=
  if serialBelow (d.applied.comp origin) (st.comp origin) then
    { d with applied := d.applied.setComp origin (st.comp origin) }
  else d

/-- Drop lines from the tile buffers of a die's cores (R80). -/
def State.dropTile (s : State) (die : Nat) (p : Nat → Bool) : State :=
  if s.sched.caching then
    { s with cores := s.cores.map fun (c, v) => (c, if c / 32 = die then v.dropTile p else v) }
  else s

/-- Prefetched lines of a die's cores that nothing has used are wasted (R94). -/
def State.wastePrefetch (s : State) (die : Nat) (p : Nat → Bool) : State :=
  if s.sched.caching then
    { s with cores := s.cores.map fun (c, v) => (c, if c / 32 = die then v.waste p else v) }
  else s

/-- Apply an invalidation at a die: the copy and the tile-buffer copies go (R93). -/
def State.applyInval (s : State) (e : Nat) (i : Inval) : State :=
  let d := (s.die e).markApplied i.origin i.stamp
  let s := s.setDie e { d with copies := d.copies.filter (fun c => c.1 ≠ i.line), invals := d.invals.filter (· ≠ i) }
  (s.dropTile e (· = i.line)).wastePrefetch e (· = i.line)

/-- One pass over a die's invalidations: those whose line it holds no copy of are applied at once; all that can be are
applied when `force` is set. -/
def State.settleDie (s : State) (force : Bool) (e : Nat) : State :=
  (s.die e).invals.foldl (fun s i =>
    if s.canApply e i.origin i.stamp && (force || !(s.die e).copies.any (fun c => c.1 = i.line)) then s.applyInval e i
    else s) s

/-- What a write leaves in its line's record (R126): the release's scope where that is wider, nothing after a plain
write of the whole line. -/
def Line.recordAfter (l : Line) (f : Flight) : Nat :=
  match f.rel with
  | some sc => max l.record (sc + 1)
  | none => if f.cells.length = 128 then 0 else l.record

/-- A write applied at its home slice: the bytes, the line's stamp and record (R126), the home die's count, and
invalidations on their way to the other dies, of which only the line's holders have anything to drop (R93). -/
def State.applyHome (s : State) (f : Flight) : State :=
  let h := homeDie f.pa
  let n := lineOf f.pa
  let s := if f.pa < 0x8000000000 then s.rekey n (some f.key) else s
  let l := s.line n
  let s := { s with mem := memPutAll s.mem f.cells,
                    lines := Sparse.set s.lines n { l with stamp := f.stamp, record := l.recordAfter f, holders := 0 } }
  let s := s.setDie h ((s.die h).markApplied f.die f.stamp)
  let s := s.dropTile h (· = n)
  (List.range 8).foldl (fun s e =>
    if e = h then s
    else if (s.die e).invals = [] && !l.holders.getLsbD e && s.canApply e f.die f.stamp then
      s.setDie e ((s.die e).markApplied f.die f.stamp)
    else
      (s.setDie e { s.die e with invals := (s.die e).invals ++ [⟨n, f.die, f.stamp⟩] }).settleDie false e) s

/-! ## Bolts at their home slices (R134 to R141) -/

/-- A bolt's fields (Table 6.1). -/
structure Bolt where
  ph : Bool
  expArr : Nat
  expBytes : Nat
  ovf : Bool
  arrArr : Nat
  arrBytes : Nat
deriving DecidableEq, Repr

def Bolt.ofWords (d0 d1 : Word) : Bolt :=
  ⟨bit d0 63, fld d0 62 48, fld d0 47 0, bit d1 63, fld d1 62 48, fld d1 47 0⟩

def Bolt.word0 (b : Bolt) : Word := w64 ((if b.ph then 2 ^ 63 else 0) + b.expArr % 2 ^ 15 * 2 ^ 48 + b.expBytes % 2 ^ 48)

/-- ARRARR is kept modulo 2^15: the spec does not say what an arrival beyond 32,767 leaves (log 41). -/
def Bolt.word1 (b : Bolt) : Word := w64 ((if b.ovf then 2 ^ 63 else 0) + b.arrArr % 2 ^ 15 * 2 ^ 48 + b.arrBytes % 2 ^ 48)

/-- The update of R137 before its test: `op` 0 arms, 1 adds bytes, 2 arrives. -/
def Bolt.update (b : Bolt) (op n arr : Nat) : Bolt :=
  if op = 0 then { b with expBytes := n, expArr := arr, ovf := false }
  else if op = 2 ∧ b.arrArr = b.expArr then { b with ovf := true }
  else
    let b := if 0xFFFFFFFFFFFF < b.arrBytes + n then { b with arrBytes := 0xFFFFFFFFFFFF, ovf := true }
      else { b with arrBytes := b.arrBytes + n }
    if op = 2 then { b with arrArr := b.arrArr + 1 } else b

/-- The test of R137: whether the bolt flips, and the bolt after it. -/
def Bolt.test (b : Bolt) : Bool × Bolt :=
  if b.expBytes ≤ b.arrBytes ∧ b.arrArr = b.expArr then
    (true, { b with ovf := b.ovf || decide (b.expBytes < b.arrBytes), ph := !b.ph, arrBytes := 0, arrArr := 0 })
  else (false, b)

/-- The bolt at a physical address, as its parties see it. -/
def State.boltAt (s : State) (pa : Nat) (key : BitVec 512) : Bolt :=
  let bs := s.homeBytes pa 16 (if pa < 0x8000000000 then some key else none)
  .ofWords (w64 (natOfBytes (bs.take 8))) (w64 (natOfBytes (bs.drop 8)))

def State.boltStamps (s : State) (pa : Nat) : BoltStamps := Sparse.get {} s.bolts pa

/-- A thread registered at a bolt is woken by a flip: it acquires the phase's stamps (R140, R141). -/
def State.wakeAt (s : State) (pa : Nat) (ph : Bool) (last : Stamp) : State :=
  s.threads.foldl (fun s (k, t) =>
    match t.wait with
    | .bolt p _ _ =>
      if p = pa then
        ({ s with threads := Sparse.set s.threads k { t with wait := .boltDone ph } }).raiseFrontier (k / 16) last
      else s
    | _ => s) s

/-- The line of a bolt leaves its home slice, as every line does that nothing caches; a window line never does (R88).
Both stamps become the home die's current counts (R139). -/
def State.boltLeaves (s : State) (pa : Nat) : State :=
  if s.sched.caching || 0x8000000000 ≤ pa then s
  else
    let c := (s.die (homeDie pa)).applied
    { s with bolts := Sparse.set s.bolts pa { s.boltStamps pa with opened := c, last := c } }

/-- A bolt operation applied at the bolt's home slice: the update and the test in one step, the bytes, the stamps, and
the waiters a flip wakes (R136, R137, R139). It reads the bolt it updates, so its write also follows what it read. -/
def State.applyBolt (s : State) (f : Flight) (o : BoltOp) : State :=
  let (flip, b) := ((s.boltAt f.pa f.key).update o.op o.n o.arr).test
  let s := s.applyHome { f with stamp := f.stamp.join (s.line (lineOf f.pa)).stamp,
                                cells := cellsAt f.pa (dwordBytes b.word0 ++ dwordBytes b.word1) }
  let q := s.boltStamps f.pa
  let opened := q.opened.join o.joins
  let q' : BoltStamps := if flip then ⟨0, opened, q.flips + 1⟩ else { q with opened := opened }
  let s := { s with bolts := Sparse.set s.bolts f.pa q' }
  (if flip then s.wakeAt f.pa b.ph opened else s).boltLeaves f.pa

/-! ## Flights -/

/-- A write or bolt operation takes effect at its home. One that was in flight when its slice or channel failed still
does, and can never be read there: R22 ends accesses and says nothing of those under way (DESIGN CHOICE, log 49). -/
def State.applyFlight (s : State) (f : Flight) : State :=
  match f.op with
  | none => s.applyHome f
  | some o => s.applyBolt f o

/-- Whether every write that a flight's stamp covers, itself apart, is applied at every die. -/
def State.appliedBelow (s : State) (f : Flight) : Bool :=
  !s.flights.any (fun g => g.id ≠ f.id && !serialBelow (f.stamp.comp g.die) (g.stamp.comp g.die)) &&
  (List.range 8).all fun e => !(s.die e).invals.any fun i => !serialBelow (f.stamp.comp i.origin) (i.stamp.comp i.origin)

/-- Whether a flight can be applied at its home now: no collapse holds it, the writes that were held before it have
been applied (R70), its causal predecessors are applied there (R107), and what a bolt operation releases has been
performed (R113, R138). -/
def State.flightReady (s : State) (f : Flight) : Bool :=
  !f.held && (f.page.isNone || !s.flights.any (fun g => g.page = f.page && g.id < f.id)) &&
  s.canApply (homeDie f.pa) f.die f.stamp && (f.op.isNone || f.rel.isNone || s.appliedBelow f)

/-- Apply, in order, the flights that can be. -/
def State.drainPass (s : State) : State :=
  s.flights.foldl (fun s f =>
    if s.flightReady f then { s with flights := s.flights.filter (fun g => g.id ≠ f.id) }.applyFlight f else s) s

def State.drainN : Nat → State → State
  | 0, s => s
  | n + 1, s => if s.flights = [] then s else State.drainN n s.drainPass

/-- Every write that can be applied is, at every die (a permitted schedule, R107). -/
def State.drain (s : State) : State :=
  let s := State.drainN s.flights.length s
  (List.range 8).foldl (fun s e => State.settleDie (State.settleDie s true e) true e) s

/-- The stamp of a write that enters die `d`'s crossbar (R106). -/
def State.takeStamp (s : State) (d : Nat) (front : Stamp) : Stamp × State :=
  let c := (s.die d).count + 1
  (front.setComp d c, s.setDie d { s.die d with count := c })

/-- Whether some write of a die is so old that the die may not give out `n` further counts before every die has applied
it (R109). -/
def State.overdue (s : State) (d : Nat) (n : Nat := 1) : Bool :=
  let old (c : BitVec 32) : Bool := 2 ^ 30 ≤ ((s.die d).count + BitVec.ofNat 32 n - c).toNat
  s.flights.any (fun f => f.die = d && old (f.stamp.comp d)) ||
  (List.range 8).any fun e => (s.die e).invals.any fun i => i.origin = d && old (i.stamp.comp d)

/-- A stamped write or bolt operation sent to its home: held where its page has replicas, behind the writes already
held there (R70), and applied at once unless the schedule leaves it in flight. -/
def State.sendFlight (s : State) (f : Flight) : State :=
  let held := s.holders f.pa != 0 || (s.collapsing f.pa).isSome
  let s := if held then s.startCollapse f.pa else s
  let f := { f with held, page := s.collapsing f.pa }
  if !s.sched.lazy && s.flightReady f then s.applyFlight f
  else
    let s := { s with flights := s.flights ++ [f] }
    if s.sched.lazy then s else s.drain

/-- Inject a write of cells of one line, at or near `pa`: stamped by die `die`'s crossbar (R106) and sent. Answers the
stamp. -/
def State.injectCells (s : State) (die : Nat) (front : Stamp) (pa : Nat) (cells : List Host.Cell) (key : BitVec 512)
    (rel : Option Nat) (seq : Option Nat) : Stamp × State :=
  let (st, s) := s.takeStamp die front
  let (id, s) := s.fresh
  (st, s.sendFlight { id, die, stamp := st, pa, cells, key, rel, held := false, page := none, seq, op := none })

/-- Bytes within one line injected. -/
def State.inject (s : State) (die : Nat) (front : Stamp) (pa : Nat) (bs : List Byte) (key : BitVec 512)
    (rel : Option Nat) (seq : Option Nat) : Stamp × State := s.injectCells die front pa (cellsAt pa bs) key rel seq

/-- A bolt operation injected from a die (R106, R136): its identity, its stamp. -/
def State.boltSend (s : State) (die : Nat) (front : Stamp) (pa : Nat) (o : BoltOp) (key : BitVec 512)
    (rel : Option Nat) (seq : Option Nat) : Nat × Stamp × State :=
  let (st, s) := s.takeStamp die front
  let (id, s) := s.fresh
  (id, st, s.sendFlight { id, die, stamp := st, pa, cells := [], key, rel, held := false, page := none, seq,
                          op := some o })

/-- Split bytes at a line boundary: pieces of one line each. -/
def linePieces (pa : Nat) (bs : List Byte) : List (Nat × List Byte) :=
  go 64 pa bs
where
  go : Nat → Nat → List Byte → List (Nat × List Byte)
    | 0, _, _ => []
    | fuel + 1, pa, bs =>
      if bs = [] then []
      else
        let n := 128 - pa % 128
        if bs.length ≤ n then [(pa, bs)] else (pa, bs.take n) :: go fuel (pa + n) (bs.drop n)

/-! ## Loads (R104, R108) -/

/-- Whether a die has applied every write a frontier covers. Where nothing is in flight, it has. -/
def State.dieCovers (s : State) (e : Nat) (front : Stamp) : Bool :=
  (s.flights = [] && (s.die e).invals = []) || (List.range 8).all fun j => !s.behind e j (front.comp j)

/-- A copy of a remote line placed in the requesting die's slice n mod S, and the die noted at the home slice (R93). -/
def State.placeCopy (s : State) (e n : Nat) (key : Option (BitVec 512)) : State :=
  let d := s.die e
  let c : Copy := ⟨homeLine (128 * n) % d.sdiv, s.homeBytes (128 * n) 128 key, (s.line n).stamp, key⟩
  { s.setDie e { d with copies := Sparse.set d.copies n c } with
    lines := Sparse.set s.lines n { s.line n with holders := (s.line n).holders ||| 1#8 <<< e } }

/-- The address that serves a read of a page on a die (R69): PBMT 1 is read at home only (R87). -/
def State.servedAt (s : State) (d pa pbmt : Nat) : Nat := if pbmt = 1 then pa else s.replicaOf d pa

/-- The key bits an access to a line needs: none in a window. -/
def lineKeyBits (pa : Nat) (key : BitVec 512) : Option (BitVec 512) := if pa < 0x8000000000 then some key else none

/-- What die `d` serves a read of bytes within one line with, and the stamp of the last write applied to what it serves:
its copy of a remote line, the page's replica, or the home slice. -/
def State.served (s : State) (d pa n : Nat) (key : BitVec 512) (pbmt : Nat) : List Byte × Stamp :=
  let k := lineKeyBits pa key
  let home : List Byte × Stamp := (s.homeBytes (s.servedAt d pa pbmt) n k, (s.line (lineOf pa)).stamp)
  if s.sched.caching && pbmt = 0 && s.servedAt d pa pbmt = pa && d ≠ homeDie pa then
    match (s.die d).copies.find? (fun c => c.1 = lineOf pa) with
    | some (_, c) => if c.key = k then ((c.bytes.drop (pa % 128)).take n, c.stamp) else home
    | none => home
  else home

/-- The copy that a read of a cacheable remote line leaves on the reading die (R93). -/
def State.keepCopy (s : State) (d pa : Nat) (key : BitVec 512) (pbmt : Nat) : State :=
  if s.sched.caching && pbmt = 0 && s.servedAt d pa pbmt = pa && d ≠ homeDie pa &&
      !(s.die d).copies.any (fun c => c.1 = lineOf pa) then s.placeCopy d (lineOf pa) (lineKeyBits pa key)
  else s

/-- A read of bytes within one line of module memory by a party of die `d`, under a frontier: the bytes and the
frontier joined with the stamp of what is served. None where the die must first apply a held write. -/
def State.readLine (s : State) (d : Nat) (front : Stamp) (pa n : Nat) (key : BitVec 512) (pbmt : Nat) :
    Option (List Byte × Stamp × State) :=
  let e := if pbmt = 1 then homeDie pa else d
  let s := if s.dieCovers e front then s else s.drain
  if !s.dieCovers e front then none
  else
    let (bs, st) := s.served d pa n key pbmt
    some (bs, front.join st, s.keepCopy d pa key pbmt)

/-- Whether an atomic step of a party of die `d` under a frontier can be made at a line's home slice now: no replicas to
collapse (R70), and its causal predecessors applied there (R107). -/
def State.atomicReady (s : State) (d : Nat) (front : Stamp) (pa : Nat) : Bool :=
  s.holders pa = 0 && (s.collapsing pa).isNone && !s.overdue d && s.canApply (homeDie pa) d (s.takeStamp d front).1

/-- An atomic update at the home slice of bytes within one line (R103, R118): the old bytes, the new frontier, the
state. None while a held write must come first. One that enters by a peer port carries zero foreign components
(R106). -/
def State.atomicLine (s : State) (peer : Bool) (d : Nat) (front : Stamp) (pa n : Nat) (key : BitVec 512)
    (rel : Option Nat) (f : List Byte → Option (List Byte)) : Option (List Byte × Stamp × State) :=
  let s := s.drain
  if !s.atomicReady d front pa then none
  else
    let k := if pa < 0x8000000000 then some key else none
    let old := s.homeBytes pa n k
    let joined := front.join (s.line (lineOf pa)).stamp
    match f old with
    | none => some (old, joined, s)
    | some new =>
      let (st, s) := s.takeStamp d (if peer then 0 else joined)
      let (id, s) := s.fresh
      some (old, st, s.applyHome { id, die := d, stamp := st, pa, cells := cellsAt pa new, key, rel,
                                               held := false, page := none, seq := none, op := none })

/-! ## Translation -/

/-- What an access asks of its page (R30, R31, R36): Table 3.3's kind, the permissions, whether an IO page takes it,
whether it is an atomic, and its width in bytes. -/
structure Acc where
  kind : Nat
  r : Bool
  w : Bool
  x : Bool
  io : Bool
  atomic : Bool
  size : Nat
deriving DecidableEq, Repr

/-- A translated page access: physical address, memory type after Table 2.5's substitution, key slot, place. -/
structure Target where
  pa : Nat
  pbmt : Nat
  slot : Nat
  place : Place
deriving DecidableEq, Repr

/-- How a walk ends. -/
inductive WalkEnd where
  | leaf (e : Word) (at_ : Nat) (lvl : Nat)
  | page (reason lvl : Nat)
  | access
  /-- a table lies in a part of a window whose size is changing (R89) -/
  | wait
deriving DecidableEq, Repr

/-- Whether an access waits for a window's change of size: it lies at or above the smaller of the two (R89). -/
def State.resizing (s : State) (pa : Nat) : Bool :=
  if 0x10000000000 ≤ pa && pa < 0x10800000000 then
    let d := s.die (homeDie pa)
    match d.newWays with
    | some w => d.sdiv * min w d.ways * 131072 ≤ pa % 0x100000000
    | none => false
  else false

/-- A host bus address under MODE 0xB: HBM through the memory BAR's direct part, host memory, or nothing (R40). The BAR
of 1 TiB lies at a multiple of its size. -/
def State.hostBus (s : State) (h : Nat) : Option Nat :=
  let off := h % 2 ^ 40
  if h / 2 ^ 40 = s.barBase / 2 ^ 40 then if off < 2 ^ 39 then none else some (off - 2 ^ 39)
  else if h < 0xF800000000000 then some (0x800000000000 + h)
  else none

/-- The physical address a PPN names under a MODE. -/
def State.ppnAddr (s : State) (mode ppn off : Nat) : Option Nat :=
  if mode = 0xB then s.hostBus (ppn * 4096 + off) else some (ppn * 4096 + off)

/-- Key slot of the table reads of a walk. -/
def walkSlot (dxp : Word) : Nat := if fld dxp 63 60 = 0xB then 0 else fld dxp 46 40

/-- A page-table entry read, or none where R34 refuses it. -/
def State.pteRead (s : State) (dxp : Word) (pa : Nat) : Option Word :=
  let slot := walkSlot dxp
  match s.place pa with
  | .hbm _ =>
    if s.slotUsable slot && !s.unitFailed pa then
      some (w64 (natOfBytes (s.physRead pa 8 (some (s.slot slot).key)))) else none
  | .window _ => if s.unitFailed pa then none else some (w64 (natOfBytes (s.physRead pa 8 none)))
  | .host _ => some (w64 (natOfBytes (s.physRead pa 8 none)))
  | _ => none

/-- Conditions of R33 and R35 that make a leaf malformed at a level. -/
def leafMalformed (e : Word) (lvl : Nat) : Bool :=
  let ppn := fld e 49 10
  (bit e 2 && !bit e 1) || lvl = 4 || ppn % 2 ^ (9 * lvl) ≠ 0 ||
  (bit e 63 && (lvl > 0 || ppn % 16 ≠ 8))

/-- Conditions of R33 that make a non-leaf malformed. -/
def pointerMalformed (e : Word) (lvl : Nat) : Bool :=
  lvl = 0 || fld e 63 54 ≠ 0 || fld e 7 6 ≠ 0 || bit e 4

/-- One level of the walk: the entry is read and judged (R33, R443 steps 2 and 3 up to the leaf's form); `next`
goes on from the table that a pointer names. Where the 16 entries of a 64 KiB page differ, which R35 lets the device
choose among, the one of the address's own 4 KiB is read (log 42). -/
def State.walkLevel (s : State) (dxp : Word) (va lvl : Nat) (table : Option Nat) (next : Option Nat → WalkEnd) :
    WalkEnd :=
  match table with
  | none => .access
  | some table =>
    let a := table + 8 * ((va >>> (12 + 9 * lvl)) % 512)
    if s.resizing a then .wait else
    match s.pteRead dxp a with
    | none => .access
    | some e =>
      if !bit e 0 then .page 0 lvl
      else if fld e 3 1 = 0 then
        if pointerMalformed e lvl then .page 2 lvl
        else next (s.ppnAddr (fld dxp 63 60) (fld e 49 10) 0)
      else if leafMalformed e lvl then .page 2 lvl
      else .leaf e a lvl

/-- The walk from a table, level by level. -/
def State.walkFrom (s : State) (dxp : Word) (va : Nat) : Nat → Option Nat → WalkEnd
  | 0, table => s.walkLevel dxp va 0 table fun _ => .page 2 0
  | l + 1, table => s.walkLevel dxp va (l + 1) table fun t => State.walkFrom s dxp va l t

/-- Permission check of R36. -/
def permitted (e : Word) (level : Level) (a : Acc) : Bool :=
  (!a.r || bit e 1) && (!a.w || bit e 2) && (!a.x || bit e 3) &&
  (if level = .program then bit e 4 else !(a.x && bit e 4))

/-- Page size in bits of a leaf. -/
def leafBits (e : Word) (lvl : Nat) : Nat := if bit e 63 then 16 else 12 + 9 * lvl

/-- Physical address of a virtual one through a leaf. -/
def State.leafAddr (s : State) (dxp e : Word) (lvl va : Nat) : Option Nat :=
  let b := leafBits e lvl
  let base := ((fld e 49 10 >>> (b - 12)) <<< (b - 12)) * 4096
  let pa := base + va % 2 ^ b
  if fld dxp 63 60 = 0xB then s.hostBus pa else some pa

/-- How a translation ends. -/
inductive Xlat where
  | ok (t : Target)
  | page (reason lvl : Nat)
  | access
  /-- it waits for a window's change of size (R89) -/
  | wait
deriving DecidableEq, Repr

/-- Whether a die reads a cacheable line that is homed on another die through a slice of its own that has failed (R22,
R93; log 49). -/
def State.copySliceFailed (s : State) (die pa : Nat) : Bool :=
  let d := s.die die
  d.sfail != 0 && decide (die ≠ homeDie pa) && decide (s.replicaOf die pa = pa) &&
  d.sfail.getLsbD (nthLive d.smap.toNat 64 0 (homeLine pa % d.sdiv))

/-- The access-fault conditions of R443 step 4 on a leaf, for a party of a die; the target where none holds. A read of
a page with a replica on the die is served from the replica, whose units then count (R22, R69). -/
def State.pageTarget (s : State) (die : Nat) (dxp e : Word) (lvl va : Nat) (a : Acc) : Xlat :=
  if fld e 53 50 ≠ 0 then .access
  else
    match s.leafAddr dxp e lvl va with
    | none => .access
    | some pa =>
      let pbmt := fld e 62 61
      let slot := if fld dxp 63 60 = 0xB then 0 else fld e 60 54
      let failed := s.unitFailed (if a.w then pa else s.servedAt die pa pbmt) ||
        (!a.w && pbmt = 0 && s.copySliceFailed die pa)
      if s.resizing pa then .wait
      else
        match s.place pa with
        | .hole => .access
        | .hbm d => if pbmt = 2 || failed || !s.slotUsable slot then .access else .ok ⟨pa, pbmt, slot, .hbm d⟩
        | .window d => if pbmt = 2 || failed then .access else .ok ⟨pa, pbmt, 0, .window d⟩
        | .regs d off => if pbmt ≠ 2 || !a.io then .access else .ok ⟨pa, 2, 0, .regs d off⟩
        | .host h =>
          if (a.atomic && a.size ≠ 8) || (a.x && pbmt ≠ 0) || (pbmt = 2 && !a.io) then .access
          else .ok ⟨pa, if pbmt = 0 then 1 else pbmt, 0, .host h⟩

/-- Checks of a leaf in the order of R443 steps 3 and 4. -/
def State.leafCheck (s : State) (die : Nat) (dxp : Word) (level : Level) (a : Acc) (va : Nat) (e : Word) (lvl : Nat) :
    Xlat :=
  if fld e 62 61 = 3 then .page 3 lvl
  else if fld e 60 54 ≠ 0 ∧ (fld dxp 63 60 = 0xB ∨ s.feature 13 = false) then .page 4 lvl
  else if !permitted e level a then .page 1 lvl
  else s.pageTarget die dxp e lvl va a

/-- The A and D bits an access sets (R51). A store through a leaf with D = 1 and A = 0, of which R51 says nothing, sets
A (log 42). -/
def accBits (a : Acc) : Word := if a.w then 0xC0#64 else 0x40#64

/-- The update of A and D at the entry (R51), or none where the request completes as unsupported (R41). -/
def State.setAD (s : State) (dxp : Word) (e : Word) (at_ : Nat) (a : Acc) : Option State :=
  if e &&& accBits a = accBits a then some s
  else
    match s.place at_ with
    | .host _ =>
      if s.hostAtomics then some (s.physWrite at_ (dwordBytes (e ||| accBits a)) none) else none
    | _ => some (s.physWrite at_ (dwordBytes (e ||| accBits a)) (some (s.slot (walkSlot dxp)).key))

/-- The cached translation of an address, under `caching` (R46, R48). -/
def State.tlbFind (s : State) (core : Nat) (dxp : Word) (va : Nat) : Option TlbEntry :=
  if s.sched.caching then
    (s.core core).tlb.find? fun t => t.vpn = va >>> t.bits && (bit t.leaf 5 || t.asid = fld dxp 59 48) &&
      (t.host = decide (fld dxp 63 60 = 0xB))
  else none

/-- A fresh walk of a canonical address, with its checks and bit updates; hints set `hint` and change nothing. -/
def State.freshWalk (s : State) (die : Nat) (dxp : Word) (level : Level) (a : Acc) (va : Nat) (hint : Bool) :
    Xlat × Option (Word × Nat × Nat) × State :=
  match s.walkFrom dxp va 4 (s.ppnAddr (fld dxp 63 60) (fld dxp 39 0) 0) with
  | .access => (.access, none, s)
  | .wait => (.wait, none, s)
  | .page r l => (.page r l, none, s)
  | .leaf e at_ lvl =>
    match s.leafCheck die dxp level a va e lvl with
    | .ok t =>
      if hint then (.ok t, some (e, at_, lvl), s)
      else
        match s.setAD dxp e at_ a with
        | some s' => (.ok t, some (e ||| accBits a, at_, lvl), s')
        | none => (.access, none, s)
    | r => (r, none, s)

/-- Translate a canonical address for a party: core whose caches serve it, `dxp`, level. MODE 0 refuses every access
(R38). -/
def State.xlate (s : State) (core : Nat) (dxp : Word) (level : Level) (a : Acc) (va : Word) : Xlat × State :=
  let v := va.toNat % 2 ^ 57
  if fld dxp 63 60 = 0 then (.access, s)
  else
    let cached : Option Target :=
      match s.tlbFind core dxp v with
      | none => none
      | some t =>
        if t.leaf &&& accBits a = accBits a then
          match s.leafCheck (core / 32) dxp level a v t.leaf t.level with
          | .ok tg => some tg
          | _ => none
        else none
    match cached with
    | some tg => (.ok tg, s)
    | none =>
      match s.freshWalk (core / 32) dxp level a v false with
      | (.ok tg, some (e, at_, lvl), s') =>
        if s'.sched.caching then
          let b := leafBits e lvl
          let ent : TlbEntry := ⟨v >>> b, b, e, at_, lvl, fld dxp 59 48, decide (fld dxp 63 60 = 0xB)⟩
          (.ok tg, s'.setCore core { s'.core core with
            tlb := ent :: (s'.core core).tlb.filter (fun t => t.vpn ≠ ent.vpn || t.bits ≠ b || t.asid ≠ ent.asid) })
        else (.ok tg, s')
      | (r, _, s') => (r, s')

/-- R23: bits 63:57 equal bit 56. -/
def canonical (va : Word) : Bool := fld va 63 56 = 0 || fld va 63 56 = 255

/-- Cause of a page fault of an access (R23). -/
def pageCause (a : Acc) : Nat := if a.x then 0x08 else if a.w then 0x0A else 0x09

/-- What a fault record and a trap say of the element (R55): k, REM, stride, element exponent, and the `vstart` that a
Retry resumes from. -/
structure Elem where
  k : Nat
  rem : Nat
  stride : Word
  esz : Nat
  resume : Nat
deriving DecidableEq, Repr

/-- Whether an outstanding result is a memory request. -/
def Pend.isRequest : Pend → Bool
  | .scalar _ _ => true
  | .vector _ _ => true
  | _ => false

/-- Requests a core holds outstanding (R91): writes and bolt operations of its sequencers in flight, results that have
not landed, and the lead's prefetches (log 43). -/
def State.outstanding (s : State) (c : Nat) : Nat :=
  (s.flights.countP fun f => f.seq.any fun q => q / 4 = c) +
  s.threads.foldl (fun n (k, t) => if k / 16 = c then n + t.pend.countP Pend.isRequest else n) 0 +
  (s.core c).leadOut.length

/-- A core holds at most 3,072 requests outstanding: the next access waits to issue (R91). -/
def State.portFree (s : State) : Bool := s.outstanding s.coreNo < 3072

/-- `translate` of Table 8.15 for an element that is not at an instruction's whole form. `vstart` is set where a trap
follows, unless the access is a fetch. -/
def walkM (a : Acc) (el : Elem) (va : Word) : M Target := fun s =>
  let setK (s : State) : State :=
    if a.kind = 7 then s else s.setTh { s.th with vstart := w64 el.resume }
  if !canonical va then
    .error (.trap (pageCause a) va (w64 el.k) (faultInfo el.rem el.stride)) (setK s)
  else
    match s.xlate s.coreNo s.sq.dxp s.th.level a va with
    | (.ok t, s') => .ok t s'
    | (.wait, s') => .error (.wait .memory) s'
    | (.page reason lvl, s') =>
      .error (.page ⟨va, a.kind, pageCause a, el.k, el.rem, el.stride, el.esz, lvl, reason, fld s'.sq.dxp 59 48,
        el.resume, el.k⟩) s'
    | (.access, s') =>
      .error (.trap (if fld s'.sq.dxp 63 60 = 0 ∧ a.x then 0x08 else 0x0B) va (w64 el.k)
        (faultInfo el.rem el.stride)) (setK s')

/-- `translate` of an access that first waits for room in the core's port (R91); a fetch does not. -/
def translateM (a : Acc) (el : Elem) (va : Word) : M Target := fun s =>
  if a.kind ≠ 7 && !s.portFree then .error (.wait .memory) s else walkM a el va s

/-- Raise a counter of the current core (R163). -/
def State.bump (s : State) (csr : Nat) (n : Nat) : State :=
  s.setCp { s.cp with counters := Sparse.set s.cp.counters csr (Sparse.get 0 s.cp.counters csr + w64 n) }

/-- The outstanding prefetches of the current core's lead are orphaned: they complete, and a fabric prefetch whose line
nothing has used is counted in `fabpfwaste` (R94, R161). A line that the die's slices hold already has arrived. -/
def State.orphanLead (s : State) : State :=
  let arrived (n : Nat) : Bool := (s.die s.dieNo).copies.any fun c => c.1 = n
  s.setCp (s.cp.waste fun n => s.cp.leadOut.any (fun p => lineOf p.1 = n) && !arrived n)

/-- A counted re-fork of the lead: `refork` rises, and what it has outstanding is orphaned (R39, R94, R161). -/
def State.refork (s : State) : State := (s.bump 0x211 1).orphanLead

/-- The tile-buffer bank of a line (R79). -/
def tileBank (n : Nat) : Nat := n % 48

/-- The newest k lines of a bank, and every line of the others. -/
def keepNewest (b : Nat) : Nat → List Nat → List Nat
  | _, [] => []
  | 0, n :: l => if tileBank n = b then keepNewest b 0 l else n :: keepNewest b 0 l
  | k + 1, n :: l => if tileBank n = b then n :: keepNewest b k l else n :: keepNewest b (k + 1) l

/-- A line put into the tile buffer of 48 banks of 128 lines, newest first: a full bank gives up its oldest line (R79;
log 43). -/
def CorePair.fillTile (c : CorePair) (n : Nat) : CorePair :=
  if c.tileBuffer.contains n then c else { c with tileBuffer := n :: keepNewest (tileBank n) 127 c.tileBuffer }

/-- A trailing read of a cacheable line counts where the tile buffer serves it (R80, R438), and uses what a lead of its
die has prefetched of the line (R436). -/
def State.useLine (s : State) (n : Nat) (hit : Bool) : State :=
  let s := if hit then s.bump 0x216 1 else s
  { s with cores := s.cores.map fun (c, v) =>
      (c, if c / 32 = s.dieNo then { v with prefetched := v.prefetched.filter (· ≠ n) } else v) }

/-- A trailing load of a cacheable line is served from, or fills, the tile buffer (R80). One that found its line missing
before it waited does not count as served (R436), and neither does the second part of an element, `count` false. -/
def State.touchTile (s : State) (pa pbmt : Nat) (count : Bool) : State :=
  if s.sched.caching && pbmt = 0 then
    let n := lineOf pa
    let s := s.useLine n (count && s.cp.tileBuffer.contains n && s.th.missed ≠ some n)
    let s := s.setCp (s.cp.fillTile n)
    s.setTh { s.th with missed := none }
  else s

/-- A load or fetch of module memory waits; it notes that its line was missing from the tile buffer. -/
def State.missTile (s : State) (pa pbmt : Nat) : State :=
  if s.sched.caching && pbmt = 0 && !s.cp.tileBuffer.contains (lineOf pa) then
    s.setTh { s.th with missed := some (lineOf pa) }
  else s

/-- A thread has loaded a value: the lead may have loaded an older one where it was written since the lead was forked, and
where nothing says when it was written, in host memory (R162, log 16). -/
def State.noteLoad (s : State) (st : Option Stamp) : State :=
  s.setTh { s.th with doubt := s.th.doubt || (st.map (s.sinceFork s.th)).getD true }

/-- What a hint or prefetch does: it brings the line to the tile buffer and the slices, to the slices only, or nothing;
or it marks the line first for replacement (Table 12.7). -/
inductive Fill where
  | both
  | slices
  | nothing
  | drop
deriving DecidableEq, Repr

/-- A line becomes the oldest of its bank of the tile buffer. -/
def CorePair.ageTile (c : CorePair) (n : Nat) : CorePair :=
  if c.tileBuffer.contains n then { c with tileBuffer := c.tileBuffer.filter (· ≠ n) ++ [n] } else c

/-- A line of module memory filled ahead of need for a core, where the schedule keeps copies, from the replica where R69
serves one (R94). It changes no order: the copy carries the stamp of its line (R132). A line marked first for replacement
is the next that its bank gives up; the slices give up none of their copies (log 43). -/
def State.hintFill (s : State) (core : Nat) (t : Target) (f : Fill) : State :=
  if !s.sched.caching || t.pbmt ≠ 0 || !t.place.isMem || f = .nothing then s
  else if f = .drop then s.setCore core ((s.core core).ageTile (lineOf t.pa))
  else
    let d := core / 32
    let n := lineOf t.pa
    let s :=
      if homeDie t.pa = d || s.replicaOf d t.pa ≠ t.pa || (s.die d).copies.any (fun c => c.1 = n) then s
      else s.placeCopy d n (if t.pa < 0x8000000000 then some (s.slot t.slot).key else none)
    if f = .both then s.setCore core ((s.core core).fillTile n) else s

/-- A machine check on an access that matches a poisoned replica (R71): source 6, RST 1. -/
def poisonCheck (pa : Nat) : M Unit := fun s =>
  if s.poisoned s.dieNo pa then .error (.trap 0x3F 6 0 1) s else .ok () s

/-- Writes wait where their die may give out no `n` further counts (R109). -/
def overdueCheck (n : Nat := 1) : M Unit := fun s =>
  if s.overdue s.dieNo n then .error (.wait .memory) s.drain else .ok () s

/-- `perform` of Table 8.15, a read of bytes within one line or of host memory, joining the frontier (R108). -/
def readM (t : Target) (n : Nat) (count : Bool := true) : M (List Byte) := fun s =>
  match t.place with
  | .host a => .ok (memBytes s.host a n) (s.noteLoad none)
  | _ =>
    match poisonCheck t.pa s with
    | .error e s => .error e s
    | .ok _ s =>
      match s.readLine s.dieNo s.front t.pa n (s.slot t.slot).key t.pbmt with
      | none => .error (.wait .memory) (s.missTile t.pa t.pbmt).drain
      | some (bs, st, s') =>
        .ok bs (((s'.raise st).touchTile t.pa t.pbmt count).noteLoad (some (s'.line (lineOf t.pa)).stamp))

/-- `perform`, a write of bytes within one line or of host memory. -/
def writeM (t : Target) (bs : List Byte) (rel : Option Nat) : M Unit := fun s =>
  match t.place with
  | .host a => .ok () { s with host := memPutAll s.host (cellsAt a bs) }
  | _ =>
    match (poisonCheck t.pa *> overdueCheck) s with
    | .error e s => .error e s
    | .ok _ s =>
      let s := if s.sched.caching then s.setCp (s.cp.dropTile (· = lineOf t.pa)) else s
      let (st, s) := s.inject s.dieNo s.front t.pa bs (s.slot t.slot).key rel (some s.cur.seq)
      .ok () (s.raise st)

/-- `perform`, an atomic update (R103, R118). Host memory takes 64-bit AtomicOps (R295), an access fault where the
root port completes them as unsupported. -/
def atomicM (t : Target) (va : Word) (n : Nat) (rel : Option Nat) (f : List Byte → Option (List Byte)) :
    M (List Byte) := fun s =>
  match t.place with
  | .host a =>
    if !s.hostAtomics then .error (.trap 0x0B va 0 (faultInfo 1 0)) s
    else
      let old := memBytes s.host a n
      match f old with
      | none => .ok old s
      | some new => .ok old { s with host := memPutAll s.host (cellsAt a new) }
  | _ =>
    match poisonCheck t.pa s with
    | .error e s => .error e s
    | .ok _ s =>
      match s.atomicLine false s.dieNo s.front t.pa n (s.slot t.slot).key rel f with
      | none => .error (.wait .memory) (s.drain.startCollapse t.pa)
      | some (old, st, s') => .ok old (s'.raise st)

/-! ## Addresses that hardware keeps (R49) -/

/-- The physical address of a queue header or bolt whose page has no translation: no access goes there. -/
def lostAddr : Nat := 0x10000000000000

/-- A target in memory as hardware keeps it. -/
def Target.head (t : Target) : Head := ⟨t.pa, t.slot⟩

/-- What hardware keeps of a virtual address under tables, afresh: its physical address and its leaf's key slot. -/
def State.keptAddr (s : State) (dxp va : Word) : Head :=
  match s.walkFrom dxp (va.toNat % 2 ^ 57) 4 (s.ppnAddr (fld dxp 63 60) (fld dxp 39 0) 0) with
  | .leaf e _ lvl =>
    match s.leafAddr dxp e lvl (va.toNat % 2 ^ 57) with
    | some pa => ⟨pa, if fld dxp 63 60 = 0xB || decide (0x8000000000 ≤ pa) then 0 else fld e 60 54⟩
    | none => ⟨lostAddr, 0⟩
  | _ => ⟨lostAddr, 0⟩

/-- Whether hardware's own access to a header fails: its slice or channel has failed (R22), or its key slot is empty
(R43). -/
def State.headFails (s : State) (h : Head) : Bool :=
  s.unitFailed h.pa || (decide (h.pa < 0x8000000000) && !(s.slot h.slot).loaded)

/-- Whether a header can be read. -/
def State.headReads (s : State) (h : Head) : Bool := decide (h.pa ≠ lostAddr) && !s.headFails h

/-- Whether an access of hardware's to a header, not begun before, can be made: its slot is not closing either (R44). -/
def State.headOpen (s : State) (h : Head) : Bool :=
  s.headReads h && (decide (0x8000000000 ≤ h.pa) || s.slotUsable h.slot)

/-- The key bits of a header's line. -/
def State.headKey (s : State) (h : Head) : BitVec 512 := (s.slot h.slot).key

/-- The physical addresses of queue headers and of bolts waited at that hardware keeps, translated afresh where `p`
holds: once an invalidation completes, none of an old entry is used (R49). -/
def State.rehome (s : State) (p : Nat → Bool) : State :=
  let at_ (old : Head) (dxp va : Word) : Head := if p old.pa then s.keptAddr dxp va else old
  let bolt (old : Nat) (dxp va : Word) : Nat := if p old then (s.keptAddr dxp va).pa else old
  let claims (l : List Claim) : List Claim := l.map fun c => { c with header := at_ c.header c.dxp c.va }
  let pend (dxp : Word) : Pend → Pend
    | .claim r h va n => .claim r (at_ h dxp va) va n
    | q => q
  let thread (dxp : Word) (t : Thread) : Thread := { t with
    pend := t.pend.map (pend dxp),
    wait := match t.wait with
      | .bolt pa va ph => .bolt (bolt pa dxp va) va ph
      | w => w }
  { s with
    seqs := s.seqs.map fun (k, q) => (k, { q with claims := claims q.claims, shadow := q.shadow.map (thread q.dxp) }),
    threads := s.threads.map fun (k, t) => (k, thread (s.seq (k / 4)).dxp t),
    saved := s.saved.map fun c => { c with claims := claims c.claims },
    freed := claims s.freed,
    resvs := s.resvs.map fun r => { r with header := at_ r.header r.dxp r.va },
    hwqs := s.hwqs.map fun k =>
      let h := at_ k.header k.dxp k.va
      { k with header := h, die := if h.pa = lostAddr then k.die else homeDie h.pa },
    queues := s.queues.map fun (i, k) => (i, { k with
      boltWait := k.boltWait.map fun (pa, n) =>
        match k.begun.getLast? with
        | some (_, ctx, bs) =>
          let pa' := bolt pa (s.context ctx).dxp (w64 (natOfBytes ((bs.drop 16).take 8)))
          if pa = 0 || pa' = pa then (pa, n) else (pa', (Sparse.get {} s.bolts pa').flips)
        | none => (pa, n) }),
    launches := s.launches.map fun l => { l with
      closeBolt := l.closeBolt.map fun (pa, n) =>
        let pa' := bolt pa (s.context l.ctx).dxp l.closeVa
        if pa' = pa then (pa, n) else (pa', (Sparse.get {} s.bolts pa').flips)
      stages := l.stages.map fun r => { r with header := at_ r.header (s.context l.ctx).dxp r.queue } } }

/-- Whether an address that hardware keeps is one to be translated afresh. -/
def State.lost (s : State) : Bool :=
  s.seqs.any (fun (_, q) => q.claims.any fun c => c.header.pa = lostAddr) ||
  s.threads.any (fun (_, t) => (t.pend.any fun q => match q with
    | .claim _ h _ _ => h.pa = lostAddr
    | _ => false) || (match t.wait with
    | .bolt pa _ _ => decide (pa = lostAddr)
    | _ => false)) ||
  s.saved.any (fun c => c.claims.any fun k => k.header.pa = lostAddr) || s.freed.any (fun c => c.header.pa = lostAddr) ||
  s.resvs.any (fun r => r.header.pa = lostAddr) || s.hwqs.any (fun k => k.header.pa = lostAddr) ||
  s.launches.any (fun l => (l.closeBolt.any fun b => b.1 = lostAddr) || l.stages.any fun r => r.header.pa = lostAddr) ||
  s.queues.any fun (_, k) => k.boltWait.any fun b => b.1 = lostAddr

/-- Those are translated again as soon as they can be. -/
def State.rehomeLost (s : State) : State := if s.lost then s.rehome fun a => a = lostAddr else s

/-- Nothing is in flight anywhere. -/
def State.settled (s : State) : Bool := s.flights = [] && (List.range 8).all fun e => (s.die e).invals = []

/-- Every earlier access of the sequencer is performed (R113, R114), bolt operations and claims among them: what can be
applied is; something still held makes the instruction wait. -/
def performedM : M Unit := fun s =>
  if s.th.claiming then .error (.wait .memory) s
  else if s.settled then .ok () s
  else
    let s := s.drain
    if s.flights.any (fun f => f.seq = some s.cur.seq) then .error (.wait .memory) s else .ok () s

/-- Every write in the thread's causal past is performed too (`fence.sc`, R117). -/
def performedAllM : M Unit := fun s =>
  if s.th.claiming then .error (.wait .memory) s
  else if s.settled then .ok () s
  else
    let s := s.drain
    if s.flights = [] then .ok () s else .error (.wait .memory) s

/-- Whether a sequencer has engine commands that have not completed (R289, R366, R370). -/
def State.engineBusy (s : State) (q : Nat) : Bool :=
  s.cores.any (fun c => c.2.copyq.any (fun k => k.seq = some q)) ||
  s.graphs.any (fun g => g.seq = some q) ||
  s.dies.any (fun d => d.2.dlq.any (fun l => l.seq = some q) || d.2.fcvq.any (fun k => k.seq = some q) ||
    d.2.fe.any (fun f => f.2.queue.any (fun k => k.seq = some q)))

/-- Whether a sequencer has copy commands that have not completed. -/
def State.copyBusy (s : State) (q : Nat) : Bool := s.cores.any fun c => c.2.copyq.any fun k => k.seq = some q

/-- A `qnext` before the instruction is complete. -/
def claimedM : M Unit := fun s => if s.th.claiming then .error (.wait .memory) s else .ok () s

/-- What a release of a scope waits for: every earlier access performed; at `.pd` the sequencer's copy commands
completed too (R114, R121). -/
def releaseM (scope : Nat) : M Unit := do
  performedM
  let s ← getS
  if scope = 5 && s.copyBusy s.cur.seq then waitM .engine

end Sys2Proof.Machine
end

