-- ==== Sys2Proof/Machine/Registers.lean ====
section
/-! DEFINITION. The die register spaces (R28, Table 2.3): identity, divisors, key slots, balancer, frame engines and
peer ports, as loads and stores on IO pages reach them. -/

namespace Sys2Proof.Machine

/-- Bits of the 128 key slots, from slot `lo` upward, that satisfy a test. -/
def State.slotBits (s : State) (lo : Nat) (p : KeySlot → Bool) : Word :=
  w64 ((List.range 64).foldl (fun r i => if p (s.slot (lo + i)) then r ||| 2 ^ i else r) 0)

/-- `swin` (Table 4.9). -/
def Die.swin (d : Die) : Word :=
  match d.newWays with
  | some w => w64 (2 ^ 63 + w)
  | none => w64 d.ways

/-- `festat` (Table 15.13); a dead engine reads 0. -/
def FrameEngine.festat (f : FrameEngine) : Word :=
  if f.live then
    w64 (2 ^ 63 + f.ctxs.foldl (fun r c => r ||| 2 ^ (8 + c.1 % 8)) 0 + min f.queue.length 16)
  else 0

/-- `ppstat` of a live port (R434). -/
def Port.stat (p : Port) : Word :=
  w64 (2 ^ 63 + (if p.up then 2 ^ 62 else 0) + (p.width % 16) <<< 58 +
    (p.partner % 32) <<< 48 + (p.partnerPort % 32) <<< 40)

/-- The 64-bit register at an 8-byte aligned offset of a die's register space; offsets at which none is defined read
zero (R28). -/
def State.dieReg (s : State) (d off : Nat) : Word :=
  let v := s.die d
  if off = 0x00 then w64 d
  else if off = 0x08 then w64 v.hbmcap
  else if off = 0x10 then v.lcmap.setWidth 64
  else if off = 0x10000 then w64 v.sdiv
  else if off = 0x10008 then w64 v.pdiv
  else if off = 0x10010 then v.smap
  else if off = 0x10018 then v.pmap.extractLsb' 0 64
  else if off = 0x10020 then v.pmap.extractLsb' 64 64
  else if off = 0x10028 then (v.pmap.extractLsb' 128 32).setWidth 64
  else if off = 0x10030 then v.swin
  else if off = 0x10038 then v.sfail
  else if off = 0x10040 then v.pfail.extractLsb' 0 64
  else if off = 0x10048 then v.pfail.extractLsb' 64 64
  else if off = 0x10050 then (v.pfail.extractLsb' 128 32).setWidth 64
  else if off = 0x20000 then s.slotBits 0 (·.loaded)
  else if off = 0x20008 then s.slotBits 64 (·.loaded)
  else if off = 0x20010 then s.slotBits 0 (·.closing)
  else if off = 0x20018 then s.slotBits 64 (·.closing)
  else if off = 0x200000 then (if v.balEn then 1 else 0)
  else if off = 0x200008 then v.balepoch
  else if off = 0x200010 then v.balreq
  else if off = 0x200018 then v.balmove
  else if 0x1000000 ≤ off ∧ off < 0x1004000 then
    let f := Sparse.get {} v.fe ((off - 0x1000000) / 0x1000)
    if off % 0x1000 = 0 then f.festat
    else if !f.live then 0
    else if off % 0x1000 = 8 then f.fecnt
    else if off % 0x1000 = 16 then f.feerr else 0
  else if 0x2000000 ≤ off ∧ off < 0x2003000 then
    let p := Sparse.get {} v.port ((off - 0x2000000) / 0x1000)
    if !p.live then 0
    else if off % 0x1000 = 0 then p.stat
    else if off % 0x1000 = 8 then p.flit
    else if off % 0x1000 = 16 then p.retry else 0
  else 0

/-- A write of `swin` (R89): ignored whole for WAYS 7 or while a change is in progress. -/
def State.swinWrite (s : State) (d ways : Nat) : State :=
  let v := s.die d
  if 6 < ways ∨ v.newWays.isSome then s else s.setDie d { v with newWays := some ways }

/-- A write of `balctl` (R397): clearing EN withdraws every pending request of the die, and ends what its balancer
samples and the right of a stage to a share that a rebind freed. -/
def State.balctlSet (s : State) (d : Nat) (en : Bool) : State :=
  let s := s.setDie d { s.die d with balEn := en }
  if en then s
  else { s with
    grants := s.grants.filter fun g => g.1 / 32 ≠ d
    seqs := s.seqs.map fun (q, v) =>
      if q / 128 = d then (q, { v with rebind := false, rebindFor := none }) else (q, v) }

/-- A write at an 8-byte aligned offset: `half` names the written half of a 32-bit access (R28). Every other register
ignores writes. -/
def State.dieRegWrite (s : State) (d off : Nat) (half : Option Bool) (v : Word) : State :=
  if half = some true then s
  else if off = 0x10030 then s.swinWrite d (fld v 2 0)
  else if off = 0x200000 then s.balctlSet d (bit v 0)
  else s

/-- A 32- or 64-bit read of a register space. -/
def State.ioRead (s : State) (d off n : Nat) : List Byte :=
  let v := (s.dieReg d (off - off % 8)).toNat
  bytesOfNat n (v >>> (8 * (off % 8)))

/-- A 32- or 64-bit write of a register space. -/
def State.ioWrite (s : State) (d off : Nat) (bs : List Byte) : State :=
  let v := natOfBytes bs
  if bs.length = 8 then s.dieRegWrite d off none (w64 v)
  else s.dieRegWrite d (off - off % 8) (some (off % 8 = 4)) (w64 (v <<< (8 * (off % 8))))

/-- `perform`, a read that may reach an IO register (R29). -/
def loadM (t : Target) (n : Nat) : M (List Byte) :=
  match t.place with
  | .regs d off => fun s => .ok (s.ioRead d off n) s
  | _ => readM t n

/-- `perform`, a write that may reach an IO register. -/
def storeM (t : Target) (bs : List Byte) (rel : Option Nat) : M Unit :=
  match t.place with
  | .regs d off => fun s => .ok () (s.ioWrite d off bs)
  | _ => writeM t bs rel

/-- The triggers against an access's address (R423): a load matches kinds 1 and 3, a store kinds 2 and 3. A match with
ACT traps as a fault at that element k, with `vstart` where a fault there leaves it: at k, or as it was at the issue of an
atomic form (Table 17.3). -/
def accessTrigger (ld st : Bool) (el : Elem) (va : Word) : M Unit := fun s =>
  match trigger ((if ld then [1] else []) ++ (if st then [2] else []) ++ [3]) va s with
  | (true, s') => .error (.trap 0x22 va (w64 el.k) 0) (s'.setTh { s'.th with vstart := w64 el.resume })
  | (false, s') => .ok () s'

/-- The thread notes an address it accesses, for the strip history (Table 17.7) and the trace (R422). -/
def noteAccess (va : Word) : M Unit := fun s =>
  let t := s.th
  let s' := if t.opFirst.isNone then s.traceEntry 3 va else s
  .ok () (s'.setTh { s'.th with opFirst := some (t.opFirst.getD va), opLast := some va })

end Sys2Proof.Machine
end

