-- ==== Sys2Proof/Machine/Mem.lean ====
section
/-! DEFINITION. Scalar loads and stores (0x20 to 0x2B), atomics (0x2C), fences (0x2D) and prefetch hints (0x2F):
R290 to R299 and R301. -/

namespace Sys2Proof.Machine

/-- An address that is not a multiple of the access's size is misaligned (R290). -/
def aligned (va : Word) (n : Nat) : M Unit := if va.toNat % n ≠ 0 then trapM 0x0C va else pure ()

/-- What a fault says of a scalar access of 2^e bytes: one element, no stride; a trap leaves `vstart` 0, and after an
atomic as it was (R129). -/
def State.scalarElem (s : State) (kind e : Nat) : Elem := ⟨0, 1, 0, e, if kind = 6 then s.th.vstart.toNat else 0⟩

/-- A checked and translated scalar access of 2^e bytes. -/
def scalarAt (kind : Nat) (r w atomic : Bool) (e : Nat) (va : Word) : M Target := do
  aligned va (2 ^ e)
  let s ← getS
  accessTrigger r w (s.scalarElem kind e) va
  let t ← translateM ⟨kind, r, w, false, !atomic && (e = 2 || e = 3), atomic, 2 ^ e⟩ (s.scalarElem kind e) va
  noteAccess va
  pure t

/-- A load's value reaches its register: at once, or later where the schedule leaves it outstanding (R189) and the core
may hold another request (R91). -/
def landX (d : BitVec 5) (v : Word) (hold : Bool) : M Unit := modS fun s =>
  if hold && s.sched.lazy && d != 0 && s.portFree then
    s.setTh { s.th.emptyX d.toNat with pend := s.th.pend ++ [.scalar d.toNat v] }
  else s.setTh (s.th.setX d.toNat v)

/-- Extension of a value of 2^e bytes. -/
def extend (e : Nat) (signed : Bool) (v : Nat) : Word :=
  if signed then iword (sval (8 * 2 ^ e) v) else w64 (v % 2 ^ (8 * 2 ^ e))

/-- A scalar load (R292): an acquire binds its value before anything later (R115), so it does not stay outstanding. -/
def loadX (d a : BitVec 5) (fa : Bool) (off : Word) (e : Nat) (signed acq : Bool) : M Flow := do
  let b ← liftT (rx a fa)
  liftT (destX d)
  let t ← scalarAt 0 true false false e (b + off)
  let bs ← loadM t (2 ^ e)
  landX d (extend e signed (natOfBytes bs)) (!acq)
  pure .seq

/-- A scalar store (R292). A release first waits until every earlier access is performed (R114). -/
def storeX (d a : BitVec 5) (fa : Bool) (off : Word) (e : Nat) (rel : Option Nat) : M Flow := do
  let b ← liftT (rx a fa)
  let x ← liftT (rx d false)
  let t ← scalarAt 3 false true false e (b + off)
  match rel with
  | some sc => releaseM sc
  | none => pure ()
  storeM t (bytesOfNat (2 ^ e) x.toNat) rel
  pure .seq

/-- `ldb`. -/
def execLdb (d a : BitVec 5) (fa : Bool) (imm : BitVec 14) (s : State) : Host.Outcome State Fault Refusal :=
  run (loadX d a fa (simm imm) 0 true false) s
/-- `ldbn`. -/
def execLdbn (d a : BitVec 5) (fa : Bool) (imm : BitVec 14) (s : State) : Host.Outcome State Fault Refusal :=
  run (loadX d a fa (simm imm) 0 false false) s
/-- `ldh`. -/
def execLdh (d a : BitVec 5) (fa : Bool) (imm : BitVec 14) (s : State) : Host.Outcome State Fault Refusal :=
  run (loadX d a fa (simm imm) 1 true false) s
/-- `ldhn`. -/
def execLdhn (d a : BitVec 5) (fa : Bool) (imm : BitVec 14) (s : State) : Host.Outcome State Fault Refusal :=
  run (loadX d a fa (simm imm) 1 false false) s
/-- `ldw`. -/
def execLdw (d a : BitVec 5) (fa : Bool) (imm : BitVec 14) (s : State) : Host.Outcome State Fault Refusal :=
  run (loadX d a fa (simm imm) 2 true false) s
/-- `ldwn`. -/
def execLdwn (d a : BitVec 5) (fa : Bool) (imm : BitVec 14) (s : State) : Host.Outcome State Fault Refusal :=
  run (loadX d a fa (simm imm) 2 false false) s
/-- `ldd`. -/
def execLdd (d a : BitVec 5) (fa : Bool) (imm : BitVec 14) (s : State) : Host.Outcome State Fault Refusal :=
  run (loadX d a fa (simm imm) 3 false false) s
/-- `stb`. -/
def execStb (d a : BitVec 5) (fa : Bool) (imm : BitVec 14) (s : State) : Host.Outcome State Fault Refusal :=
  run (storeX d a fa (simm imm) 0 none) s
/-- `sth`. -/
def execSth (d a : BitVec 5) (fa : Bool) (imm : BitVec 14) (s : State) : Host.Outcome State Fault Refusal :=
  run (storeX d a fa (simm imm) 1 none) s
/-- `stw`. -/
def execStw (d a : BitVec 5) (fa : Bool) (imm : BitVec 14) (s : State) : Host.Outcome State Fault Refusal :=
  run (storeX d a fa (simm imm) 2 none) s
/-- `std`. -/
def execStd (d a : BitVec 5) (fa : Bool) (imm : BitVec 14) (s : State) : Host.Outcome State Fault Refusal :=
  run (storeX d a fa (simm imm) 3 none) s

/-! ## Acquire loads and release stores (R293): the scope matters to no value here, since every read is causal -/

/-- `ldb.acq`. -/
def execLdbAcq (d a : BitVec 5) (fa : Bool) (_scope : BitVec 3) (s : State) : Host.Outcome State Fault Refusal :=
  run (loadX d a fa 0 0 true true) s
/-- `ldbn.acq`. -/
def execLdbnAcq (d a : BitVec 5) (fa : Bool) (_scope : BitVec 3) (s : State) : Host.Outcome State Fault Refusal :=
  run (loadX d a fa 0 0 false true) s
/-- `ldh.acq`. -/
def execLdhAcq (d a : BitVec 5) (fa : Bool) (_scope : BitVec 3) (s : State) : Host.Outcome State Fault Refusal :=
  run (loadX d a fa 0 1 true true) s
/-- `ldhn.acq`. -/
def execLdhnAcq (d a : BitVec 5) (fa : Bool) (_scope : BitVec 3) (s : State) : Host.Outcome State Fault Refusal :=
  run (loadX d a fa 0 1 false true) s
/-- `ldw.acq`. -/
def execLdwAcq (d a : BitVec 5) (fa : Bool) (_scope : BitVec 3) (s : State) : Host.Outcome State Fault Refusal :=
  run (loadX d a fa 0 2 true true) s
/-- `ldwn.acq`. -/
def execLdwnAcq (d a : BitVec 5) (fa : Bool) (_scope : BitVec 3) (s : State) : Host.Outcome State Fault Refusal :=
  run (loadX d a fa 0 2 false true) s
/-- `ldd.acq`. -/
def execLddAcq (d a : BitVec 5) (fa : Bool) (_scope : BitVec 3) (s : State) : Host.Outcome State Fault Refusal :=
  run (loadX d a fa 0 3 false true) s
/-- `stb.rel`. -/
def execStbRel (d a : BitVec 5) (fa : Bool) (scope : BitVec 3) (s : State) : Host.Outcome State Fault Refusal :=
  run (storeX d a fa 0 0 (some scope.toNat)) s
/-- `sth.rel`. -/
def execSthRel (d a : BitVec 5) (fa : Bool) (scope : BitVec 3) (s : State) : Host.Outcome State Fault Refusal :=
  run (storeX d a fa 0 1 (some scope.toNat)) s
/-- `stw.rel`. -/
def execStwRel (d a : BitVec 5) (fa : Bool) (scope : BitVec 3) (s : State) : Host.Outcome State Fault Refusal :=
  run (storeX d a fa 0 2 (some scope.toNat)) s
/-- `std.rel`. -/
def execStdRel (d a : BitVec 5) (fa : Bool) (scope : BitVec 3) (s : State) : Host.Outcome State Fault Refusal :=
  run (storeX d a fa 0 3 (some scope.toNat)) s

/-! ## Atomics (R294 to R298) -/

/-- An atomic operation: its FN, its width exponent, whether the old value is sign-extended, whether the host takes
it, the flags of the operand, and the new value (none: nothing is written). -/
structure AmoOp where
  fn : Nat
  e : Nat
  signed : Bool
  host : Bool
  check : Nat → Nat
  f : Nat → Nat → Option Nat

/-- The value a pod request carries home (R298, log 15): the request is logged, and crosses the peer links; the reply is a
free value, and so is whether one comes: `ppmap` is not asked (DESIGN CHOICE, log 15). -/
def podAtomic (o : AmoOp) (va : Word) (x y : Word) : M Nat := fun s =>
  let n := s.free
  let s' := { s with free := n + 1, podOut := (x, y) :: (w64 o.fn, va) :: s.podOut }.peerTraffic
  if Config.podFails n then .error (.trap 0x0B va 0 (faultInfo 1 0)) s'
  else .ok ((Config.podReply n).toNat % 2 ^ (8 * 2 ^ o.e)) s'

/-- An atomic as an access. A form the host does not take asks for a width its region refuses (R295). -/
def AmoOp.acc (o : AmoOp) : Acc := ⟨6, true, true, false, false, true, if o.host then 2 ^ o.e else 16⟩

/-- Translation of a pod address on this module: every failure is an access fault with the pod address (R298). Performed
locally, it is translated under the thread's own tables and level, not those of `podctl.CTX` (DESIGN CHOICE, log 15). -/
def podLocal (o : AmoOp) (va : Word) : M Target := fun s =>
  match s.xlate s.coreNo s.sq.dxp s.th.level o.acc (va &&& 0x00FFFFFFFFFFFFFF#64) with
  | (.ok t, s') => .ok t s'
  | (.wait, s') => .error (.wait .memory) s'
  | (_, s') => .error (.trap 0x0B va 0 (faultInfo 1 0)) s'

/-- The target of an atomic: none where it is on another module. While `podctl.V` is 0 no module number is one of the pod,
this module's own included (DESIGN CHOICE, log 15). -/
def amoTarget (o : AmoOp) (scope : BitVec 3) (va : Word) : M (Option Target) := do
  if scope = 5 then
    let s ← getS
    if fld va 63 62 ≠ 0 || bit va 56 || !bit s.podctl 63 then trapM 0x0B va 0 (faultInfo 1 0)
    else
      noteAccess va
      if fld va 61 57 = fld s.podctl 12 8 then do
        let t ← podLocal o va
        pure (some t)
      else pure none
  else
    let s ← getS
    let t ← translateM o.acc (s.scalarElem 6 o.e) va
    noteAccess va
    pure (some t)

/-- An atomic (R294): operand, alignment, the operand's flags, translation, a release's wait, the update, the old
value. `y` is the new value of a compare-and-swap. D is empty until the old value lands, like a load's (DESIGN CHOICE,
log 50). -/
def amo (o : AmoOp) (d a : BitVec 5) (ord : BitVec 2) (scope : BitVec 3) (fa : Bool) (y : Word) : M Flow := do
  if scope = 5 then needFeature 18
  let va ← liftT (rx a fa)
  let x ← liftT (rx d false)
  aligned va (2 ^ o.e)
  liftT (raiseX (o.check x.toNat))
  let s ← getS
  accessTrigger true true (s.scalarElem 6 o.e) va
  let t ← amoTarget o scope va
  if 2 ≤ ord.toNat then releaseM scope.toNat
  let old ← match t with
    | none => podAtomic o va x y
    | some t => do
      let bs ← atomicM t va (2 ^ o.e) (if 2 ≤ ord.toNat then some scope.toNat else none)
        fun b => (o.f (natOfBytes b) (x.toNat % 2 ^ (8 * 2 ^ o.e))).map (bytesOfNat (2 ^ o.e))
      pure (natOfBytes bs)
  landX d (extend o.e o.signed old) true
  pure .seq

/-- An atomic whose new value is a function of the old value and the operand. -/
def amoOp (fn e : Nat) (host : Bool) (f : Nat → Nat → Nat) : AmoOp :=
  ⟨fn, e, e = 2, host, fun _ => 0, fun m x => some (f m x)⟩

/-- An f32 atomic (R297). -/
def amoF (fn : Nat) (f : Nat → Nat → Nat) : AmoOp :=
  ⟨fn, 2, false, false, fun x => (f32.val x).nanFlags, fun m x => some (f m x)⟩

/-- A compare-and-swap (R296): s(D + 1) is read as a blocking source. -/
def amoCas (fn e : Nat) (d a : BitVec 5) (ord : BitVec 2) (scope : BitVec 3) (fa : Bool) : M Flow := do
  if d.toNat % 2 = 1 then liftT illegal
  if scope = 5 then needFeature 18
  let y ← liftT (rx (d + 1) false)
  amo ⟨fn, e, e = 2, e = 3, fun _ => 0, fun m x => if m = x then some y.toNat else none⟩ d a ord scope fa y

/-- Signed order of two n-bit patterns. -/
def sless (n x y : Nat) : Bool := sval n x < sval n y

/-- `amo.swap.w`. -/
def execAmoSwapW (d a : BitVec 5) (ord : BitVec 2) (scope : BitVec 3) (fa : Bool) (s : State) :
    Host.Outcome State Fault Refusal := run (amo (amoOp 0x00 2 false fun _ x => x) d a ord scope fa 0) s
/-- `amo.swap.d`. -/
def execAmoSwapD (d a : BitVec 5) (ord : BitVec 2) (scope : BitVec 3) (fa : Bool) (s : State) :
    Host.Outcome State Fault Refusal := run (amo (amoOp 0x01 3 true fun _ x => x) d a ord scope fa 0) s
/-- `amo.cas.w`. -/
def execAmoCasW (d a : BitVec 5) (ord : BitVec 2) (scope : BitVec 3) (fa : Bool) (s : State) :
    Host.Outcome State Fault Refusal := run (amoCas 0x02 2 d a ord scope fa) s
/-- `amo.cas.d`. -/
def execAmoCasD (d a : BitVec 5) (ord : BitVec 2) (scope : BitVec 3) (fa : Bool) (s : State) :
    Host.Outcome State Fault Refusal := run (amoCas 0x03 3 d a ord scope fa) s
/-- `amo.add.w`. -/
def execAmoAddW (d a : BitVec 5) (ord : BitVec 2) (scope : BitVec 3) (fa : Bool) (s : State) :
    Host.Outcome State Fault Refusal := run (amo (amoOp 0x04 2 false fun m x => m + x) d a ord scope fa 0) s
/-- `amo.add.d`. -/
def execAmoAddD (d a : BitVec 5) (ord : BitVec 2) (scope : BitVec 3) (fa : Bool) (s : State) :
    Host.Outcome State Fault Refusal := run (amo (amoOp 0x05 3 true fun m x => m + x) d a ord scope fa 0) s
/-- `amo.and.w`. -/
def execAmoAndW (d a : BitVec 5) (ord : BitVec 2) (scope : BitVec 3) (fa : Bool) (s : State) :
    Host.Outcome State Fault Refusal := run (amo (amoOp 0x06 2 false fun m x => m &&& x) d a ord scope fa 0) s
/-- `amo.and.d`. -/
def execAmoAndD (d a : BitVec 5) (ord : BitVec 2) (scope : BitVec 3) (fa : Bool) (s : State) :
    Host.Outcome State Fault Refusal := run (amo (amoOp 0x07 3 false fun m x => m &&& x) d a ord scope fa 0) s
/-- `amo.or.w`. -/
def execAmoOrW (d a : BitVec 5) (ord : BitVec 2) (scope : BitVec 3) (fa : Bool) (s : State) :
    Host.Outcome State Fault Refusal := run (amo (amoOp 0x08 2 false fun m x => m ||| x) d a ord scope fa 0) s
/-- `amo.or.d`. -/
def execAmoOrD (d a : BitVec 5) (ord : BitVec 2) (scope : BitVec 3) (fa : Bool) (s : State) :
    Host.Outcome State Fault Refusal := run (amo (amoOp 0x09 3 false fun m x => m ||| x) d a ord scope fa 0) s
/-- `amo.xor.w`. -/
def execAmoXorW (d a : BitVec 5) (ord : BitVec 2) (scope : BitVec 3) (fa : Bool) (s : State) :
    Host.Outcome State Fault Refusal := run (amo (amoOp 0x0A 2 false fun m x => m ^^^ x) d a ord scope fa 0) s
/-- `amo.xor.d`. -/
def execAmoXorD (d a : BitVec 5) (ord : BitVec 2) (scope : BitVec 3) (fa : Bool) (s : State) :
    Host.Outcome State Fault Refusal := run (amo (amoOp 0x0B 3 false fun m x => m ^^^ x) d a ord scope fa 0) s
/-- `amo.min.w`. -/
def execAmoMinW (d a : BitVec 5) (ord : BitVec 2) (scope : BitVec 3) (fa : Bool) (s : State) :
    Host.Outcome State Fault Refusal :=
  run (amo (amoOp 0x0C 2 false fun m x => if sless 32 x m then x else m) d a ord scope fa 0) s
/-- `amo.min.d`. -/
def execAmoMinD (d a : BitVec 5) (ord : BitVec 2) (scope : BitVec 3) (fa : Bool) (s : State) :
    Host.Outcome State Fault Refusal :=
  run (amo (amoOp 0x0D 3 false fun m x => if sless 64 x m then x else m) d a ord scope fa 0) s
/-- `amo.max.w`. -/
def execAmoMaxW (d a : BitVec 5) (ord : BitVec 2) (scope : BitVec 3) (fa : Bool) (s : State) :
    Host.Outcome State Fault Refusal :=
  run (amo (amoOp 0x0E 2 false fun m x => if sless 32 m x then x else m) d a ord scope fa 0) s
/-- `amo.max.d`. -/
def execAmoMaxD (d a : BitVec 5) (ord : BitVec 2) (scope : BitVec 3) (fa : Bool) (s : State) :
    Host.Outcome State Fault Refusal :=
  run (amo (amoOp 0x0F 3 false fun m x => if sless 64 m x then x else m) d a ord scope fa 0) s
/-- `amo.minn.w`. -/
def execAmoMinnW (d a : BitVec 5) (ord : BitVec 2) (scope : BitVec 3) (fa : Bool) (s : State) :
    Host.Outcome State Fault Refusal := run (amo (amoOp 0x10 2 false fun m x => Nat.min m x) d a ord scope fa 0) s
/-- `amo.minn.d`. -/
def execAmoMinnD (d a : BitVec 5) (ord : BitVec 2) (scope : BitVec 3) (fa : Bool) (s : State) :
    Host.Outcome State Fault Refusal := run (amo (amoOp 0x11 3 false fun m x => Nat.min m x) d a ord scope fa 0) s
/-- `amo.maxn.w`. -/
def execAmoMaxnW (d a : BitVec 5) (ord : BitVec 2) (scope : BitVec 3) (fa : Bool) (s : State) :
    Host.Outcome State Fault Refusal := run (amo (amoOp 0x12 2 false fun m x => Nat.max m x) d a ord scope fa 0) s
/-- `amo.maxn.d`. -/
def execAmoMaxnD (d a : BitVec 5) (ord : BitVec 2) (scope : BitVec 3) (fa : Bool) (s : State) :
    Host.Outcome State Fault Refusal := run (amo (amoOp 0x13 3 false fun m x => Nat.max m x) d a ord scope fa 0) s
/-- `amo.fadd.s`: nearest-even whatever `frm` holds. -/
def execAmoFaddS (d a : BitVec 5) (ord : BitVec 2) (scope : BitVec 3) (fa : Bool) (s : State) :
    Host.Outcome State Fault Refusal := run (amo (amoF 0x14 fun m x => (fAdd f32 0 m x).1) d a ord scope fa 0) s
/-- `amo.fmax.s`. -/
def execAmoFmaxS (d a : BitVec 5) (ord : BitVec 2) (scope : BitVec 3) (fa : Bool) (s : State) :
    Host.Outcome State Fault Refusal := run (amo (amoF 0x15 fun m x => (fMinMax f32 true m x).1) d a ord scope fa 0) s
/-- `amo.fmin.s`. -/
def execAmoFminS (d a : BitVec 5) (ord : BitVec 2) (scope : BitVec 3) (fa : Bool) (s : State) :
    Host.Outcome State Fault Refusal :=
  run (amo (amoF 0x16 fun m x => (fMinMax f32 false m x).1) d a ord scope fa 0) s

/-! ## Fences (R117, R118, R299) -/

/-- A fence of a scope: `.pd` needs feature 18 (R290). -/
def fence (scope : BitVec 5) (wait : M Unit) : M Flow := do
  if scope = 5 then needFeature 18
  wait
  pure .seq

/-- `fence.rel`: every earlier access is performed. -/
def execFenceRel (scope : BitVec 5) (s : State) : Host.Outcome State Fault Refusal :=
  run (fence scope (releaseM scope.toNat)) s
/-- `fence.acq`: a load is performed when its value is bound, which issuing it does here; the claim of an outstanding
`qnext` is performed first. -/
def execFenceAcq (scope : BitVec 5) (s : State) : Host.Outcome State Fault Refusal := run (fence scope claimedM) s
/-- `fence.ar`. -/
def execFenceAr (scope : BitVec 5) (s : State) : Host.Outcome State Fault Refusal :=
  run (fence scope (releaseM scope.toNat)) s
/-- `fence.sc`: every write causally before it is performed too. -/
def execFenceSc (scope : BitVec 5) (s : State) : Host.Outcome State Fault Refusal :=
  run (fence scope (releaseM scope.toNat *> performedAllM)) s
/-- `fence.all` (R199): as `fence.sc.pk`, counted in `emucount` when it completes (R203). -/
def execFenceAll (s : State) : Host.Outcome State Fault Refusal :=
  run (do
    needFeature 19
    performedAllM
    liftT (modT fun t => { t with emucount := t.emucount + 1 })
    pure .seq) s

/-! ## Hints (R61, R62, R301) -/

/-- A hint of an address: true where it is dropped (R61, R301). Nothing visible changes. -/
def State.hint (s : State) (va : Word) (w : Bool) (f : Fill) : Bool × State :=
  if !canonical va || fld s.sq.dxp 63 60 = 0 then (true, s)
  else
    match s.freshWalk s.dieNo s.sq.dxp s.th.level ⟨0, !w, w, false, false, false, 1⟩ (va.toNat % 2 ^ 57) true with
    | (.ok t, _, _) => (false, s.hintFill s.coreNo t f)
    | _ => (true, s)

/-- A scalar hint: a dropped one counts once. -/
def pf (a : BitVec 5) (fa : Bool) (imm : BitVec 14) (w : Bool) (f : Fill) : M Flow := do
  let b ← liftT (rx a fa)
  modS fun s =>
    match s.hint (b + simm imm) w f with
    | (true, s') => s'.bump 0x213 1
    | (false, s') => s'
  pure .seq

/-- `pf.r`. -/
def execPfR (a : BitVec 5) (fa : Bool) (imm : BitVec 14) (s : State) : Host.Outcome State Fault Refusal :=
  run (pf a fa imm false .both) s
/-- `pf.s`. -/
def execPfS (a : BitVec 5) (fa : Bool) (imm : BitVec 14) (s : State) : Host.Outcome State Fault Refusal :=
  run (pf a fa imm false .slices) s
/-- `pf.w`. -/
def execPfW (a : BitVec 5) (fa : Bool) (imm : BitVec 14) (s : State) : Host.Outcome State Fault Refusal :=
  run (pf a fa imm true .nothing) s
/-- `pf.drop`: the line is first for replacement (Table 12.7). -/
def execPfDrop (a : BitVec 5) (fa : Bool) (imm : BitVec 14) (s : State) : Host.Outcome State Fault Refusal :=
  run (pf a fa imm false .drop) s

end Sys2Proof.Machine
end

