-- ==== Sys2Proof/Machine/Bolts.lean ====
section
/-! DEFINITION. The bolt instructions of major 0x2E (R300). Their operations are flights to the bolt's home slice
(Memory.lean, R134 to R143). -/

namespace Sys2Proof.Machine

/-- A bolt address of the current thread, checked and translated (R135). A poisoned page is a machine check (R71). -/
def boltTarget (va : Word) : M Target := do
  let t ← scalarAt 6 true true true 4 va
  poisonCheck t.pa
  pure t

/-- Whether an arm of a sequencer has not been performed (Table 6.2). -/
def State.armPending (s : State) (q : Nat) : Bool :=
  s.flights.any fun f => f.seq = some q && f.op.any fun o => o.op = 0

/-- No engine command or bolt operation issues until an earlier arm is performed (Table 6.2). -/
def armCheck : M Unit := fun s =>
  if s.armPending s.cur.seq then
    let s := s.drain
    if s.armPending s.cur.seq then .error (.wait .memory) s else .ok () s
  else .ok () s

/-- A read at a line's home slice comes after every write the thread's frontier covers (R103, R108). -/
def homeCheck (pa : Nat) : M Unit := fun s =>
  if s.dieCovers (homeDie pa) s.front then .ok () s
  else
    let s := s.drain
    if s.dieCovers (homeDie pa) s.front then .ok () s else .error (.wait .memory) s

/-- An arm or arrive of the current thread, stamped like its writes (R102, R106); an arrive joins the frontier of its
release into the bolt (R139). -/
def boltIssue (t : Target) (op n arr : Nat) (rel : Option Nat) : M Unit := do
  armCheck
  match rel with
  | some sc => releaseM sc
  | none => pure ()
  overdueCheck
  modS fun s =>
    let (_, st, s') := s.boltSend s.dieNo s.front t.pa ⟨op, n, arr, if op = 0 then 0 else s.front⟩ (s.slot t.slot).key rel
      (some s.cur.seq)
    s'.raise st

/-- `bolt.arm`. -/
def execBoltArm (a b : BitVec 5) (fa fb : Bool) (s : State) : Host.Outcome State Fault Refusal :=
  run (do
    let va ← liftT (rx a fa)
    let x ← liftT (rx b fb)
    let t ← boltTarget va
    boltIssue t 0 (fld x 47 0) (fld x 62 48) none
    pure .seq) s

/-- `bolt.arrive.S`. -/
def execBoltArrive (scope a b : BitVec 5) (fa fb : Bool) (s : State) : Host.Outcome State Fault Refusal :=
  run (do
    let va ← liftT (rx a fa)
    let x ← liftT (rx b fb)
    let t ← boltTarget va
    boltIssue t 2 (fld x 47 0) 0 (some scope.toNat)
    pure .seq) s

/-- `bolt.wait` (R141): registered, it stays until a flip wakes it. -/
def execBoltWait (d a b : BitVec 5) (fa fb : Bool) (s : State) : Host.Outcome State Fault Refusal :=
  run (do
    let s ← getS
    match s.th.wait with
    | .boltDone ph =>
      liftT (wx d (if ph then 1 else 0))
      pure .seq
    | .bolt pa va ph => waitM (.bolt pa va ph)
    | _ =>
      let va ← liftT (rx a fa)
      let x ← liftT (rx b fb)
      liftT (destX d)
      let t ← boltTarget va
      armCheck
      homeCheck t.pa
      let s ← getS
      let p := (s.boltAt t.pa (s.slot t.slot).key).ph
      if p = bit x 0 then waitM (.bolt t.pa va (bit x 0))
      else
        modS fun s => s.raise (s.boltStamps t.pa).last
        liftT (wx d (if p then 1 else 0))
        pure .seq) s

/-- `bolt.rd`: both dwords in one atomic read. -/
def execBoltRd (d a : BitVec 5) (fa : Bool) (s : State) : Host.Outcome State Fault Refusal :=
  run (do
    let va ← liftT (rx a fa)
    liftT (destX d)
    liftT (destX (d + 1))
    let t ← boltTarget va
    armCheck
    let bs ← atomicM t va 16 none fun _ => none
    landX d (w64 (natOfBytes (bs.take 8))) true
    landX (d + 1) (w64 (natOfBytes (bs.drop 8))) true
    pure .seq) s

end Sys2Proof.Machine
end

