-- ==== Sys2Proof/Machine/Control.lean ====
section
/-! DEFINITION. Branches, jumps and loops (majors 0x12 to 0x1B), control registers (0x02), full/empty control (0x03)
and the system instructions of 0x01 that touch no stage queue (R269 to R289). -/

namespace Sys2Proof.Machine

/-! ## Branches and jumps (R269, R270) -/

/-- The target of a word offset (R269). -/
def target {n : Nat} (pc : Word) (off : BitVec n) : Word := pc + simm off * 4

/-- A branch: FA governs both sources (R183). -/
def branch (a b : BitVec 5) (fa : Bool) (off : BitVec 14) (c : Word → Word → Bool) : T Flow := do
  let x ← rx a fa
  let y ← rx b fa
  let t ← getT
  pure (if c x y then .goto (target t.pc off) else .seq)

/-- A taken outcome of the trailing thread. -/
def execBeq (a b : BitVec 5) (fa : Bool) (off : BitVec 14) (s : State) : Host.Outcome State Fault Refusal :=
  runT (branch a b fa off fun x y => x == y) s
/-- `bne`. -/
def execBne (a b : BitVec 5) (fa : Bool) (off : BitVec 14) (s : State) : Host.Outcome State Fault Refusal :=
  runT (branch a b fa off fun x y => x != y) s
/-- `blt`. -/
def execBlt (a b : BitVec 5) (fa : Bool) (off : BitVec 14) (s : State) : Host.Outcome State Fault Refusal :=
  runT (branch a b fa off fun x y => x.slt y) s
/-- `bge`. -/
def execBge (a b : BitVec 5) (fa : Bool) (off : BitVec 14) (s : State) : Host.Outcome State Fault Refusal :=
  runT (branch a b fa off fun x y => !x.slt y) s
/-- `bltn`. -/
def execBltn (a b : BitVec 5) (fa : Bool) (off : BitVec 14) (s : State) : Host.Outcome State Fault Refusal :=
  runT (branch a b fa off fun x y => x.ult y) s
/-- `bgen`. -/
def execBgen (a b : BitVec 5) (fa : Bool) (off : BitVec 14) (s : State) : Host.Outcome State Fault Refusal :=
  runT (branch a b fa off fun x y => !x.ult y) s

/-- A call while a loop is active traps with cause 0x17, reason 4, before any effect (R274). -/
def noCallInLoop : T Unit := fun t => if t.ldepth = 0 then .ok () t else .error (.trap 0x17 4 0 0) t

/-- `jal` (R270). -/
def execJal (off : BitVec 25) (s : State) : Host.Outcome State Fault Refusal :=
  runT (do
    noCallInLoop
    let t ← getT
    wx 31 (t.pc + 4)
    pure (.goto (target t.pc off))) s

/-- `jalr` (R270): the call check, the target and its alignment, then the link. -/
def execJalr (d a : BitVec 5) (fa : Bool) (imm : BitVec 14) (s : State) : Host.Outcome State Fault Refusal :=
  runT (do
    if d ≠ 0 then noCallInLoop
    let x ← rx a fa
    let tgt := x + simm imm
    if tgt.toNat % 4 ≠ 0 then trapT 0x0C tgt
    let t ← getT
    wx d (t.pc + 4)
    pure (.goto tgt)) s

/-! ## Loops (R272, R275) -/

/-- `loop` (R272). -/
def execLoop (a : BitVec 5) (fa : Bool) (imm : BitVec 14) (s : State) : Host.Outcome State Fault Refusal :=
  runT (do
    let n ← rx a fa
    let t ← getT
    let last := t.pc + (simm imm - 1) * 4
    let dep := t.ldepth.toNat
    if dep > 0 ∧ (Sparse.get 0 t.leend (dep - 1)).toNat < last.toNat then trapT 0x17 5
    if n = 0 then
      let r := seqNext t last
      modT fun _ => r.2
      pure (.raw r.1)
    else do
      if dep = 6 then trapT 0x17 1
      modT fun t => { t with
        ldepth := w64 (dep + 1), lecnt := Sparse.set t.lecnt dep (n - 1), leidx := Sparse.set t.leidx dep 0,
        lebeg := Sparse.set t.lebeg dep (t.pc + 4), leend := Sparse.set t.leend dep last }
      pure (.raw (t.pc + 4))) s

/-- `lbrk` (R275). -/
def execLbrk (s : State) : Host.Outcome State Fault Refusal :=
  runT (do
    let t ← getT
    if t.ldepth = 0 then trapT 0x17 2
    let e := t.ldepth.toNat - 1
    let r := seqNext { t with ldepth := w64 e } (Sparse.get 0 t.leend e)
    modT fun _ => r.2
    pure (.raw r.1)) s

/-- A field of level n of the loop stack (R275): reason 3 where the level is not active. -/
def loopField (d n : BitVec 5) (f : Thread → Nat → Word) : T Unit := do
  let t ← getT
  if t.ldepth.toNat ≤ n.toNat then trapT 0x17 3
  wx d (f t (t.ldepth.toNat - 1 - n.toNat))

/-- `lidx`. -/
def execLidx (d n : BitVec 5) (s : State) : Host.Outcome State Fault Refusal :=
  runS (loopField d n fun t e => Sparse.get 0 t.leidx e) s
/-- `lrem`. -/
def execLrem (d n : BitVec 5) (s : State) : Host.Outcome State Fault Refusal :=
  runS (loopField d n fun t e => Sparse.get 0 t.lecnt e) s
/-- `lclr`: continues at P + 4. -/
def execLclr (s : State) : Host.Outcome State Fault Refusal :=
  runT (do
    let t ← getT
    modT fun t => { t with ldepth := 0 }
    pure (.raw (t.pc + 4))) s

/-! ## Control registers (R190, R191, R276) -/

/-- Share kind: 0 full, 1 half, 2 quarter (R154). -/
def Seq.kind (q : Seq) : Nat :=
  let n := popBelow q.groups.toNat 4
  if n = 4 then 0 else if n = 2 then 1 else 2

/-- `share` (Table 7.2): 0 while the sequencer has no share, as at reset (Table 8.4). -/
def State.shareWord (s : State) : Word :=
  let q := s.sq
  if q.groups = 0 then 0
  else w64 (s.cur.thr <<< 10 ||| (if q.split = 4 then 2 else if q.split = 2 then 1 else 0) <<< 8 |||
    q.groups.toNat <<< 4 ||| s.slotNo <<< 2 ||| q.kind)

/-- Numbers Table 8.4 and file 17 assign. -/
def csrAssigned (c : Nat) : Bool :=
  c ≤ 0x00A || (0x010 ≤ c && c ≤ 0x013) || (0x018 ≤ c && c ≤ 0x025) || (0x040 ≤ c && c ≤ 0x058) ||
  (0x100 ≤ c && c ≤ 0x105) || (0x200 ≤ c && c ≤ 0x204) || (0x210 ≤ c && c ≤ 0x217) ||
  (0x300 ≤ c && c ≤ 0x306) || (0x310 ≤ c && c ≤ 0x315) || c = 0x318

/-- Whether an access is permitted (R190). -/
def csrAllowed (l : Level) (c : Nat) (writes : Bool) : Bool :=
  csrAssigned c &&
  (match l with
    | .program => c < 0x100 || (c < 0x300 && !writes)
    | .supervisor => c < 0x3C0)

/-- How many of the compared words found no entry is settled when `refork` or `fabpfwaste` is read (R161, log 16): a free
number of them, each one `refork`; where there are any, what the lead has outstanding is orphaned. -/
def State.settleLead (s : State) : State :=
  let (v, s) := s.draw
  let missing := v.toNat % (s.cp.compared + 1)
  let s := s.setCp { s.cp with compared := 0 }
  if missing = 0 then s
  else (s.bump 0x211 missing).orphanLead

/-- The cycles the lead spent waiting, which no rule gives the number of: they have risen by a free amount since they
were last read (log 16). -/
def State.readLeadWait (s : State) : Word × State :=
  let (n, s) := s.draw
  let v := Sparse.get 0 s.cp.counters 0x217 + n
  (v, s.setCp { s.cp with counters := Sparse.set s.cp.counters 0x217 v })

/-- A CSR's value. -/
def State.csrRead (s : State) (c : Nat) : Word × State :=
  let s := if c = 0x211 ∨ c = 0x215 then s.settleLead else s
  let t := s.th
  let q := s.sq
  let v : Word :=
    if c = 0x000 then t.vl else if c = 0x001 then t.vtype else if c = 0x002 then t.vstride
    else if c = 0x003 then t.vmsk else if c = 0x004 then t.vstart else if c = 0x005 then t.xrm
    else if c = 0x006 then t.frm else if c = 0x007 then t.fflags else if c = 0x008 then t.vxsat
    else if c = 0x009 then t.ftrap else if c = 0x00A then t.vverd
    else if 0x010 ≤ c ∧ c ≤ 0x013 then Sparse.get 0xFF800000#64 t.vt (c - 0x010)
    else if 0x018 ≤ c ∧ c ≤ 0x01F then Sparse.get 0 t.qlen (c - 0x018)
    else if c = 0x020 then w64 t.lanes.length else if c = 0x021 then t.vlmaxb else if c = 0x022 then 128
    else if c = 0x023 then w64 q.tiles else if c = 0x024 then s.shareWord else if c = 0x025 then t.vdecl
    else if 0x040 ≤ c ∧ c < 0x058 then
      let e := (c - 0x040) / 4
      if c % 4 = 0 then Sparse.get 0 t.lecnt e else if c % 4 = 1 then Sparse.get 0 t.leidx e
      else if c % 4 = 2 then Sparse.get 0 t.lebeg e else Sparse.get 0 t.leend e
    else if c = 0x058 then t.ldepth
    else if c = 0x100 then t.tpc else if c = 0x101 then t.tcause else if c = 0x102 then t.tval
    else if c = 0x103 then t.telem else if c = 0x104 then t.tinfo else if c = 0x105 then t.tloop
    else if c = 0x201 then t.instret else if c = 0x202 then t.emucount else if c = 0x203 then t.krmiss
    else if c = 0x204 then t.krxlat
    else if 0x210 ≤ c ∧ c ≤ 0x217 then Sparse.get 0 s.cp.counters c
    else if c = 0x300 then q.dxp else if c = 0x301 then q.tvec else if c = 0x302 then t.tstat
    else if c = 0x303 then t.tscratch else if c = 0x304 then q.tsave else if c = 0x305 then q.pfwait
    else if c = 0x306 then q.boltlim
    else if c = 0x310 then s.cp.trcctl else if c = 0x311 then s.cp.trcpos
    else if c = 0x312 then Sparse.get 0 s.cp.trgctl 0 else if c = 0x313 then Sparse.get 0 s.cp.trgctl 1
    else if c = 0x314 then Sparse.get 0 s.cp.trgaddr 0 else if c = 0x315 then Sparse.get 0 s.cp.trgaddr 1
    else if c = 0x318 then s.cp.serrcnt
    else 0
  if c = 0x200 then s.readCycle
  else if c = 0x217 then s.readLeadWait
  else (v, s)

/-- Whether a write of `dxp` has a MODE it can take (R38, R227). -/
def State.dxpTakes (s : State) (new : Word) : Bool :=
  let m := fld new 63 60
  m = 0 || m = 0xA || (m = 0xB && s.feature 16)

/-- `dxp` as a write leaves it (R37, R38): ignored whole for a MODE it cannot take. -/
def State.dxpWrite (s : State) (old new : Word) : Word :=
  if s.dxpTakes new then new &&& ~~~(0x800000000000#64) else old

/-- A write of a thread's own register: the field rules of R191 and of the register's table. LDEP of `tstat` holds
whatever is written (Table 17.2); `ldepth` alone refuses 7. -/
def Thread.csrWrite (t : Thread) (c : Nat) (v : Word) : Thread :=
  if c = 0x002 then { t with vstride := v }
  else if c = 0x003 then { t with vmsk := v &&& 0x3FF#64 }
  else if c = 0x004 then (if 4096 < fld v 12 0 then t else { t with vstart := v &&& 0x1FFF#64 })
  else if c = 0x005 then { t with xrm := v &&& 3 }
  else if c = 0x006 then (if 4 < fld v 2 0 then t else { t with frm := v &&& 7 })
  else if c = 0x007 then { t with fflags := v &&& 0x3F#64 }
  else if c = 0x008 then { t with vxsat := v &&& 1 }
  else if c = 0x009 then { t with ftrap := v &&& 0x3F#64 }
  else if c = 0x00A then (if fld v 1 0 = 3 then t else { t with vverd := v &&& 0xFFF#64 })
  else if 0x010 ≤ c ∧ c ≤ 0x013 then { t with vt := Sparse.set t.vt (c - 0x010) (v &&& 0xFFFFFFFF#64) }
  else if 0x018 ≤ c ∧ c ≤ 0x01F then
    (if 1024 < fld v 10 0 then t else { t with qlen := Sparse.set t.qlen (c - 0x018) (v &&& 0x7FF#64) })
  else if 0x040 ≤ c ∧ c < 0x058 then
    let e := (c - 0x040) / 4
    if c % 4 = 0 then { t with lecnt := Sparse.set t.lecnt e v }
    else if c % 4 = 1 then { t with leidx := Sparse.set t.leidx e v }
    else if c % 4 = 2 then { t with lebeg := Sparse.set t.lebeg e (v &&& ~~~3#64) }
    else { t with leend := Sparse.set t.leend e (v &&& ~~~3#64) }
  else if c = 0x058 then (if fld v 2 0 = 7 then t else { t with ldepth := v &&& 7 })
  else if c = 0x100 then { t with tpc := v }
  else if c = 0x101 then { t with tcause := v &&& 0xFF#64 }
  else if c = 0x102 then { t with tval := v }
  else if c = 0x103 then { t with telem := v }
  else if c = 0x104 then { t with tinfo := v }
  else if c = 0x105 then { t with tloop := v &&& ~~~(0x1000000000000000#64) }
  else if c = 0x302 then { t with tstat := v &&& 0x37#64 }
  else if c = 0x303 then { t with tscratch := v }
  else t

/-- A write of a sequencer's or core's register. -/
def State.csrWriteShared (s : State) (c : Nat) (v : Word) : State :=
  let q := s.sq
  if c = 0x300 then s.setSq { q with dxp := s.dxpWrite q.dxp v }
  else if c = 0x301 then s.setSq { q with tvec := v &&& ~~~3#64 }
  else if c = 0x304 then s.setSq { q with tsave := v &&& ~~~0x3F#64 }
  else if c = 0x305 then s.setSq { q with pfwait := v &&& 0xFFFFFFFF#64 }
  else if c = 0x306 then s.setSq { q with boltlim := v &&& 0xFFFFFFFF#64 }
  else
    let k := s.cp
    if c = 0x310 then
      s.setCp { k with trcctl := (if bit v 63 then 0 else k.trcctl &&& 0x8000000000000000#64) ||| (v &&& 0xF0F#64) }
    else if c = 0x312 ∨ c = 0x313 then
      s.setCp { k with trgctl := Sparse.set k.trgctl (c - 0x312) (v &&& 0xF00000000000003F#64) }
    else if c = 0x314 ∨ c = 0x315 then s.setCp { k with trgaddr := Sparse.set k.trgaddr (c - 0x314) v }
    else s

/-- A CSR access (R276): the level check, the source, the old value, the write, the destination. A write to `dxp`
waits for the sequencer's earlier accesses, and one that takes effect re-forks the lead, with a count (R39). -/
def csrOp (d a : BitVec 5) (fa : Bool) (csr : BitVec 12) (writes : Bool) (f : Word → Word → Word) : M Flow := do
  let c := csr.toNat
  let s ← getS
  if !csrAllowed s.th.level c writes then liftT illegal
  let x ← liftT (rx a fa)
  liftT (destX d)
  if writes && c = 0x300 then performedM
  let s ← getS
  let (old, s1) := s.csrRead c
  let new := f old x
  let s1 := if writes && c = 0x300 && s1.dxpTakes new then s1.refork.fork else s1
  let s2 :=
    if writes then
      if c < 0x300 ∨ c = 0x302 ∨ c = 0x303 then s1.setTh (s1.th.csrWrite c new) else s1.csrWriteShared c new
    else s1
  modS fun _ => s2.setTh (s2.th.setX d.toNat old)
  pure .seq

/-- `csrrw`. -/
def execCsrrw (d a : BitVec 5) (fa : Bool) (csr : BitVec 12) (s : State) : Host.Outcome State Fault Refusal :=
  run (csrOp d a fa csr true fun _ x => x) s
/-- `csrrs`: writes when A ≠ 0. -/
def execCsrrs (d a : BitVec 5) (fa : Bool) (csr : BitVec 12) (s : State) : Host.Outcome State Fault Refusal :=
  run (csrOp d a fa csr (a != 0) fun o x => o ||| x) s
/-- `csrrc`: writes when A ≠ 0. -/
def execCsrrc (d a : BitVec 5) (fa : Bool) (csr : BitVec 12) (s : State) : Host.Outcome State Fault Refusal :=
  run (csrOp d a fa csr (a != 0) fun o x => o &&& ~~~x) s

/-! ## Full/empty control (R278) -/

/-- `fwait`. -/
def execFwait (a : BitVec 5) (fa : Bool) (s : State) : Host.Outcome State Fault Refusal :=
  runS (rx a fa *> pure ()) s
/-- `fwaitv`. -/
def execFwaitv (a : BitVec 5) (fa : Bool) (s : State) : Host.Outcome State Fault Refusal :=
  runS (do vOk a; let _ ← rv a fa) s
/-- `fsts`: never waits on its source. -/
def execFsts (d a : BitVec 5) (s : State) : Host.Outcome State Fault Refusal :=
  runS (do let t ← getT; wx d (if t.xFull a.toNat then 1 else 0)) s
/-- `fstv`. -/
def execFstv (d a : BitVec 5) (s : State) : Host.Outcome State Fault Refusal :=
  runS (do vOk a; let t ← getT; wx d (if t.vFull a.toNat then 1 else 0)) s
/-- Every scalar, vector and `vx` register of the thread is full. -/
def Thread.allFull (t : Thread) : Bool := t.xempty = 0 && t.v.all fun r => !r.2.empty
/-- `fwall`. -/
def execFwall (s : State) : Host.Outcome State Fault Refusal :=
  runS (fun t => if t.allFull then .ok () t else .error (.wait .regs) t) s

/-! ## System instructions (R279 to R287) -/

/-- `nop`. -/
def execNop (s : State) : Host.Outcome State Fault Refusal := runS (pure ()) s

/-- `trap` (R280): cause 0x21 at its own instruction. -/
def execTrap (a : BitVec 5) (fa : Bool) (s : State) : Host.Outcome State Fault Refusal :=
  runT (do let x ← rx a fa; trapT 0x21 x) s

/-- `brk` (R280). -/
def execBrk (s : State) : Host.Outcome State Fault Refusal := runT (trapT 0x20 0) s

/-- `eret` (R281, R404): the lead is forked afresh (R162). -/
def execEret (s : State) : Host.Outcome State Fault Refusal :=
  run (do
    liftT supervisorOnly
    modS fun s => s.setTh (s.th.eret.fork s.counts)
    let s ← getS
    pure (.raw s.th.tpc)) s

/-- `wfe` (R282), also after its limit has passed. -/
def wfeM (d a : BitVec 5) (fa : Bool) : T Unit := do
  let x ← rx a fa
  destX d
  let t ← getT
  if t.wait = .wfeOver then
    wx d (t.latch ||| 8)
    modT fun t => { t with latch := 0 }
  else if t.latch ≠ 0 then
    wx d t.latch
    modT fun t => { t with latch := 0 }
  else throw (.wait (.wfe (x != 0)))

/-- `wfe`. -/
def execWfe (d a : BitVec 5) (fa : Bool) (s : State) : Host.Outcome State Fault Refusal := runS (wfeM d a fa) s

/-- WFE_TIMEOUT: the limit of a waiting `wfe`, the word in `ir`, passes, and it returns with bit 3 set. -/
def execWfeTimeout (seq thr : Nat) (s : State) : Host.Outcome State Fault Refusal :=
  let s' := { s with cur := ⟨seq, thr⟩ }
  match s'.th.wait with
  | .wfe true =>
    runS (wfeM (fieldD s'.th.ir) (fieldA s'.th.ir) (fieldFA s'.th.ir)) (s'.setTh { s'.th with wait := .wfeOver })
  | _ => .next s

/-- `pollp` (R283). A request it has returned stands until R283 clears it (R439). -/
def execPollp (d : BitVec 5) (s : State) : Host.Outcome State Fault Refusal :=
  run (do
    let s ← getS
    liftT (wx d s.sq.migreq)
    modS fun s => s.setSq { s.sq with polled := s.sq.polled || s.sq.migreq != 0 }
    pure .seq) s

/-- A `yield` taken: the context is to be saved with a cause, and the request is cleared (R283). After a `pollp` that
returned MIG, the share kind the request named is the one it is first to be restored on (R440). -/
def State.yielding (s : State) (cause : Nat) : State :=
  let q := s.sq
  s.setSq { q with
    saving := some cause, migreq := 0, polled := false,
    resumeOn := if q.polled && bit q.migreq 0 && fld q.migreq 3 2 ≠ 3 then some (fld q.migreq 3 2) else none }

/-- `yield` (R284, R415). At program level it completes, and the context at the next address is to be saved with CAUSE
0x31; in a handler entered from program level it saves what the trap presents. -/
def execYield (s : State) : Host.Outcome State Fault Refusal :=
  run (do
    notSplit
    let s ← getS
    let t := s.th
    if t.claiming then waitM .memory
    match t.level with
    | .program =>
      modS fun s => (s.traceEntry 4 0x31).yielding 0x31
      let r := seqNext t t.pc
      modS fun s => s.setTh { r.2 with tpc := r.1, tcause := 0x31, tval := 0, telem := 0 }
      pure (.raw r.1)
    | .supervisor =>
      if bit t.tstat 4 then trapM 0x03
      modS fun s => (s.traceEntry 4 0x31).yielding (fld t.tcause 7 0)
      modS fun s => s.setTh t.eret
      pure (.raw t.tpc)) s

/-- Wait until every earlier access is performed, publications among them, and every engine command has completed. -/
def quietM : M Unit := do
  performedM
  let s ← getS
  if s.resvs.any fun r => r.seq = some s.cur.seq then waitM .memory
  if s.engineBusy s.cur.seq then waitM .engine

/-- `halt` (R285). -/
def execHalt (s : State) : Host.Outcome State Fault Refusal :=
  run (do
    liftT supervisorOnly
    quietM
    let s ← getS
    modS (stopSeq 0 s.th.pc)
    pure .seq) s

/-- Whether two cores lie in one unit of a scope level: 1 core, 2 quad, 3 die, 4 and above the module (R112). -/
def sameUnit (scope c1 c2 : Nat) : Bool :=
  if scope ≤ 1 then c1 = c2 else if scope = 2 then c1 / 4 = c2 / 4 else if scope = 3 then c1 / 32 = c2 / 32 else true

/-- Drop translations of regions from the keyrings of the cores of a scope (R219 step 3, R217). -/
def State.dropRings (s : State) (scope c : Nat) : State :=
  { s with cores := s.cores.map fun (k, v) => if sameUnit scope c k then (k, { v with ring := [] }) else (k, v) }

/-- Drop cached translations of the cores of a scope (R287 step 2, R48). -/
def State.dropTlbs (s : State) (scope c : Nat) : State :=
  { s with cores := s.cores.map fun (k, v) => if sameUnit scope c k then (k, { v with tlb := [] }) else (k, v) }

/-- `cinval` (R219, R286): a range that wraps is illegal. -/
def execCinval (scope a b : BitVec 5) (fa fb : Bool) (s : State) : Host.Outcome State Fault Refusal :=
  run (do
    let x ← liftT (rx a fa)
    let y ← liftT (rx b fb)
    if 2 ^ 64 < x.toNat + y.toNat then liftT illegal
    quietM
    modS fun s => s.dropRings scope.toNat s.coreNo
    pure .seq) s

/-- `tlbsync` (R287). -/
def execTlbsync (scope a b : BitVec 5) (fa fb : Bool) (s : State) : Host.Outcome State Fault Refusal :=
  run (do
    liftT supervisorOnly
    let _ ← liftT (rx a fa)
    let _ ← liftT (rx b fb)
    performedAllM
    modS fun s => (s.dropTlbs scope.toNat s.coreNo).rehome fun _ => true
    pure .seq) s

end Sys2Proof.Machine
end

