-- ==== Sys2Proof/Machine/VecInt.lean ====
section
/-! DEFINITION. Vector configuration (0x30), integer arithmetic (0x34) and widening, narrowing and fixed point (0x35):
R315 to R322. -/

namespace Sys2Proof.Machine

/-! ## Configuration (R319, R320) -/

/-- Whether an element type code is permitted (R192): the tumbler types by feature 8. -/
def etypeOk (tumbler : Bool) (e : Nat) : Bool := e < 11 || (e < 13 && tumbler)

/-- A register laid out again for fewer dwords (R418 step 3): what lies above is lost. -/
def VReg.clip (r : VReg) (n : Nat) : VReg :=
  { r with bits := BitVec.ofNat 32768 (r.bits.toNat % 2 ^ (64 * n)), vb := min r.vb (8 * n) }

/-- A vector result still to land, laid out likewise. -/
def Pend.clip (p : Pend) (n : Nat) : Pend :=
  match p with
  | .vector r v => .vector r (v.clip n)
  | p => p

/-- VLMAX recomputed (R73), with the registers laid out over the live lanes. -/
def Thread.relayout (t : Thread) : Thread :=
  let n := t.lanes.length * t.depth
  let t := { t with vlmaxb := w64 (64 * n) }
  if t.layout = t.lanes then t
  else { t with layout := t.lanes, v := t.v.map fun (k, r) => (k, r.clip n), pend := t.pend.map (·.clip n) }

/-- `vl`, `vtype` and the destination of a configuration instruction; `avl` is none for the maximum. -/
def configure (d : BitVec 5) (avl : Option Word) (ty : Word) (tumbler : Bool) : T Unit := fun t0 =>
  let t := { t0.relayout with vstart := 0 }
  let e := fld ty 3 0
  let t :=
    if fld ty 62 12 ≠ 0 || !etypeOk tumbler e then { t with vtype := 0x8000000000000000#64, vl := 0 }
    else
      let vlmax := t.vlmaxN / (8 <<< ewLog e)
      let n := match avl with
        | some a => min a.toNat vlmax
        | none => vlmax
      { t with vtype := ty &&& 0x7FFFFFFFFFFFFFFF#64, vl := w64 n }
  .ok () (t.setX d.toNat t.vl)

/-- `vsetvl`. -/
def execVsetvl (d a b : BitVec 5) (fa fb : Bool) (s : State) : Host.Outcome State Fault Refusal :=
  runS (do
    let x ← rx a fa
    let y ← rx b fb
    destX d
    configure d (some x) y (s.feature 8)) s
/-- `vsetvlmax`. -/
def execVsetvlmax (d b : BitVec 5) (fb : Bool) (s : State) : Host.Outcome State Fault Refusal :=
  runS (do
    let y ← rx b fb
    destX d
    configure d none y (s.feature 8)) s
/-- `vsetvli`. -/
def execVsetvli (d a : BitVec 5) (ty : BitVec 4) (fa : Bool) (blen : BitVec 3) (sat : Bool) (s : State) :
    Host.Outcome State Fault Refusal :=
  runS (do
    let x ← rx a fa
    destX d
    configure d (some x) (w64 (ty.toNat + blen.toNat * 16 + if sat then 2048 else 0)) (s.feature 8)) s

/-! ## Integer rows (R316, R318, R321, R322) -/

/-- Operand B is a vector register unless the word's S bit is set (R315). -/
def bOk (sc : Bool) (b : BitVec 5) : T Unit := if sc then pure () else vOk b

def getB (sc : Bool) (b : BitVec 5) (fb : Bool) (w : Nat) : T (Nat → Nat) :=
  if sc then do let v ← rx b fb; pure (bScalar w v) else do let x ← rv b fb; pure (bVector w x)

/-- Width classes of R317. -/
inductive Cls where
  | e
  | w
  | n
deriving DecidableEq, Repr

/-- How a row's exact value is written: as it is, with `fit`, or clamped. -/
inductive Clamp where
  | wrap
  | fit
  | sat
deriving DecidableEq, Repr

/-- An integer row: class, whether its operands must be distinct, the types it takes, how its value is written, and
the exact value from the type, the element width and the elements of A, B and the destination. -/
structure IntRow where
  cls : Cls
  acc : Bool
  types : Nat → Bool
  clamp : Clamp
  f : Nat → Nat → Nat → Nat → Nat → Int

/-- The value written, whether it differs from the exact one, and whether it saturated (R318). -/
def writeInt (c : Clamp) (sat signed : Bool) (n : Nat) (x : Int) : ERes :=
  let (v, cl) := match c with
    | .wrap => (pat n x, false)
    | .fit => fitTo sat signed n x
    | .sat => satTo signed n x
  ⟨some v, 0, decide ((if signed then sval n v else (v : Int)) ≠ x), cl⟩

/-- An integer instruction with a vector destination. Where several register fields of a word are out of range R187 does
not say which `tval` names: D's comes first, then A's, then B's (DESIGN CHOICE, log 51, for every instruction). -/
def vint (r : IntRow) (sc : Bool) (d a b : BitVec 5) (fa fb xm : Bool) : T Unit := do
  vOk d
  vOk a
  bOk sc b
  if r.cls ≠ .e || r.acc then
    distinct d a
    if sc then pure () else distinct d b
  notVill
  let t ← getT
  let w := t.ew
  need (r.types t.etype)
  if r.cls ≠ .e then
    need (w ≤ 32 && t.vlN * (2 * w) ≤ t.vlmaxN)
  let x ← rv a fa
  let y ← getB sc b fb w
  destV d
  let wa := if r.cls = .n then 2 * w else w
  let wd := if r.cls = .w then 2 * w else w
  loopV d wd xm false fun i dst =>
    writeInt r.clamp t.satOn (isSigned t.etype) wd (r.f t.etype w (elemAt wa x i) (y i) (elemAt wd dst i))

/-- A mask written by a compare or by major 0x3A is traced (R422). -/
def traceMask (k : BitVec 5) : M Unit := modS fun s =>
  s.traceEntry 2 (w64 (k.toNat <<< 60 ||| popBelow (s.th.mask k.toNat) s.th.vlN))

/-- An integer compare: bits of a mask. -/
def vcmp (sc : Bool) (d a b : BitVec 5) (fa fb : Bool) (f : Int → Int → Bool) : M Flow := do
  liftT (do
    kOk d
    vOk a
    bOk sc b
    notVill
    let t ← getT
    need (isInt t.etype)
    let x ← rv a fa
    let y ← getB sc b fb t.ew
    loopK d false false fun i _ =>
      ⟨some (if f (ival t.etype t.ew (elemAt t.ew x i)) (ival t.etype t.ew (y i)) then 1 else 0), 0, false, false⟩)
  traceMask d
  pure .seq

/-- A row of class E over the values of A and B in the type. -/
def rowE (clamp : Clamp) (f : Int → Int → Int) : IntRow :=
  ⟨.e, false, isInt, clamp, fun e w a b _ => f (ival e w a) (ival e w b)⟩

/-- A row of class E over the bits of A and B. -/
def rowBits (f : Nat → Nat → Nat → Nat) : IntRow := ⟨.e, false, isInt, .wrap, fun _ w a b _ => (f w a b : Nat)⟩

/-- Row `vadd`. -/
def rowVadd : IntRow := rowE .fit fun a b => a + b

/-- `vadd`. -/
def execVadd (d a b : BitVec 5) (fa fb xm : Bool) (s : State) : Host.Outcome State Fault Refusal :=
  runS (vint rowVadd false d a b fa fb xm) s

/-- `vadd.vs`. -/
def execVaddVs (d a b : BitVec 5) (fa fb xm : Bool) (s : State) : Host.Outcome State Fault Refusal :=
  runS (vint rowVadd true d a b fa fb xm) s

/-- Row `vsub`. -/
def rowVsub : IntRow := rowE .fit fun a b => a - b

/-- `vsub`. -/
def execVsub (d a b : BitVec 5) (fa fb xm : Bool) (s : State) : Host.Outcome State Fault Refusal :=
  runS (vint rowVsub false d a b fa fb xm) s

/-- `vsub.vs`. -/
def execVsubVs (d a b : BitVec 5) (fa fb xm : Bool) (s : State) : Host.Outcome State Fault Refusal :=
  runS (vint rowVsub true d a b fa fb xm) s

/-- Row `vrsub`. -/
def rowVrsub : IntRow := rowE .fit fun a b => b - a

/-- `vrsub`. -/
def execVrsub (d a b : BitVec 5) (fa fb xm : Bool) (s : State) : Host.Outcome State Fault Refusal :=
  runS (vint rowVrsub false d a b fa fb xm) s

/-- `vrsub.vs`. -/
def execVrsubVs (d a b : BitVec 5) (fa fb xm : Bool) (s : State) : Host.Outcome State Fault Refusal :=
  runS (vint rowVrsub true d a b fa fb xm) s

/-- Row `vmul`. -/
def rowVmul : IntRow := rowE .fit fun a b => a * b

/-- `vmul`. -/
def execVmul (d a b : BitVec 5) (fa fb xm : Bool) (s : State) : Host.Outcome State Fault Refusal :=
  runS (vint rowVmul false d a b fa fb xm) s

/-- `vmul.vs`. -/
def execVmulVs (d a b : BitVec 5) (fa fb xm : Bool) (s : State) : Host.Outcome State Fault Refusal :=
  runS (vint rowVmul true d a b fa fb xm) s

/-- Row `vmulh`. -/
def rowVmulh : IntRow := ⟨.e, false, isInt, .wrap, fun e w a b _ => ival e w a * ival e w b / 2 ^ w⟩

/-- `vmulh`. -/
def execVmulh (d a b : BitVec 5) (fa fb : Bool) (s : State) : Host.Outcome State Fault Refusal :=
  runS (vint rowVmulh false d a b fa fb false) s

/-- `vmulh.vs`. -/
def execVmulhVs (d a b : BitVec 5) (fa fb : Bool) (s : State) : Host.Outcome State Fault Refusal :=
  runS (vint rowVmulh true d a b fa fb false) s

/-- Row `vdiv`. -/
def rowVdiv : IntRow := ⟨.e, false, isInt, .wrap, fun e w a b _ => ((intDiv (isSigned e) w a b).1 : Nat)⟩

/-- `vdiv`. -/
def execVdiv (d a b : BitVec 5) (fa fb : Bool) (s : State) : Host.Outcome State Fault Refusal :=
  runS (vint rowVdiv false d a b fa fb false) s

/-- `vdiv.vs`. -/
def execVdivVs (d a b : BitVec 5) (fa fb : Bool) (s : State) : Host.Outcome State Fault Refusal :=
  runS (vint rowVdiv true d a b fa fb false) s

/-- Row `vrem`. -/
def rowVrem : IntRow := ⟨.e, false, isInt, .wrap, fun e w a b _ => ((intDiv (isSigned e) w a b).2 : Nat)⟩

/-- `vrem`. -/
def execVrem (d a b : BitVec 5) (fa fb : Bool) (s : State) : Host.Outcome State Fault Refusal :=
  runS (vint rowVrem false d a b fa fb false) s

/-- `vrem.vs`. -/
def execVremVs (d a b : BitVec 5) (fa fb : Bool) (s : State) : Host.Outcome State Fault Refusal :=
  runS (vint rowVrem true d a b fa fb false) s

/-- Row `vmin`. -/
def rowVmin : IntRow := rowE .wrap fun a b => if b < a then b else a

/-- `vmin`. -/
def execVmin (d a b : BitVec 5) (fa fb : Bool) (s : State) : Host.Outcome State Fault Refusal :=
  runS (vint rowVmin false d a b fa fb false) s

/-- `vmin.vs`. -/
def execVminVs (d a b : BitVec 5) (fa fb : Bool) (s : State) : Host.Outcome State Fault Refusal :=
  runS (vint rowVmin true d a b fa fb false) s

/-- Row `vmax`. -/
def rowVmax : IntRow := rowE .wrap fun a b => if a < b then b else a

/-- `vmax`. -/
def execVmax (d a b : BitVec 5) (fa fb : Bool) (s : State) : Host.Outcome State Fault Refusal :=
  runS (vint rowVmax false d a b fa fb false) s

/-- `vmax.vs`. -/
def execVmaxVs (d a b : BitVec 5) (fa fb : Bool) (s : State) : Host.Outcome State Fault Refusal :=
  runS (vint rowVmax true d a b fa fb false) s

/-- Row `vand`. -/
def rowVand : IntRow := rowBits fun _ a b => a &&& b

/-- `vand`. -/
def execVand (d a b : BitVec 5) (fa fb : Bool) (s : State) : Host.Outcome State Fault Refusal :=
  runS (vint rowVand false d a b fa fb false) s

/-- `vand.vs`. -/
def execVandVs (d a b : BitVec 5) (fa fb : Bool) (s : State) : Host.Outcome State Fault Refusal :=
  runS (vint rowVand true d a b fa fb false) s

/-- Row `vor`. -/
def rowVor : IntRow := rowBits fun _ a b => a ||| b

/-- `vor`. -/
def execVor (d a b : BitVec 5) (fa fb : Bool) (s : State) : Host.Outcome State Fault Refusal :=
  runS (vint rowVor false d a b fa fb false) s

/-- `vor.vs`. -/
def execVorVs (d a b : BitVec 5) (fa fb : Bool) (s : State) : Host.Outcome State Fault Refusal :=
  runS (vint rowVor true d a b fa fb false) s

/-- Row `vxor`. -/
def rowVxor : IntRow := rowBits fun _ a b => a ^^^ b

/-- `vxor`. -/
def execVxor (d a b : BitVec 5) (fa fb : Bool) (s : State) : Host.Outcome State Fault Refusal :=
  runS (vint rowVxor false d a b fa fb false) s

/-- `vxor.vs`. -/
def execVxorVs (d a b : BitVec 5) (fa fb : Bool) (s : State) : Host.Outcome State Fault Refusal :=
  runS (vint rowVxor true d a b fa fb false) s

/-- Row `vsll`. -/
def rowVsll : IntRow := ⟨.e, false, isInt, .fit, fun e w a b _ => ival e w a * 2 ^ (b % w)⟩

/-- `vsll`. -/
def execVsll (d a b : BitVec 5) (fa fb xm : Bool) (s : State) : Host.Outcome State Fault Refusal :=
  runS (vint rowVsll false d a b fa fb xm) s

/-- `vsll.vs`. -/
def execVsllVs (d a b : BitVec 5) (fa fb xm : Bool) (s : State) : Host.Outcome State Fault Refusal :=
  runS (vint rowVsll true d a b fa fb xm) s

/-- Row `vsrl`. -/
def rowVsrl : IntRow := rowBits fun w a b => a >>> (b % w)

/-- `vsrl`. -/
def execVsrl (d a b : BitVec 5) (fa fb : Bool) (s : State) : Host.Outcome State Fault Refusal :=
  runS (vint rowVsrl false d a b fa fb false) s

/-- `vsrl.vs`. -/
def execVsrlVs (d a b : BitVec 5) (fa fb : Bool) (s : State) : Host.Outcome State Fault Refusal :=
  runS (vint rowVsrl true d a b fa fb false) s

/-- Row `vsra`. -/
def rowVsra : IntRow := ⟨.e, false, isInt, .wrap, fun _ w a b _ => sval w a / 2 ^ (b % w)⟩

/-- `vsra`. -/
def execVsra (d a b : BitVec 5) (fa fb : Bool) (s : State) : Host.Outcome State Fault Refusal :=
  runS (vint rowVsra false d a b fa fb false) s

/-- `vsra.vs`. -/
def execVsraVs (d a b : BitVec 5) (fa fb : Bool) (s : State) : Host.Outcome State Fault Refusal :=
  runS (vint rowVsra true d a b fa fb false) s

/-- Row `vmacc`. -/
def rowVmacc : IntRow := ⟨.e, true, isInt, .fit, fun e w a b d => ival e w d + ival e w a * ival e w b⟩

/-- `vmacc`. -/
def execVmacc (d a b : BitVec 5) (fa fb xm : Bool) (s : State) : Host.Outcome State Fault Refusal :=
  runS (vint rowVmacc false d a b fa fb xm) s

/-- `vmacc.vs`. -/
def execVmaccVs (d a b : BitVec 5) (fa fb xm : Bool) (s : State) : Host.Outcome State Fault Refusal :=
  runS (vint rowVmacc true d a b fa fb xm) s

/-- `vmseq`. -/
def execVmseq (d a b : BitVec 5) (fa fb : Bool) (s : State) : Host.Outcome State Fault Refusal :=
  run (vcmp false d a b fa fb fun a b => decide (a = b)) s

/-- `vmseq.vs`. -/
def execVmseqVs (d a b : BitVec 5) (fa fb : Bool) (s : State) : Host.Outcome State Fault Refusal :=
  run (vcmp true d a b fa fb fun a b => decide (a = b)) s

/-- `vmsne`. -/
def execVmsne (d a b : BitVec 5) (fa fb : Bool) (s : State) : Host.Outcome State Fault Refusal :=
  run (vcmp false d a b fa fb fun a b => decide (a ≠ b)) s

/-- `vmsne.vs`. -/
def execVmsneVs (d a b : BitVec 5) (fa fb : Bool) (s : State) : Host.Outcome State Fault Refusal :=
  run (vcmp true d a b fa fb fun a b => decide (a ≠ b)) s

/-- `vmslt`. -/
def execVmslt (d a b : BitVec 5) (fa fb : Bool) (s : State) : Host.Outcome State Fault Refusal :=
  run (vcmp false d a b fa fb fun a b => decide (a < b)) s

/-- `vmslt.vs`. -/
def execVmsltVs (d a b : BitVec 5) (fa fb : Bool) (s : State) : Host.Outcome State Fault Refusal :=
  run (vcmp true d a b fa fb fun a b => decide (a < b)) s

/-- `vmsle`. -/
def execVmsle (d a b : BitVec 5) (fa fb : Bool) (s : State) : Host.Outcome State Fault Refusal :=
  run (vcmp false d a b fa fb fun a b => decide (a ≤ b)) s

/-- `vmsle.vs`. -/
def execVmsleVs (d a b : BitVec 5) (fa fb : Bool) (s : State) : Host.Outcome State Fault Refusal :=
  run (vcmp true d a b fa fb fun a b => decide (a ≤ b)) s

/-- `vmsgt`. -/
def execVmsgt (d a b : BitVec 5) (fa fb : Bool) (s : State) : Host.Outcome State Fault Refusal :=
  run (vcmp false d a b fa fb fun a b => decide (b < a)) s

/-- `vmsgt.vs`. -/
def execVmsgtVs (d a b : BitVec 5) (fa fb : Bool) (s : State) : Host.Outcome State Fault Refusal :=
  run (vcmp true d a b fa fb fun a b => decide (b < a)) s

/-! ## Widening, narrowing and fixed point (R322) -/

/-- A row of class W. -/
def rowW (f : Int → Int → Int) : IntRow := ⟨.w, false, isInt, .wrap, fun e w a b _ => f (ival e w a) (ival e w b)⟩

/-- Rows that round under `xrm`. -/
def fixed (g : Nat → IntRow) (sc : Bool) (d a b : BitVec 5) (fa fb xm : Bool) : T Unit := do
  let t ← getT
  vint (g (fld t.xrm 1 0)) sc d a b fa fb xm

/-- Row `vwadd`. -/
def rowVwadd : IntRow := rowW fun a b => a + b

/-- `vwadd`. -/
def execVwadd (d a b : BitVec 5) (fa fb : Bool) (s : State) : Host.Outcome State Fault Refusal :=
  runS (vint rowVwadd false d a b fa fb false) s

/-- `vwadd.vs`. -/
def execVwaddVs (d a b : BitVec 5) (fa fb : Bool) (s : State) : Host.Outcome State Fault Refusal :=
  runS (vint rowVwadd true d a b fa fb false) s

/-- Row `vwsub`. A negative difference of natural numbers, of which R322 says only that the value lies in range, wraps at
2w bits (DESIGN CHOICE, log 50). -/
def rowVwsub : IntRow := rowW fun a b => a - b

/-- `vwsub`. -/
def execVwsub (d a b : BitVec 5) (fa fb : Bool) (s : State) : Host.Outcome State Fault Refusal :=
  runS (vint rowVwsub false d a b fa fb false) s

/-- `vwsub.vs`. -/
def execVwsubVs (d a b : BitVec 5) (fa fb : Bool) (s : State) : Host.Outcome State Fault Refusal :=
  runS (vint rowVwsub true d a b fa fb false) s

/-- Row `vwmul`. -/
def rowVwmul : IntRow := rowW fun a b => a * b

/-- `vwmul`. -/
def execVwmul (d a b : BitVec 5) (fa fb : Bool) (s : State) : Host.Outcome State Fault Refusal :=
  runS (vint rowVwmul false d a b fa fb false) s

/-- `vwmul.vs`. -/
def execVwmulVs (d a b : BitVec 5) (fa fb : Bool) (s : State) : Host.Outcome State Fault Refusal :=
  runS (vint rowVwmul true d a b fa fb false) s

/-- Row `vwmacc`. -/
def rowVwmacc : IntRow := ⟨.w, true, isInt, .fit, fun e w a b d => ival e (2 * w) d + ival e w a * ival e w b⟩

/-- `vwmacc`. -/
def execVwmacc (d a b : BitVec 5) (fa fb xm : Bool) (s : State) : Host.Outcome State Fault Refusal :=
  runS (vint rowVwmacc false d a b fa fb xm) s

/-- `vwmacc.vs`. -/
def execVwmaccVs (d a b : BitVec 5) (fa fb xm : Bool) (s : State) : Host.Outcome State Fault Refusal :=
  runS (vint rowVwmacc true d a b fa fb xm) s

/-- Row `vsadd`. -/
def rowVsadd : IntRow := rowE .sat fun a b => a + b

/-- `vsadd`. -/
def execVsadd (d a b : BitVec 5) (fa fb xm : Bool) (s : State) : Host.Outcome State Fault Refusal :=
  runS (vint rowVsadd false d a b fa fb xm) s

/-- `vsadd.vs`. -/
def execVsaddVs (d a b : BitVec 5) (fa fb xm : Bool) (s : State) : Host.Outcome State Fault Refusal :=
  runS (vint rowVsadd true d a b fa fb xm) s

/-- Row `vssub`. -/
def rowVssub : IntRow := rowE .sat fun a b => a - b

/-- `vssub`. -/
def execVssub (d a b : BitVec 5) (fa fb xm : Bool) (s : State) : Host.Outcome State Fault Refusal :=
  runS (vint rowVssub false d a b fa fb xm) s

/-- `vssub.vs`. -/
def execVssubVs (d a b : BitVec 5) (fa fb xm : Bool) (s : State) : Host.Outcome State Fault Refusal :=
  runS (vint rowVssub true d a b fa fb xm) s

/-- Row `vnsrl`. -/
def rowVnsrl (m : Nat) : IntRow := ⟨.n, false, fun e => isInt e && !isSigned e, .fit, fun _ w a b _ => xround m a (b % (2 * w))⟩

/-- `vnsrl`. -/
def execVnsrl (d a b : BitVec 5) (fa fb xm : Bool) (s : State) : Host.Outcome State Fault Refusal :=
  runS (fixed rowVnsrl false d a b fa fb xm) s

/-- `vnsrl.vs`. -/
def execVnsrlVs (d a b : BitVec 5) (fa fb xm : Bool) (s : State) : Host.Outcome State Fault Refusal :=
  runS (fixed rowVnsrl true d a b fa fb xm) s

/-- Row `vnsra`. -/
def rowVnsra (m : Nat) : IntRow := ⟨.n, false, isSigned, .fit, fun _ w a b _ => xround m (sval (2 * w) a) (b % (2 * w))⟩

/-- `vnsra`. -/
def execVnsra (d a b : BitVec 5) (fa fb xm : Bool) (s : State) : Host.Outcome State Fault Refusal :=
  runS (fixed rowVnsra false d a b fa fb xm) s

/-- `vnsra.vs`. -/
def execVnsraVs (d a b : BitVec 5) (fa fb xm : Bool) (s : State) : Host.Outcome State Fault Refusal :=
  runS (fixed rowVnsra true d a b fa fb xm) s

/-- Row `vaadd`. -/
def rowVaadd (m : Nat) : IntRow := ⟨.e, false, isInt, .wrap, fun e w a b _ => xround m (ival e w a + ival e w b) 1⟩

/-- `vaadd`. -/
def execVaadd (d a b : BitVec 5) (fa fb : Bool) (s : State) : Host.Outcome State Fault Refusal :=
  runS (fixed rowVaadd false d a b fa fb false) s

/-- `vaadd.vs`. -/
def execVaaddVs (d a b : BitVec 5) (fa fb : Bool) (s : State) : Host.Outcome State Fault Refusal :=
  runS (fixed rowVaadd true d a b fa fb false) s

/-- Row `vasub`. -/
def rowVasub (m : Nat) : IntRow := ⟨.e, false, isInt, .wrap, fun e w a b _ => xround m (ival e w a - ival e w b) 1⟩

/-- `vasub`. -/
def execVasub (d a b : BitVec 5) (fa fb : Bool) (s : State) : Host.Outcome State Fault Refusal :=
  runS (fixed rowVasub false d a b fa fb false) s

/-- `vasub.vs`. -/
def execVasubVs (d a b : BitVec 5) (fa fb : Bool) (s : State) : Host.Outcome State Fault Refusal :=
  runS (fixed rowVasub true d a b fa fb false) s

/-- Row `vsmul`. -/
def rowVsmul (m : Nat) : IntRow := ⟨.e, false, isInt, .sat, fun e w a b _ =>
  xround m (ival e w a * ival e w b) (if isSigned e then w - 1 else w)⟩

/-- `vsmul`. -/
def execVsmul (d a b : BitVec 5) (fa fb xm : Bool) (s : State) : Host.Outcome State Fault Refusal :=
  runS (fixed rowVsmul false d a b fa fb xm) s

/-- `vsmul.vs`. -/
def execVsmulVs (d a b : BitVec 5) (fa fb xm : Bool) (s : State) : Host.Outcome State Fault Refusal :=
  runS (fixed rowVsmul true d a b fa fb xm) s

/-- Row `vssrl`. -/
def rowVssrl (m : Nat) : IntRow := ⟨.e, false, isInt, .wrap, fun _ w a b _ => xround m a (b % w)⟩

/-- `vssrl`. -/
def execVssrl (d a b : BitVec 5) (fa fb : Bool) (s : State) : Host.Outcome State Fault Refusal :=
  runS (fixed rowVssrl false d a b fa fb false) s

/-- `vssrl.vs`. -/
def execVssrlVs (d a b : BitVec 5) (fa fb : Bool) (s : State) : Host.Outcome State Fault Refusal :=
  runS (fixed rowVssrl true d a b fa fb false) s

/-- Row `vssra`. -/
def rowVssra (m : Nat) : IntRow := ⟨.e, false, isInt, .wrap, fun _ w a b _ => xround m (sval w a) (b % w)⟩

/-- `vssra`. -/
def execVssra (d a b : BitVec 5) (fa fb : Bool) (s : State) : Host.Outcome State Fault Refusal :=
  runS (fixed rowVssra false d a b fa fb false) s

/-- `vssra.vs`. -/
def execVssraVs (d a b : BitVec 5) (fa fb : Bool) (s : State) : Host.Outcome State Fault Refusal :=
  runS (fixed rowVssra true d a b fa fb false) s

end Sys2Proof.Machine
end

