-- ==== Sys2Proof/Machine/VecMem.lean ====
section
/-! DEFINITION. Vector loads and stores (0x31, 0x32) and special vector memory (0x33): R302 to R314. -/

namespace Sys2Proof.Machine

/-! ## The element walk -/

/-- Elements i to i + n − 1: each active one with `vstart` at it, so that a trap or a wait leaves it there (R304). -/
def eachActive (act : Nat → Bool) (body : Nat → M Unit) : Nat → Nat → M Unit
  | 0, _ => pure ()
  | n + 1, i => do
    if act i then
      modS fun s => s.setTh { s.th with vstart := w64 i }
      body i
      modS fun s => s.setTh { s.th with past := [] }
    eachActive act body n (i + 1)

/-- The walk of an instruction from `vstart` to `vl`, and `vstart` cleared. -/
def eachElement (t : Thread) (body : Nat → M Unit) : M Unit := do
  eachActive t.active body (t.vlN - t.startN) t.startN
  modS fun s => s.setTh { s.th with vstart := 0 }

/-- One access: alignment, triggers, translation (R290, R304). -/
def accessAt (a : Acc) (el : Elem) (va : Word) (align : Nat) : M Target := do
  if va.toNat % align ≠ 0 then trapM 0x0C va (w64 el.k)
  accessTrigger a.r a.w el va
  translateM a el va

/-- One access of an element, which the strip history and the trace note. -/
def elementAt (a : Acc) (el : Elem) (va : Word) (align : Nat) : M Target := do
  let t ← accessAt a el va align
  noteAccess va
  pure t

def loadAcc (kind n : Nat) : Acc := ⟨kind, true, false, false, false, false, n⟩
def storeAcc (kind n : Nat) : Acc := ⟨kind, false, true, false, false, false, n⟩
/-- An atomic that the host does not take. -/
def atomicAcc : Acc := ⟨6, true, true, false, false, true, 16⟩

/-- Element i of a vector register replaced in the thread. -/
def Thread.putElem (t : Thread) (r w i v : Nat) : Thread :=
  t.putV r w (setElem w (t.vreg r).bits.toNat i v) (i + 1)

/-- Registers written by a load stay outstanding under a schedule that delays landings (R189), while the core may hold
another request (R91): their old contents, empty, with the landing pending. -/
def holdRegs (old : Thread) : List Nat → M Unit
  | [] => pure ()
  | r :: rs => do
    modS fun s =>
      if s.sched.lazy && s.portFree then
        let t := s.th.setVreg r { old.vreg r with empty := true }
        s.setTh { t with pend := s.th.pend ++ [.vector r (s.th.vreg r)] }
      else s
    holdRegs old rs

/-! ## Forms (R302 to R306) -/

/-- Address forms of Table 12.9. -/
inductive Form where
  | strided
  /-- indexed, at an offset width in bits -/
  | indexed (xw : Nat)
  | segment (nf : Nat)
deriving DecidableEq, Repr

def Form.fields : Form → Nat
  | .segment nf => nf
  | _ => 1

/-- Bytes between elements: `vstride`, or the element's (the segment's) size (R303). -/
def Thread.strideOf (t : Thread) (f : Form) : Word :=
  if t.vstride ≠ 0 then t.vstride else w64 (f.fields * (t.ew / 8))

/-- addr(i, f) of Table 12.9. -/
def Thread.addrOf (t : Thread) (f : Form) (base : Word) (i fi : Nat) : Word :=
  match f with
  | .strided => base + w64 i * t.strideOf f
  | .indexed xw => base + w64 (elemAt xw t.idx.toNat i)
  | .segment _ => base + w64 i * t.strideOf f + w64 (fi * (t.ew / 8))

/-- What a fault record says of element i. -/
def Thread.elemOf (t : Thread) (f : Form) (i : Nat) : Elem :=
  ⟨i, t.vlN - i, (match f with | .indexed _ => 0 | _ => t.strideOf f), ewLog t.etype, i⟩

/-- Every register of a segment lies within the file and the declaration (R303). -/
def regsOk (r : BitVec 5) : Nat → T Unit
  | 0 => pure ()
  | n + 1 => do
    regsOk r n
    let t ← getT
    if t.vn ≤ r.toNat + n ∨ 32 ≤ r.toNat + n then trapT 0x02 (w64 (r.toNat + n))

def sourcesV (k : Nat) : Nat → T Unit
  | 0 => pure ()
  | n + 1 => do let _ ← rvK k false; sourcesV (k + 1) n

def destsV (k : Nat) : Nat → T Unit
  | 0 => pure ()
  | n + 1 => do destVK k; destsV (k + 1) n

/-- Legality of a form: registers, VILL, tb6 (R305), the capacity of the offsets (R303). -/
def formOk (d : BitVec 5) (f : Form) (b : BitVec 5) : T Unit := do
  regsOk d f.fields
  (match f with | .indexed _ => vOk b | _ => pure ())
  notVill
  let t ← getT
  if t.etype = 12 then need (f = .strided && t.vstride = 0)
  match f with
  | .indexed xw => need (xw ≤ t.ew || t.vlN ≤ t.vlmaxN / xw)
  | _ => pure ()

/-- The index vector: read when the instruction issues, and kept while it waits. -/
def takeIndex (f : Form) (b : BitVec 5) (fb : Bool) : T Unit :=
  match f with
  | .indexed _ => do
    let t ← getT
    if t.wait = .none ∨ t.wait = .regs then
      let x ← rv b fb
      modT fun t => { t with idx := BitVec.ofNat 32768 x }
  | _ => pure ()

/-- One field of an element loaded; an acquire flags or acquires it (R127). -/
def loadField (d kind : Nat) (t : Thread) (f : Form) (base : Word) (acq : Option Nat) (i fi : Nat) : M Unit := do
  let n := t.ew / 8
  let tg ← elementAt (loadAcc kind n) (t.elemOf f i) (t.addrOf f base i fi) n
  let bs ← readM tg n
  modS fun s =>
    let th := s.th.putElem (d + fi) t.ew i (natOfBytes bs)
    match acq with
    | none => s.setTh th
    | some sc =>
      let wide := tg.place.isMem && decide (sc + 1 < (s.line (lineOf tg.pa)).record)
      s.setTh (th.setMask 15 (setBit (th.mask 15) i wide))

/-- One field of an element stored. -/
def storeField (d kind : Nat) (t : Thread) (f : Form) (base : Word) (i fi : Nat) : M Unit := do
  let n := t.ew / 8
  let tg ← elementAt (storeAcc kind n) (t.elemOf f i) (t.addrOf f base i fi) n
  writeM tg (bytesOfNat n (elemAt t.ew (t.vreg (d + fi)).bits.toNat i)) none

/-- The fields of an element, each performed once. -/
def eachField (body : Nat → M Unit) : Nat → Nat → M Unit
  | 0, _ => pure ()
  | n + 1, f => do onceU f (body f); eachField body n (f + 1)

/-- Element i of a tb6 stream (R306): its bits lie in one byte or two. -/
def loadBits (d : Nat) (t : Thread) (base : Word) (i : Nat) : M Unit := do
  let el : Elem := ⟨i, t.vlN - i, 1, 0, i⟩
  let b0 := 6 * i / 8
  let b1 := (6 * i + 5) / 8
  let byte (b : Nat) (count : Bool) : M Nat := do
    let tg ← elementAt (loadAcc 1 1) el (base + w64 b) 1
    let x ← readM tg 1 count
    pure (natOfBytes x)
  let x0 ← once 0 (byte b0 true)
  let x1 ← if b1 = b0 then pure 0 else once 1 (byte b1 false)
  modS fun s => s.setTh (s.th.putElem d 8 i (((x0 + 256 * x1) >>> (6 * i % 8)) % 64))

/-- A byte's bits from `lo`, `n` of them, replaced at its home slice as one atomic step. -/
def mergeBits (tg : Target) (va : Word) (lo n v : Nat) : M Unit := do
  let _ ← atomicM tg va 1 none fun b =>
    let o := natOfBytes b
    some [BitVec.ofNat 8 (o - (o >>> lo) % 2 ^ n * 2 ^ lo + v % 2 ^ n * 2 ^ lo)]

/-- Element i of a tb6 stream stored: only its bits are written; host memory has no home slice (R306). -/
def storeBits (d : Nat) (t : Thread) (base : Word) (i : Nat) : M Unit := do
  let el : Elem := ⟨i, t.vlN - i, 1, 0, i⟩
  let v := elemAt 8 (t.vreg d).bits.toNat i % 64
  let b0 := 6 * i / 8
  let b1 := (6 * i + 5) / 8
  let lo := 6 * i % 8
  let n0 := min 6 (8 - lo)
  let a : Acc := ⟨4, false, true, false, false, true, 1⟩
  let t0 ← elementAt a el (base + w64 b0) 1
  if b1 = b0 then mergeBits t0 (base + w64 b0) lo n0 v
  else do
    let t1 ← elementAt a el (base + w64 b1) 1
    onceU 0 (mergeBits t0 (base + w64 b0) lo n0 v)
    onceU 1 (mergeBits t1 (base + w64 b1) 0 (6 - n0) (v >>> n0))

/-- A vector load (R304). KIND is 2 for indexed forms, else 1. -/
def vload (d a b : BitVec 5) (fa fb : Bool) (f : Form) (acq : Option Nat) : M Flow := do
  liftT (formOk d f b)
  let base ← liftT (rx a fa)
  liftT (takeIndex f b fb)
  liftT (destsV d.toNat f.fields)
  let s ← getS
  let t := s.th
  let kind := match f with | .indexed _ => 2 | _ => 1
  eachElement t fun i =>
    if t.etype = 12 then loadBits d.toNat t base i
    else if f.fields = 1 then loadField d.toNat kind t f base acq i 0
    else eachField (loadField d.toNat kind t f base acq i) f.fields 0
  if acq.isNone && t.startN < t.vlN then holdRegs t ((List.range f.fields).map (d.toNat + ·))
  pure .seq

/-- A vector store. KIND is 5 for indexed forms, else 4. -/
def vstore (d a b : BitVec 5) (fa fb : Bool) (f : Form) : M Flow := do
  liftT (formOk d f b)
  let base ← liftT (rx a fa)
  liftT (takeIndex f b fb)
  liftT (sourcesV d.toNat f.fields)
  let s ← getS
  let t := s.th
  let kind := match f with | .indexed _ => 5 | _ => 4
  eachElement t fun i =>
    if t.etype = 12 then storeBits d.toNat t base i
    else if f.fields = 1 then storeField d.toNat kind t f base i 0
    else eachField (storeField d.toNat kind t f base i) f.fields 0
  pure .seq

/-- `vld`. -/
def execVld (d a : BitVec 5) (fa : Bool) (s : State) : Host.Outcome State Fault Refusal :=
  run (vload d a 0 fa false .strided none) s
/-- `vst`. -/
def execVst (d a : BitVec 5) (fa : Bool) (s : State) : Host.Outcome State Fault Refusal :=
  run (vstore d a 0 fa false .strided) s
/-- `vld.x8`. -/
def execVldX8 (d a b : BitVec 5) (fa fb : Bool) (s : State) : Host.Outcome State Fault Refusal :=
  run (vload d a b fa fb (.indexed 8) none) s
/-- `vst.x8`. -/
def execVstX8 (d a b : BitVec 5) (fa fb : Bool) (s : State) : Host.Outcome State Fault Refusal :=
  run (vstore d a b fa fb (.indexed 8)) s
/-- `vld.x8.o`: elements in ascending order (R124), as every form performs them here. -/
def execVldX8O (d a b : BitVec 5) (fa fb : Bool) (s : State) : Host.Outcome State Fault Refusal :=
  run (vload d a b fa fb (.indexed 8) none) s
/-- `vst.x8.o`. -/
def execVstX8O (d a b : BitVec 5) (fa fb : Bool) (s : State) : Host.Outcome State Fault Refusal :=
  run (vstore d a b fa fb (.indexed 8)) s
/-- `vld.x16`. -/
def execVldX16 (d a b : BitVec 5) (fa fb : Bool) (s : State) : Host.Outcome State Fault Refusal :=
  run (vload d a b fa fb (.indexed 16) none) s
/-- `vst.x16`. -/
def execVstX16 (d a b : BitVec 5) (fa fb : Bool) (s : State) : Host.Outcome State Fault Refusal :=
  run (vstore d a b fa fb (.indexed 16)) s
/-- `vld.x16.o`: elements in ascending order (R124), as every form performs them here. -/
def execVldX16O (d a b : BitVec 5) (fa fb : Bool) (s : State) : Host.Outcome State Fault Refusal :=
  run (vload d a b fa fb (.indexed 16) none) s
/-- `vst.x16.o`. -/
def execVstX16O (d a b : BitVec 5) (fa fb : Bool) (s : State) : Host.Outcome State Fault Refusal :=
  run (vstore d a b fa fb (.indexed 16)) s
/-- `vld.x32`. -/
def execVldX32 (d a b : BitVec 5) (fa fb : Bool) (s : State) : Host.Outcome State Fault Refusal :=
  run (vload d a b fa fb (.indexed 32) none) s
/-- `vst.x32`. -/
def execVstX32 (d a b : BitVec 5) (fa fb : Bool) (s : State) : Host.Outcome State Fault Refusal :=
  run (vstore d a b fa fb (.indexed 32)) s
/-- `vld.x32.o`: elements in ascending order (R124), as every form performs them here. -/
def execVldX32O (d a b : BitVec 5) (fa fb : Bool) (s : State) : Host.Outcome State Fault Refusal :=
  run (vload d a b fa fb (.indexed 32) none) s
/-- `vst.x32.o`. -/
def execVstX32O (d a b : BitVec 5) (fa fb : Bool) (s : State) : Host.Outcome State Fault Refusal :=
  run (vstore d a b fa fb (.indexed 32)) s
/-- `vld.x`. -/
def execVldX (d a b : BitVec 5) (fa fb : Bool) (s : State) : Host.Outcome State Fault Refusal :=
  run (vload d a b fa fb (.indexed 64) none) s
/-- `vst.x`. -/
def execVstX (d a b : BitVec 5) (fa fb : Bool) (s : State) : Host.Outcome State Fault Refusal :=
  run (vstore d a b fa fb (.indexed 64)) s
/-- `vld.x.o`: elements in ascending order (R124), as every form performs them here. -/
def execVldXO (d a b : BitVec 5) (fa fb : Bool) (s : State) : Host.Outcome State Fault Refusal :=
  run (vload d a b fa fb (.indexed 64) none) s
/-- `vst.x.o`. -/
def execVstXO (d a b : BitVec 5) (fa fb : Bool) (s : State) : Host.Outcome State Fault Refusal :=
  run (vstore d a b fa fb (.indexed 64)) s
/-- `vld.x32.acq`. -/
def execVldX32Acq (d a b : BitVec 5) (fa fb : Bool) (scope : BitVec 3) (s : State) :
    Host.Outcome State Fault Refusal :=
  run (vload d a b fa fb (.indexed 32) (some scope.toNat)) s
/-- `vld.x32.o.acq`. -/
def execVldX32OAcq (d a b : BitVec 5) (fa fb : Bool) (scope : BitVec 3) (s : State) :
    Host.Outcome State Fault Refusal :=
  run (vload d a b fa fb (.indexed 32) (some scope.toNat)) s
/-- `vld.x.acq`. -/
def execVldXAcq (d a b : BitVec 5) (fa fb : Bool) (scope : BitVec 3) (s : State) :
    Host.Outcome State Fault Refusal :=
  run (vload d a b fa fb (.indexed 64) (some scope.toNat)) s
/-- `vld.x.o.acq`. -/
def execVldXOAcq (d a b : BitVec 5) (fa fb : Bool) (scope : BitVec 3) (s : State) :
    Host.Outcome State Fault Refusal :=
  run (vload d a b fa fb (.indexed 64) (some scope.toNat)) s
/-- `vlds.n2`. -/
def execVldsN2 (d a : BitVec 5) (fa : Bool) (s : State) : Host.Outcome State Fault Refusal :=
  run (vload d a 0 fa false (.segment 2) none) s
/-- `vsts.n2`. -/
def execVstsN2 (d a : BitVec 5) (fa : Bool) (s : State) : Host.Outcome State Fault Refusal :=
  run (vstore d a 0 fa false (.segment 2)) s
/-- `vlds.n3`. -/
def execVldsN3 (d a : BitVec 5) (fa : Bool) (s : State) : Host.Outcome State Fault Refusal :=
  run (vload d a 0 fa false (.segment 3) none) s
/-- `vsts.n3`. -/
def execVstsN3 (d a : BitVec 5) (fa : Bool) (s : State) : Host.Outcome State Fault Refusal :=
  run (vstore d a 0 fa false (.segment 3)) s
/-- `vlds.n4`. -/
def execVldsN4 (d a : BitVec 5) (fa : Bool) (s : State) : Host.Outcome State Fault Refusal :=
  run (vload d a 0 fa false (.segment 4) none) s
/-- `vsts.n4`. -/
def execVstsN4 (d a : BitVec 5) (fa : Bool) (s : State) : Host.Outcome State Fault Refusal :=
  run (vstore d a 0 fa false (.segment 4)) s
/-- `vlds.n5`. -/
def execVldsN5 (d a : BitVec 5) (fa : Bool) (s : State) : Host.Outcome State Fault Refusal :=
  run (vload d a 0 fa false (.segment 5) none) s
/-- `vsts.n5`. -/
def execVstsN5 (d a : BitVec 5) (fa : Bool) (s : State) : Host.Outcome State Fault Refusal :=
  run (vstore d a 0 fa false (.segment 5)) s
/-- `vlds.n6`. -/
def execVldsN6 (d a : BitVec 5) (fa : Bool) (s : State) : Host.Outcome State Fault Refusal :=
  run (vload d a 0 fa false (.segment 6) none) s
/-- `vsts.n6`. -/
def execVstsN6 (d a : BitVec 5) (fa : Bool) (s : State) : Host.Outcome State Fault Refusal :=
  run (vstore d a 0 fa false (.segment 6)) s
/-- `vlds.n7`. -/
def execVldsN7 (d a : BitVec 5) (fa : Bool) (s : State) : Host.Outcome State Fault Refusal :=
  run (vload d a 0 fa false (.segment 7) none) s
/-- `vsts.n7`. -/
def execVstsN7 (d a : BitVec 5) (fa : Bool) (s : State) : Host.Outcome State Fault Refusal :=
  run (vstore d a 0 fa false (.segment 7)) s
/-- `vlds.n8`. -/
def execVldsN8 (d a : BitVec 5) (fa : Bool) (s : State) : Host.Outcome State Fault Refusal :=
  run (vload d a 0 fa false (.segment 8) none) s
/-- `vsts.n8`. -/
def execVstsN8 (d a : BitVec 5) (fa : Bool) (s : State) : Host.Outcome State Fault Refusal :=
  run (vstore d a 0 fa false (.segment 8)) s

/-! ## Scale loads (R308) -/

/-- Entries of a bank that a strip uses. -/
def Thread.groups (t : Thread) : Nat := (t.vlN + t.blenN - 1) / t.blenN

/-- Byte g of a bank replaced. -/
def putScale (bank : BitVec 4096) (g v : Nat) : BitVec 4096 := BitVec.ofNat 4096 (setElem 8 bank.toNat g v)

def Thread.setScale (t : Thread) (b : Bool) (g v : Nat) : Thread :=
  if b then { t with scb := putScale t.scb g v, scbw := true } else { t with sca := putScale t.sca g v, scaw := true }

/-- `vldsc` into bank `scb` or `sca`: `vmsk` is ignored. -/
def vldsc (bank : Bool) (a : BitVec 5) (fa : Bool) : M Flow := do
  liftT notVill
  let base ← liftT (rx a fa)
  let s ← getS
  let t := s.th
  let st : Word := if t.vstride ≠ 0 then t.vstride else 1
  eachActive (fun _ => true) (fun g => do
    let tg ← elementAt (loadAcc 1 1) ⟨g, t.groups - g, st, 0, g⟩ (base + w64 g * st) 1
    let bs ← readM tg 1
    modS fun s => s.setTh (s.th.setScale bank g (natOfBytes bs))) (t.groups - t.startN) t.startN
  modS fun s => s.setTh { s.th with vstart := 0 }
  pure .seq

/-- `vldsc sca`. -/
def execVldscSca (a : BitVec 5) (fa : Bool) (s : State) : Host.Outcome State Fault Refusal := run (vldsc false a fa) s
/-- `vldsc scb`. -/
def execVldscScb (a : BitVec 5) (fa : Bool) (s : State) : Host.Outcome State Fault Refusal := run (vldsc true a fa) s

/-! ## Bitmask-compressed store and load (R309, R310) -/

/-- Zero elements by type (R309): integer 0, +0 and −0, code 0x00. -/
def isZeroElem (etype v : Nat) : Bool :=
  if isFp etype then (let t := fmtOf etype; v % 2 ^ (t.eb + t.fb) = 0) else v = 0

/-- Elements that `vstbm` stores, in ascending order. -/
def Thread.storedElems (t : Thread) (x : Nat) : List Nat :=
  (List.range t.vlN).filter fun i => t.active i && !isZeroElem t.etype (elemAt t.ew x i)

/-- The compressed form of Table 12.12, as accesses: offset, size, value. -/
def Thread.compressed (t : Thread) (x : Nat) : List (Nat × Nat × Nat) :=
  let st := t.storedElems x
  let c := (t.vlN + 63) / 64
  let m := st.foldl (fun r i => r + 2 ^ i) 0
  (0, 8, t.vlN + st.length * 65536) :: (List.range c).map (fun j => (8 + 8 * j, 8, (m >>> (64 * j)) % 2 ^ 64)) ++
    st.zipIdx.map fun (i, j) => (8 + 8 * c + j * (t.ew / 8), t.ew / 8, elemAt t.ew x i)

/-- Accesses of a compressed form fault as element 0 with REM `vl` (log 26). -/
def Thread.formElem (t : Thread) : Elem := ⟨0, t.vlN, w64 (t.ew / 8), ewLog t.etype, 0⟩

/-- The accesses of a stored form, from part k on, each performed once. -/
def storeForm (t : Thread) (base : Word) : Nat → List (Nat × Nat × Nat) → M Unit
  | _, [] => pure ()
  | k, (o, n, v) :: l => do
    onceU k (do
      let tg ← elementAt (storeAcc 4 n) t.formElem (base + w64 o) n
      writeM tg (bytesOfNat n v) none)
    storeForm t base (k + 1) l

/-- `vstbm`. -/
def execVstbm (d a b : BitVec 5) (fa fb : Bool) (s : State) : Host.Outcome State Fault Refusal :=
  run (do
    liftT (do
      vOk d
      notVill
      let t ← getT
      need (t.etype != 12)
      need (t.vstart = 0))
    let base ← liftT (rx a fa)
    let cap ← liftT (rx b fb)
    let x ← liftT (rv d false)
    let s ← getS
    let t := s.th
    let z := (t.storedElems x).length
    let n := 8 + 8 * ((t.vlN + 63) / 64) + z * (t.ew / 8)
    if base.toNat % 8 ≠ 0 then trapM 0x0C base
    if cap.toNat < n then trapM 0x14 (w64 n)
    storeForm t base 0 (t.compressed x)
    modS fun s => s.setTh { s.th with vstart := 0 }
    pure .seq) s

/-- Reads of n-byte units of a form from an offset, from part p on, each performed once, joined with the first at the
bottom. -/
def loadForm (t : Thread) (base : Word) (n : Nat) : Nat → Nat → Nat → M Nat
  | 0, _, _ => pure 0
  | k + 1, p, o => do
    let v ← once p (do
      let tg ← elementAt (loadAcc 1 n) t.formElem (base + w64 o) n
      let bs ← readM tg n
      pure (natOfBytes bs))
    let r ← loadForm t base n k (p + 1) (o + n)
    pure (v + r <<< (8 * n))

/-- The register that expanding gives: value j at each set bit, zero elsewhere, elements from n up unchanged. -/
def expandForm (w bits vals : Nat) : Nat → Nat → Nat → Nat → Nat
  | 0, _, _, r => r
  | n + 1, i, j, r =>
    if bits.testBit i then expandForm w bits vals n (i + 1) (j + 1) (setElem w r i (elemAt w vals j))
    else expandForm w bits vals n (i + 1) j (setElem w r i 0)

/-- `vldbm`: the register and `vl` are written only at completion. -/
def execVldbm (d a : BitVec 5) (fa : Bool) (s : State) : Host.Outcome State Fault Refusal :=
  run (do
    liftT (do
      vOk d
      notVill
      let t ← getT
      need (t.etype != 12)
      need (t.vstart = 0))
    let base ← liftT (rx a fa)
    liftT (destV d)
    let s ← getS
    let t := s.th
    if base.toNat % 8 ≠ 0 then trapM 0x0C base
    let n ← loadForm t base 2 1 0 0
    let z ← loadForm t base 2 1 1 2
    if t.vlmaxN / t.ew < n then trapM 0x03 (w64 n)
    let c := (n + 63) / 64
    let bits ← loadForm t base 8 c 2 8
    if popBelow bits n ≠ z then trapM 0x14 base
    let vals ← loadForm t base (t.ew / 8) z (2 + c) (8 + 8 * c)
    modS fun s =>
      let r := expandForm t.ew bits vals n 0 0 (s.th.vreg d.toNat).bits.toNat
      s.setTh { s.th.putV d.toNat t.ew r n with vl := w64 n, vstart := 0 }
    pure .seq) s

/-! ## Vector hints (R314) -/

/-- The page of an address, by its size in bits and its number: that of its leaf, or of 4 KiB where no leaf is found. -/
def State.pageOf (s : State) (va : Word) : Nat × Nat :=
  match s.walkFrom s.sq.dxp (va.toNat % 2 ^ 57) 4 (s.ppnAddr (fld s.sq.dxp 63 60) (fld s.sq.dxp 39 0) 0) with
  | .leaf e _ lvl => (leafBits e lvl, va.toNat >>> leafBits e lvl)
  | _ => (12, va.toNat >>> 12)

/-- Drops of a hint over elements: the count, and the pages dropped so far. -/
def vpfElems (t : Thread) (f : Form) (base : Word) (fill : Fill) : Nat → Nat → List (Nat × Nat) → State → State
  | 0, _, _, s => s
  | n + 1, i, pages, s =>
    if t.active i then
      let va := t.addrOf f base i 0
      match s.hint va false fill with
      | (false, s') => vpfElems t f base fill n (i + 1) pages s'
      | (true, s') =>
        let pg := s.pageOf va
        if f = .strided ∧ pages.contains pg then vpfElems t f base fill n (i + 1) pages s'
        else vpfElems t f base fill n (i + 1) (pg :: pages) (s'.bump 0x213 1)
    else vpfElems t f base fill n (i + 1) pages s

/-- A vector hint. -/
def vpf (a b : BitVec 5) (fa fb : Bool) (f : Form) (fill : Fill) : M Flow := do
  liftT (do
    (match f with | .indexed _ => vOk b | _ => pure ())
    notVill
    let t ← getT
    match f with
    | .indexed xw => need (xw ≤ t.ew || t.vlN ≤ t.vlmaxN / xw)
    | _ => pure ())
  let base ← liftT (rx a fa)
  liftT (takeIndex f b fb)
  modS fun s =>
    let s' := vpfElems s.th f base fill (s.th.vlN - s.th.startN) s.th.startN [] s
    s'.setTh { s'.th with vstart := 0 }
  pure .seq

/-- `vpf.r`. -/
def execVpfR (a : BitVec 5) (fa : Bool) (s : State) : Host.Outcome State Fault Refusal :=
  run (vpf a 0 fa false .strided .both) s
/-- `vpf.s`. -/
def execVpfS (a : BitVec 5) (fa : Bool) (s : State) : Host.Outcome State Fault Refusal :=
  run (vpf a 0 fa false .strided .slices) s
/-- `vpf.r.x32`. -/
def execVpfRX32 (a b : BitVec 5) (fa fb : Bool) (s : State) : Host.Outcome State Fault Refusal :=
  run (vpf a b fa fb (.indexed 32) .both) s
/-- `vpf.r.x`. -/
def execVpfRX (a b : BitVec 5) (fa fb : Bool) (s : State) : Host.Outcome State Fault Refusal :=
  run (vpf a b fa fb (.indexed 64) .both) s

/-! ## Scatter-add and hash-accumulate (R311 to R313) -/

/-- Every target is ready for its atomic update, so that no update waits after another was made: no replica, no earlier
write to come first, no poisoned copy. -/
def atomicsReady (ts : List Target) : M Unit := fun s =>
  let s := s.drain
  match ts.find? (fun t => s.poisoned s.dieNo t.pa) with
  | some _ => .error (.trap 0x3F 6 0 1) s
  | none =>
    if ts.all (fun t => s.atomicReady s.dieNo s.front t.pa) && !s.overdue s.dieNo (3 * ts.length) then .ok () s
    else .error (.wait .memory) (ts.foldl (fun s t => s.startCollapse t.pa) s)

/-- `vscadd` translates every element from `v0` before it performs one; a trap leaves `vstart` at `v0`. -/
def scatterTargets (t : Thread) (f : Form) (base : Word) (v0 : Nat) : Nat → Nat → M (List (Nat × Word × Target))
  | 0, _ => pure []
  | n + 1, i =>
    if t.active i then do
      let va := t.addrOf f base i 0
      let tg ← elementAt atomicAcc ⟨i, t.vlN - i, 0, ewLog t.etype, v0⟩ va (t.ew / 8)
      let l ← scatterTargets t f base v0 n (i + 1)
      pure ((i, va, tg) :: l)
    else scatterTargets t f base v0 n (i + 1)

/-- Sum of two elements in a scatter-add: wrapped, or f32 to nearest-even. -/
def scatterSum (etype w x y : Nat) : Nat := if isFp etype then (fAdd f32 0 x y).1 else (x + y) % 2 ^ w

/-- One update per distinct address, its elements merged in ascending order. -/
def scatterApply (t : Thread) (x : Nat) (rel : Option Nat) (l : List (Nat × Word × Target)) :
    Nat → List (Nat × Word × Target) → M Unit
  | 0, _ => pure ()
  | _ + 1, [] => pure ()
  | fuel + 1, (i, va, tg) :: rest => do
    let same := (rest.filter fun e => e.2.2.pa = tg.pa).map fun e => elemAt t.ew x e.1
    let c := same.foldl (scatterSum t.etype t.ew) (elemAt t.ew x i)
    let _ ← atomicM tg va (t.ew / 8) rel fun b =>
      some (bytesOfNat (t.ew / 8) (scatterSum t.etype t.ew (natOfBytes b) c))
    scatterApply t x rel l fuel (rest.filter fun e => e.2.2.pa ≠ tg.pa)

/-- Flags of the active f32 elements of a scatter-add. -/
def scatterFlags (t : Thread) (x : Nat) : Nat :=
  (List.range t.vlN).foldl (fun r i =>
    if t.startN ≤ i && t.active i then r ||| (f32.val (elemAt 32 x i)).nanFlags else r) 0

/-- `vscadd` (R311). -/
def vscadd (d a b : BitVec 5) (fa fb : Bool) (rel : Bool) (scope : BitVec 3) (xw : Nat) : M Flow := do
  liftT (do
    vOk d
    vOk b
    notVill
    let t ← getT
    need (t.etype = 2 || t.etype = 3 || t.etype = 6 || t.etype = 7 || t.etype = 10)
    need (xw ≤ t.ew || t.vlN ≤ t.vlmaxN / xw))
  let base ← liftT (rx a fa)
  liftT (takeIndex (.indexed xw) b fb)
  let x ← liftT (rv d false)
  let s ← getS
  let t := s.th
  if t.etype = 10 then liftT (raiseX (scatterFlags t x))
  let v0 := t.startN
  let l ← scatterTargets t (.indexed xw) base v0 (t.vlN - v0) v0
  if rel then releaseM scope.toNat
  atomicsReady (l.map (·.2.2))
  scatterApply t x (if rel then some scope.toNat else none) l l.length l
  modS fun s => s.setTh { s.th with vstart := 0 }
  pure .seq

/-- `vscadd.x32`. -/
def execVscaddX32 (d a b : BitVec 5) (fa fb rel : Bool) (scope : BitVec 3) (s : State) :
    Host.Outcome State Fault Refusal := run (vscadd d a b fa fb rel scope 32) s
/-- `vscadd.x`. -/
def execVscaddX (d a b : BitVec 5) (fa fb rel : Bool) (scope : BitVec 3) (s : State) :
    Host.Outcome State Fault Refusal := run (vscadd d a b fa fb rel scope 64) s

/-- Translation of the pages of a table, from its base on, before any element is applied. -/
def tablePages (t : Thread) (base : Word) : Nat → Nat → M (List Target)
  | 0, _ => pure []
  | n + 1, j => do
    let va := if j = 0 then base else (base &&& ~~~4095#64) + w64 (4096 * j)
    let tg ← translateM atomicAcc ⟨t.startN, t.vlN - t.startN, 0, 3, t.startN⟩ va
    let l ← tablePages t base n (j + 1)
    pure (tg :: l)

/-- The slot a key's probing starts at (R312). -/
def hashSlot (lcap : Nat) (key : Nat) : Nat := (key * 0x9E3779B97F4A7C15 % 2 ^ 64) >>> (64 - lcap)

/-- What applying an element needs of the table: descriptor address and target, base, LCAP, MAXOCC, release. -/
structure HashTable where
  desc : Word
  dtarget : Target
  base : Word
  lcap : Nat
  maxocc : Nat
  rel : Option Nat

/-- Probing for element i's key from the j-th slot on: the element's accesses. A table with no empty slot and no such
key never ends the probing: the instruction waits. -/
def hashProbe (t : Thread) (h : HashTable) (i key add : Nat) : Nat → Nat → M Unit
  | 0, _ => waitM .memory
  | fuel + 1, j => do
    let va := h.base + w64 (16 * ((hashSlot h.lcap key + j) % 2 ^ h.lcap))
    let el : Elem := ⟨i, t.vlN - i, 0, 3, i⟩
    accessTrigger true true el va
    let tg ← translateM atomicAcc el va
    noteAccess va
    let old ← atomicM tg va 16 none fun _ => none
    let k := natOfBytes (old.take 8)
    if k = key then
      let _ ← atomicM tg va 16 h.rel fun b => some (b.take 8 ++ bytesOfNat 8 (natOfBytes (b.drop 8) + add))
    else if k = 2 ^ 64 - 1 then do
      let od ← atomicM { h.dtarget with pa := h.dtarget.pa + 16 } (h.desc + 16) 8 none fun _ => none
      let occ := natOfBytes od % 2 ^ 32
      if occ = h.maxocc then trapM 0x15 h.desc (w64 i)
      onceU 0 (do
        let _ ← atomicM { h.dtarget with pa := h.dtarget.pa + 16 } (h.desc + 16) 8 h.rel fun _ =>
          some (bytesOfNat 8 ((occ + 1) % 2 ^ 32)))
      let _ ← atomicM tg va 16 h.rel fun _ => some (bytesOfNat 8 key ++ bytesOfNat 8 add)
      pure ()
    else hashProbe t h i key add fuel (j + 1)

/-- `vhacc` (R312, R313). -/
def vhacc (d a b : BitVec 5) (fa fb : Bool) (rel : Bool) (scope : BitVec 3) (xw : Nat) : M Flow := do
  liftT (do
    vOk d
    vOk b
    notVill
    let t ← getT
    need (t.etype = 2 || t.etype = 3 || t.etype = 6 || t.etype = 7)
    need (xw ≤ t.ew || t.vlN ≤ t.vlmaxN / xw))
  let desc ← liftT (rx a fa)
  liftT (takeIndex (.indexed xw) b fb)
  let x ← liftT (rv d false)
  let s ← getS
  let t := s.th
  let v0 := t.startN
  let el : Elem := ⟨v0, t.vlN - v0, 0, 3, v0⟩
  let dt ← accessAt atomicAcc el desc 32
  let bs ← atomicM dt desc 32 none fun _ => none
  let d0 := natOfBytes (bs.take 8)
  let d1 := natOfBytes ((bs.drop 8).take 8)
  let d2 := natOfBytes ((bs.drop 16).take 8)
  let d3 := natOfBytes (bs.drop 24)
  let lcap := d1 % 32
  if d0 % 16 ≠ 0 ∨ 32 ≤ d1 ∨ 2 ^ 32 ≤ d2 ∨ 2 ^ 32 ≤ d3 ∨ lcap < 4 ∨ 30 < lcap ∨ 2 ^ lcap ≤ d3 then trapM 0x03
  let base := w64 d0
  let pages ← tablePages t base ((d0 % 4096 + 16 * 2 ^ lcap + 4095) / 4096) 0
  if rel then releaseM scope.toNat
  atomicsReady (dt :: pages)
  let h : HashTable := ⟨desc, dt, base, lcap, d3, if rel then some scope.toNat else none⟩
  eachElement t fun i =>
    let key := elemAt xw t.idx.toNat i
    if key = 2 ^ 64 - 1 then pure ()
    else hashProbe t h i key (pat 64 (ival t.etype t.ew (elemAt t.ew x i))) (2 ^ lcap) 0
  pure .seq

/-- `vhacc.x32`. -/
def execVhaccX32 (d a b : BitVec 5) (fa fb rel : Bool) (scope : BitVec 3) (s : State) :
    Host.Outcome State Fault Refusal := run (vhacc d a b fa fb rel scope 32) s
/-- `vhacc.x`. -/
def execVhaccX (d a b : BitVec 5) (fa fb rel : Bool) (scope : BitVec 3) (s : State) :
    Host.Outcome State Fault Refusal := run (vhacc d a b fa fb rel scope 64) s

end Sys2Proof.Machine
end

