-- ==== Sys2Proof/Machine/VecFp.lean ====
section
/-! DEFINITION. Vector floating point (0x36) and estimates, conversions, dot products and block quantisation (0x37):
R323 to R328, R197, R198. -/

namespace Sys2Proof.Machine

/-- A floating element type is in force (R323). -/
def needFp : T Unit := do
  notVill
  let t ← getT
  need (isFp t.etype)

/-- A row of two sources: `f` answers bits and flags from the format, mode and elements of A, B and the destination. -/
def vfp2 (acc sc : Bool) (d a b : BitVec 5) (fa fb xm : Bool) (f : Fmt → Nat → Nat → Nat → Nat → Nat × Nat) :
    T Unit := do
  vOk d
  vOk a
  bOk sc b
  if acc then
    distinct d a
    if sc then pure () else distinct d b
  needFp
  let t ← getT
  let w := t.ew
  let x ← rv a fa
  let y ← getB sc b fb w
  destV d
  loopV d w xm true fun i dst =>
    let r := f (fmtOf t.etype) t.mode (elemAt w x i) (y i) (elemAt w dst i)
    ⟨some r.1, r.2, false, false⟩

/-- A row of one source. -/
def vfp1 (d a : BitVec 5) (fa xm : Bool) (f : Fmt → Nat → Nat → Nat × Nat) : T Unit := do
  vOk d
  vOk a
  needFp
  let t ← getT
  let w := t.ew
  let x ← rv a fa
  destV d
  loopV d w xm true fun i _ =>
    let r := f (fmtOf t.etype) t.mode (elemAt w x i)
    ⟨some r.1, r.2, false, false⟩

/-- A compare row: bits of a mask. -/
def vfcmp (sc : Bool) (d a b : BitVec 5) (fa fb xm : Bool) (f : Fmt → Nat → Nat → Nat × Nat) : M Flow := do
  liftT (do
    kOk d
    vOk a
    bOk sc b
    needFp
    let t ← getT
    let x ← rv a fa
    let y ← getB sc b fb t.ew
    loopK d xm true fun i _ =>
      let r := f (fmtOf t.etype) (elemAt t.ew x i) (y i)
      ⟨some r.1, r.2, false, false⟩)
  traceMask d
  pure .seq

/-- `vfadd`. -/
def execVfadd (d a b : BitVec 5) (fa fb xm : Bool) (s : State) : Host.Outcome State Fault Refusal :=
  runS (vfp2 false false d a b fa fb xm fun t m x y _ => fAdd t m x y) s

/-- `vfadd.vs`. -/
def execVfaddVs (d a b : BitVec 5) (fa fb xm : Bool) (s : State) : Host.Outcome State Fault Refusal :=
  runS (vfp2 false true d a b fa fb xm fun t m x y _ => fAdd t m x y) s

/-- `vfsub`. -/
def execVfsub (d a b : BitVec 5) (fa fb xm : Bool) (s : State) : Host.Outcome State Fault Refusal :=
  runS (vfp2 false false d a b fa fb xm fun t m x y _ => fSub t m x y) s

/-- `vfsub.vs`. -/
def execVfsubVs (d a b : BitVec 5) (fa fb xm : Bool) (s : State) : Host.Outcome State Fault Refusal :=
  runS (vfp2 false true d a b fa fb xm fun t m x y _ => fSub t m x y) s

/-- `vfmul`. -/
def execVfmul (d a b : BitVec 5) (fa fb xm : Bool) (s : State) : Host.Outcome State Fault Refusal :=
  runS (vfp2 false false d a b fa fb xm fun t m x y _ => fMul t m x y) s

/-- `vfmul.vs`. -/
def execVfmulVs (d a b : BitVec 5) (fa fb xm : Bool) (s : State) : Host.Outcome State Fault Refusal :=
  runS (vfp2 false true d a b fa fb xm fun t m x y _ => fMul t m x y) s

/-- `vfdiv`. -/
def execVfdiv (d a b : BitVec 5) (fa fb xm : Bool) (s : State) : Host.Outcome State Fault Refusal :=
  runS (vfp2 false false d a b fa fb xm fun t m x y _ => fDiv t m x y) s

/-- `vfdiv.vs`. -/
def execVfdivVs (d a b : BitVec 5) (fa fb xm : Bool) (s : State) : Host.Outcome State Fault Refusal :=
  runS (vfp2 false true d a b fa fb xm fun t m x y _ => fDiv t m x y) s

/-- `vfmac`. -/
def execVfmac (d a b : BitVec 5) (fa fb xm : Bool) (s : State) : Host.Outcome State Fault Refusal :=
  runS (vfp2 true false d a b fa fb xm fun t m x y z => fFma t m false x y z) s

/-- `vfmac.vs`. -/
def execVfmacVs (d a b : BitVec 5) (fa fb xm : Bool) (s : State) : Host.Outcome State Fault Refusal :=
  runS (vfp2 true true d a b fa fb xm fun t m x y z => fFma t m false x y z) s

/-- `vfnmac`. -/
def execVfnmac (d a b : BitVec 5) (fa fb xm : Bool) (s : State) : Host.Outcome State Fault Refusal :=
  runS (vfp2 true false d a b fa fb xm fun t m x y z => fFma t m true x y z) s

/-- `vfnmac.vs`. -/
def execVfnmacVs (d a b : BitVec 5) (fa fb xm : Bool) (s : State) : Host.Outcome State Fault Refusal :=
  runS (vfp2 true true d a b fa fb xm fun t m x y z => fFma t m true x y z) s

/-- `vfmin`. -/
def execVfmin (d a b : BitVec 5) (fa fb xm : Bool) (s : State) : Host.Outcome State Fault Refusal :=
  runS (vfp2 false false d a b fa fb xm fun t _ x y _ => fMinMax t false x y) s

/-- `vfmin.vs`. -/
def execVfminVs (d a b : BitVec 5) (fa fb xm : Bool) (s : State) : Host.Outcome State Fault Refusal :=
  runS (vfp2 false true d a b fa fb xm fun t _ x y _ => fMinMax t false x y) s

/-- `vfmax`. -/
def execVfmax (d a b : BitVec 5) (fa fb xm : Bool) (s : State) : Host.Outcome State Fault Refusal :=
  runS (vfp2 false false d a b fa fb xm fun t _ x y _ => fMinMax t true x y) s

/-- `vfmax.vs`. -/
def execVfmaxVs (d a b : BitVec 5) (fa fb xm : Bool) (s : State) : Host.Outcome State Fault Refusal :=
  runS (vfp2 false true d a b fa fb xm fun t _ x y _ => fMinMax t true x y) s

/-- An estimate shortened, its flags as they were. -/
def shortened (t : Fmt) (r : Nat × Nat) : Nat × Nat := (fShorten t r.1, r.2)

/-- `vfsqrt`. -/
def execVfsqrt (d a : BitVec 5) (fa xm : Bool) (s : State) : Host.Outcome State Fault Refusal :=
  runS (vfp1 d a fa xm fun t m x => fSqrt t m x) s

/-- `vfneg`. -/
def execVfneg (d a : BitVec 5) (fa xm : Bool) (s : State) : Host.Outcome State Fault Refusal :=
  runS (vfp1 d a fa xm fun t _ x => fNeg t x) s

/-- `vfabs`. -/
def execVfabs (d a : BitVec 5) (fa xm : Bool) (s : State) : Host.Outcome State Fault Refusal :=
  runS (vfp1 d a fa xm fun t _ x => fAbs t x) s

/-- `vfclass`. -/
def execVfclass (d a : BitVec 5) (fa xm : Bool) (s : State) : Host.Outcome State Fault Refusal :=
  runS (vfp1 d a fa xm fun t _ x => fClass t x) s

/-- `vfrec`. -/
def execVfrec (d a : BitVec 5) (fa xm : Bool) (s : State) : Host.Outcome State Fault Refusal :=
  runS (vfp1 d a fa xm fun t m x => fRec t m x) s

/-- `vfrsq`. -/
def execVfrsq (d a : BitVec 5) (fa xm : Bool) (s : State) : Host.Outcome State Fault Refusal :=
  runS (vfp1 d a fa xm fun t m x => fRsq t m x) s

/-- `vfreca` (R198): the estimate shortened. -/
def execVfreca (d a : BitVec 5) (fa xm : Bool) (s : State) : Host.Outcome State Fault Refusal :=
  runS (vfp1 d a fa xm fun t m x => shortened t (fRec t m x)) s

/-- `vfrsqa` (R198): the estimate shortened. -/
def execVfrsqa (d a : BitVec 5) (fa xm : Bool) (s : State) : Host.Outcome State Fault Refusal :=
  runS (vfp1 d a fa xm fun t m x => shortened t (fRsq t m x)) s

/-- `vmfeq`. -/
def execVmfeq (d a b : BitVec 5) (fa fb xm : Bool) (s : State) : Host.Outcome State Fault Refusal :=
  run (vfcmp false d a b fa fb xm fun t x y => fEq t x y) s

/-- `vmfeq.vs`. -/
def execVmfeqVs (d a b : BitVec 5) (fa fb xm : Bool) (s : State) : Host.Outcome State Fault Refusal :=
  run (vfcmp true d a b fa fb xm fun t x y => fEq t x y) s

/-- `vmflt`. -/
def execVmflt (d a b : BitVec 5) (fa fb xm : Bool) (s : State) : Host.Outcome State Fault Refusal :=
  run (vfcmp false d a b fa fb xm fun t x y => fLess t false x y) s

/-- `vmflt.vs`. -/
def execVmfltVs (d a b : BitVec 5) (fa fb xm : Bool) (s : State) : Host.Outcome State Fault Refusal :=
  run (vfcmp true d a b fa fb xm fun t x y => fLess t false x y) s

/-- `vmfle`. -/
def execVmfle (d a b : BitVec 5) (fa fb xm : Bool) (s : State) : Host.Outcome State Fault Refusal :=
  run (vfcmp false d a b fa fb xm fun t x y => fLess t true x y) s

/-- `vmfle.vs`. -/
def execVmfleVs (d a b : BitVec 5) (fa fb xm : Bool) (s : State) : Host.Outcome State Fault Refusal :=
  run (vfcmp true d a b fa fb xm fun t x y => fLess t true x y) s

/-! ## Conversions (R325, Table 13.7) -/

/-- An element of a type as a floating value; integers exactly. -/
def elemVal (e x : Nat) : FVal :=
  if isTb e then tbVal (e = 12) x
  else if isFp e then (fmtOf e).val x
  else
    let v := ival e (8 <<< ewLog e) x
    .num (v < 0) v.natAbs 0

/-- An element of type s converted to type t. -/
def convert (mode : Nat) (sat : Bool) (s t x : Nat) : ERes :=
  let wt := 8 <<< ewLog t
  if s = t then ⟨some x, 0, false, false⟩
  else if isInt s && isInt t then writeInt .fit sat (isSigned t) wt (ival s (8 <<< ewLog s) x)
  else if isInt t then
    let r := (elemVal s x).toInt mode (isSigned t) wt
    ⟨some (pat wt r.1), r.2, false, false⟩
  else if isTb t then
    let r := tbEnc (t = 12) (elemVal s x)
    ⟨some r.1, r.2, false, false⟩
  else if isFp s then
    let r := fCvt (fmtOf s) (fmtOf t) mode x
    ⟨some r.1, r.2, false, false⟩
  else
    let r := match elemVal s x with
      | .nan _ _ => ((fmtOf t).nan, fNV)
      | .inf n => ((fmtOf t).inf n, 0)
      | .num n m e => (fmtOf t).round mode n m e
    ⟨some r.1, r.2, false, false⟩

/-- `vcvt.T`. -/
def execVcvt (d a : BitVec 5) (fa xm : Bool) (ty : BitVec 4) (s : State) : Host.Outcome State Fault Refusal :=
  run (do
    if isTb ty.toNat then needFeature 8
    liftT (do
      vOk d
      vOk a
      notVill
      let t ← getT
      let wt := 8 <<< ewLog ty.toNat
      if wt ≠ t.ew then
        distinct d a
        need (t.vlN * Nat.max wt t.ew ≤ t.vlmaxN)
      let x ← rv a fa
      destV d
      loopV d wt xm true fun i _ => convert t.mode t.satOn t.etype ty.toNat (elemAt t.ew x i))
    pure .seq) s

/-! ## Dot products (R326, R327) -/

/-- K-depth by element type (R259). -/
def kDepth (e : Nat) : Nat := if e = 10 then 1 else if isTb e then 4 else 2

/-- Active source elements of accumulator j. -/
def Thread.dotElems (t : Thread) (k j : Nat) : List Nat :=
  (List.range k).filterMap fun q =>
    let i := j * k + q
    if i < t.vlN && t.active i then some i else none

/-- The two operand values of element i of a floating dot product, with the scales of tumbler elements (R254). -/
def Thread.dotPair (t : Thread) (x y i : Nat) : FVal × FVal :=
  let a := elemVal t.etype (elemAt t.ew x i)
  let b := elemVal t.etype (elemAt t.ew y i)
  if isTb t.etype then
    (scaleVal (elemAt 8 t.sca.toNat (i / t.blenN)) a, scaleVal (elemAt 8 t.scb.toNat (i / t.blenN)) b)
  else (a, b)

/-- Exact products and an f32 accumulator summed and rounded once (R259), with every flag. -/
def dotRound (mode : Nat) (pairs : List (FVal × FVal)) (acc : Nat) : Nat × Nat :=
  let c := f32.val acc
  let ps := pairs.map fun p => p.1.mul p.2
  let fl := pairs.foldl (fun r p => r ||| p.1.nanFlags ||| p.2.nanFlags) c.nanFlags
  let fl := ps.foldl (fun r p => r ||| p.2) fl
  let r := sumRound f32 mode (ps.map (·.1) ++ [c])
  (r.1, r.2 ||| fl)

/-- The accumulators of a dot product: those with an active product take part. -/
def dotLoop (t : Thread) (d : BitVec 5) (k : Nat) (cfg : LoopCfg) (body : Nat → Nat → ERes) (xm : Bool) : T Unit :=
  fun t' =>
    let l := eloop cfg body ((t.vlN + k - 1) / k - t.startN) t.startN
      { dst := (t'.vreg d.toNat).bits.toNat, xk := t'.mask t'.xmReg }
    endLoop xm l (t'.putV d.toNat 32 l.dst l.hi)

/-- `vfdot`. The exception bit of accumulator j is written where bit j of the mask is active (R210). -/
def execVfdot (d a b : BitVec 5) (fa fb xm : Bool) (s : State) : Host.Outcome State Fault Refusal :=
  runS (do
    vOk d
    vOk a
    vOk b
    distinct d a
    distinct d b
    notVill
    let t ← getT
    need (isFp t.etype || isTb t.etype)
    let x ← rv a fa
    let y ← rv b fb
    destV d
    let k := kDepth t.etype
    dotLoop t d k ⟨32, fun j => t.dotElems k j ≠ [], fun j => xm && t.active j, t.ftrap.toNat % 64⟩
      (fun j dst =>
        let r := dotRound t.mode ((t.dotElems k j).map (t.dotPair x y)) (elemAt 32 dst j)
        ⟨some r.1, r.2, false, false⟩) xm) s

/-- `vdot`. -/
def execVdot (d a b : BitVec 5) (fa fb xm : Bool) (s : State) : Host.Outcome State Fault Refusal :=
  runS (do
    vOk d
    vOk a
    vOk b
    distinct d a
    distinct d b
    notVill
    let t ← getT
    need (t.etype = 0 || t.etype = 4)
    let x ← rv a fa
    let y ← rv b fb
    destV d
    let sg := isSigned t.etype
    dotLoop t d 4 ⟨32, fun j => t.dotElems 4 j ≠ [], fun _ => xm, 0⟩
      (fun j dst =>
        let z := elemAt 32 dst j
        let acc : Int := if sg then sval 32 z else (z : Int)
        writeInt .fit t.satOn sg 32 ((t.dotElems 4 j).foldl (fun r i =>
          r + ival t.etype 8 (elemAt 8 x i) * ival t.etype 8 (elemAt 8 y i)) acc)) xm) s

/-! ## Block quantisation (R255, R328) -/

/-- The least E with M × 2^−E not above MAXV, clamped; M = m × 2^q, m nonzero (R255). -/
def scaleExp (six : Bool) (m : Nat) (q : Int) : Int :=
  max (-127) (min 127 ((bitLen (m - 1) : Nat) + q - (if six then 4 else 12)))

/-- A group quantised: scale byte, codes, flags. -/
def quantise (six : Bool) (vals : List FVal) : Nat × List Nat × Nat :=
  let isNum : FVal → Bool := fun v => match v with
    | .num _ _ _ => true
    | _ => false
  if !vals.all isNum then
    (255, vals.map (fun _ => if six then 32 else 128), vals.foldl (fun r v => r ||| v.nanFlags) fNV)
  else
    let q := minExp vals 4096
    let m := vals.foldl (fun r v => match v with
      | .num _ m e => if m = 0 then r else max r (m <<< (e - q).toNat)
      | _ => r) 0
    if m = 0 then (0, vals.map (fun _ => 0), 0)
    else
      let e := scaleExp six m q
      let cs := vals.map fun v => match v with
        | .num n m k => tbEnc six (.num n m (k - e))
        | _ => (0, 0)
      ((e + 127).toNat, cs.map (·.1), cs.foldl (fun r c => r ||| c.2) 0)

/-- Groups g on, `n` of them: codes, padding and scale written, then flags once per group. -/
def quantGroups (d : Nat) (x : Nat) (f : Fmt) (bank xm : Bool) : Nat → Nat → T Unit
  | 0, _ => pure ()
  | n + 1, g => do
    let t ← getT
    let gl := t.blenN
    let lo := g * gl
    let hi := min t.vlN (lo + gl)
    let (sc, cs, fl) := quantise (t.etype = 12) ((List.range (hi - lo)).map fun i => f.val (elemAt f.width x (lo + i)))
    let top := min (lo + gl) (t.vlmaxN / 8)
    let bits := (List.range (top - lo)).foldl (fun r i => setElem 8 r (lo + i) (cs.getD i 0)) (t.vreg d).bits.toNat
    modT fun t =>
      let t := { (t.setScale bank g sc).putV d 8 bits top with fflags := t.fflags ||| w64 fl }
      if xm && t.active lo then t.setMask t.xmReg (setBit (t.mask t.xmReg) lo (fl ≠ 0)) else t
    let tr := fl &&& t.ftrap.toNat % 64
    if tr ≠ 0 then
      modT fun t => { t with vstart := w64 lo }
      trapT (if tr.testBit 5 then 0x11 else 0x10) 0 (w64 lo)
    quantGroups d x f bank xm n (g + 1)

/-- `vbq.S`. -/
def execVbq (d a : BitVec 5) (fa xm : Bool) (src : BitVec 2) (bank : Bool) (s : State) :
    Host.Outcome State Fault Refusal :=
  runS (do
    vOk d
    vOk a
    distinct d a
    notVill
    let t ← getT
    let f := if src = 0 then f32 else if src = 1 then bf16 else f16
    need (isTb t.etype)
    need (t.vlN * f.width ≤ t.vlmaxN)
    need (t.startN % t.blenN = 0)
    let x ← rv a fa
    destV d
    quantGroups d.toNat x f bank xm (t.groups - t.startN / t.blenN) (t.startN / t.blenN)
    modT fun t => { t with vstart := 0 }) s

end Sys2Proof.Machine
end

