-- ==== Sys2Proof/Machine/Permute.lean ====
section
/-! DEFINITION. Permutes and register movement (0x38), reductions (0x39) and mask operations (0x3A): R329 to R333. -/

namespace Sys2Proof.Machine

/-! ## Permutes (R329, R330): bits move without change and without flags -/

/-- VLMAX in elements. -/
def Thread.nmax (t : Thread) : Nat := t.vlmaxN / t.ew

/-- The loop of R316 over a bit-moving body; `none` leaves the element. -/
def moveLoop (d : BitVec 5) (body : Nat → Option Nat) : T Unit := do
  let t ← getT
  loopV d t.ew false false fun i _ => ⟨body i, 0, false, false⟩

/-- `vmv`. -/
def execVmv (d a : BitVec 5) (fa : Bool) (s : State) : Host.Outcome State Fault Refusal :=
  runS (do
    vOk d
    vOk a
    notVill
    let t ← getT
    let x ← rv a fa
    destV d
    moveLoop d fun i => some (elemAt t.ew x i)) s

/-- `vmerge`: every element below `vl`, active or not. -/
def execVmerge (d a b : BitVec 5) (fa fb : Bool) (s : State) : Host.Outcome State Fault Refusal :=
  runS (do
    vOk d
    vOk a
    vOk b
    notVill
    let x ← rv a fa
    let y ← rv b fb
    destV d
    modT fun t =>
      let bits := (List.range (t.vlN - t.startN)).foldl (fun r j =>
        let i := t.startN + j
        setElem t.ew r i (elemAt t.ew (if t.active i then x else y) i)) (t.vreg d.toNat).bits.toNat
      { t.putV d.toNat t.ew bits (if t.startN < t.vlN then t.vlN else 0) with vstart := 0 }) s

/-- `vbcast`. -/
def execVbcast (d a : BitVec 5) (fa : Bool) (s : State) : Host.Outcome State Fault Refusal :=
  runS (do
    vOk d
    notVill
    let t ← getT
    let x ← rx a fa
    destV d
    moveLoop d fun _ => some (x.toNat % 2 ^ t.ew)) s

/-- A result of the element type in a scalar register: sign-extended for i types, else zero-extended. -/
def scalarOf (e w v : Nat) : Word := if isSigned e then iword (sval w v) else w64 (v % 2 ^ w)

/-- `vext`: `vstart` is left as it is. -/
def execVext (d a b : BitVec 5) (fa fb : Bool) (s : State) : Host.Outcome State Fault Refusal :=
  runS (do
    vOk a
    notVill
    let t ← getT
    let x ← rv a fa
    let b ← rx b fb
    wx d (if b.toNat < t.nmax then scalarOf t.etype t.ew (elemAt t.ew x b.toNat) else 0)) s

/-- `vins`. -/
def execVins (d a b : BitVec 5) (fa fb : Bool) (s : State) : Host.Outcome State Fault Refusal :=
  runS (do
    vOk d
    notVill
    let x ← rx a fa
    let b ← rx b fb
    destV d
    modT fun t =>
      if b.toNat < t.nmax then
        t.putV d.toNat t.ew (setElem t.ew (t.vreg d.toNat).bits.toNat b.toNat x.toNat) (b.toNat + 1)
      else t) s

/-- `vslideup`. -/
def execVslideup (d a b : BitVec 5) (fa fb : Bool) (s : State) : Host.Outcome State Fault Refusal :=
  runS (do
    vOk d
    vOk a
    distinct d a
    notVill
    let t ← getT
    let x ← rv a fa
    let b ← rx b fb
    destV d
    moveLoop d fun i => if b.toNat ≤ i then some (elemAt t.ew x (i - b.toNat)) else none) s

/-- `vslidedn`. -/
def execVslidedn (d a b : BitVec 5) (fa fb : Bool) (s : State) : Host.Outcome State Fault Refusal :=
  runS (do
    vOk d
    vOk a
    distinct d a
    notVill
    let t ← getT
    let x ← rv a fa
    let b ← rx b fb
    destV d
    moveLoop d fun i => some (if i + b.toNat < t.nmax then elemAt t.ew x (i + b.toNat) else 0)) s

/-- `vperm`. -/
def execVperm (d a b : BitVec 5) (fa fb : Bool) (s : State) : Host.Outcome State Fault Refusal :=
  runS (do
    vOk d
    vOk a
    vOk b
    distinct d a
    distinct d b
    notVill
    let t ← getT
    let x ← rv a fa
    let y ← rv b fb
    destV d
    moveLoop d fun i =>
      let j := elemAt t.ew y i
      some (if j < t.nmax then elemAt t.ew x j else 0)) s

/-- `vcpvl` (R330). -/
def execVcpvl (d a : BitVec 5) (fa : Bool) (s : State) : Host.Outcome State Fault Refusal :=
  runS (do
    vOk d
    vOk a
    distinct d a
    notVill
    let t ← getT
    need (t.vstart = 0)
    let x ← rv a fa
    destV d
    modT fun t =>
      let l := (List.range t.vlN).filter t.active
      let bits := l.zipIdx.foldl (fun r (i, j) => setElem t.ew r j (elemAt t.ew x i)) (t.vreg d.toNat).bits.toNat
      { t.putV d.toNat t.ew bits l.length with vl := w64 l.length, vstart := 0 }) s

/-! ## The indexed bank (R331): slot n of `vx` is register 32 + n -/

/-- A slot index within the declaration. -/
def slotOf (a : Word) : T Nat := fun t =>
  if a.toNat < t.vx then .ok (32 + a.toNat) t else .error (.trap 0x02 a 0 0) t

/-- A whole register moved: bits and valid length; the destination is full. -/
def moveReg (dst src : Nat) (p : Bool) : T Unit := do
  let _ ← rvK src p
  destVK dst
  modT fun t => t.setVreg dst { t.vreg src with empty := false }

/-- `vxrd`. -/
def execVxrd (d a : BitVec 5) (fa : Bool) (s : State) : Host.Outcome State Fault Refusal :=
  runS (do
    vOk d
    notVill
    let a ← rx a fa
    let k ← slotOf a
    moveReg d.toNat k false) s

/-- `vxwr`. -/
def execVxwr (a b : BitVec 5) (fa fb : Bool) (s : State) : Host.Outcome State Fault Refusal :=
  runS (do
    vOk b
    notVill
    let a ← rx a fa
    let k ← slotOf a
    moveReg k b.toNat fb) s

/-! ## Reductions (R332) -/

/-- A reduction: the start value, the elements that take part, a function of both giving bits, flags and whether it
saturated. The result lands in a scalar register that is empty until then (R189). -/
def reduce (types : Nat → Bool) (d a b : BitVec 5) (fa fb : Bool)
    (f : Thread → Nat → (Nat → Nat) → Nat × Nat × Bool) : M Flow := do
  liftT (do
    vOk a
    notVill
    let t ← getT
    need (types t.etype)
    need (t.vstart = 0))
  let x ← liftT (rv a fa)
  let y ← liftT (rx b fb)
  liftT (destX d)
  let s ← getS
  let t := s.th
  let b := y.toNat % 2 ^ t.ew
  let (r, fl, c) := if (List.range t.vlN).any t.active then f t b (elemAt t.ew x) else (b, 0, false)
  landX d (scalarOf t.etype t.ew r) (fl &&& t.ftrap.toNat % 64 = 0)
  liftT (satX c)
  liftT (raiseX fl)
  pure .seq

/-- Active elements below `vl`, in ascending order. -/
def Thread.activeElems (t : Thread) : List Nat := (List.range t.vlN).filter t.active

/-- An integer reduction by a fold of bits. -/
def foldBits (g : Nat → Nat → Nat) (t : Thread) (b : Nat) (x : Nat → Nat) : Nat × Nat × Bool :=
  (t.activeElems.foldl (fun r i => g r (x i)) b, 0, false)

/-- An integer reduction by a fold of values. -/
def foldVals (g : Int → Int → Int) (t : Thread) (b : Nat) (x : Nat → Nat) : Nat × Nat × Bool :=
  (pat t.ew (t.activeElems.foldl (fun r i => g r (ival t.etype t.ew (x i))) (ival t.etype t.ew b)), 0, false)

/-- A floating reduction in ascending element order, with the flags of every step. -/
def foldFp (g : Fmt → Nat → Nat → Nat → Nat × Nat) (t : Thread) (b : Nat) (x : Nat → Nat) : Nat × Nat × Bool :=
  let r := t.activeElems.foldl (fun (r : Nat × Nat) i =>
    let q := g (fmtOf t.etype) t.mode r.1 (x i)
    (q.1, r.2 ||| q.2)) (b, 0)
  (r.1, r.2, false)

/-- One level of R260's tree over adjacent pairs: an absent element takes no part. -/
def treeLevel (f : Fmt) (mode : Nat) : List (Option Nat) → List (Option Nat) × Nat
  | [] => ([], 0)
  | [x] => ([x], 0)
  | x :: y :: l =>
    let (r, fl) := treeLevel f mode l
    match x, y with
    | some a, some b => let q := fAdd f mode a b; (some q.1 :: r, fl ||| q.2)
    | none, b => (b :: r, fl)
    | a, none => (a :: r, fl)

/-- `tree_sum` of R260, at most `n` levels. -/
def treeSum (f : Fmt) (mode : Nat) : Nat → List (Option Nat) → Nat → Option Nat × Nat
  | 0, l, fl => (l.headD none, fl)
  | n + 1, l, fl =>
    match l with
    | [] => (none, fl)
    | [x] => (x, fl)
    | l => let r := treeLevel f mode l; treeSum f mode n r.1 (fl ||| r.2)

/-- `vredsum`. -/
def execVredsum (d a b : BitVec 5) (fa fb : Bool) (s : State) : Host.Outcome State Fault Refusal :=
  run (reduce isInt d a b fa fb fun t b x =>
    let v := t.activeElems.foldl (fun r i => r + ival t.etype t.ew (x i)) (ival t.etype t.ew b)
    let r := fitTo t.satOn (isSigned t.etype) t.ew v
    (r.1, 0, r.2)) s
/-- `vredmin`. -/
def execVredmin (d a b : BitVec 5) (fa fb : Bool) (s : State) : Host.Outcome State Fault Refusal :=
  run (reduce isInt d a b fa fb (foldVals fun x y => if y < x then y else x)) s
/-- `vredmax`. -/
def execVredmax (d a b : BitVec 5) (fa fb : Bool) (s : State) : Host.Outcome State Fault Refusal :=
  run (reduce isInt d a b fa fb (foldVals fun x y => if x < y then y else x)) s
/-- `vredand`. -/
def execVredand (d a b : BitVec 5) (fa fb : Bool) (s : State) : Host.Outcome State Fault Refusal :=
  run (reduce isInt d a b fa fb (foldBits fun x y => x &&& y)) s
/-- `vredor`. -/
def execVredor (d a b : BitVec 5) (fa fb : Bool) (s : State) : Host.Outcome State Fault Refusal :=
  run (reduce isInt d a b fa fb (foldBits fun x y => x ||| y)) s
/-- `vredxor`. -/
def execVredxor (d a b : BitVec 5) (fa fb : Bool) (s : State) : Host.Outcome State Fault Refusal :=
  run (reduce isInt d a b fa fb (foldBits fun x y => x ^^^ y)) s
/-- `vfredsum` (R260): the tree, then one addition to the start value. -/
def execVfredsum (d a b : BitVec 5) (fa fb : Bool) (s : State) : Host.Outcome State Fault Refusal :=
  run (reduce isFp d a b fa fb fun t b x =>
    let f := fmtOf t.etype
    let r := treeSum f t.mode 13 ((List.range t.vlN).map fun i => if t.active i then some (x i) else none) 0
    match r.1 with
    | none => (b, 0, false)
    | some v => let q := fAdd f t.mode b v; (q.1, r.2 ||| q.2, false)) s
/-- `vfredo` (R261). -/
def execVfredo (d a b : BitVec 5) (fa fb : Bool) (s : State) : Host.Outcome State Fault Refusal :=
  run (reduce isFp d a b fa fb (foldFp fAdd)) s
/-- `vfredmin`. -/
def execVfredmin (d a b : BitVec 5) (fa fb : Bool) (s : State) : Host.Outcome State Fault Refusal :=
  run (reduce isFp d a b fa fb (foldFp fun f _ x y => fMinMax f false x y)) s
/-- `vfredmax`. -/
def execVfredmax (d a b : BitVec 5) (fa fb : Bool) (s : State) : Host.Outcome State Fault Refusal :=
  run (reduce isFp d a b fa fb (foldFp fun f _ x y => fMinMax f true x y)) s

/-! ## Mask operations (R333): bits below `vl`; `vmsk` and `vstart` are ignored, `vstart` ends 0 -/

/-- The low n bits of x over the rest of y. -/
def lowBits (n x y : Nat) : Nat := y - y % 2 ^ n + x % 2 ^ n

/-- A mask written from masks. -/
def maskOp (d : BitVec 5) (srcs : List (BitVec 5)) (f : Thread → Nat) : M Flow := do
  liftT (do
    kOk d
    srcs.forM kOk
    notVill
    modT fun t => { t.setMask d.toNat (lowBits t.vlN (f t) (t.mask d.toNat)) with vstart := 0 })
  traceMask d
  pure .seq

/-- The bits not set, below 2^4096. -/
def notBits (x : Nat) : Nat := 2 ^ 4096 - 1 - x

/-- `kand`. -/
def execKand (d a b : BitVec 5) (s : State) : Host.Outcome State Fault Refusal :=
  run (maskOp d [a, b] fun t => t.mask a.toNat &&& t.mask b.toNat) s
/-- `kor`. -/
def execKor (d a b : BitVec 5) (s : State) : Host.Outcome State Fault Refusal :=
  run (maskOp d [a, b] fun t => t.mask a.toNat ||| t.mask b.toNat) s
/-- `kxor`. -/
def execKxor (d a b : BitVec 5) (s : State) : Host.Outcome State Fault Refusal :=
  run (maskOp d [a, b] fun t => t.mask a.toNat ^^^ t.mask b.toNat) s
/-- `kandn`. -/
def execKandn (d a b : BitVec 5) (s : State) : Host.Outcome State Fault Refusal :=
  run (maskOp d [a, b] fun t => t.mask a.toNat &&& notBits (t.mask b.toNat)) s
/-- `knot`. -/
def execKnot (d a : BitVec 5) (s : State) : Host.Outcome State Fault Refusal :=
  run (maskOp d [a] fun t => notBits (t.mask a.toNat)) s
/-- `kmov`. -/
def execKmov (d a : BitVec 5) (s : State) : Host.Outcome State Fault Refusal :=
  run (maskOp d [a] fun t => t.mask a.toNat) s
/-- `kset`. -/
def execKset (d : BitVec 5) (s : State) : Host.Outcome State Fault Refusal :=
  run (maskOp d [] fun _ => notBits 0) s
/-- `kclr`. -/
def execKclr (d : BitVec 5) (s : State) : Host.Outcome State Fault Refusal :=
  run (maskOp d [] fun _ => 0) s

/-- A number read from a mask into a scalar register. -/
def maskNum (d a : BitVec 5) (f : Thread → Word) : T Unit := do
  kOk a
  notVill
  let t ← getT
  wx d (f t)
  modT fun t => { t with vstart := 0 }

/-- `kpop`. -/
def execKpop (d a : BitVec 5) (s : State) : Host.Outcome State Fault Refusal :=
  runS (maskNum d a fun t => w64 (popBelow (t.mask a.toNat) t.vlN)) s

/-- The lowest set bit of the low n, from bit i. -/
def firstBit (m : Nat) : Nat → Nat → Option Nat
  | 0, _ => none
  | n + 1, i => if m.testBit i then some i else firstBit m n (i + 1)

/-- `kfirst`. -/
def execKfirst (d a : BitVec 5) (s : State) : Host.Outcome State Fault Refusal :=
  runS (maskNum d a fun t =>
    match firstBit (t.mask a.toNat) t.vlN 0 with
    | some i => w64 i
    | none => 0xFFFFFFFFFFFFFFFF#64) s

/-- Elements below `vl` of a vector written from a mask: the value from the count of set bits so far and the bit. -/
def fromMask (w m : Nat) (f : Nat → Bool → Nat) : Nat → Nat → Nat → Nat → Nat
  | 0, _, _, r => r
  | n + 1, i, c, r =>
    fromMask w m f n (i + 1) (if m.testBit i then c + 1 else c) (setElem w r i (f c (m.testBit i)))

/-- A vector written from a mask. -/
def maskToV (d a : BitVec 5) (f : Nat → Bool → Nat) : T Unit := do
  vOk d
  kOk a
  notVill
  let t ← getT
  need (isInt t.etype)
  destV d
  modT fun t =>
    { t.putV d.toNat t.ew (fromMask t.ew (t.mask a.toNat) f t.vlN 0 0 (t.vreg d.toNat).bits.toNat) t.vlN with
      vstart := 0 }

/-- `kiota`. -/
def execKiota (d a : BitVec 5) (s : State) : Host.Outcome State Fault Refusal :=
  runS (maskToV d a fun c _ => c) s
/-- `ktov`. -/
def execKtov (d a : BitVec 5) (s : State) : Host.Outcome State Fault Refusal :=
  runS (maskToV d a fun _ b => if b then 1 else 0) s

/-- `kfromv`. -/
def execKfromv (d a : BitVec 5) (fa : Bool) (s : State) : Host.Outcome State Fault Refusal :=
  run (do
    liftT (do
      kOk d
      vOk a
      notVill
      let t ← getT
      need (isInt t.etype)
      let x ← rv a fa
      modT fun t =>
        let m := (List.range t.vlN).foldl (fun r i => if elemAt t.ew x i = 0 then r else r + 2 ^ i) 0
        { t.setMask d.toNat (lowBits t.vlN m (t.mask d.toNat)) with vstart := 0 })
    traceMask d
    pure .seq) s

end Sys2Proof.Machine
end

