-- ==== Sys2Proof/Machine/Threads.lean ====
section
/-! DEFINITION. Split threads and lane-aligned exchange (0x3B but `vcapp`): R156 to R158, R174 to R176, R334 to R336,
R442. -/

namespace Sys2Proof.Machine

/-! ## Where a dword lies (R76) -/

/-- Position of a physical lane in a layout. -/
def laneIndex (l : List Nat) (lane : Nat) : Option Nat := l.findIdx? (· = lane)

/-- The dword that one of several registers, each over its own layout and of the given depth, holds at a physical lane
and depth, and whether it lies below that register's valid length. -/
def dwordAt (depth : Nat) (srcs : List (List Nat × VReg)) (lane j : Nat) : Nat × Bool :=
  match srcs with
  | [] => (0, false)
  | (l, r) :: rest =>
    match laneIndex l lane with
    | some p =>
      if j < depth then
        let g := p + j * l.length
        ((r.bits.toNat >>> (64 * g)) % 2 ^ 64, decide (8 * g < r.vb))
      else (0, false)
    | none => dwordAt depth rest lane j

/-- A register over a layout, from what lies at the same physical places: its bits, and a valid length that reaches
every valid dword, empty where a part of it is (log 25). -/
def remap (srcDepth depth : Nat) (srcs : List (List Nat × VReg)) (dst : List Nat) : VReg :=
  let cells := (List.range (dst.length * depth)).map fun g =>
    (g, dwordAt srcDepth srcs (dst.getD (g % dst.length) 0) (g / dst.length))
  { bits := BitVec.ofNat 32768 (cells.foldl (fun r c => r + c.2.1 <<< (64 * c.1)) 0),
    vb := cells.foldl (fun r c => if c.2.2 then 8 * (c.1 + 1) else r) 0,
    empty := srcs.any fun s => s.2.empty }

/-- Physical lanes of slots `b` to `b + n − 1` among live ones. -/
def lanesIn (lanes : List Nat) (b n : Nat) : List Nat := lanes.filter fun l => b ≤ l && l < b + n

/-- Lowest lane and number of lane slots of a share. -/
def Seq.slots (q : Seq) : Nat × Nat :=
  let g := q.groups
  ((if g.getLsbD 0 then 0 else if g.getLsbD 1 then 16 else if g.getLsbD 2 then 32 else 48), 16 * popBelow g.toNat 4)

/-- Live physical lanes of a share on a core. -/
def liveLanes (c : CorePair) (q : Seq) : List Nat :=
  let (b, n) := q.slots
  (List.range 64).filter fun l => b ≤ l && l < b + n && c.live.getLsbD l

/-- Keys of two maps' registers. -/
def regKeys (ts : List Thread) : List Nat :=
  (List.range 1024).filter fun k => ts.any fun t => t.v.any fun e => e.1 = k

/-- Thread number `i` of `w` after a split (R156): its lanes, registers, masks, banks and starting state. A scalar register
that an engine's ticket keeps empty is empty in every thread, and the ticket fills each copy (DESIGN CHOICE, log 51). -/
def Thread.part (t : Thread) (d : BitVec 5) (w i : Nat) (lanes : List Nat) : Thread :=
  let m := 4096 / w
  let cut (b : BitVec 4096) : BitVec 4096 := BitVec.ofNat 4096 ((b.toNat >>> (m * i)) % 2 ^ m)
  let t := { t with
    lanes := lanes, layout := lanes, vlmaxb := w64 (64 * lanes.length * t.depth),
    v := (regKeys [t]).map fun k => (k, remap t.depth t.depth [(t.layout, t.vreg k)] lanes),
    k := t.k.map fun (j, b) => (j, cut b), sca := cut t.sca, scb := cut t.scb,
    vtype := 0x8000000000000000#64 }
  let t := if i = 0 then t else { t with latch := 0, laneNotices := [], engineErrors := [], hist := [], histN := 0 }
  t.setX d.toNat (w64 i)

/-- Threads 1 to n of the split, written beside thread 0. -/
def putParts (d : BitVec 5) (w b n : Nat) (t : Thread) (s : State) : Nat → State
  | 0 => s
  | i + 1 =>
    let p := t.part d w (i + 1) (lanesIn t.lanes (b + (i + 1) * n / w) (n / w))
    (putParts d w b n t s i).setThread s.cur.seq (i + 1) p

/-- `vsplit` (R156, R157, R334): the lead is forked afresh for each thread (R162). -/
def execVsplit (d n : BitVec 5) (s : State) : Host.Outcome State Fault Refusal :=
  run (do
    let s ← getS
    let w := n.toNat
    if s.sq.split ≠ 1 ∨ (w ≠ 2 ∧ w ≠ 4) then trapM 0x03
    let (b, sl) := s.sq.slots
    if (List.range w).any fun i => (lanesIn s.th.lanes (b + i * sl / w) (sl / w)).isEmpty then trapM 0x03
    liftT (destX d)
    if s.th.claiming then waitM .memory
    liftT (modT Thread.landAll)
    modS fun s =>
      let t := s.th.fork s.counts
      let nx : Thread := { (t.advance .seq) with instret := t.instret + 1, ended := .retired, wait := .none }
      let s := putParts d w b sl nx s (w - 1)
      let s := s.setSq { s.sq with
        split := w, splitCounts := [t.instret + 1, t.emucount, t.krmiss, t.krxlat] }
      s.setTh (t.part d w 0 (lanesIn t.lanes b (sl / w)))
    pure .seq) s

/-- The threads of a sequencer, joined (R158, R442): thread 0 at its own `vjoin`, not yet retired. -/
def joinThreads (ts : List Thread) (base : List Word) (lanes : List Nat) : Thread :=
  let t0 := ts.headD {}
  let w := ts.length
  let m := 4096 / w
  let sum (i : Nat) (f : Thread → Word) : Word :=
    let b := base.getD i 0
    ts.foldl (fun r t => r + (f t - b)) b
  let glue (f : Thread → BitVec 4096) : BitVec 4096 :=
    BitVec.ofNat 4096 (ts.zipIdx.foldl (fun r (t, i) => r + ((f t).toNat % 2 ^ m) <<< (m * i)) 0)
  { t0 with
    lanes := lanes, layout := lanes, vlmaxb := w64 (64 * lanes.length * t0.depth),
    v := (regKeys ts).map fun k => (k, remap t0.depth t0.depth (ts.map fun t => (t.layout, t.vreg k)) lanes),
    k := (List.range 16).map fun j => (j, glue fun t => Sparse.get 0 t.k j),
    kw := ts.foldl (fun r t => r ||| t.kw) 0,
    sca := glue (·.sca), scb := glue (·.scb),
    scaw := ts.any (·.scaw), scbw := ts.any (·.scbw),
    fflags := ts.foldl (fun r t => r ||| t.fflags) 0,
    vxsat := ts.foldl (fun r t => r ||| t.vxsat) 0,
    latch := ts.foldl (fun r t => r ||| t.latch) 0,
    instret := sum 0 (·.instret) + w64 (w - 1), emucount := sum 1 (·.emucount),
    krmiss := sum 2 (·.krmiss), krxlat := sum 3 (·.krxlat),
    vstart := 0, vtype := 0x8000000000000000#64,
    laneNotices := ts.flatMap (·.laneNotices), engineErrors := ts.flatMap (·.engineErrors) }

/-- `vjoin`: the last thread to arrive joins them, and the lead is forked afresh (R162). -/
def execVjoin (s : State) : Host.Outcome State Fault Refusal :=
  run (do
    let s ← getS
    if s.sq.split = 1 then trapM 0x03
    performedAllM
    liftT (modT Thread.landAll)
    let s ← getS
    let q := s.cur.seq
    let w := s.sq.split
    if (List.range w).any fun i => i ≠ s.cur.thr && (s.thread q i).wait ≠ .join then waitM .join
    modS fun s =>
      let j := joinThreads ((List.range w).map (s.thread q)) s.sq.splitCounts (liveLanes s.cp s.sq)
      let s := (List.range w).foldl (fun s i => s.setThread q i {}) s
      let s := s.setSq { s.sq with split := 1, splitCounts := [] }
      { s with cur := ⟨q, 0⟩, threads := Sparse.set s.threads (4 * q) (j.fork s.counts) }
    pure .seq) s

/-! ## Exchange (R174 to R176, R335, R336) -/

/-- The core that a selector names: its quad on the die ring, and the position in it. -/
def peerCore (core : Nat) (rel pos : Nat) : Nat :=
  let die := core / 32
  let quad := core % 32 / 4
  let q := if rel = 0 then quad else if rel = 1 then (quad + 7) % 8 else (quad + 1) % 8
  32 * die + 4 * q + (if rel = 0 then pos else core % 4)

/-- The receiving sequencer, or none where R335 refuses the selector. -/
def State.peerOf (s : State) (sel : Word) : Option Nat :=
  let rel := fld sel 3 2
  let c := peerCore s.coreNo rel (fld sel 1 0)
  let q := 4 * c + s.slotNo
  let p := s.seq q
  if rel = 3 || c = s.coreNo || !(s.die (c / 32)).lcmap.getLsbD (c % 32) then none
  else
    match p.bound, s.sq.bound with
    | some b, some b' =>
      if b.launch = b'.launch ∧ p.kind = s.sq.kind ∧ p.split = s.sq.split then some q else none
    | _, _ => none

/-- The landing of a register at a peer (R175): by physical lane and depth. -/
def State.land (s : State) (q n : Nat) (src : VReg) : State :=
  s.mapThread q s.cur.thr fun r =>
    let v := remap s.th.depth r.depth [(s.th.layout, src)] r.layout
    { r.setVreg n { v with vb := 8 * r.layout.length * r.depth, empty := false } with latch := r.latch ||| 4 }

/-- What `xsend` does once it has its operands: it waits for the register, or lands. One that waits already goes on
waiting where its receiver has left (R176). -/
def sendM (n b : BitVec 5) (sel : Word) : M Flow := do
  let s ← getS
  match s.peerOf sel with
  | none => if s.th.wait = .peer then waitM .peer else trapM 0x03
  | some q =>
    let r := s.thread q s.cur.thr
    if r.vn ≤ n.toNat then trapM 0x02 (w64 n.toNat)
    if r.vFull n.toNat then waitM .peer
    modS fun s => s.land q n.toNat (s.th.vreg b.toNat)
    pure .seq

/-- `xsend` from its operands on; the same after a wait. R335 gives no priority of an empty vb against the selector and N:
vb is read first (DESIGN CHOICE, log 51). -/
def xsendM (n a b : BitVec 5) (fa fb : Bool) : M Flow := do
  liftT (vOk b)
  let sel ← liftT (rx a fa)
  let _ ← liftT (rv b fb)
  sendM n b sel

/-- `xsend`. -/
def execXsend (n a b : BitVec 5) (fa fb : Bool) (s : State) : Host.Outcome State Fault Refusal :=
  run (xsendM n a b fa fb) s

/-- XSEND_LANDING: an `xsend` that waits, the word in `ir`, lands once the register it names is empty (R176). -/
def execXsendLanding (seq thr : Nat) (s : State) : Host.Outcome State Fault Refusal :=
  let s' := { s with cur := ⟨seq, thr⟩ }
  match s'.th.wait with
  | .peer =>
    let w := s'.th.ir
    run (xsendM (fieldD w) (fieldA w) (fieldB w) (fieldFA w) (fieldFB w)) s'
  | _ => .next s

/-- `xrecv`. -/
def execXrecv (d : BitVec 5) (s : State) : Host.Outcome State Fault Refusal :=
  runS (do
    vOk d
    modT fun t => t.setVreg d.toNat { t.vreg d.toNat with empty := true }) s

end Sys2Proof.Machine
end

