-- ==== Sys2Proof/Machine/Queues.lean ====
section
/-! DEFINITION. Stage queues (R164 to R170): headers, reservations, publication, claims and freeing; the instructions
`vcapp` (R337), `qnext` (R288) and `exit` (R289); unbinding a sequencer. -/

namespace Sys2Proof.Machine

/-! ## Headers (Table 7.6) -/

structure QHeader where
  tail : BitVec 32
  head : BitVec 32
  resv : BitVec 32
  free : BitVec 32
  closed : Bool
  mode : Nat
  esz : Nat
  lcap : Nat
  ready : Nat
  base : Word
  src : Word
  nslot : Nat
  rowb : Nat
  dst : Word
  outq : Word
deriving DecidableEq, Repr

/-- The 64-bit dword at an offset of a list of bytes. -/
def dwordOf (bs : List Byte) (off : Nat) : Word := w64 (natOfBytes ((bs.drop off).take 8))

def QHeader.ofBytes (bs : List Byte) : QHeader :=
  let d (i : Nat) : Word := dwordOf bs (8 * i)
  ⟨(d 0).extractLsb' 32 32, (d 0).extractLsb' 0 32, (d 1).extractLsb' 32 32, (d 1).extractLsb' 0 32,
    bit (d 2) 63, fld (d 2) 62 61, fld (d 2) 58 56, fld (d 2) 36 32, fld (d 2) 31 0, d 3, d 4, fld (d 5) 63 32,
    fld (d 5) 31 0, d 6, d 7⟩

/-- A header as its home slice holds it, under its leaf's key slot (R42). -/
def State.header (s : State) (h : Head) : QHeader := .ofBytes (s.homeBytes h.pa 64 (lineKeyBits h.pa (s.headKey h)))

/-- Entries published and not claimed. -/
def QHeader.avail (h : QHeader) : Nat := (h.tail - h.head).toNat

/-- R165's third and fourth checks: cause and `tval`, or none. -/
def QHeader.fault (h : QHeader) (normal : Bool) : Option (Nat × Word) :=
  if h.mode = 3 ∨ h.esz < 2 ∨ 3 < h.esz ∨ h.lcap < 6 ∨ 30 < h.lcap then some (0x03, 0)
  else if normal && h.mode ≠ 0 then some (0x03, 0)
  else if h.base.toNat % 64 ≠ 0 then some (0x0C, h.base)
  else none

/-- Whether a count of a header can be written at its home slice now by a party of a die under a frontier: the access
does not fail (R22, R43), there are no replicas of the page, and the causal predecessors are applied there (R70, R107). -/
def State.countReady (s : State) (die : Nat) (front : Stamp) (h : Head) : Bool :=
  s.headReads h && s.atomicReady die (front.join (s.line (lineOf h.pa)).stamp) h.pa

/-- Bytes of a header written at its home slice, by a party of a die under a frontier: the stamp. -/
def State.setHeader (s : State) (die : Nat) (front : Stamp) (h : Head) (off : Nat) (bs : List Byte) (rel : Option Nat) :
    Stamp × State :=
  let (st, s) := s.takeStamp die (front.join (s.line (lineOf h.pa)).stamp)
  let (id, s) := s.fresh
  (st, s.applyHome { id, die, stamp := st, pa := h.pa + off, cells := cellsAt (h.pa + off) bs,
                     key := s.headKey h, rel, held := false, page := none, seq := none, op := none })

/-- One 32-bit count of a header written at its home slice (R166). -/
def State.setCount (s : State) (die : Nat) (front : Stamp) (h : Head) (off : Nat) (v : BitVec 32) (rel : Option Nat) :
    Stamp × State := s.setHeader die front h off (bytesOfNat 4 v.toNat) rel

/-- A count written by the current thread, whose frontier rises (R108); a page with replicas collapses first. -/
def countM (h : Head) (off : Nat) (v : BitVec 32) (rel : Option Nat) : M Unit := fun s =>
  let s := if s.countReady s.dieNo s.front h then s else s.drain
  if s.countReady s.dieNo s.front h then
    let (st, s) := s.setCount s.dieNo s.front h off v rel
    .ok () (s.raise st)
  else .error (.wait .memory) (s.startCollapse h.pa)

/-- TAIL, HEAD, RESV and FREE by their offsets. -/
def offTail : Nat := 4
def offHead : Nat := 0
def offResv : Nat := 12
def offFree : Nat := 8

/-- A header's virtual address of the current thread, checked under R165; `normal` for `qnext`. -/
def headerM (h : Word) (normal : Bool) : M (Head × QHeader) := do
  if h.toNat % 64 ≠ 0 then trapM 0x0C h
  let s ← getS
  accessTrigger true true (s.scalarElem 6 6) h
  let t ← translateM ⟨6, true, true, false, false, true, 64⟩ (s.scalarElem 6 6) h
  if normal then noteAccess h
  atomicsReady [t]
  let bs ← atomicM t h 64 none fun _ => none
  let q := QHeader.ofBytes bs
  match q.fault normal with
  | some (c, v) => trapM c v
  | none => pure (t.head, q)

/-- READY, or the VLMAX of the thread that applies the threshold, in entries (Table 7.6). -/
def QHeader.threshold (h : QHeader) (t : Thread) : Nat :=
  if h.ready ≠ 0 then h.ready else t.vlmaxN / (8 * 2 ^ h.esz)

/-! ## Publication (R166) -/

/-- Whether a reservation can be published: its writes and those before it are performed, TAIL can be written, and no
earlier one of its queue remains. -/
def State.canPublish (s : State) (r : Resv) : Bool :=
  s.countReady r.die r.front r.header && (s.header r.header).tail = BitVec.ofNat 32 r.first &&
  !s.flights.any (fun f => f.die = r.die && !serialBelow (r.front.comp r.die) (f.stamp.comp r.die)) &&
  (List.range 8).all fun e => !(s.die e).invals.any fun i =>
    i.origin = r.die && !serialBelow (r.front.comp r.die) (i.stamp.comp r.die)

/-- The thread that answers for one of a sequencer: a thread that has joined leaves what it awaits to the thread it joined
(R367; for the ready event DESIGN CHOICE, log 51). -/
def State.issuerThread (s : State) (q t : Nat) : Nat := if t < (s.seq q).split then t else 0

/-- A reservation published: TAIL advances over it, releasing at `.pk`; the ready event sets bit 0 of the appender's
latch. -/
def State.publish (s : State) (r : Resv) : State :=
  let (_, s) := s.setCount r.die r.front r.header offTail (BitVec.ofNat 32 (r.first + r.count)) (some 4)
  let s := { s with resvs := s.resvs.filter (fun x => x.id ≠ r.id) }
  match r.seq with
  | some q =>
    if r.threshold ≤ (s.header r.header).avail then
      s.mapThread q (s.issuerThread q r.thr) fun t => { t with latch := t.latch ||| 1 }
    else s
  | none => s

/-- Reservations published in turn while the schedule does not hold them back. -/
def State.publishAll : Nat → State → State
  | 0, s => s
  | n + 1, s =>
    match s.resvs.find? s.canPublish with
    | some r => State.publishAll n (s.publish r)
    | none => s

/-- Translations of a ring's pages (R337). -/
def ringPages (t : Thread) (esz : Nat) (base : Word) : Nat → Nat → M (List Target)
  | 0, _ => pure []
  | n + 1, j => do
    let va := if j = 0 then base else (base &&& ~~~4095#64) + w64 (4096 * j)
    let tg ← translateM ⟨4, false, true, false, false, false, 2 ^ esz⟩ ⟨0, t.vlN, 0, esz, 0⟩ va
    let l ← ringPages t esz base n (j + 1)
    pure (tg :: l)

/-- Whether the core's port takes n writes (R91): all of them at once; or one after another, where nothing is in flight
and no page of theirs has replicas. -/
def State.appendRoom (s : State) (n : Nat) (pages : List Target) : Bool :=
  decide (s.outstanding s.coreNo + n ≤ 3072) ||
  (s.flights = [] && s.portFree && !pages.any fun t => s.holders t.pa != 0 || (s.collapsing t.pa).isSome)

/-- An append waits for that room. -/
def appendWait (n : Nat) (pages : List Target) : M Unit := fun s =>
  if s.appendRoom n pages then .ok () s
  else
    let s := s.drain
    if s.appendRoom n pages then .ok () s
    else .error (.wait .memory) (pages.foldl (fun s t => s.startCollapse t.pa) s)

/-- The address of the entry of an index in a ring. -/
def QHeader.entryVa (h : QHeader) (e : Nat) : Word := h.base + w64 (e % 2 ^ h.lcap * 2 ^ h.esz)

/-- The triggers against the entries that an append is to store, from index `e` on, the lowest element's first (R423).
One that traps does so before the reservation, with `vstart` 0 (R337). -/
def appendTriggers (t : Thread) (h : QHeader) : Nat → List Nat → M Unit
  | _, [] => pure ()
  | e, i :: l => do
    accessTrigger false true ⟨i, t.vlN - i, 0, h.esz, 0⟩ (h.entryVa e)
    appendTriggers t h (e + 1) l

/-- Entries written at their ring positions, from index `e`, each once the port has room for it. -/
def appendEntries (t : Thread) (h : QHeader) : Nat → List Nat → M Unit
  | _, [] => pure ()
  | e, v :: l => do
    let n := 2 ^ h.esz
    let va := h.entryVa e
    modS fun s => if s.portFree then s else s.drain
    let tg ← walkM ⟨4, false, true, false, false, false, n⟩ ⟨0, t.vlN, 0, h.esz, 0⟩ va
    noteAccess va
    writeM tg (bytesOfNat n v) none
    appendEntries t h (e + 1) l

/-- A queue of mode 1 or 2 is one that the queue hardware serves, from its first entries on, once an append has named
it (R171, R172, log 45); the stage of the appender feeds it (R170). -/
def State.noteHwQueue (s : State) (h : Head) (va : Word) (mode : Nat) : State :=
  let feeder : List (Nat × Nat) := match s.sq.bound with
    | some b => [(b.launch, b.stage)]
    | none => []
  if mode = 0 then s
  else if s.hwqs.any (fun k => k.header.pa = h.pa) then
    { s with hwqs := s.hwqs.map fun k =>
        if k.header.pa = h.pa then { k with feeders := k.feeders ++ feeder.filter fun f => !k.feeders.contains f } else k }
  else { s with hwqs := s.hwqs ++ [⟨h, va, s.sq.dxp, s.ctxNo, homeDie h.pa, 0, none, [], false, 0, feeder, []⟩] }

/-- `vcapp`. Nothing waits once the reservation is made: the ring's pages are translated before it, and there is room for
the writes' counts and in the core's port. -/
def execVcapp (d a b : BitVec 5) (fa fb : Bool) (s : State) : Host.Outcome State Fault Refusal :=
  run (do
    liftT (do
      notVill
      let t ← getT
      need (t.vstart = 0))
    let hv ← liftT (rx a fa)
    let base ← liftT (rx b fb)
    liftT (destX d)
    let (head, h) ← headerM hv false
    let s ← getS
    let t := s.th
    let pages ← ringPages t h.esz h.base ((h.base.toNat % 4096 + 2 ^ (h.lcap + h.esz) + 4095) / 4096) 0
    let l := t.activeElems
    if l ≠ [] then
      if 2 ^ h.lcap < (h.resv - h.free).toNat + l.length then
        modS fun s => s.setSq { s.sq with spaceWaited := true }
        waitM .space
      overdueCheck (l.length + 1)
      appendWait l.length pages
      appendTriggers t h h.resv.toNat l
      countM head offResv (h.resv + BitVec.ofNat 32 l.length) none
      appendEntries t h h.resv.toNat (l.map fun i => (base + w64 i).toNat % 2 ^ (8 * 2 ^ h.esz))
      modS fun s' =>
        let (id, s') := s'.fresh
        let r : Resv := ⟨id, head, h.resv.toNat, l.length, some s.cur.seq, s.cur.thr, s.dieNo, s'.front, h.threshold t,
          hv, s'.sq.dxp⟩
        let s' := ({ s' with resvs := s'.resvs ++ [r] }).noteHwQueue head hv h.mode
        if s'.sched.lazy then s' else s'.publishAll s'.resvs.length
    liftT (wx d (w64 l.length))
    pure .seq) s

/-! ## Freeing (R169) -/

/-- FREE advanced over freed ranges, each only after every earlier one, where its header can be read and written. -/
def State.advanceFree : Nat → State → State
  | 0, s => s
  | n + 1, s =>
    match s.freed.find? (fun c => s.countReady (homeDie c.header.pa) 0 c.header &&
        (s.header c.header).free = BitVec.ofNat 32 c.first) with
    | some c =>
      let (_, s) := s.setCount (homeDie c.header.pa) 0 c.header offFree (BitVec.ofNat 32 (c.first + c.count)) none
      State.advanceFree n { s with freed := s.freed.filter (· ≠ c) }
    | none => s

/-- Claimed ranges freed. A header whose page has replicas is waited for (R70). -/
def State.freeClaims (s : State) (l : List Claim) : State :=
  let s := { s with freed := s.freed ++ l }
  let s := s.advanceFree s.freed.length
  s.freed.foldl (fun s c => s.startCollapse c.header.pa) s

/-! ## Claims (R167, R168) -/

/-- Table 7.7. -/
def qnextWord (status count first : Nat) : Word := w64 (status <<< 62 ||| count <<< 32 ||| first % 2 ^ 32)

/-- The result of the thread's outstanding `qnext` lands in register `d`. -/
def State.qnextDone (s : State) (d : Nat) (v : Word) : State :=
  let s := s.setTh { s.th.fillX d v with pend := s.th.pend.filter fun p => !p.unbounded || p.isTicket }
  s.setSq { s.sq with shadow := none }

/-- Whether another instance of the current sequencer's stage is bound that is not leaving by a rebind: the balancer
never takes the last one (R179). -/
def State.notLast (s : State) : Bool :=
  s.seqs.any fun (q, v) => q ≠ s.cur.seq && v.bound = s.sq.bound && v.rebound = [] && v.saving.isNone

/-- The thread's outstanding `qnext` where it can complete: with work, end of stream or rebind (R168); none while it
waits. -/
def State.qnextLand (s : State) : Option State :=
  match s.th.pend.find? fun p => p.unbounded && !p.isTicket with
  | some (.claim d head va n) =>
    if s.sq.rebound.contains va.toNat then some (s.qnextDone d (qnextWord 2 0 0))
    else if !s.headReads head then none
    else
      let h := s.header head
      let take := min n h.avail
      if min n (h.threshold s.th) ≤ h.avail || (h.closed && 0 < h.avail) then
        let s := if s.countReady s.dieNo s.front head then s else s.drain
        if !s.countReady s.dieNo s.front head then none
        else
          let s := s.raise (s.line (lineOf head.pa)).stamp
          let (st, s) := s.setCount s.dieNo s.front head offHead (h.head + BitVec.ofNat 32 take) none
          let s := (s.raise st).setSq { s.sq with claims := s.sq.claims ++
            [⟨head, va, s.sq.dxp, h.head.toNat, take⟩] }
          some (s.qnextDone d (qnextWord 0 take h.head.toNat))
      else if h.closed then some ((s.raise (s.line (lineOf head.pa)).stamp).qnextDone d (qnextWord 1 0 0))
      else if s.sq.rebind && s.notLast then
        let s := s.setSq { s.sq with rebind := false, rebound := va.toNat :: s.sq.rebound }
        some (s.qnextDone d (qnextWord 2 0 0))
      else none
  | _ => none

/-- Headers of claimed ranges are where FREE can be written: no replica holds their page. One that fails is not waited for
(R22, R43; log 49). -/
def headersReady (p : Claim → Bool) : M Unit := fun s =>
  let ok (s : State) : Bool := s.sq.claims.all fun c =>
    !p c || s.headFails c.header || s.countReady (homeDie c.header.pa) 0 c.header
  if ok s then .ok () s
  else
    let s := s.drain
    if ok s then .ok () s
    else .error (.wait .memory) (s.sq.claims.foldl (fun s c => if p c then s.startCollapse c.header.pa else s) s)

/-- `qnext`: its destination is empty until the result lands, which may be at once. -/
def execQnext (d a b : BitVec 5) (fa fb : Bool) (s : State) : Host.Outcome State Fault Refusal :=
  run (do
    if d = 0 then liftT illegal
    notSplit
    let hv ← liftT (rx a fa)
    let n ← liftT (rx b fb)
    liftT (destX d)
    let s ← getS
    if s.th.claiming then waitM .memory
    let (head, h) ← headerM hv true
    if n.toNat = 0 ∨ min (2 ^ h.lcap) (2 ^ 30 - 1) < n.toNat then trapM 0x03
    headersReady fun c => c.header.pa = head.pa
    modS fun s =>
      let mine := s.sq.claims.filter (·.header.pa = head.pa)
      let s := (s.setSq { s.sq with claims := s.sq.claims.filter (·.header.pa ≠ head.pa) }).freeClaims mine
      let t := s.th
      let s := s.setSq { s.sq with shadow := some { t with wait := .none } }
      let s := s.setTh { t.emptyX d.toNat with pend := t.pend ++ [.claim d.toNat head hv n.toNat] }
      if s.sched.lazy then s else s.qnextLand.getD s
    pure .seq) s

/-! ## Membership of hardware barriers (R149, R150, R178) -/

/-- The unit of a level that holds a core: cores, quads, dies, the module. -/
def unitOf (level core : Nat) : Nat :=
  if level = 1 then core else if level = 2 then core / 4 else if level = 3 then core / 32 else 0

/-- The sequencers that are in use. -/
def State.seqList (s : State) : List (Nat × Seq) := (s.seqs.map (·.1)).eraseDups.map fun q => (q, s.seq q)

/-- An arrival of an instance in progress in a unit. An arrival with identity 0 is one whose instance has completed. -/
def Arrival.at_ (a : Arrival) (level unit : Nat) : Bool := a.level = level && a.unit = unit && a.id ≠ 0

/-- The members of a launch's barrier in a unit, bound or saved, and those that have arrived (R149, R150). -/
def State.members (s : State) (level unit launch : Nat) : Nat × Nat :=
  let one (core : Nat) (l : List Arrival) : Nat × Nat :=
    let here := l.any (·.at_ level unit)
    if here then (1, 1) else if unitOf level core = unit then (1, 0) else (0, 0)
  let add (a b : Nat × Nat) : Nat × Nat := (a.1 + b.1, a.2 + b.2)
  let bound := s.seqList.foldl (fun n (q, v) =>
    match v.bound with
    | some b => if b.launch = launch then add n (one (q / 4) v.arrivals) else n
    | none => n) (0, 0)
  s.saved.foldl (fun n c => if c.binding.launch = launch then add n (one c.core c.arrivals) else n) bound

/-- The identity of the instance in progress in a unit, if there is one. -/
def State.instance? (s : State) (level unit launch : Nat) : Option Nat :=
  let get (l : List Arrival) : Option Nat := (l.find? (·.at_ level unit)).map (·.id)
  match s.seqList.findSome? (fun (_, v) =>
    match v.bound with
    | some b => if b.launch = launch then get v.arrivals else none
    | none => none) with
  | some i => some i
  | none => s.saved.findSome? fun c => if c.binding.launch = launch then get c.arrivals else none

/-- The instance completes: every arrival is marked, and takes what each member had before its arrival (R122). -/
def State.completeBarrier (s : State) (level unit launch : Nat) : State :=
  let here (l : List Arrival) : List Arrival := l.filter (·.at_ level unit)
  let mine (v : Seq) : Bool := match v.bound with
    | some b => b.launch = launch
    | none => false
  let all := s.seqList.flatMap (fun (_, v) => if mine v then here v.arrivals else []) ++
    s.saved.flatMap fun c => if c.binding.launch = launch then here c.arrivals else []
  let front := all.foldl (fun f a => f.join a.front) (0 : Stamp)
  let mark (l : List Arrival) : List Arrival := l.map fun a => if a.at_ level unit then { a with id := 0, front } else a
  { s with
    seqs := s.seqs.map fun (q, v) => if mine v then (q, { v with arrivals := mark v.arrivals }) else (q, v),
    saved := s.saved.map fun c =>
      if c.binding.launch = launch then { c with arrivals := mark c.arrivals } else c }

/-- Every member has arrived, and there is one. -/
def State.barrierReady (s : State) (level unit launch : Nat) : Bool :=
  let n := s.members level unit launch
  decide (n.2 = n.1) && decide (n.2 ≠ 0)

/-- The completion test. A pod unit's instance also waits until the other modules with a member have reported, at a
moment that is free, where the module is one of a pod; its reports cross the peer links (R178, R434, log 15). -/
def State.testBarrier (s : State) (level unit launch : Nat) : State :=
  if !s.barrierReady level unit launch then s
  else if level = 5 && bit s.podctl 63 then
    let t := { s with free := s.free + 1 }.peerTraffic
    if Config.podReported s.free then t.completeBarrier level unit launch else t
  else s.completeBarrier level unit launch

/-- Instances in progress: level, unit, launch. -/
def State.barriersOpen (s : State) : List (Nat × Nat × Nat) :=
  let of (launch : Nat) (l : List Arrival) : List (Nat × Nat × Nat) :=
    l.filterMap fun a => if a.id = 0 then none else some (a.level, a.unit, launch)
  (s.seqList.flatMap (fun (_, v) => match v.bound with
    | some b => of b.launch v.arrivals
    | none => []) ++ s.saved.flatMap fun c => of c.binding.launch c.arrivals).eraseDups

/-- The completion test of every instance in progress, repeated after a change of membership (R150). -/
def State.testBarriers (s : State) : State := s.barriersOpen.foldl (fun s (l, u, n) => s.testBarrier l u n) s

/-! ## Leaving (R150, R169, R289) -/

/-- What a sequencer had issued and is still in progress no longer names it. -/
def State.disown (s : State) (q : Nat) : State :=
  let cs (l : List Command) : List Command := l.map fun c => if c.seq = some q then { c with seq := none } else c
  { s with
    cores := s.cores.map fun (k, c) => (k, { c with copyq := cs c.copyq }),
    dies := s.dies.map fun (k, d) =>
      (k, { d with
        walkq := cs d.walkq, fcvq := cs d.fcvq,
        fe := d.fe.map fun (j, f) => (j, { f with queue := cs f.queue }),
        dlq := d.dlq.map fun l => if l.seq = some q then { l with seq := none } else l }),
    graphs := s.graphs.map fun g => if g.seq = some q then { g with seq := none } else g,
    resvs := s.resvs.map fun r => if r.seq = some q then { r with seq := none } else r,
    flights := s.flights.map fun f => if f.seq = some q then { f with seq := none } else f }

/-- Generations that bound sequencers and save areas of a context record (R236). -/
def State.usesGen (s : State) (ctx : Nat) (u : BitVec 32) : Bool :=
  s.seqs.any (fun (_, v) =>
    (match v.bound with
      | some b => b.ctx = ctx
      | none => false) && !serialBelow u v.gen) ||
  s.saved.any (fun c => c.binding.ctx = ctx && !serialBelow u c.gen)

/-- The leaf of a page is removed (R236, R237). -/
def State.unmap (s : State) (dxp va : Word) : State :=
  match s.walkFrom dxp (va.toNat % 2 ^ 57) 4 (s.ppnAddr (fld dxp 63 60) (fld dxp 39 0) 0) with
  | .leaf _ at_ _ => s.physWrite at_ (dwordBytes 0) (some (s.slot (walkSlot dxp)).key)
  | _ => s

/-- The translations of a context's code are dropped, and the cached page translations (R236, R237). -/
def State.dropContext (s : State) (ctx : Nat) : State :=
  { s with cores := s.cores.map fun (k, v) => (k, { v with ring := v.ring.filter (fun r => r.ctx ≠ ctx), tlb := [] }) }

/-- Objects of a context that nothing needs any more: their pages are freed, and the translations made of them
dropped (R233, R236). -/
def State.reap (s : State) (ctx : Nat) : State :=
  let c := s.context ctx
  let gone (o : Object) : Bool :=
    match o.unloadedAt with
    | none => false
    | some u => !s.usesGen ctx u && !c.objects.any (fun p => p.unloadedAt.isNone && p.shares.any fun x => x.1 = o.handle)
  let dead := c.objects.filter gone
  if dead = [] then s
  else
    let s := dead.foldl (fun s o => o.pages.foldl (fun s va => s.unmap c.dxp va) s) s
    (s.setContext ctx { c with
      objects := c.objects.filter fun o => !gone o
      symbols := c.symbols.filter fun y => !dead.any fun o => o.handle = y.handle }).dropContext ctx

/-- The sequencer is unbound: claims freed, barriers left and tested again (R150), records withdrawn, registers discarded;
a share that a rebind freed is kept for the stage that asked (R396). -/
def State.unbind (s : State) (q : Nat) : State :=
  let s := match (s.die (q / 128)).balEn, (s.seq q).rebound, (s.seq q).rebindFor with
    | true, _ :: _, some (l, j) => { s with grants := s.grants ++ [(q / 4, (s.seq q).groups.toNat, l, j)] }
    | _, _, _ => s
  let (ctx, launch) := match (s.seq q).bound with
    | some b => (b.ctx, b.launch)
    | none => (64, 0)
  -- what the instance did is released to the launch's completion (R393)
  let front := s.frontier (q / 4)
  let s := { s with launches := s.launches.map fun (l : Launch) =>
      if l.id = launch then { l with front := l.front.join front } else l }
  let s := (s.freeClaims (s.seq q).claims).disown q
  let s := s.setDie (q / 128) { s.die (q / 128) with
    records := (s.die (q / 128)).records.filter fun r => match r.thread with
      | some (p, _) => p ≠ q
      | none => r.unit ≠ 312 + q }
  (({ s with
    seqs := s.seqs.filter (·.1 ≠ q),
    threads := s.threads.filter fun t => t.1 / 4 ≠ q }).reap ctx).testBarriers

/-- `exit`. -/
def execExit (s : State) : Host.Outcome State Fault Refusal :=
  run (do
    notSplit
    quietM
    headersReady fun _ => true
    modS fun s => s.unbind s.cur.seq
    pure .stay) s

end Sys2Proof.Machine
end

