-- ==== Sys2Proof/Machine/Engine.lean ====
section
/-! DEFINITION. The engines as parties (R60, R99, R120): their accesses, the units' queues, the issue of a command
(R366), tickets and errors (R366, R367), and completion records (R388). -/

namespace Sys2Proof.Machine

/-! ## Accesses of an engine -/

/-- Who an engine accesses memory for: its die, the core whose translations it may use, address space and level. -/
structure Party where
  die : Nat
  core : Nat
  dxp : Word
  level : Level
deriving DecidableEq, Repr

/-- What an engine works on: the module; its frontier as its accesses raise it; its progress; the frontier its writes are
stamped from (R120), and the join of their stamps; and the accesses made so far, of which `made` have been passed. -/
structure Eng where
  s : State
  front : Stamp
  n : Nat
  cap : Stamp
  wrote : Stamp
  past : List Nat
  made : Nat
deriving DecidableEq, Repr

/-- An engine with nothing made yet, under a frontier. -/
def Eng.start (s : State) (front : Stamp) : Eng := ⟨s, front, 0, front, 0, [], 0⟩

/-- How an engine's work ends early: with a code of Table 15.7, at a page fault, or because it must wait. -/
inductive EngExit where
  | code (n : Nat)
  | page (f : PageFault)
  | busy
deriving DecidableEq, Repr

abbrev E := EStateM EngExit Eng

def eState : E State := fun e => .ok e.s e
def eMod (f : State → State) : E Unit := fun e => .ok () { e with s := f e.s }
def eCount (n : Nat) : E Unit := fun e => .ok () { e with n := n }
def eEnd {α : Type} (c : Nat) : E α := throw (.code c)

/-- An access made once: an engine that goes on after a wait or a Retry takes what it gave before (R58). -/
def eOnce (act : E Nat) : E Nat := fun e =>
  match e.past[e.made]? with
  | some v => .ok v { e with made := e.made + 1 }
  | none =>
    match act e with
    | .ok v e' => .ok v { e' with past := e'.past ++ [v], made := e.made + 1 }
    | .error x e' => .error x e'

/-- Progress is counted: the accesses made so far are behind it. -/
def eForget : E Unit := fun e => .ok () { e with past := [], made := 0 }

/-- An engine's access translated (KIND 10 or 11). A non-canonical address is a page fault taken at once (R23, R54). -/
def eTarget (p : Party) (w : Bool) (rem : Nat) (va : Word) (size : Nat) : E Target := fun e =>
  let a : Acc := ⟨if w then 11 else 10, !w, w, false, false, false, size⟩
  if !canonical va then .error (.code 2) e
  else
    match e.s.xlate p.core p.dxp p.level a va with
    | (.ok t, s') => .ok t { e with s := s' }
    | (.wait, s') => .error .busy { e with s := s' }
    | (.page reason lvl, s') =>
      .error (.page ⟨va, if w then 11 else 10, if w then 0x0A else 0x09, 0, rem, 0, bitLen size - 1, lvl, reason,
        fld p.dxp 59 48, 0, 0⟩) { e with s := s' }
    | (.access, s') => .error (.code 3) { e with s := s' }

/-- The access of an engine's read within one line. A poisoned replica is an uncorrectable error (R71). -/
def eReadAt (p : Party) (rem : Nat) (va : Word) (n : Nat) : E (List Byte) := do
  let t ← eTarget p false rem va n
  fun e =>
    match t.place with
    | .host a => .ok (memBytes e.s.host a n) e
    | _ =>
      if e.s.poisoned p.die t.pa then .error (.code 7) e
      else
        match e.s.readLine p.die e.front t.pa n (e.s.slot t.slot).key t.pbmt with
        | none => .error .busy { e with s := e.s.drain }
        | some (bs, st, s') => .ok bs { e with s := s', front := st }

/-- The access of an engine's write within one line, stamped from the frontier captured at issue (R106, R120). -/
def eWriteAt (p : Party) (rem : Nat) (va : Word) (bs : List Byte) (rel : Option Nat) : E Unit := do
  let t ← eTarget p true rem va bs.length
  fun e =>
    match t.place with
    | .host a => .ok () { e with s := { e.s with host := memPutAll e.s.host (cellsAt a bs) } }
    | _ =>
      if e.s.poisoned p.die t.pa then .error (.code 7) e
      else if e.s.overdue p.die then .error .busy { e with s := e.s.drain }
      else
        let (st, s') := e.s.inject p.die e.cap t.pa bs (e.s.slot t.slot).key rel none
        .ok () { e with s := s', front := e.front.join st, wrote := e.wrote.join st }

/-- Bytes within one line read by an engine, once. -/
def eRead (p : Party) (rem : Nat) (va : Word) (n : Nat) : E (List Byte) := do
  let v ← eOnce (do let bs ← eReadAt p rem va n; pure (natOfBytes bs))
  pure (bytesOfNat n v)

/-- Bytes within one line written by an engine, once. -/
def eWrite (p : Party) (rem : Nat) (va : Word) (bs : List Byte) (rel : Option Nat) : E Unit := do
  let _ ← eOnce (do eWriteAt p rem va bs rel; pure 0)

/-- Bytes written and counted as done. -/
def ePut (p : Party) (rem : Nat) (va : Word) (bs : List Byte) (rel : Option Nat) : E Unit := do
  let _ ← eOnce (do
    eWriteAt p rem va bs rel
    fun e => .ok 0 { e with n := e.n + bs.length })

/-- Bytes read line by line; `after` bytes of the same work follow them. -/
def eReadAll (p : Party) (va : Word) (n : Nat) (after : Nat := 0) : E (List Byte) :=
  go n va n
where
  go : Nat → Word → Nat → E (List Byte)
    | 0, _, _ => pure []
    | fuel + 1, va, n =>
      if n = 0 then pure []
      else do
        let k := min n (128 - va.toNat % 128)
        let bs ← eRead p (n + after) va k
        let r ← go fuel (va + w64 k) (n - k)
        pure (bs ++ r)

/-- Bytes written line by line and counted as done; `after` bytes of the same work follow them. -/
def eWriteAll (p : Party) (va : Word) (bs : List Byte) (after : Nat := 0) : E Unit :=
  go bs.length va bs
where
  go : Nat → Word → List Byte → E Unit
    | 0, _, _ => pure ()
    | fuel + 1, va, bs =>
      if bs = [] then pure ()
      else do
        let k := min bs.length (128 - va.toNat % 128)
        ePut p (bs.length + after) va (bs.take k) none
        go fuel (va + w64 k) (bs.drop k)

/-- A dword read or written; `rem` bytes of the work remain with it. -/
def eDword (p : Party) (va : Word) (rem : Nat := 8) : E Word := do
  let bs ← eRead p rem va 8
  pure (w64 (natOfBytes bs))
def eSetDword (p : Party) (va v : Word) (rel : Option Nat) (rem : Nat := 8) : E Unit := eWrite p rem va (dwordBytes v) rel

/-- Whether every write that a frontier covers is applied at every die. -/
def State.appliedUnder (s : State) (front : Stamp) : Bool :=
  !s.flights.any (fun g => !serialBelow (front.comp g.die) (g.stamp.comp g.die)) &&
  (List.range 8).all fun e => !(s.die e).invals.any fun i => !serialBelow (front.comp i.origin) (i.stamp.comp i.origin)

/-- Every write of the engine is performed at `.pk` (R113, R138). -/
def eSettled : E Unit := fun e =>
  let s := if e.s.settled then e.s else e.s.drain
  if s.appliedUnder e.front then .ok () { e with s := s } else .error .busy { e with s := s }

/-- An operation on a bolt by an engine (R138): CODE 9 where the address is refused; a page fault goes to the pager. -/
def eBolt (p : Party) (va : Word) (op n : Nat) (rel : Option Nat) : E Nat := do
  if !canonical va || va.toNat % 16 ≠ 0 then eEnd 9
  eSettled
  eOnce (do
    let t ← (fun e =>
      match eTarget p true 16 va 16 e with
      | .error (.code _) e' => .error (.code 9) e'
      | r => r)
    fun e =>
      if !t.place.isMem then .error (.code 9) e
      else if e.s.poisoned p.die t.pa then .error (.code 7) e
      else if e.s.overdue p.die then .error .busy { e with s := e.s.drain }
      else
        let (id, st, s) := e.s.boltSend p.die e.cap t.pa ⟨op, n, 0, if op = 1 then e.wrote else e.front⟩
          (e.s.slot t.slot).key rel none
        .ok id { e with s := s, front := e.front.join st })

/-! ## The units: 0 to 255 copy engines by core, 256 + d walkers' copy channels, 264 + 4d + e frame engines, 296 + d
format-conversion engines -/

/-- The die of a unit. -/
def unitDie (u : Nat) : Nat :=
  if u < 256 then u / 32 else if u < 264 then u - 256 else if u < 296 then (u - 264) / 4 else (u - 296) % 8

/-- The core whose cached translations a unit shares. -/
def unitCore (u : Nat) : Nat := if u < 256 then u else 32 * unitDie u

def State.unitQueue (s : State) (u : Nat) : List Command :=
  if u < 256 then (s.core u).copyq
  else if u < 264 then (s.die (u - 256)).walkq
  else if u < 296 then (Sparse.get {} (s.die ((u - 264) / 4)).fe ((u - 264) % 4)).queue
  else (s.die (u - 296)).fcvq

def State.setUnitQueue (s : State) (u : Nat) (l : List Command) : State :=
  if u < 256 then s.setCore u { s.core u with copyq := l }
  else if u < 264 then s.setDie (u - 256) { s.die (u - 256) with walkq := l }
  else if u < 296 then
    let d := (u - 264) / 4
    let f := Sparse.get {} (s.die d).fe ((u - 264) % 4)
    s.setDie d { s.die d with fe := Sparse.set (s.die d).fe ((u - 264) % 4) { f with queue := l } }
  else s.setDie (u - 296) { s.die (u - 296) with fcvq := l }

/-- Commands a unit's queue holds (R366). -/
def unitDepth (u : Nat) : Nat := if u < 256 then 64 else 16

def unitCount : Nat := 304

/-- The party a command's accesses are made for. -/
def Command.party (c : Command) (u : Nat) : Party := ⟨unitDie u, unitCore u, c.dxp, c.level⟩

/-- The head of a unit's queue run: the command after it and the module. A page fault is to be recorded, or ends the
command where the die's fault queue is closed (R57, R60); after it, or after a wait, the command goes on from the
access it had reached. -/
def State.runHead (s : State) (u : Nat) (act : Command → E Command) : Option State :=
  match s.unitQueue u with
  | [] => none
  | c :: l =>
    if c.pagerStage ≠ 0 then none
    else
      let kept (c : Command) (e : Eng) : Command :=
        { c with front := e.front, done := e.n, wrote := e.wrote, past := e.past }
      match act c ⟨s, c.front, c.done, c.cap, c.wrote, c.past, 0⟩ with
      | .ok c' e => some (e.s.setUnitQueue u ({ kept c' e with past := [] } :: l))
      | .error (.code k) e =>
        some (e.s.setUnitQueue u ({ kept c e with code := some k, followDue := false, past := [] } :: l))
      | .error (.page f) e =>
        let c := kept c e
        if e.s.fqClosed (unitDie u) then
          some (e.s.setUnitQueue u ({ c with code := some (if c.code.isSome then 9 else 2), followDue := false } :: l))
        else some (e.s.setUnitQueue u ({ c with pagerStage := 1, fault := some f } :: l))
      | .error .busy e => some (e.s.setUnitQueue u (kept c e :: l))

/-! ## Issuing (R366) -/

/-- A descriptor read whole at the instruction, as an engine read under the thread (R366 step 3). -/
def descriptorM (va : Word) (align n : Nat) : M (List Byte) := do
  aligned va align
  go (n / 64) va
where
  go : Nat → Word → M (List Byte)
    | 0, _ => pure []
    | k + 1, va => do
      let v ← once (n / 64 - 1 - k) (do
        let t ← translateM ⟨10, true, false, false, false, false, 64⟩ ⟨0, 64 * (k + 1), 0, 3, 0⟩ va
        let bs ← (fun s =>
          match t.place with
          | .host a => .ok (memBytes s.host a 64) s
          | _ =>
            match poisonCheck t.pa s with
            | .error e s => .error e s
            | .ok _ s =>
              match s.readLine s.dieNo s.front t.pa 64 (s.slot t.slot).key t.pbmt with
              | none => .error (.wait .memory) s.drain
              | some (bs, st, s') => .ok bs (s'.raise st))
        pure (natOfBytes bs))
      let r ← go k (va + 64)
      pure (bytesOfNat 64 v ++ r)

/-- The ticket register marked empty, waiting for an identity. -/
def Thread.awaitTicket (t : Thread) (d id : Nat) : Thread :=
  if d = 0 then t else { t.emptyX d with pend := t.pend ++ [.ticket d id] }

/-- A command of the current thread. -/
def State.command (s : State) (kind : Nat) (desc : List Byte) (d id : Nat) (follow : Word) : Command :=
  { id, kind, desc, seq := some s.cur.seq, thr := s.cur.thr, ticket := d, pc := s.th.pc, front := s.front,
    dxp := s.sq.dxp, level := s.th.level, ctx := s.ctxNo, follow, frm := s.th.frm, queue := none, node := none,
    done := 0, code := none, followDue := kind = 1, pagerStage := 0, fault := none, record := 0, cap := s.front,
    wrote := 0, past := [] }

/-- A command issued to a unit, once its queue has room and no earlier arm is pending (Table 6.2). -/
def issueM (u kind : Nat) (desc : List Byte) (d : BitVec 5) (follow : Word) : M Flow := do
  armCheck
  let s ← getS
  if unitDepth u ≤ (s.unitQueue u).length then waitM .engine
  modS fun s =>
    let (id, s) := s.fresh
    let c := s.command kind desc d.toNat id follow
    (s.setUnitQueue u (s.unitQueue u ++ [c])).setTh (s.th.awaitTicket d.toNat id)
  pure .seq

/-! ## Tickets and errors (R366, R367, R407) -/

/-- The ticket of an identity written, in the thread that waits for it: its core acquires the command's writes. -/
def fillTicket (id : Nat) (v : Word) (front : Stamp) (s : State) : State :=
  let ticket (t : Thread) : Option Nat := t.pend.findSome? fun p => match p with
    | .ticket r i => if i = id then some r else none
    | _ => none
  let fill (t : Thread) : Thread := match ticket t with
    | some r => { t.fillX r v with pend := t.pend.filter (fun p => p ≠ .ticket r id) }
    | none => t
  s.threads.foldl (fun s (k, t) =>
    if (ticket t).isSome then (s.mapThread (k / 4) (k % 4) fill).raiseFrontier (k / 16) front else s) s

/-- The value of a command's ticket, or its error where it has none. A saved issuer receives it at its restore; one
that has exited leaves an error to the driver (event KIND 7), CORE naming the core whose copy engine ran the command. -/
def State.finishTicket (s : State) (id : Nat) (v : Word) (front : Stamp) (ticket : Nat) (err : Bool)
    (issuer : Option (Nat × Nat)) (die core : Nat) (pc : Word) : State :=
  if s.saved.any (fun c => c.tickets.any (fun t => t.2.2 = id)) then
    { s with results := s.results ++ [(id, v, err, pc, front)] }
  else if ticket ≠ 0 then fillTicket id v front s
  else if !err then s
  else
    match issuer with
    | some (q, t) =>
      s.mapThread q (s.issuerThread q t) fun t => { t with engineErrors := t.engineErrors ++ [(pc, v)] }
    | none => s.event 7 die core 0 v.toNat 0 pc 0

/-- Table 15.7. -/
def engineStatus (code done : Nat) : Word := w64 (code * 2 ^ 28 + min done 0x0FFFFFFF)

/-! ## Completion records (R388) -/

/-- The 16 bytes of a completion record written, INFO first, then the dword at 0x00 as a release at `.pk`. -/
def Completion.write (c : Completion) (p : Party) : E Unit := do
  let t ← eTarget p true 16 c.compl 16
  if !t.place.isMem && !(match t.place with | .host _ => true | _ => false) then eEnd 3
  eWrite p 8 (c.compl + 8) (dwordBytes c.info) none
  eWrite p 8 c.compl (dwordBytes (w64 (2 ^ 63 + c.status * 2 ^ 48))) (some 4)

/-- What is left of a completion is done as far as it can be: the record, or the event that it cannot be written, and
once its writes are performed the vector. One that is not done stays, with what it has written. -/
def State.completionGo (s : State) (c : Completion) : State :=
  let told (s : State) : State := if c.irq then s.raiseVector c.vec else s
  let later (s : State) (c : Completion) : State := { s with completions := s.completions ++ [c] }
  let seen (s : State) (front : Stamp) : State :=
    if s.appliedUnder front then told s else later s { c with wrote := some front }
  match c.wrote with
  | some front => seen s front
  | none =>
    if c.compl = 0 then told s
    else
      match c.write ⟨c.die, 32 * c.die, c.dxp, .supervisor⟩ (.start s.drain (s.die c.die).dispatcher) with
      | .ok _ e => seen (e.s.setDie c.die { e.s.die c.die with dispatcher := e.front }) e.front
      | .error .busy e => later e.s c
      | .error _ _ => told (s.event 9 c.die 0 0 c.status (w64 c.src) c.compl 0)

/-- Every completion that is not done goes on. -/
def State.completionsGo (s : State) : State := s.completions.foldl State.completionGo { s with completions := [] }

/-- Write a completion record and raise the vector. `src` is the queue number, or 0xFFFFFFFF. -/
def State.completeRecord (s : State) (die ctx : Nat) (compl : Word) (irq : Bool) (vec status : Nat) (info : Word)
    (src : Nat) : State := s.completionGo ⟨die, (s.context ctx).dxp, compl, irq, vec, status, info, src, none⟩

/-- A packet of a launch queue completes, its record under the tables of the context it began in: later packets of the
queue acquire it (R386). -/
def State.completePacket (s : State) (q : Nat) (idx : BitVec 32) (status : Nat) (info : Word) : State :=
  let k := s.queue q
  match k.begun.find? (fun b => b.1 = idx) with
  | none => s
  | some (_, ctx, bs) =>
    let h := dwordOf bs 0
    let s := s.completeRecord 0 ctx (dwordOf bs 8) (bit h 53) (fld h 42 32) status info q
    let k := s.queue q
    s.setQueue q { k with begun := k.begun.filter (fun b => b.1 ≠ idx), front := k.front.join (s.die 0).dispatcher }

end Sys2Proof.Machine
end

