-- ==== Sys2Proof/Machine/Verdict.lean ====
section
/-! DEFINITION. Verdict accumulation (0x3D): the monitor of R345 and R346, `vfmacv`, `vbound`, `vtraise` and `vfabr`
(R347 to R352). -/

namespace Sys2Proof.Machine

/-! ## The monitor (R345) -/

def Thread.verdKind (t : Thread) : Nat := fld t.vverd 1 0
def Thread.verdIdx (t : Thread) : Nat := fld t.vverd 3 2
def Thread.verdBreg (t : Thread) : Nat := fld t.vverd 8 4
/-- Terms of a check group. -/
def Thread.verdGroup (t : Thread) : Nat := 2 ^ (fld t.vverd 11 9 + 3)

/-- Threshold n, reset −∞ (Table 8.5). -/
def Thread.threshold (t : Thread) (n : Nat) : Nat := (Sparse.get 0xFF800000#64 t.vt n).toNat % 2 ^ 32

/-- `abandons(h, b)` of R345 for a kind and a threshold. -/
def abandons (kind thr h b : Nat) : Bool :=
  let u := (fAdd f32 3 h b).1
  if kind = 1 then (fLess f32 true u 0).1 = 1
  else if kind = 2 then (fLess f32 false u thr).1 = 1
  else false

/-- The ABN code of check j (R256). -/
def abnCode (j : Nat) : Nat := 0x7FAA0000 + min j 0xFFFF

/-- One more group of exact products added to sum and shadow (R348): the new pair and the flags. -/
def addGroup (prods : List FVal) (fl : Nat) (s h : Nat) : Nat × Nat × Nat :=
  let sv := f32.val s
  let hv := f32.val h
  let r := sumRound f32 0 (sv :: prods)
  let q := sumRound f32 3 (hv :: prods)
  (r.1, q.1, r.2 ||| fl ||| sv.nanFlags)

/-- The groups of R348 from g on: sum, shadow, flags. `grp` gives a group's products and their flags, none where it
has no active term; `ab` is the check. -/
def verdLoop (grp : Nat → Option (List FVal × Nat)) (ab : Nat → Nat → Bool) : Nat → Nat → Nat × Nat × Nat →
    Nat × Nat × Nat
  | 0, _, r => r
  | n + 1, g, (s, h, f) =>
    let (s', h', f') := match grp g with
      | some (ps, fl) => let r := addGroup ps fl s h; (r.1, r.2.1, f ||| r.2.2)
      | none => (s, h, f)
    if ab g h' then (abnCode g, abnCode g, f') else verdLoop grp ab n (g + 1) (s', h', f')

/-- Products of the active elements of group g, with the operands' flags; none where no element is active. -/
def Thread.verdTerms (t : Thread) (x y g : Nat) : Option (List FVal × Nat) :=
  let is := (List.range t.verdGroup).filterMap fun q =>
    let i := g * t.verdGroup + q
    if i < t.vlN && t.active i then some i else none
  if is = [] then none
  else
    let ps := is.map fun i => t.dotPair x y i
    let ms := ps.map fun p => p.1.mul p.2
    some (ms.map (·.1), ms.foldl (fun r p => r ||| p.2) (ps.foldl (fun r p => r ||| p.1.nanFlags ||| p.2.nanFlags) 0))

/-- `vfmacv` (R348, R352). An ABN shadow under a sum that is not abandoned is consumed with its flags. An empty va, vb or
BREG register is waited for, or traps, before S is looked at, although a sum already abandoned needs none of them
(DESIGN CHOICE, log 50). -/
def execVfmacv (d a b : BitVec 5) (fa fb : Bool) (s : State) : Host.Outcome State Fault Refusal :=
  run (do
    needFeature 9
    liftT (do
      vOk d
      let t ← getT
      if t.vn ≤ d.toNat + 1 then trapT 0x02 (w64 (d.toNat + 1))
      vOk a
      vOk b
      notVill
      if a.toNat = d.toNat ∨ a.toNat = d.toNat + 1 then trapT 0x02 (w64 a.toNat)
      if b.toNat = d.toNat ∨ b.toNat = d.toNat + 1 then trapT 0x02 (w64 b.toNat)
      if t.vn ≤ t.verdBreg ∨ t.verdBreg = d.toNat ∨ t.verdBreg = d.toNat + 1 then trapT 0x02 (w64 t.verdBreg)
      need (isFp t.etype || isTb t.etype)
      need (t.vstart = 0)
      let x ← rv a fa
      let y ← rv b fb
      let bg ← rvK t.verdBreg false
      let sv ← rvK d.toNat false
      let hv ← rvK (d.toNat + 1) false
      let s0 := elemAt 32 sv 0
      let h0 := elemAt 32 hv 0
      if isAbn f32 s0 then modT fun t => { t with vstart := 0 }
      else do
        let n := (t.vlN + t.verdGroup - 1) / t.verdGroup
        let thr := t.threshold t.verdIdx
        let f0 := if n = 0 then 0 else if isAbn f32 h0 && (List.range n).any (fun g => (t.verdTerms x y g).isSome)
          then fNV ||| fAB else 0
        let r := verdLoop (t.verdTerms x y) (fun g h => abandons t.verdKind thr h (elemAt 32 bg (g + 1))) n 0 (s0, h0, f0)
        modT fun t =>
          { (t.putElem d.toNat 32 0 r.1).putElem (d.toNat + 1) 32 0 r.2.1 with vstart := 0 }
        raiseX r.2.2)
    pure .seq) s

/-- The running sums of `vbound`, from element g − 1 down to 0: bits and flags. -/
def boundLoop (x : Nat) : Nat → Nat → Nat → Nat → Nat × Nat
  | 0, _, bits, fl => (bits, fl)
  | g + 1, r, bits, fl =>
    let e := elemAt 32 x g
    let m := if (f32.val e).isNan then e else e % 2 ^ 31
    let r' := (fAdd f32 3 r m).1
    boundLoop x g r' (setElem 32 bits g r') (fl ||| (f32.val e).nanFlags)

/-- `vbound` (R349). A NaN start value is a floating result as every other, so `vd[vl]` is canonical (R242). -/
def execVbound (d a b : BitVec 5) (fa fb : Bool) (s : State) : Host.Outcome State Fault Refusal :=
  run (do
    needFeature 9
    liftT (do
      vOk d
      vOk a
      notVill
      distinct d a
      let t ← getT
      need (t.etype = 10 && t.vstart = 0 && decide (t.vlN < t.nmax))
      let x ← rv a fa
      let y ← rx b fb
      destV d
      let r0 := y.toNat % 2 ^ 32
      let r := if (f32.val r0).isNan then f32.nan else r0
      let l := boundLoop x t.vlN r (setElem 32 (t.vreg d.toNat).bits.toNat t.vlN r) (f32.val r0).nanFlags
      modT fun t => { t.putV d.toNat 32 l.1 (t.vlN + 1) with vstart := 0 }
      raiseX l.2)
    pure .seq) s

/-- `vtraise` (R350). -/
def execVtraise (n : BitVec 2) (a : BitVec 5) (fa : Bool) (s : State) : Host.Outcome State Fault Refusal :=
  run (do
    needFeature 9
    liftT (do
      notVill
      let v ← rx a fa
      let x := v.toNat % 2 ^ 32
      let t ← getT
      let o := t.threshold n.toNat
      if (f32.val x).isNan then raiseX (f32.val x).nanFlags
      else
        let m := if (f32.val o).isNan then x else (fMinMax f32 true o x).1
        modT fun t => { t with vt := Sparse.set t.vt n.toNat (w64 m) })
    pure .seq) s

/-- `vfabr` (R351). -/
def execVfabr (d a : BitVec 5) (fa : Bool) (s : State) : Host.Outcome State Fault Refusal :=
  run (do
    needFeature 9
    liftT (do
      vOk d
      vOk a
      notVill
      let t ← getT
      need (t.etype = 8 || t.etype = 10)
      need (t.verdKind ≠ 0)
      let x ← rv a fa
      destV d
      moveLoop d fun i =>
        let e := elemAt t.ew x i
        some (if isAbn (fmtOf t.etype) e then
          (if t.verdKind = 1 then 0 else (fmtOf t.etype).inf true) else e))
    pure .seq) s

end Sys2Proof.Machine
end

