-- ==== Sys2Proof/Machine/Tiles.lean ====
section
/-! DEFINITION. Tiles: tile state, tile operations (0x40) and tile memory (0x41): R356 to R365, R437. -/

namespace Sys2Proof.Machine

/-! ## Tile state (R356, R357) -/

/-- Positive infinity in each of the 128 row bounds. -/
def infBounds : BitVec 4096 :=
  BitVec.ofNat 4096 ((List.range 128).foldl (fun r i => r + 0x7F800000 * 2 ^ (32 * i)) 0)

/-- A tile as `zzero` leaves it. -/
def Tile.zeroed : Tile := { rb := infBounds }

/-- Tile k: 0 to 31 by name, 32 + j shadow slot j. -/
def Seq.tileAt (q : Seq) (k : Nat) : Tile := Sparse.get Tile.zeroed q.tile k
def Seq.setTile (q : Seq) (k : Nat) (t : Tile) : Seq := { q with tile := Sparse.set q.tile k t }

/-- Named tiles of the share (Table 15.1). -/
def Seq.named (q : Seq) : Nat := q.tiles * 2 / 3

/-- Whether a tile is enabled. -/
def Seq.tileOn (q : Seq) (k : Nat) : Bool :=
  if k < 32 then decide (k < min q.zn q.named) else decide (k - 32 < q.zn - q.named)

/-- Rows of values and heads as naturals: +0 at and above VR (R356). -/
def Tile.zrow (t : Tile) (r : Nat) : Nat := if r < t.vr then (Sparse.get (0 : BitVec 4096) t.z r).toNat else 0
def Tile.hrow (t : Tile) (r : Nat) : Nat := if r < t.vr then (Sparse.get (0 : BitVec 4096) t.h r).toNat else 0

/-- VR raised to n where it is lower: the rows it then reaches are +0 (R356). -/
def Tile.grow (t : Tile) (n : Nat) : Tile :=
  if n ≤ t.vr then t
  else { t with vr := n, z := t.z.filter fun e => decide (e.1 < t.vr), h := t.h.filter fun e => decide (e.1 < t.vr) }

/-- A row's values, and its heads, written: VR rises over it (R356). -/
def Tile.setZ (t : Tile) (r v : Nat) : Tile :=
  let t := t.grow (r + 1)
  { t with z := Sparse.set t.z r (BitVec.ofNat 4096 v) }
def Tile.setH (t : Tile) (r v : Nat) : Tile :=
  let t := t.grow (r + 1)
  { t with h := Sparse.set t.h r (BitVec.ofNat 4096 v) }

/-- The tile dimension. -/
def tdim : Nat := 128

/-- Items 3 and 4 of R358. -/
def tileCfg : T Unit := do
  notVill
  let t ← getT
  need (decide (4096 ≤ t.vlmaxN))

/-- Item 8 of R358. -/
def tileStart : T Unit := do
  let t ← getT
  need (decide (t.startN ≤ tdim))

/-- Items 5 and 6 of R358 for the tiles named, and the wait for a follow-on command on one of them (R370). -/
def tilesOk : List Nat → M Unit
  | [] => fun s => if s.sq.zon then .ok () s else .error (.trap 0x0E 0 0 0) s
  | k :: ks => do
    tilesOk ks
    let s ← getS
    if !s.sq.tileOn k then trapM 0x0F (w64 k)

/-- A tile in use by a follow-on command is waited for (R370). -/
def tilesFree (ks : List Nat) : M Unit := fun s =>
  if ks.any s.sq.follow.contains then .error (.wait .engine) s else .ok () s

/-- The checks of R358 for an instruction that names tiles. -/
def tileChecks (ks : List Nat) (types : Nat → Bool) : M Unit := do
  liftT tileCfg
  tilesOk ks
  liftT (do
    let t ← getT
    need (types t.etype)
    tileStart)
  tilesFree ks

def isF32 (e : Nat) : Bool := e = 10
def anyType (_ : Nat) : Bool := true
def stepType (e : Nat) : Bool := isFp e || isTb e

/-- `zon`. -/
def execZon (a : BitVec 5) (fa : Bool) (s : State) : Host.Outcome State Fault Refusal :=
  run (do
    notSplit
    liftT tileCfg
    let n ← liftT (rx a fa)
    let s ← getS
    if n.toNat = 0 ∨ s.sq.tiles < n.toNat then trapM 0x03 n
    if s.sq.zon then trapM 0x03
    liftT tileStart
    modS fun s => s.setSq { s.sq with zon := true, zn := n.toNat, tile := [] }
    pure .seq) s

/-- `zoff`. -/
def execZoff (s : State) : Host.Outcome State Fault Refusal :=
  run (do
    notSplit
    liftT tileStart
    let s ← getS
    if s.sq.follow ≠ [] then waitM .engine
    if s.sq.zon then modS fun s => s.setSq { s.sq with zon := false, zn := 0, tile := [] }
    pure .seq) s

/-- `zzero`. -/
def execZzero (d : BitVec 5) (s : State) : Host.Outcome State Fault Refusal :=
  run (do
    tileChecks [d.toNat] anyType
    modS fun s => s.setSq (s.sq.setTile d.toNat Tile.zeroed)
    pure .seq) s

/-! ## Matrix steps (R359, R360) -/

/-- The value of step operand element i, of element bits `x i`, scaled by a bank for a tumbler type. -/
def stepVal (e gl : Nat) (bank : Option Nat) (x : Nat → Nat) (i : Nat) : FVal :=
  let v := elemVal e (x i)
  match bank with
  | some b => if isTb e then scaleVal (elemAt 8 b (i / gl)) v else v
  | none => v

/-- What a step works on: the K-depth, the mode, A and B, and the columns that take part. -/
structure Step where
  k : Nat
  mode : Nat
  a : Nat → FVal
  b : Nat → FVal
  cols : List Nat

/-- The pairs of products of element (r, c). -/
def Step.pairs (p : Step) (r c : Nat) : List (FVal × FVal) :=
  (List.range p.k).map fun t => (p.a (r * p.k + t), p.b (c * p.k + t))

/-- One row of a step: the row's bits and the flags. -/
def Step.row (p : Step) (r z : Nat) : Nat × Nat :=
  p.cols.foldl (fun (s : Nat × Nat) c =>
    let q := dotRound p.mode (p.pairs r c) (elemAt 32 s.1 c)
    (setElem 32 s.1 c q.1, s.2 ||| q.2)) (z, 0)

/-- Rows of a step: the tile and the flags. VR rises over every row that takes part. -/
def Step.rows (p : Step) (rows : List Nat) (t : Tile) : Tile × Nat :=
  rows.foldl (fun (s : Tile × Nat) r =>
    let q := p.row r (s.1.zrow r)
    (s.1.setZ r q.1, s.2 ||| q.2)) (t, 0)

/-- Rows from `vstart` that take part, and columns. -/
def Thread.stepRows (t : Thread) : List Nat := (List.range tdim).filter fun r => decide (t.startN ≤ r) && t.active r
def Thread.stepCols (t : Thread) : List Nat := (List.range tdim).filter t.cactive

/-- The step of the thread's operands: A from register bits, B from element bits. -/
def Thread.step (t : Thread) (mode x : Nat) (y : Nat → Nat) : Step :=
  ⟨kDepth t.etype, mode, stepVal t.etype t.blenN (some t.sca.toNat) (elemAt t.ew x),
    stepVal t.etype t.blenN (some t.scb.toNat) y, t.stepCols⟩

/-- `raise(tdim, f)`: a trapping flag leaves `vstart` at `tdim`; else it is cleared. -/
def raiseTile (f : Nat) : M Unit := do
  modS fun s => s.setTh { s.th with vstart := w64 tdim }
  liftT (fun t =>
    let t' := { t with fflags := t.fflags ||| w64 f }
    let tr := f &&& (t.ftrap.toNat % 64)
    if tr = 0 then .ok () { t' with vstart := 0 }
    else .error (.trap (if tr.testBit 5 then 0x11 else 0x10) 0 (w64 tdim) 0) t')

/-- A step on tile d. -/
def matrixStep (d : Nat) (x : Nat) (y : Nat → Nat) : M Flow := do
  let s ← getS
  let t := s.th
  let (z, f) := (t.step t.mode x y).rows t.stepRows (s.sq.tileAt d)
  modS fun s => s.setSq (s.sq.setTile d z)
  raiseTile f
  pure .seq

/-- `zmop`. -/
def execZmop (d a b : BitVec 5) (fa fb : Bool) (s : State) : Host.Outcome State Fault Refusal :=
  run (do
    liftT (do
      vOk a
      vOk b)
    tileChecks [d.toNat] stepType
    let x ← liftT (rv a fa)
    let y ← liftT (rv b fb)
    let s ← getS
    matrixStep d.toNat x (elemAt s.th.ew y)) s

/-- Bytes of the weight buffer and of the row buffer of a share (Table 4.4). -/
def Seq.wbufSize (q : Seq) : Nat := q.tiles * 32768 / 3
def Seq.rbufSize (q : Seq) : Nat := q.tiles * 4096 / 3

/-- One compressed group at an offset (Table 4.5): elements and the next offset; none past the end. -/
def expandGroup (buf : List Host.Cell) (size eb off : Nat) : Option (List Nat × Nat) :=
  if size < off + 4 then none
  else
    let m := natOfBytes (memBytes buf off 4)
    let len := popBelow m 32 * eb
    if size < off + 4 + len then none
    else
      some ((List.range 32).map fun j =>
          if m.testBit j then natOfBytes (memBytes buf (off + 4 + popBelow m j * eb) eb) else 0,
        off + 4 + (len + 3) / 4 * 4)

/-- Groups expanded from an offset: the elements and where the next group begins, or the offset of the group that
passes the end. -/
def expandStream (buf : List Host.Cell) (size eb : Nat) : Nat → Nat → Except Nat (List Nat × Nat)
  | 0, off => .ok ([], off)
  | n + 1, off =>
    match expandGroup buf size eb off with
    | none => .error off
    | some (xs, next) =>
      match expandStream buf size eb n next with
      | .ok (l, e) => .ok (xs ++ l, e)
      | .error e => .error e

/-- `zmopb`. -/
def execZmopb (d a b : BitVec 5) (fa fb : Bool) (s : State) : Host.Outcome State Fault Refusal :=
  run (do
    liftT (vOk a)
    tileChecks [d.toNat] stepType
    let x ← liftT (rv a fa)
    let off ← liftT (rx b fb)
    if off.toNat % 4 ≠ 0 then trapM 0x0C off
    let s ← getS
    match expandStream s.sq.wbuf s.sq.wbufSize (s.th.ew / 8) (4 * kDepth s.th.etype) off.toNat with
    | .error e => trapM 0x14 (w64 e)
    | .ok (l, _) => matrixStep d.toNat x fun i => l.toArray.getD i 0) s

/-! ## Monitored steps (R355, R362) -/

/-- Whether a row has an active column that is not abandoned. -/
def liveRow (cols : List Nat) (z : Nat) : Bool := cols.any fun c => !isAbn f32 (elemAt 32 z c)

/-- One row of a monitored step: values, heads, flags. -/
def Step.mrow (p : Step) (r z h : Nat) : Nat × Nat × Nat :=
  p.cols.foldl (fun (s : Nat × Nat × Nat) c =>
    if isAbn f32 (elemAt 32 s.1 c) then s
    else
      let ps := p.pairs r c
      let q := dotRound 0 ps (elemAt 32 s.1 c)
      let g := dotRound 3 ps (elemAt 32 s.2.1 c)
      (setElem 32 s.1 c q.1, setElem 32 s.2.1 c g.1, s.2.2 ||| q.2)) (z, h, 0)

/-- Rows of a monitored step. A row that is gated takes no part. -/
def Step.mrows (p : Step) (rows : List Nat) (t : Tile) : Tile × Nat :=
  rows.foldl (fun (s : Tile × Nat) r =>
    if p.cols ≠ [] && !liveRow p.cols (s.1.zrow r) then s
    else
      let q := p.mrow r (s.1.zrow r) (s.1.hrow r)
      ((s.1.setZ r q.1).setH r q.2.1, s.2 ||| q.2.2)) (t, 0)

/-- The check of R362 on the rows and columns that are active. A row it abandons an element of is written, so VR rises
over it (R356). -/
def monitorCheck (kind thr : Nat) (rows cols : List Nat) (t : Tile) : Tile :=
  let code := abnCode t.chk
  let t' := rows.foldl (fun (t : Tile) r =>
    let z := t.zrow r
    let h := t.hrow r
    let hit := cols.filter fun c => !isAbn f32 (elemAt 32 z c) &&
      abandons kind thr (elemAt 32 h c) (elemAt 32 t.rb.toNat r)
    if hit = [] then t
    else (t.setZ r (hit.foldl (fun z c => setElem 32 z c code) z)).setH r
      (hit.foldl (fun h c => setElem 32 h c code) h)) t
  { t' with chk := t.chk + 1 }

/-- Every active row of the tile is gated, and there is an active row. -/
def allGated (rows cols : List Nat) (t : Tile) : Bool :=
  rows ≠ [] && cols ≠ [] && rows.all fun r => !liveRow cols (t.zrow r)

/-- The whole of a monitored step on a tile. -/
def Thread.monitored (t : Thread) (p : Step) (z : Tile) : Tile × Nat :=
  let all := (List.range tdim).filter t.active
  if allGated all p.cols z then (z, 0)
  else
    let (z, f) := p.mrows t.stepRows z
    let z := { z with cnt := (z.cnt + p.k) % 2 ^ 32 }
    if t.verdKind ≠ 0 && z.cnt % t.verdGroup = 0 then
      (monitorCheck t.verdKind (t.threshold t.verdIdx) all p.cols z, f)
    else (z, f)

/-- `zmopv`. -/
def execZmopv (d a b : BitVec 5) (fa fb : Bool) (s : State) : Host.Outcome State Fault Refusal :=
  run (do
    needFeature 9
    liftT (do
      vOk a
      vOk b)
    tileChecks [d.toNat] stepType
    let x ← liftT (rv a fa)
    let y ← liftT (rv b fb)
    let s ← getS
    let t := s.th
    if t.startN < tdim then
      let (z, f) := t.monitored (t.step 0 x (elemAt t.ew y)) (s.sq.tileAt d.toNat)
      modS fun s => s.setSq (s.sq.setTile d.toNat z)
      raiseTile f
    else raiseTile 0
    pure .seq) s

/-- `zbnd`. -/
def execZbnd (d a : BitVec 5) (fa : Bool) (s : State) : Host.Outcome State Fault Refusal :=
  run (do
    needFeature 9
    liftT (vOk a)
    tileChecks [d.toNat] isF32
    let x ← liftT (rv a fa)
    modS fun s => s.setSq (s.sq.setTile d.toNat { s.sq.tileAt d.toNat with rb := BitVec.ofNat 4096 x })
    pure .seq) s

/-- `zabn`. -/
def execZabn (d a : BitVec 5) (s : State) : Host.Outcome State Fault Refusal :=
  run (do
    needFeature 9
    tileChecks [a.toNat] anyType
    let s ← getS
    let z := s.sq.tileAt a.toNat
    let n := ((List.range tdim).filter fun r => s.th.active r && liveRow s.th.stepCols (z.zrow r)).length
    liftT (wx d (w64 n))
    pure .seq) s

/-! ## Slice moves and swaps (R363, R364) -/

/-- The checks of a slice move: `vl` within the tile dimension; the index b. -/
def sliceIndex (k : Nat) (b : BitVec 5) (fb : Bool) : M Nat := do
  tileChecks [k] isF32
  liftT (do
    let t ← getT
    need (decide (t.vlN ≤ tdim)))
  let i ← liftT (rx b fb)
  if tdim ≤ i.toNat then trapM 0x0F i
  pure i.toNat

/-- `zrd`. -/
def execZrd (d a b : BitVec 5) (fb : Bool) (s : State) : Host.Outcome State Fault Refusal :=
  run (do
    liftT (vOk d)
    let r ← sliceIndex a.toNat b fb
    let s ← getS
    let z := (s.sq.tileAt a.toNat).zrow r
    liftT (do
      destV d
      moveLoop d fun i => some (elemAt 32 z i))
    pure .seq) s

/-- `zcd`. -/
def execZcd (d a b : BitVec 5) (fb : Bool) (s : State) : Host.Outcome State Fault Refusal :=
  run (do
    liftT (vOk d)
    let c ← sliceIndex a.toNat b fb
    let s ← getS
    let t := s.sq.tileAt a.toNat
    liftT (do
      destV d
      moveLoop d fun i => some (elemAt 32 (t.zrow i) c))
    pure .seq) s

/-- `zwr`. -/
def execZwr (d a b : BitVec 5) (fa fb : Bool) (s : State) : Host.Outcome State Fault Refusal :=
  run (do
    liftT (vOk a)
    let r ← sliceIndex d.toNat b fb
    let x ← liftT (rv a fa)
    modS fun s =>
      let t := s.th
      let is := (List.range t.vlN).filter fun i => decide (t.startN ≤ i) && t.active i
      let z := s.sq.tileAt d.toNat
      let put (row : Nat) : Nat := is.foldl (fun w i => setElem 32 w i (elemAt 32 x i)) row
      let s := if is = [] then s else
        s.setSq (s.sq.setTile d.toNat
          ((z.setZ r (put (z.zrow r))).setH r (put (z.hrow r))))
      s.setTh { s.th with vstart := 0 }
    pure .seq) s

/-- `zswap`. -/
def execZswap (d slot : BitVec 5) (s : State) : Host.Outcome State Fault Refusal :=
  run (do
    tileChecks [32 + slot.toNat, d.toNat] anyType
    modS fun s =>
      let q := s.sq
      s.setSq ((q.setTile d.toNat (q.tileAt (32 + slot.toNat))).setTile (32 + slot.toNat) (q.tileAt d.toNat))
    pure .seq) s

/-! ## Tile memory (R365) -/

/-- The address of row r under a form. -/
def Thread.rowAddr (t : Thread) (f : Form) (base : Word) (r : Nat) : Word :=
  match f with
  | .indexed xw => base + w64 (elemAt xw t.idx.toNat r)
  | _ => base + w64 r * (if t.vstride ≠ 0 then t.vstride else 512)

/-- What a fault record says of row r. -/
def Thread.rowElem (t : Thread) (f : Form) (r : Nat) : Elem :=
  ⟨r, t.vlN - r, (match f with | .indexed _ => 0 | _ => if t.vstride ≠ 0 then t.vstride else 512), 2, r⟩

/-- The column that a fault of a tile row names in `telem` (R365); a machine check names none (Table 17.1). -/
def atColumn {α : Type} (c : Nat) (a : M α) : M α := fun s =>
  match a s with
  | .error (.trap cause tv te ti) s' => .error (.trap cause tv (if cause = 0x3F then te else w64 c) ti) s'
  | .error (.page f) s' => .error (.page { f with telem := c }) s'
  | r => r

/-- A row's accesses, column by column from part p on, each performed once: the values of a load. -/
def tileRow (ld : Bool) (t : Thread) (f : Form) (base : Word) (z r : Nat) : Nat → List Nat → M (List (Nat × Nat))
  | _, [] => pure []
  | p, c :: cs => do
    let v ← once p (atColumn c (do
      let va := t.rowAddr f base r + w64 (4 * c)
      let tg ← elementAt (if ld then loadAcc 8 4 else storeAcc 9 4) (t.rowElem f r) va 4
      if ld then do
        let bs ← readM tg 4
        pure (natOfBytes bs)
      else do
        writeM tg (bytesOfNat 4 (elemAt 32 z c)) none
        pure 0))
    let l ← tileRow ld t f base z r (p + 1) cs
    pure ((c, v) :: l)

/-- A loaded row's columns put into a tile: values and heads, and VR. -/
def Tile.putRow (t : Tile) (r : Nat) (l : List (Nat × Nat)) : Tile :=
  let put (row : Nat) : Nat := l.foldl (fun w p => setElem 32 w p.1 p.2) row
  (t.setZ r (put (t.zrow r))).setH r (put (t.hrow r))

/-- A tile load or drain: rows from `vstart` to `vl`. -/
def tileMem (ld : Bool) (k : Nat) (a b : BitVec 5) (fa fb : Bool) (f : Form) : M Flow := do
  (match f with | .indexed _ => liftT (vOk b) | _ => pure ())
  tileChecks [k] isF32
  liftT (do
    let t ← getT
    need (decide (t.vlN ≤ tdim))
    match f with
    | .indexed xw => need (decide (xw ≤ 32) || decide (t.vlN ≤ t.vlmaxN / xw))
    | _ => pure ())
  let base ← liftT (rx a fa)
  liftT (takeIndex f b fb)
  let s ← getS
  let t := s.th
  eachElement t fun r => do
    let l ← tileRow ld t f base ((s.sq.tileAt k).zrow r) r 0 t.stepCols
    if ld then modS fun s => s.setSq (s.sq.setTile k ((s.sq.tileAt k).putRow r l))
  pure .seq

/-- `zld.s`. -/
def execZldS (d a : BitVec 5) (fa : Bool) (s : State) : Host.Outcome State Fault Refusal :=
  run (tileMem true d.toNat a 0 fa false .strided) s
/-- `zst.s`. -/
def execZstS (d a : BitVec 5) (fa : Bool) (s : State) : Host.Outcome State Fault Refusal :=
  run (tileMem false d.toNat a 0 fa false .strided) s
/-- `zld.x32`. -/
def execZldX32 (d a b : BitVec 5) (fa fb : Bool) (s : State) : Host.Outcome State Fault Refusal :=
  run (tileMem true d.toNat a b fa fb (.indexed 32)) s
/-- `zld.x`. -/
def execZldX (d a b : BitVec 5) (fa fb : Bool) (s : State) : Host.Outcome State Fault Refusal :=
  run (tileMem true d.toNat a b fa fb (.indexed 64)) s
/-- `zst.x32`. -/
def execZstX32 (d a b : BitVec 5) (fa fb : Bool) (s : State) : Host.Outcome State Fault Refusal :=
  run (tileMem false d.toNat a b fa fb (.indexed 32)) s
/-- `zst.x`. -/
def execZstX (d a b : BitVec 5) (fa fb : Bool) (s : State) : Host.Outcome State Fault Refusal :=
  run (tileMem false d.toNat a b fa fb (.indexed 64)) s
/-- `zld.s` naming a shadow slot. -/
def execZldSShadow (d a : BitVec 5) (fa : Bool) (s : State) : Host.Outcome State Fault Refusal :=
  run (tileMem true (32 + d.toNat) a 0 fa false .strided) s
/-- `zst.s` naming a shadow slot. -/
def execZstSShadow (d a : BitVec 5) (fa : Bool) (s : State) : Host.Outcome State Fault Refusal :=
  run (tileMem false (32 + d.toNat) a 0 fa false .strided) s
/-- `zld.x32` naming a shadow slot. -/
def execZldX32Shadow (d a b : BitVec 5) (fa fb : Bool) (s : State) : Host.Outcome State Fault Refusal :=
  run (tileMem true (32 + d.toNat) a b fa fb (.indexed 32)) s
/-- `zld.x` naming a shadow slot. -/
def execZldXShadow (d a b : BitVec 5) (fa fb : Bool) (s : State) : Host.Outcome State Fault Refusal :=
  run (tileMem true (32 + d.toNat) a b fa fb (.indexed 64)) s
/-- `zst.x32` naming a shadow slot. -/
def execZstX32Shadow (d a b : BitVec 5) (fa fb : Bool) (s : State) : Host.Outcome State Fault Refusal :=
  run (tileMem false (32 + d.toNat) a b fa fb (.indexed 32)) s
/-- `zst.x` naming a shadow slot. -/
def execZstXShadow (d a b : BitVec 5) (fa fb : Bool) (s : State) : Host.Outcome State Fault Refusal :=
  run (tileMem false (32 + d.toNat) a b fa fb (.indexed 64)) s

end Sys2Proof.Machine
end

