-- ==== Sys2Proof/Machine/Copy.lean ====
section
/-! DEFINITION. Copy commands and follow-on matrix commands (R368 to R370): `cpy`, `cpym`, and the steps in which the
copy engine and the walker's copy channel carry them out and complete them. -/

namespace Sys2Proof.Machine

/-! ## Issuing -/

/-- `cpy`. -/
def execCpy (d a : BitVec 5) (fa : Bool) (s : State) : Host.Outcome State Fault Refusal :=
  run (do
    let va ← liftT (rx a fa)
    liftT (destX d)
    let bs ← descriptorM va 128 128
    let s ← getS
    issueM s.coreNo 0 bs d 0) s

/-- `cpym`: TILE is checked at issue (R370), before the descriptor's address and its translation, an order that no rule
gives (DESIGN CHOICE, log 51). -/
def execCpym (d a b : BitVec 5) (fa fb : Bool) (s : State) : Host.Outcome State Fault Refusal :=
  run (do
    let va ← liftT (rx a fa)
    let f ← liftT (rx b fb)
    liftT (destX d)
    tilesOk [fld f 63 59]
    let bs ← descriptorM va 128 128
    let s ← getS
    let r ← issueM s.coreNo 1 bs d f
    modS fun s => s.setSq { s.sq with follow := s.sq.follow ++ [fld f 63 59] }
    pure r) s

/-! ## The descriptor (Table 15.8) -/

structure CopyDesc where
  src : Word
  dst : Word
  dkind : Nat
  esz : Nat
  bolten : Bool
  spod : Bool
  dpod : Bool
  bolt : Word
  /-- count, source stride, destination stride, innermost first -/
  levels : List (Nat × Int × Int)
deriving DecidableEq, Repr

/-- The descriptor, or none where a field is refused. `share`: a share's buffers may be named. -/
def CopyDesc.ofBytes (bs : List Byte) (share : Bool) : Option CopyDesc :=
  let h := dwordOf bs 16
  let nlev := fld h 57 55
  let dkind := fld h 63 60
  let lv (l : Nat) : Word × Word := (dwordOf bs (32 + 16 * l), dwordOf bs (40 + 16 * l))
  let used := (List.range 6).filter (fun l => decide (l < nlev))
  let ok := decide (1 ≤ nlev) && decide (nlev ≤ 6) && decide (dkind ≤ 2) && fld h 51 0 = 0 &&
    !(bit h 52 && dkind ≠ 0) && (share || dkind = 0) &&
    (List.range 6).all fun l =>
      if l < nlev then fld (lv l).1 15 0 ≠ 0 && fld (lv l).2 15 0 = 0 else (lv l).1 = 0 && (lv l).2 = 0
  if ok then
    some ⟨dwordOf bs 0, dwordOf bs 8, dkind, fld h 59 58, bit h 54, bit h 53, bit h 52, dwordOf bs 24,
      used.map fun l => (fld (lv l).1 15 0, sval 48 (fld (lv l).1 63 16), sval 48 (fld (lv l).2 63 16))⟩
  else none

/-- Tuples of a copy. -/
def CopyDesc.tuples (c : CopyDesc) : Nat := c.levels.foldl (fun n l => n * l.1) 1

/-- Source and destination offsets of tuple i, level 0 varying fastest. -/
def tupleOffsets : List (Nat × Int × Int) → Nat → Int × Int
  | [], _ => (0, 0)
  | (n, ss, ds) :: l, i =>
    let r := tupleOffsets l (i / n)
    let k : Int := ((i % n : Nat) : Int)
    (k * ss + r.1, k * ds + r.2)

/-- Least and greatest destination offset over all tuples. -/
def dstRange : List (Nat × Int × Int) → Int × Int
  | [] => (0, 0)
  | (n, _, ds) :: l =>
    let r := dstRange l
    let e : Int := ((n - 1 : Nat) : Int) * ds
    (min 0 e + r.1, max 0 e + r.2)

/-! ## Pod addresses (R121, R298, R369) -/

/-- Whether a pod address is this module's; none where the pod service refuses it. -/
def State.podHome (s : State) (va : Word) : Option Bool :=
  if fld va 63 62 ≠ 0 || bit va 56 || !bit s.podctl 63 then none
  else some (decide (fld va 61 57 = fld s.podctl 12 8))

/-- Bytes of an element from a pod address: another module's are a free value. Which peer ports are live is not asked:
whether the request reached its module is the same free value (DESIGN CHOICE, log 15). -/
def ePodRead (p : Party) (rem : Nat) (va : Word) (n : Nat) : E (List Byte) := do
  let s ← eState
  match s.podHome va with
  | none => eEnd 3
  | some true => eRead p rem (va &&& 0x00FFFFFFFFFFFFFF#64) n
  | some false =>
    let v ← eOnce (do
      eMod fun s => { s with free := s.free + 1, podOut := (w64 0x100, va) :: s.podOut }.peerTraffic
      if Config.podFails s.free then eEnd 3 else pure (Config.podReply s.free).toNat)
    pure (bytesOfNat n v)

/-- Bytes of an element to a pod address: a request to another module is logged; `ppmap` is not asked here either
(DESIGN CHOICE, log 15). -/
def ePodWrite (p : Party) (rem : Nat) (va : Word) (bs : List Byte) : E Unit := do
  let s ← eState
  match s.podHome va with
  | none => eEnd 3
  | some true => eWrite p rem (va &&& 0x00FFFFFFFFFFFFFF#64) bs none
  | some false =>
    let _ ← eOnce (do
      eMod fun s => { s with
        free := s.free + 1
        podOut := (w64 (natOfBytes bs), 0) :: (w64 0x101, va) :: s.podOut }.peerTraffic
      if Config.podFails s.free then eEnd 3 else pure 0)

/-! ## Running a copy (R369) -/

/-- Bytes into the issuing share's weight or row buffer: the valid extent rises (R84). -/
def Seq.putBuf (q : Seq) (dkind off : Nat) (bs : List Byte) : Seq :=
  if dkind = 1 then { q with wbuf := memPutAll q.wbuf (cellsAt off bs), wext := max q.wext (off + bs.length) }
  else { q with rbuf := memPutAll q.rbuf (cellsAt off bs), rext := max q.rext (off + bs.length) }

/-- The saved context whose ticket names a command. -/
def Saved.issued (v : Saved) (id : Nat) : Bool := v.tickets.any fun t => t.2.2 = id

/-- Bytes for a buffer of the issuing share: while the issuer is saved they wait for its restore (R407); one that has
left its share has no buffer (R408). -/
def State.fillBuf (s : State) (seq : Option Nat) (id dkind off : Nat) (bs : List Byte) : State :=
  match seq with
  | some q => s.setSeq q ((s.seq q).putBuf dkind off bs)
  | none =>
    let keep (v : Saved) : Saved := if v.issued id then { v with fills := v.fills ++ [(dkind, off, bs)] } else v
    { s with saved := s.saved.map keep }

/-- One tuple: `e.n` counts the bytes done. -/
def copyTuple (p : Party) (seq : Option Nat) (id : Nat) (c : CopyDesc) (i : Nat) : E Unit := do
  let n := 2 ^ c.esz
  let (so, eo) := tupleOffsets c.levels i
  let src := c.src + iword so
  let dst := c.dst + iword eo
  if src.toNat % n ≠ 0 || dst.toNat % n ≠ 0 then eEnd 4
  let rem := n * (c.tuples - i)
  let bs ← if c.spod then ePodRead p rem src n else eRead p rem src n
  if c.dkind ≠ 0 then eMod fun s => s.fillBuf seq id c.dkind dst.toNat bs
  else if c.dpod then ePodWrite p rem dst bs
  else eWrite p rem dst bs none
  eCount (n * (i + 1))
  eForget

def copyTuples (p : Party) (seq : Option Nat) (id : Nat) (c : CopyDesc) : Nat → Nat → E Unit
  | 0, _ => pure ()
  | k + 1, i => do
    copyTuple p seq id c i
    copyTuples p seq id c k (i + 1)

/-- The bytes of the buffer a command of a share fills: the partition of the share that holds its context, or held it
(R82). -/
def State.bufSize (s : State) (seq : Option Nat) (id dkind : Nat) : Nat :=
  let size (q : Seq) : Nat := if dkind = 1 then q.wbufSize else q.rbufSize
  match seq, s.saved.find? (·.issued id) with
  | some q, _ => size (s.seq q)
  | none, some v => size { tiles := 12 * popBelow v.groups.toNat 4 }
  | none, none => 524288

/-- Tuples that a copy makes in one step, so that no stamp falls 2^31 behind within it (R109). -/
def copyStep : Nat := 0x10000000

/-- The data part of a copy command: its accesses, from the tuple it had reached. A copy of more tuples goes on in the
next step. -/
def copyData (u : Nat) (c : Command) : E Command := do
  let s ← eState
  match CopyDesc.ofBytes c.desc (c.kind = 1 || (c.node.isNone && c.queue.isNone)) with
  | none => eEnd 1
  | some k =>
    if (k.spod || k.dpod) && !s.feature 18 then eEnd 6
    let size := s.bufSize c.seq c.id k.dkind
    let r := dstRange k.levels
    if k.dkind ≠ 0 && (decide ((k.dst.toNat : Int) + r.1 < 0) ||
        decide ((size : Int) < (k.dst.toNat : Int) + r.2 + (2 ^ k.esz : Nat))) then eEnd 5
    let i := c.done / 2 ^ k.esz
    copyTuples (c.party u) c.seq c.id k (min (k.tuples - i) copyStep) i
    pure (if k.tuples - i ≤ copyStep then { c with code := some 0 } else c)

/-- COPY_RUN: the copy engine (or the walker's copy channel) carries out the command at its head. The engine of a core
that has been retired still carries out what it holds: R21 says nothing of it (DESIGN CHOICE, log 49). -/
def execCopyRun (unit : Nat) (s : State) : Host.Outcome State Fault Refusal :=
  match s.unitQueue unit with
  | c :: _ =>
    if unit < 264 && c.code.isNone && c.pagerStage = 0 then
      match s.runHead unit (copyData unit) with
      | some s' => .next s'
      | none => .next s
    else .next s
  | [] => .next s

/-! ## Follow-on commands (R370) -/

/-- Fields of Table 15.9: tile, type, steps, row-buffer offset, weight-buffer offset; none where one is refused. -/
def followFields (f : Word) : Option (Nat × Nat × Nat × Nat × Nat) :=
  let e := fld f 58 55
  if e < 8 || 12 < e || fld f 54 48 ≠ 0 || fld f 47 32 = 0 || fld f 31 16 % 512 ≠ 0 then none
  else some (fld f 63 59, e, fld f 47 32, fld f 31 16, 8 * fld f 15 0)

/-- Steps of a follow-on: the tile, the flags, and the code it ends with. -/
def followSteps (q : Seq) (e mode : Nat) : Nat → Nat → Nat → Tile → Nat → Tile × Nat × Nat
  | 0, _, _, t, fl => (t, fl, 0)
  | n + 1, a, b, t, fl =>
    if q.rbufSize < a + 512 then (t, fl, 5)
    else
      match expandStream q.wbuf q.wbufSize (2 ^ ewLog e) (4 * kDepth e) b with
      | .error _ => (t, fl, 11)
      | .ok (l, b') =>
        let x := natOfBytes (memBytes q.rbuf a 512)
        let w := 8 <<< ewLog e
        let arr := l.toArray
        let p : Step := ⟨kDepth e, mode, stepVal e 1 none (elemAt w x), stepVal e 1 none (fun i => arr.getD i 0),
          List.range tdim⟩
        let r := p.rows (List.range tdim) t
        followSteps q e mode n (a + 512) b' r.1 (fl ||| r.2)

/-- The first element of a list removed once. -/
def dropOne (x : Nat) : List Nat → List Nat
  | [] => []
  | y :: l => if x = y then l else y :: dropOne x l

/-- What a follow-on does to its sequencer: the tile, VR 128; and the flags and the code. -/
def State.followRun (s : State) (c : Command) : State × Nat × Nat :=
  match c.seq with
  | none => (s, 0, 8)
  | some q =>
    let sq := s.seq q
    match followFields c.follow with
    | none => (s, 0, 1)
    | some (k, e, n, a, b) =>
      if isTb e && !s.feature 8 then (s, 0, 6)
      else if !sq.zon || !sq.tileOn k then (s, 0, 8)
      else
        let (t, fl, code) := followSteps sq e c.frm.toNat n a b (sq.tileAt k) 0
        let t := if code = 0 then t.grow 128 else t
        (s.setSeq q (sq.setTile k t), fl, code)

/-- FOLLOWON_RUN: once the copy has landed, the steps are made. A graph's command is not ordered against the
sequencer's tile instructions. The flags are kept in `frm`, its bit 63 set, until the
command completes. -/
def execFollowonRun (core : Nat) (s : State) : Host.Outcome State Fault Refusal :=
  match (s.core core).copyq with
  | c :: l =>
    if c.followDue && c.pagerStage = 0 && c.code = some 0 then
      let (s', fl, code) := s.followRun c
      .next (s'.setUnitQueue core ({ c with followDue := false, code := some code, frm := w64 (2 ^ 63 + fl) } :: l))
    else .next s
  | [] => .next s

/-! ## Completion (R366, R138) -/

/-- The bolt a command names, if any, and the bytes it counts. -/
def Command.boltBytes (c : Command) : Option (Word × Nat) :=
  if c.kind ≤ 1 then
    let h := dwordOf c.desc 16
    if bit h 54 then some (dwordOf c.desc 24, c.done) else none
  else
    let b := dwordOf c.desc (if c.kind = 2 then 0x38 else if c.kind = 4 then 0x48 else 0x58)
    if b = 0 || c.follow = 0 then none else some (b, c.follow.toNat)

/-- The bytes of a command that ended well added to its bolt (R138). -/
def countBytes (u : Nat) (c : Command) : E Command := do
  if c.code = some 0 then
    match c.boltBytes with
    | some (b, n) =>
      let done := c.done
      let _ ← eBolt (c.party u) b 1 n none
      eCount done
    | none => pure ()
  eSettled
  pure { c with followDue := false, pagerStage := 3 }

/-- The command gone from its queue: ticket, error, graph node or packet (R366, R367). -/
def State.retireCommand (s : State) (u : Nat) (c : Command) : State :=
  let st := engineStatus (c.code.getD 0) c.done
  let bad : Bool := decide (c.code.getD 0 ≠ 0)
  let s := match c.seq with
    | some q =>
      if c.kind = 1 && c.node.isNone then
        let s := s.setSeq q { s.seq q with follow := dropOne (fld c.follow 63 59) (s.seq q).follow }
        if bit c.frm 63 then
          s.mapThread q (s.issuerThread q c.thr) fun t => { t with fflags := t.fflags ||| (c.frm &&& 0x3F) }
        else s
      else s
    | none => s
  match c.node with
  | some (g, n) =>
    -- the walker acquires the node's writes (R147)
    let s := match s.graphs.find? (fun x => x.id = g) with
      | some x => s.setDie x.die { s.die x.die with walker := (s.die x.die).walker.join c.front }
      | none => s
    { s with graphs := s.graphs.map fun x => if x.id = g then { x with results := x.results ++ [(n, st.toNat, bad, 0)] }
      else x }
  | none =>
    match c.queue with
    | some q =>
      let s := s.setDie 0 { s.die 0 with dispatcher := (s.die 0).dispatcher.join c.front }
      s.completePacket q (BitVec.ofNat 32 c.ticket) (if bad then 16 else 0) st
    | none => s.finishTicket c.id st c.front c.ticket bad (c.seq.map fun q => (q, c.thr)) (unitDie u)
        (if u < 256 then u % 32 else 0) c.pc

/-- COPY_COMPLETE: a command whose accesses are made adds its bolt bytes, writes its ticket and leaves the queue. -/
def execCopyComplete (unit : Nat) (s : State) : Host.Outcome State Fault Refusal :=
  match s.unitQueue unit with
  | c :: _ =>
    if c.code.isSome && !c.followDue && c.pagerStage = 0 then
      match s.runHead unit (countBytes unit) with
      | none => .next s
      | some s' =>
        match s'.unitQueue unit with
        | c' :: l =>
          -- counted, or ended by an error of its bolt: else it waits, for the pager or for memory
          if c'.pagerStage = 3 || (c.code = some 0 && c'.code ≠ some 0) then
            .next ((s'.setUnitQueue unit l).retireCommand unit c')
          else .next s'
        | [] => .next s'
    else .next s
  | [] => .next s

end Sys2Proof.Machine
end

