-- ==== Sys2Proof/Machine/Frames.lean ====
section
/-! DEFINITION. Frame engines (R372 to R376): `frm.dec`, `frm.rsz`, opening and closing of stream contexts, decoding of
an access unit, and resizing with colour conversion. -/

namespace Sys2Proof.Machine

/-- `frm.dec`. -/
def execFrmDec (d a : BitVec 5) (fa : Bool) (s : State) : Host.Outcome State Fault Refusal :=
  run (do
    needFeature 11
    let va ← liftT (rx a fa)
    liftT (destX d)
    let bs ← descriptorM va 64 64
    let s ← getS
    issueM (264 + 4 * s.dieNo + fld (dwordOf bs 0) 1 0) 2 bs d 0) s

/-- `frm.rsz`. -/
def execFrmRsz (d a : BitVec 5) (fa : Bool) (s : State) : Host.Outcome State Fault Refusal :=
  run (do
    needFeature 11
    let va ← liftT (rx a fa)
    liftT (destX d)
    let bs ← descriptorM va 128 128
    let s ← getS
    issueM (264 + 4 * s.dieNo + fld (dwordOf bs 0) 1 0) 3 bs d 0) s

/-! ## Stream contexts (R372, Table 15.10) -/

def State.frame (s : State) (die eng : Nat) : FrameEngine := Sparse.get {} (s.die die).fe eng
def State.setFrame (s : State) (die eng : Nat) (f : FrameEngine) : State :=
  s.setDie die { s.die die with fe := Sparse.set (s.die die).fe eng f }

/-- OP, CTX, NEWSEQ, CODEC of a decode descriptor; none where a field is refused. -/
def frameFields (bs : List Byte) : Option (Nat × Nat × Nat × Nat) :=
  let h := dwordOf bs 0
  if fld h 63 12 ≠ 0 || fld h 3 2 ≠ 0 || fld h 11 10 = 3 || fld h 8 7 = 3 || (dwordOf bs 0x30).toNat % 8 ≠ 0 then none
  else some (fld h 11 10, fld h 6 4, fld h 9 9, fld h 8 7)

def FrameEngine.ctx (f : FrameEngine) (c : Nat) : Option FrameCtx := (f.ctxs.find? (fun x => x.1 = c)).map (·.2)

def up64 (n : Nat) : Nat := (n + 63) / 64 * 64

/-- Opening (R372). -/
def openCtx (die eng : Nat) (c : Command) : E Command := do
  let s ← eState
  match frameFields c.desc with
  | none => eEnd 1
  | some (_, k, _, codec) =>
    if !(s.frame die eng).live then eEnd 7
    let m := dwordOf c.desc 8
    let len := dwordOf c.desc 0x10
    let w := fld (dwordOf c.desc 0x28) 63 48
    let h := fld (dwordOf c.desc 0x28) 47 32
    if m.toNat % 4096 ≠ 0 || decide (len.toNat < 9 * up64 w * up64 h * 3) then eEnd 1
    eMod fun s =>
      let f := s.frame die eng
      s.setFrame die eng { f with ctxs := (k, ⟨codec, m, len, w, h, []⟩) :: f.ctxs.filter (fun x => x.1 ≠ k) }
    pure { c with code := some 0 }

/-- Closing. -/
def closeCtx (die eng : Nat) (c : Command) : E Command := do
  let s ← eState
  match frameFields c.desc with
  | none => eEnd 1
  | some (_, k, _, _) =>
    if !(s.frame die eng).live then eEnd 7
    if ((s.frame die eng).ctx k).isNone then eEnd 12
    eMod fun s =>
      let f := s.frame die eng
      s.setFrame die eng { f with ctxs := f.ctxs.filter (fun x => x.1 ≠ k) }
    pure { c with code := some 0 }

/-- Rows of bytes written a pitch apart; `after` bytes of the same work follow them. -/
def writeRows (p : Party) (pitch after : Nat) : Word → List (List Byte) → E Unit
  | _, [] => pure ()
  | va, r :: rs => do
    eWriteAll p va r (rs.foldl (fun n x => n + x.length) after)
    writeRows p pitch after (va + w64 pitch) rs

/-- Single bytes written. -/
def writeCells (p : Party) : List (Word × Byte) → E Unit
  | [] => pure ()
  | (va, b) :: l => do
    ePut p (l.length + 1) va [b] none
    writeCells p l

/-- Bytes of the context memory, which are not counted as done. -/
def writeContext (p : Party) (base : Word) : List (Nat × Byte) → E Unit
  | [] => pure ()
  | (o, b) :: l => do
    eWrite p (l.length + 1) (base + w64 o) [b] none
    writeContext p base l

/-- Blocks of the context memory read. -/
def readContext (p : Party) (base : Word) (len : Nat) : List Nat → E (List Byte)
  | [] => pure []
  | i :: l => do
    let bs ← if 128 * (i + 1) ≤ len then eRead p (128 * (l.length + 1)) (base + w64 (128 * i)) 128 else pure []
    let r ← readContext p base len l
    pure (bs ++ r)

/-- Largest frame of Table 15.11. -/
def frameLimit (codec : Nat) : Nat × Nat :=
  if codec = 0 then (4096, 2304) else if codec = 1 then (8192, 4320) else (8192, 4352)

/-- The reasons of Table 15.12 for which an access unit could not be decoded, as they apply. -/
def frameReasons (x : FrameCtx) (newseq : Nat) (o : Config.FrameOut) : List Nat :=
  let lim := frameLimit x.codec
  let beyond := !o.profile || decide (lim.1 < o.width ∨ lim.2 < o.height ∨ x.maxw < o.width ∨ x.maxh < o.height) ||
    (o.ten && x.codec = 0) || decide (x.len.toNat < 9 * up64 o.width * up64 o.height * 3)
  (if o.badSyntax then [1] else []) ++ (if o.missing then [2] else []) ++ (if beyond then [3] else []) ++
    if newseq = 1 && !o.access then [4] else []

/-- A row of samples as bytes: 8-bit bytes, or 16-bit little-endian halves with the sample in bits 15:6 (R372). -/
def sampleRow (ten : Bool) (samples : List Nat) (start n : Nat) : List Byte :=
  (List.range n).flatMap fun x =>
    let v := samples.getD (start + x) 0
    if ten then bytesOfNat 2 (v % 1024 * 64) else [BitVec.ofNat 8 v]

/-- The rows of a plane of `rows` rows of `n` samples: those of a pair of fields are interleaved (R372). -/
def planeRows (ten fields : Bool) (samples : List Nat) (rows n : Nat) : List (List Byte) :=
  (List.range rows).map fun y =>
    sampleRow ten samples ((if fields then y % 2 * ((rows + 1) / 2) + y / 2 else y) * n) n

/-- What a decoder's answer leaves (R373): context memory and planes, then the status word, once the planes are
performed. -/
def decodeStore (die eng k newseq pitch : Nat) (c : Command) (x : FrameCtx) (bs : List Byte) (o : Config.FrameOut) :
    E Command := do
  let p := c.party (264 + 4 * die + eng)
  let reasons := frameReasons x newseq o
  let err : Bool := reasons ≠ []
  let noout := err || (!o.shown && x.codec = 2) || (o.firstField && x.codec = 0)
  let outY := dwordOf c.desc 0x18
  let outC := dwordOf c.desc 0x20
  writeContext p x.mem (o.mem.filter fun m => m.1 < x.len.toNat)
  if err then
    let inside (d : Bool × Nat × Nat × Byte) : Bool :=
      if d.1 then d.2.1 < (x.maxh + 1) / 2 && d.2.2.1 < 4 * ((x.maxw + 1) / 2)
      else d.2.1 < x.maxh && d.2.2.1 < 2 * x.maxw
    writeCells p ((o.damage.filter inside).map fun d =>
      ((if d.1 then outC else outY) + w64 (d.2.1 * pitch + d.2.2.1), d.2.2.2))
  else if !noout then
    let chroma := planeRows o.ten o.fields o.chroma ((o.height + 1) / 2) (2 * ((o.width + 1) / 2))
    writeRows p pitch (chroma.foldl (fun n r => n + r.length) 8) outY
      (planeRows o.ten o.fields o.luma o.height o.width)
    writeRows p pitch 8 outC chroma
  eSettled
  ePut p 8 (dwordOf c.desc 0x30) (dwordBytes (w64 (2 ^ 63 + (if err then 2 ^ 62 else 0) +
    (if noout then 2 ^ 61 else 0) + reasons.getD (o.pick % reasons.length) 0 * 2 ^ 48 + o.order.toNat))) none
  eMod fun s =>
    let f := s.frame die eng
    s.setFrame die eng { f with
      fecnt := if err then f.fecnt else f.fecnt + 1
      feerr := if err then f.feerr + 1 else f.feerr
      ctxs := (k, { x with history := x.history ++ [bs] }) :: f.ctxs.filter (fun y => y.1 ≠ k) }
  fun e => .ok { c with code := some 0, follow := w64 e.n } e

/-- One access unit (R373): bitstream and context memory read, and what the decoder answers stored. -/
def decodeUnit (die eng : Nat) (c : Command) : E Command := do
  let s ← eState
  match frameFields c.desc with
  | none => eEnd 1
  | some (_, k, newseq, _) =>
    if !(s.frame die eng).live then eEnd 7
    let pitch := fld (dwordOf c.desc 0x28) 31 0
    if pitch % 64 ≠ 0 then eEnd 1
    match (s.frame die eng).ctx k with
    | none => eEnd 12
    | some x =>
      let p := c.party (264 + 4 * die + eng)
      let bs ← eReadAll p (dwordOf c.desc 8) (dwordOf c.desc 0x10).toNat
      let ctx ← readContext p x.mem x.len.toNat (Config.frameReads [x.codec, newseq] x.history bs)
      decodeStore die eng k newseq pitch c x bs (Config.frameDecode [x.codec, newseq] x.history ctx bs)

/-- The head command of a frame engine run, where it is of the kind and operation asked for. -/
def State.frameStep (s : State) (die eng : Nat) (want : Command → Bool) (act : Command → E Command) : State :=
  let u := 264 + 4 * (die % 8) + eng % 4
  match s.unitQueue u with
  | c :: _ => if c.code.isNone && c.pagerStage = 0 && want c then (s.runHead u act).getD s else s
  | [] => s

/-- FRAME_OPEN. -/
def execFrameOpen (die eng : Nat) (s : State) : Host.Outcome State Fault Refusal :=
  .next (s.frameStep die eng (fun c => c.kind = 2 && fld (dwordOf c.desc 0) 11 10 = 1) (openCtx (die % 8) (eng % 4)))
/-- FRAME_DECODE: an operation code that is refused ends here too. -/
def execFrameDecode (die eng : Nat) (s : State) : Host.Outcome State Fault Refusal :=
  .next (s.frameStep die eng (fun c => c.kind = 2 && fld (dwordOf c.desc 0) 11 10 ∉ [1, 2])
    (decodeUnit (die % 8) (eng % 4)))
/-- FRAME_CLOSE. -/
def execFrameClose (die eng : Nat) (s : State) : Host.Outcome State Fault Refusal :=
  .next (s.frameStep die eng (fun c => c.kind = 2 && fld (dwordOf c.desc 0) 11 10 = 2) (closeCtx (die % 8) (eng % 4)))

/-! ## Resize and colour conversion (R375, R376): exact integers over fixed denominators -/

structure Resize where
  planar : Bool
  tb8 : Bool
  full : Bool
  bt709 : Bool
  area : Bool
  ten : Bool
  srcY : Word
  srcC : Word
  sw : Nat
  sh : Nat
  spitch : Nat
  cx : Nat
  cy : Nat
  cw : Nat
  ch : Nat
  ow : Nat
  oh : Nat
  opitch : Nat
  out : Word
  status : Word
  mean : List Nat
  scale : List Nat
deriving DecidableEq, Repr

/-- Table 15.14, or none where a field is refused. -/
def Resize.ofBytes (bs : List Byte) : Option Resize :=
  let h := dwordOf bs 0
  let d (o : Nat) : Word := dwordOf bs o
  let r : Resize := {
    planar := !bit h 9, tb8 := bit h 8, full := bit h 7, bt709 := bit h 6, area := bit h 5, ten := bit h 4
    srcY := d 8, srcC := d 0x10, sw := fld (d 0x18) 63 48, sh := fld (d 0x18) 47 32, spitch := fld (d 0x18) 31 0
    cx := fld (d 0x20) 63 48, cy := fld (d 0x20) 47 32, cw := fld (d 0x20) 31 16, ch := fld (d 0x20) 15 0
    ow := fld (d 0x28) 63 48, oh := fld (d 0x28) 47 32, opitch := fld (d 0x28) 31 0, out := d 0x30, status := d 0x38
    mean := [fld (d 0x40) 31 0, fld (d 0x40) 63 32, fld (d 0x48) 31 0]
    scale := [fld (d 0x48) 63 32, fld (d 0x50) 31 0, fld (d 0x50) 63 32] }
  let zero := (List.range 5).all fun i => d (0x58 + 8 * i) = 0
  if fld h 63 10 = 0 && fld h 3 2 = 0 && zero && decide (1 ≤ r.cw) && decide (1 ≤ r.ch) &&
      decide (r.cx + r.cw ≤ r.sw) && decide (r.cy + r.ch ≤ r.sh) && decide (1 ≤ r.ow) && decide (r.ow ≤ 8192) &&
      decide (1 ≤ r.oh) && decide (r.oh ≤ 8192) && r.status.toNat % 8 = 0 then some r else none

/-- Bytes of a sample, and its value. -/
def Resize.sb (r : Resize) : Nat := if r.ten then 2 else 1
def Resize.sample (r : Resize) (bs : List Byte) (i : Nat) : Nat :=
  let v := natOfBytes ((bs.drop (r.sb * i)).take r.sb)
  if r.ten then v / 64 else v

/-- Chroma samples in each direction. -/
def Resize.cwid (r : Resize) : Nat := (r.sw + 1) / 2
def Resize.chgt (r : Resize) : Nat := (r.sh + 1) / 2

/-- Constants: luma offset and range, chroma offset and range; Kr, Kb and 1 over a common denominator. -/
def Resize.y0 (r : Resize) : Int := if r.full then 0 else if r.ten then 64 else 16
def Resize.yd (r : Resize) : Int :=
  if r.full then (if r.ten then 1023 else 255) else if r.ten then 219 * 4 else 219
def Resize.c0 (r : Resize) : Int := if r.ten then 512 else 128
def Resize.cd (r : Resize) : Int :=
  if r.full then (if r.ten then 1023 else 255) else if r.ten then 224 * 4 else 224
def Resize.kr (r : Resize) : Int := if r.bt709 then 2126 else 2990
def Resize.kb (r : Resize) : Int := if r.bt709 then 722 else 1140
def Resize.kk : Int := 10000

/-- Denominator of a channel value. -/
def Resize.den (r : Resize) : Int := r.yd * Resize.kk * 8 * r.cd * (Resize.kk - r.kr - r.kb)

/-- A chroma component at a luma position, times 8 (R376 step 1): bilinear, edges clamped. `c j i` is sample (i, j). -/
def Resize.chroma8 (r : Resize) (c : Nat → Nat → Nat) (x y : Nat) : Int :=
  let i0 := x / 2
  let i1 := min (i0 + 1) (r.cwid - 1)
  let fx := x % 2
  let q : Int := 2 * (y : Int) - 1
  let j0 : Int := q / 4
  let fy := (q % 4).toNat
  let cl (j : Int) : Nat := min j.toNat (r.chgt - 1)
  let row (j : Nat) : Nat := (2 - fx) * c j i0 + fx * c j i1
  (((4 - fy) * row (cl j0) + fy * row (cl (j0 + 1)) : Nat) : Int)

/-- The three channels of a luma position as numerators over `den`, clamped to 0 and 1 (R376 steps 2 and 3). -/
def Resize.rgb (r : Resize) (luma : Nat → Nat → Nat) (cb cr : Nat → Nat → Nat) (x y : Nat) : List Int :=
  let k := Resize.kk
  let g := k - r.kr - r.kb
  let yn := ((luma y x : Nat) : Int) - r.y0
  let ny := yn * k * 8 * r.cd
  let nr := ny + 2 * (k - r.kr) * (r.chroma8 cr x y - 8 * r.c0) * r.yd
  let nb := ny + 2 * (k - r.kb) * (r.chroma8 cb x y - 8 * r.c0) * r.yd
  let ng := k * ny - r.kr * nr - r.kb * nb
  [nr * g, ng, nb * g].map fun v => max 0 (min r.den v)

/-- Positions and weights along one axis for output index o: source indexes, and the sum of the weights (R376 step 4). -/
def Resize.taps (r : Resize) (start len out o : Nat) : List (Nat × Nat) × Nat :=
  if r.area then
    let lo := start * out + o * len
    let hi := lo + len
    ((List.range ((hi + out - 1) / out - lo / out)).map fun t =>
      let i := lo / out + t
      (i, min hi ((i + 1) * out) - max lo (i * out)), len)
  else
    let d : Int := 2 * (out : Int)
    let p : Int := d * start + (2 * (o : Int) + 1) * len - out
    let p := max (d * start) (min (d * ((start + len - 1 : Nat) : Int)) p)
    let i := (p / d).toNat
    let f := (p % d).toNat
    ((i, 2 * out - f) :: (if f = 0 then [] else [(i + 1, f)]), 2 * out)

/-- (v − MEAN) × SCALE of v = n / d, exact up to a lowest bit that stands for what is cut (R376 step 5). -/
def normalise (n d : Int) (mean scale : Nat) : FVal :=
  let m := f32.val mean
  let s := f32.val scale
  match m with
  | .nan a b => .nan a b
  | .inf x => ((FVal.inf (!x)).mul s).1
  | .num neg mm e =>
    let k : Nat := if e < 0 then (-e).toNat else 0
    let a : Int := n * 2 ^ k - (if neg then -(mm : Int) else (mm : Int)) * d * 2 ^ (e + k).toNat
    match s with
    | .num sn sm se =>
      let num := a.natAbs * sm
      if num = 0 then .num false 0 0
      else
        let (q, h) := quot num d.toNat (se - k)
        .num ((decide (a < 0)) != sn) q h
    | v => ((FVal.num (decide (a < 0)) a.natAbs 0).mul v).1

/-- An output element's bits. -/
def Resize.element (r : Resize) (px : Nat → Nat → List Int) (ch x y : Nat) : Nat :=
  let (xs, sx) := r.taps r.cx r.cw r.ow x
  let (ys, sy) := r.taps r.cy r.ch r.oh y
  let v : Int := ys.foldl (fun a (j, wy) => xs.foldl (fun a (i, wx) => a + (wx * wy : Nat) * (px j i).getD ch 0) a) 0
  let f := normalise v (r.den * ((sx * sy : Nat) : Int)) (r.mean.getD ch 0) (r.scale.getD ch 0)
  if r.tb8 then (tbEnc false f).1
  else
    match f with
    | .nan _ _ => bf16.nan
    | .inf n => bf16.inf n
    | .num n m e => (bf16.round 0 n m e).1

def Resize.w (r : Resize) : Nat := if r.tb8 then 1 else 2

/-- Address of an output element. -/
def Resize.addr (r : Resize) (ch x y : Nat) : Word :=
  if r.planar then r.out + w64 ((ch * r.oh + y) * r.opitch + x * r.w)
  else r.out + w64 (y * r.opitch + (3 * x + ch) * r.w)

/-- Rows read from a plane; `after` bytes of the same work follow them. -/
def readRows (p : Party) (base : Word) (pitch off len after : Nat) : Nat → Nat → E (List (List Byte))
  | 0, _ => pure []
  | n + 1, j => do
    let bs ← eReadAll p (base + w64 (j * pitch + off)) len (n * len + after)
    let r ← readRows p base pitch off len after n (j + 1)
    pure (bs :: r)

def writeElems (p : Party) (r : Resize) (px : Nat → Nat → List Int) : List (Nat × Nat × Nat) → E Unit
  | [] => pure ()
  | (ch, y, x) :: l => do
    let va := r.addr ch x y
    if va.toNat % r.w ≠ 0 then eEnd 4
    ePut p (r.w * (l.length + 1) + 8) va (bytesOfNat r.w (r.element px ch x y)) none
    writeElems p r px l

/-- The whole of a resize: the crop's samples and the chroma around them, then the output, then the status word. -/
def resizeData (die eng : Nat) (c : Command) : E Command := do
  let s ← eState
  if !(s.frame die eng).live then eEnd 7
  match Resize.ofBytes c.desc with
  | none => eEnd 1
  | some r =>
    if r.tb8 && !s.feature 8 then eEnd 6
    if r.srcY.toNat % r.sb ≠ 0 || r.srcC.toNat % r.sb ≠ 0 || (r.ten && r.spitch % 2 ≠ 0) then eEnd 4
    let p := c.party (264 + 4 * die + eng)
    let j0 := (r.cy - 1) / 2
    let j1 := min ((r.cy + r.ch) / 2) (r.chgt - 1)
    let i0 := r.cx / 2
    let i1 := min ((r.cx + r.cw) / 2) (r.cwid - 1)
    let cl := 2 * (i1 + 1 - i0) * r.sb
    let luma ← readRows p r.srcY r.spitch (r.cx * r.sb) (r.cw * r.sb) ((j1 + 1 - j0) * cl) r.ch r.cy
    let chroma ← readRows p r.srcC r.spitch (2 * i0 * r.sb) cl 0 (j1 + 1 - j0) j0
    let lum (y x : Nat) : Nat := r.sample (luma.getD (y - r.cy) []) (x - r.cx)
    let chr (k : Nat) (j i : Nat) : Nat := r.sample (chroma.getD (j - j0) []) (2 * (i - i0) + k)
    let px (y x : Nat) : List Int := r.rgb lum (chr 0) (chr 1) x y
    writeElems p r px ((List.range 3).flatMap fun ch => (List.range r.oh).flatMap fun y =>
      (List.range r.ow).map fun x => (ch, y, x))
    eSettled
    ePut p 8 r.status (dwordBytes 0x8000000000000000#64) none
    pure { c with code := some 0 }

/-- RESIZE_RUN. -/
def execResizeRun (die eng : Nat) (s : State) : Host.Outcome State Fault Refusal :=
  .next (s.frameStep die eng (fun c => c.kind = 3) (resizeData (die % 8) (eng % 4)))

end Sys2Proof.Machine
end

