-- ==== Sys2Proof/Machine/Graphs.lean ====
section
/-! DEFINITION. The graph walker (R144 to R148): `gsub`, GRAPH packets, dispatch and completion of nodes, and the end of
a graph. -/

namespace Sys2Proof.Machine

/-- The walker as a party of a graph's address space. -/
def Graph.party (g : Graph) : Party := ⟨g.die, 32 * g.die, g.dxp, g.level⟩

/-- How a walker's work on a graph ends: done, failed at an access, or to be gone on with. -/
inductive Walked (α : Type) where
  | done (r : α) (s : State)
  | fault (s : State)
  | wait (s : State)

/-- The work of a graph's walker on its first task, under the walker's frontier, from the access it had reached. A page
fault goes to the pager, and fails the access once that has answered Deliver, or where the die's fault queue is closed
(R54, R57, R58). -/
def State.walk {α : Type} (s : State) (g : Graph) (act : E α) : Walked α :=
  let f := (s.die g.die).walker
  let put (s : State) (h : Graph → Graph) : State :=
    { s with graphs := s.graphs.map fun x => if x.id = g.id then h x else x }
  let keep (e : Eng) (past : List Nat) (asked : Option PageFault) : State :=
    put (e.s.setDie g.die { e.s.die g.die with walker := (e.s.die g.die).walker.join e.front })
      fun x => { x with past, asked := asked.map (·, none) }
  if g.refused then .fault (put s fun x => { x with past := [], refused := false })
  else if g.asked.isSome then .wait s
  else
    match act ⟨s, f, 0, f, 0, g.past, 0⟩ with
    | .ok r e => .done r (keep e [] none)
    | .error .busy e => .wait (keep e e.past none)
    | .error (.page p) e => if e.s.fqClosed g.die then .fault (keep e [] none) else .wait (keep e e.past (some p))
    | .error (.code _) e => .fault (keep e [] none)

def State.graph (s : State) (id : Nat) : Option Graph := s.graphs.find? (fun g => g.id = id)
def State.setGraph (s : State) (g : Graph) : State :=
  { s with graphs := s.graphs.map fun x => if x.id = g.id then g else x }

/-- Address of a node. -/
def Graph.node (g : Graph) (n : Nat) : Word := g.header + w64 (0x100 + 0x100 * n)

/-- A graph begins to end (R146): the first end decides. -/
def Graph.fail (g : Graph) (code k : Nat) : Graph := if g.ending.isSome then g else { g with ending := some (code, k) }

/-- STATE of a node's first dword. -/
def nodeState (w : Word) (st : Nat) : Word := setFld w 59 58 st

/-- A command that a node issues, capturing the walker's frontier (R147). -/
def State.nodeCommand (s : State) (g : Graph) (n kind id : Nat) (desc : List Byte) (follow : Word) : Command :=
  { id, kind, desc, seq := if kind = 1 then g.seq else none, thr := g.thr, ticket := 0, pc := g.pc,
    front := (s.die g.die).walker, dxp := g.dxp, level := g.level, ctx := g.ctx, follow, frm := 0, queue := none,
    node := some (g.id, n), done := 0, code := none, followDue := kind = 1, pagerStage := 0, fault := none, record := 0,
    cap := (s.die g.die).walker, wrote := 0, past := [] }

/-- Whether a sequencer is resident. -/
def State.resident (s : State) (q : Option Nat) : Option Nat :=
  match q with
  | some q => if (s.seq q).bound.isSome then some q else none
  | none => none

/-- A node whose work is done waits to be completed. -/
def Graph.worked (g : Graph) (n : Nat) (bad : Bool) (op : Nat) : Graph :=
  { g with running := g.running ++ [n], results := g.results ++ [(n, 0, bad, op)] }

/-- A node's work begun, from its bytes (Table 6.6), `arrive` being the bolt operation of KIND 3. One whose bolt address
is refused, for which no rule gives an outcome, fails at once: STATE 3, STATUS 0, and ERR 3 (DESIGN CHOICE, log 42). A
matrix node waits, not dispatched, while its sequencer is not resident; that of a graph that no sequencer submitted is
never begun (log 42). No instruction issues its command: it takes the `frm` that the submitting thread has at the
dispatch, and its flags join no thread's `fflags` (DESIGN CHOICE, log 42). -/
def State.startNode (s : State) (g : Graph) (n : Nat) (bs : List Byte) (arrive : Option Nat) : State :=
  let kind := fld (dwordOf bs 0) 63 60
  let running := { g with running := g.running ++ [n] }
  let (id, s) := s.fresh
  if kind = 0 then
    (s.setGraph running).setUnitQueue (256 + g.die)
      (s.unitQueue (256 + g.die) ++ [s.nodeCommand g n 0 id ((bs.drop 0x40).take 128) 0])
  else if kind = 1 then
    match s.resident g.seq with
    | some q =>
      let c := s.nodeCommand g n 1 id ((bs.drop 0x40).take 128) (dwordOf bs 0xC0)
      (s.setGraph running).setUnitQueue (q / 4)
        (s.unitQueue (q / 4) ++ [{ c with frm := (s.thread q g.thr).frm }])
    | none => s.setGraph { g with parked := g.parked ++ [n] }
  else if kind = 2 then
    let d := s.die g.die
    (s.setGraph running).setDie g.die { d with
      dlq := d.dlq ++ [⟨id, (bs.drop 0x40).take 64, none, 0, 0, some (g.id, n), g.ctx, d.walker⟩] }
  else if kind = 3 then
    match arrive with
    | some op => s.setGraph (g.worked n false op)
    | none => s.setGraph (g.worked n true 0)
  else if kind = 4 then
    let s := s.event 2 g.die 0 0 n (dwordOf bs 0x48) g.header 0
    (s.raiseVector (fld (dwordOf bs 0x40) 10 0)).setGraph (g.worked n false 0)
  else s.setGraph (g.fail 5 n)

/-- A node read and marked dispatched, and the arrival of a KIND 3 node made. A reserved KIND is not marked, and neither
is a matrix node whose sequencer is not resident. An arrival's byte count is bits 47:0 of the dword at 0x48, to which
Table 6.6 gives no range (DESIGN CHOICE, log 42). -/
def nodeRead (g : Graph) (n : Nat) : E (List Byte × Option Nat) := do
  let bs ← eReadAll g.party (g.node n) 256
  let kind := fld (dwordOf bs 0) 63 60
  let s ← eState
  if kind < 5 && (kind ≠ 1 || (s.resident g.seq).isSome) then eSetDword g.party (g.node n) (nodeState (dwordOf bs 0) 1) none
  if kind = 3 then
    let op ← (fun e =>
      match eBolt g.party (dwordOf bs 0x40) 2 (fld (dwordOf bs 0x48) 47 0) (some 4) e with
      | .ok op e' => .ok (some op) e'
      | .error (.code _) e' => .ok none e'
      | .error x e' => if x ≠ .busy && e'.s.fqClosed g.die then .ok none e' else .error x e')
    pure (bs, op)
  else pure (bs, none)

/-- A packet of a launch queue that is a graph, or a `gsub`'s ticket, completes with the header's dword. -/
def State.graphTicket (s : State) (g : Graph) (v : Word) (err : Bool) : State :=
  match g.queue with
  | some q =>
    let s := s.setDie 0 { s.die 0 with dispatcher := (s.die 0).dispatcher.join (s.die g.die).walker }
    s.completePacket q (BitVec.ofNat 32 g.ticket) (if err then 16 else 0) v
  | none => s.finishTicket g.id v (s.die g.die).walker g.ticket (err && g.ticket = 0) (g.seq.map fun q => (q, g.thr))
      g.die 0 g.pc

/-- ERR, FAILNODE and DONE, then FIN, then the arrival (R146). An access that fails is left out: R146 gives no other end
(DESIGN CHOICE, log 42). -/
def graphFin (g : Graph) (code k : Nat) : E Unit := do
  let v (fin : Nat) : Word := w64 (fin * 2 ^ 63 + code * 2 ^ 56 + (if code = 0 then 0 else k) * 2 ^ 24 + g.done % 2 ^ 24)
  let skip (act : E Unit) : E Unit := fun e =>
    match act e with
    | .error (.code _) e' => .ok () e'
    | .error x e' => if x ≠ .busy && e'.s.fqClosed g.die then .ok () e' else .error x e'
    | r => r
  skip (do
    eSetDword g.party (g.header + 8) (v 0) none
    eSettled
    eSetDword g.party (g.header + 8) (v 1) (some 4))
  skip (do
    let b ← eDword g.party (g.header + 16)
    if b ≠ 0 then
      let _ ← eBolt g.party b 2 0 (some 4))

/-- Whether a graph is the oldest of its walker: the graphs of one walker complete in the order of their issue (R366). -/
def State.oldestGraph (s : State) (g : Graph) : Bool :=
  match s.graphs.find? fun x => x.die = g.die with
  | some x => x.id = g.id
  | none => false

/-- Once nothing dispatched remains, an ending graph is finished, and its ticket written. One that a tear-down ends (ERR
6) waits for no other. -/
def State.endGraph (s : State) (gid : Nat) : State :=
  match s.graph gid with
  | none => s
  | some g =>
    match g.ending with
    | none => s
    | some (code, k) =>
      if g.running ≠ [] || (!s.oldestGraph g && code ≠ 6) then s
      else
        match s.walk { g with todo := [] } (graphFin g code k) with
        | .done _ s' | .fault s' =>
          let v := w64 (2 ^ 63 + code * 2 ^ 56 + (if code = 0 then 0 else k) * 2 ^ 24 + g.done % 2 ^ 24)
          ({ s' with graphs := s'.graphs.filter (fun x => x.id ≠ gid) }).graphTicket g v (code ≠ 0)
        | .wait s' => s'

/-- Successors of a node's bytes; an NSUCC above 24, of which Table 6.5 says nothing, counts as 24 (log 42). -/
def successors (bs : List Byte) : List Nat :=
  (List.range (min (fld (dwordOf bs 0) 31 16) 24)).map fun j => natOfBytes ((bs.drop (0x10 + 2 * j)).take 2)

/-- Whether a task belongs to the completion of a node, which an ending graph waits for (R146). -/
def GraphTask.completes : GraphTask → Bool
  | .finish _ _ _ | .succ _ _ => true
  | _ => false

/-- Whether a task counts down a successor of a node. -/
def GraphTask.after (n : Nat) : GraphTask → Bool
  | .succ k _ => k = n
  | _ => false

/-- One task of a walker (R146): the accesses, and what follows from them. A faulting access to the node table ends the
graph with ERR 3 and the node being read (R148). A completion that ends the graph goes no further, and a graph that is
ending dispatches nothing. -/
def State.graphTask (s : State) (g : Graph) (task : GraphTask) (rest : List GraphTask) : Bool × State :=
  let on (t : List GraphTask) : Graph := { g with todo := t, past := [], asked := none, refused := false }
  let stop (n : Nat) : Graph := on (rest.filter fun t => !t.after n)
  let fault (n : Nat) (s : State) : Bool × State := (true, s.setGraph ((on rest).fail 3 n))
  if g.ending.isSome && !task.completes then (true, s.setGraph (on rest))
  else
  match task with
  | .init n =>
    let act : E Bool := do
      let d0 ← eDword g.party (g.node n)
      let d1 ← eDword g.party (g.node n + 8)
      eSetDword g.party (g.node n) (nodeState d0 0) none
      eSetDword g.party (g.node n + 8) (w64 (fld d0 47 32 * 2 ^ 32 + fld d1 31 0)) none
      pure (fld d0 47 32 = 0)
    match s.walk g act with
    | .done r s => (true, s.setGraph { on rest with ready := if r then g.ready ++ [n] else g.ready })
    | .fault s => fault n s
    | .wait s => (false, s)
  | .first =>
    if g.ready = [] then (true, s.setGraph ((on rest).fail 4 0))
    else (true, s.setGraph { on (g.ready.map .dispatch ++ rest) with ready := [] })
  | .dispatch n =>
    match s.walk g (nodeRead g n) with
    | .done (bs, op) s => (true, s.startNode (on rest) n bs op)
    -- its two reads and its write are made: it is the arrival of a KIND 3 node that failed
    | .fault s => if 3 ≤ g.past.length then (true, s.setGraph ((on rest).worked n true 0)) else fault n s
    | .wait s => (false, s)
  | .finish n status bad =>
    let act : E (List Byte) := do
      let bs ← eReadAll g.party (g.node n) 256
      eSetDword g.party (g.node n) (nodeState (dwordOf bs 0) (if bad then 3 else 2)) none
      eSetDword g.party (g.node n + 8) (setFld (dwordOf bs 8) 31 0 status) none
      pure bs
    match s.walk g act with
    | .done bs s =>
      let g := { on rest with running := g.running.filter (· ≠ n), done := if bad then g.done else g.done + 1 }
      if bad then (true, s.setGraph (g.fail 3 n))
      else (true, s.setGraph { g with todo := (successors bs).map (.succ n) ++ .check :: rest })
    | .fault s =>
      (true, s.setGraph ({ on rest with running := g.running.filter (· ≠ n) }.fail 3 n))
    | .wait s => (false, s)
  | .succ n m =>
    if g.nnode ≤ m then (true, s.setGraph ((stop n).fail 1 n))
    else
      let act : E Nat := do
        let d1 ← eDword g.party (g.node m + 8)
        if fld d1 47 32 ≠ 0 then
          eSetDword g.party (g.node m + 8) (setFld d1 47 32 (fld d1 47 32 - 1)) none
        pure (fld d1 47 32)
      match s.walk g act with
      | .done 0 s => (true, s.setGraph ((stop n).fail 2 m))
      | .done 1 s => (true, s.setGraph (on (.dispatch m :: rest)))
      | .done _ s => (true, s.setGraph (on rest))
      | .fault s => (true, s.setGraph ((stop n).fail 3 m))
      | .wait s => (false, s)
  | .check => (true, s.setGraph (if g.done = g.nnode then (on rest).fail 0 0 else on rest))

/-- A walker's tasks for a graph, until one has to wait. -/
def State.graphTasks (s : State) (gid : Nat) : Nat → State
  | 0 => s
  | fuel + 1 =>
    match s.graph gid with
    | none => s
    | some g =>
      match g.todo with
      | [] => s
      | task :: rest =>
        match s.graphTask g task rest with
        | (true, s') => s'.graphTasks gid fuel
        | (false, s') => s'

/-- A walker goes on with a graph, and ends it where it is to end. -/
def State.runGraph (s : State) (gid : Nat) : State :=
  let n := match s.graph gid with
    | some g => g.todo.length + 2 * g.nnode + 80
    | none => 0
  let s := s.graphTasks gid n
  match s.graph gid with
  | some g => if g.todo = [] then s.endGraph gid else s
  | none => s

/-- A graph submitted (R146): set up, its first nodes dispatched, and ended at once where none is ready. -/
def State.submitGraph (s : State) (g : Graph) (front : Stamp) : State :=
  let s := s.setDie g.die { s.die g.die with walker := (s.die g.die).walker.join front }
  let g := { g with todo := (List.range g.nnode).map .init ++ [.first] }
  ({ s with graphs := s.graphs ++ [g] }).runGraph g.id

/-- Graphs a walker holds (R148). -/
def State.walkerFull (s : State) (die : Nat) : Bool := decide (64 ≤ (s.graphs.filter fun g => g.die = die).length)

/-- `gsub` (R371): only the header is read at the instruction. -/
def execGsub (d a : BitVec 5) (fa : Bool) (s : State) : Host.Outcome State Fault Refusal :=
  run (do
    let va ← liftT (rx a fa)
    liftT (destX d)
    let bs ← (do
      aligned va 256
      descriptorM va 256 256)
    armCheck
    let s ← getS
    if s.walkerFull s.dieNo then waitM .engine
    modS fun s =>
      let (id, s) := s.fresh
      let g : Graph := ⟨id, s.dieNo, va, s.sq.dxp, s.th.level, s.ctxNo, some s.cur.seq, s.cur.thr, d.toNat, s.th.pc, none,
        fld (dwordOf bs 0) 15 0, 0, [], [], [], none, [], [], [], none, false⟩
      (s.setTh (s.th.awaitTicket d.toNat id)).submitGraph g s.front
    pure .seq) s

/-- Whether the bolt operation a node waits for has been performed. -/
def State.opDone (s : State) (op : Nat) : Bool := op = 0 || !s.flights.any (fun f => f.id = op)

/-- A node whose work is done is counted, or fails its graph (R146). -/
def State.completeNode (s : State) (g : Graph) (n status : Nat) (bad : Bool) : State :=
  (s.setGraph { g with results := g.results.filter (fun r => r.1 ≠ n), todo := g.todo ++ [.finish n status bad] }).runGraph
    g.id

/-- GRAPH_NODE_COMPLETE. A walker that had to wait first goes on with the graph. -/
def execGraphNodeComplete (graph node : Nat) (s : State) : Host.Outcome State Fault Refusal :=
  let s := s.runGraph graph
  match s.graph graph with
  | none => .next s
  | some g =>
    match g.results.find? (fun r => r.1 = node) with
    | some (n, st, bad, op) => if s.opDone op then .next (s.completeNode g n st bad) else .next s
    | none => .next s

end Sys2Proof.Machine
end

