-- ==== Sys2Proof/Machine/Barriers.lean ====
section
/-! DEFINITION. Hardware barriers (R149, R150, R178, R379) and the hand-over of a launch packet by `dlaunch` (R371,
R394). -/

namespace Sys2Proof.Machine

/-! ## Barriers -/

/-- The launch of the thread being executed. -/
def State.launchNo (s : State) : Nat :=
  match s.sq.bound with
  | some b => b.launch
  | none => 0

/-- The arrival that has completed is taken off: the instruction departs, after what every member did before its own
arrival (R122). -/
def departM (level : Nat) : M Flow := do
  modS fun s =>
    let s := (s.sq.arrivals.filter fun a => a.level = level && a.id = 0).foldl (fun s a => s.raise a.front) s
    s.setSq { s.sq with arrivals := s.sq.arrivals.filter fun a => !(a.level = level && a.id = 0) }
  pure .seq

/-- `bar.S`: arrives, and waits until its instance completes; the last arrival completes it. One of the pod waits for
the sequencer's copy commands, as a release of that scope does (R121, R122). -/
def barrierM (level : Nat) : M Flow := do
  notSplit
  let s ← getS
  match s.sq.arrivals.find? (fun a => a.level = level) with
  | some a => if a.id = 0 then departM level else waitM (.barrier level)
  | none =>
    if level = 5 then releaseM 5
    performedAllM
    modS fun s =>
      let u := unitOf level s.coreNo
      let (id, s) := match s.instance? level u s.launchNo with
        | some i => (i, s)
        | none => s.fresh
      s.setSq { s.sq with arrivals := s.sq.arrivals ++ [⟨level, u, id, s.front⟩] }
    modS fun s => s.testBarrier level (unitOf level s.coreNo) s.launchNo
    let s ← getS
    if s.sq.arrivals.any (fun a => a.level = level && a.id = 0) then departM level else waitM (.barrier level)

/-- `bar.cr`. -/
def execBarCr (s : State) : Host.Outcome State Fault Refusal := run (barrierM 1) s
/-- `bar.qd`. -/
def execBarQd (s : State) : Host.Outcome State Fault Refusal := run (barrierM 2) s
/-- `bar.di`. -/
def execBarDi (s : State) : Host.Outcome State Fault Refusal := run (barrierM 3) s
/-- `bar.pk`. -/
def execBarPk (s : State) : Host.Outcome State Fault Refusal := run (barrierM 4) s
/-- `bar.pd`. -/
def execBarPd (s : State) : Host.Outcome State Fault Refusal :=
  run (do
    needFeature 18
    barrierM 5) s

/-- BARRIER_COMPLETE: the test repeated after a change of membership (R150). -/
def execBarrierComplete (level unit launch : Nat) (s : State) : Host.Outcome State Fault Refusal :=
  .next (s.testBarrier level unit launch)

/-! ## Launches from the device -/

/-- `dlaunch`: the dispatcher holds 64 packets not yet accepted. -/
def execDlaunch (d a : BitVec 5) (fa : Bool) (s : State) : Host.Outcome State Fault Refusal :=
  run (do
    let va ← liftT (rx a fa)
    liftT (destX d)
    let bs ← descriptorM va 64 64
    armCheck
    let s ← getS
    if 64 ≤ ((s.die s.dieNo).dlq.filter fun l => l.node.isNone).length then waitM .engine
    modS fun s =>
      let (id, s) := s.fresh
      let v := s.die s.dieNo
      let l : DLaunch := ⟨id, bs, some s.cur.seq, s.cur.thr, d.toNat, none, s.ctxNo, s.front⟩
      (s.setDie s.dieNo { v with dlq := v.dlq ++ [l] }).setTh (s.th.awaitTicket d.toNat id)
    pure .seq) s

end Sys2Proof.Machine
end

