-- ==== Sys2Proof/Machine/Fetch.lean ====
section
/-! DEFINITION. Fetching an instruction's word (R212 to R218), the boundary at which pending traps are taken (R401,
R405), and which thread or agent takes the next step (log 1 and 3). -/

namespace Sys2Proof.Machine

noncomputable section

/-- An instruction fetch as an access (Table 3.3, KIND 7). -/
def fetchAcc : Acc := ⟨7, false, false, true, false, false, 4⟩

/-- The words that end a region (Table 9.1), the last word of a loop body apart. -/
def endsRegion (w : IWord) : Bool :=
  let op := (w >>> 25).toNat
  let fn := w.toNat % 128
  let ord := w.toNat / 2 ^ 13 % 4
  (op = 0x01 && fn ≠ 0) || (0x12 ≤ op && op ≤ 0x1B) ||
  (op = 0x02 && w.toNat % 4096 = 0x300 && (w.toNat / 2 ^ 12 % 4 = 0 || w.toNat / 2 ^ 15 % 32 ≠ 0)) ||
  (op = 0x2B && fn < 64) || (op = 0x2C && ord % 2 = 1) || (op = 0x2D && fn ≠ 0) || (op = 0x2E && fn = 2) ||
  (op = 0x31 && (fn / 16 = 3 || fn / 16 = 4)) || op = 0x43 || (op = 0x3B && fn ≤ 1)

/-- Whether the word at an address is the last of an active loop's body. -/
def Thread.bodyEnds (t : Thread) (va : Word) : Bool :=
  (List.range t.ldepth.toNat).any fun e => Sparse.get 0 t.leend e = va

/-- Whether a cached region is the one a fetch needs (Table 9.2): every field of the tag is equal. -/
def State.regionFits (s : State) (r : Region) (pa : Nat) : Bool :=
  r.pa = pa && r.ctx = s.ctxNo && r.gen = s.sq.gen && r.version = s.xtver && r.n = fld s.th.vdecl 13 8 &&
  r.level = s.th.level

/-- The physical address of the word at index k of a cached region. -/
def Region.wordPa (r : Region) (k : Nat) : Nat :=
  let a := r.pa % 4096 + 4 * k
  if a < 4096 then r.pa + 4 * k else r.next + (a - 4096)

/-- The word at index k of a cached region, where a fetch from a physical address finds it: a mapping changed since the
region was translated reaches every word of it (R39, R216). -/
def Region.wordAt (r : Region) (k pa : Nat) : Option IWord := if r.wordPa k = pa then r.words[k]? else none

/-- The cached region that begins at an address. -/
def State.ringFind (s : State) (pa : Nat) : Option Region :=
  if s.sched.caching then s.cp.ring.find? fun r => s.regionFits r pa else none

/-- The next word of a page. -/
def Target.nextWord (t : Target) : Target :=
  { t with pa := t.pa + 4, place := match t.place with
    | .host a => .host (a + 4)
    | p => p }

/-- The line of a word that a tile buffer can serve. -/
def Target.tileLine (t : Target) : Option Nat :=
  if t.place.isMem && t.pbmt = 0 then some (lineOf t.pa) else none

/-- The word that follows one of a region: of the same page where its unit has not failed (R22), and of the next page
where sequential fetch may enter it (R214). -/
def State.nextTarget (s : State) (va : Word) (tg : Target) : Option Target :=
  let t' := tg.nextWord
  if t'.pa % 4096 ≠ 0 then
    if t'.place.isMem && (s.unitFailed (s.servedAt s.dieNo t'.pa t'.pbmt) ||
        (t'.pbmt = 0 && s.copySliceFailed s.dieNo t'.pa)) then none else some t'
  else if !canonical (va + 4) then none
  else
    match (s.freshWalk s.dieNo s.sq.dxp s.th.level fetchAcc ((va + 4).toNat % 2 ^ 57) true).1 with
    | .ok t => if s.poisoned s.dieNo t.pa then none else some t
    | _ => none

/-- One causal read of the word at a position, which raises no frontier (R215): none while the die has still to apply a
write that the thread's frontier covers (R104). -/
def State.fetchWord (s : State) (tg : Target) : Option (IWord × State) :=
  match tg.place with
  | .host a => some (BitVec.ofNat 32 (natOfBytes (memBytes s.host a 4)), s)
  | _ =>
    match s.readLine s.dieNo s.front tg.pa 4 (s.slot tg.slot).key tg.pbmt with
    | some (bs, _, s') => some (BitVec.ofNat 32 (natOfBytes bs), s')
    | none => none

/-- The words of a region from an address of the current thread, each with where it lies: at most 64, to the first that
ends it, and into a next page only where sequential fetch may enter it (R212, R214). Each is what the thread's die serves
(R69, R215); none while a write comes first. -/
def State.regionWords (s : State) (va : Word) (tg : Target) : Nat → Option (List (Target × IWord))
  | 0 => some []
  | n + 1 =>
    match s.fetchWord tg with
    | none => none
    | some (w, _) =>
      if endsRegion w || s.th.bodyEnds va then some [(tg, w)]
      else
        match s.nextTarget va tg with
        | none => some [(tg, w)]
        | some tg' => (s.regionWords (va + 4) tg' n).map ((tg, w) :: ·)

/-- A region of words kept in the ring, in place of one with its tag. -/
def State.keepRegion (s : State) (first : Nat) (ws : List (Target × IWord)) : State :=
  let next := match ws[(4096 - first % 4096) / 4]? with
    | some x => x.1.pa
    | none => 0
  let r : Region := ⟨first, s.ctxNo, s.sq.gen, s.xtver, fld s.th.vdecl 13 8, s.th.level, ws.map (·.2), next⟩
  s.setCp { s.cp with ring := r :: s.cp.ring.filter fun q => !s.regionFits q first }

/-- A region translated and, under `caching`, kept in the ring: the word at index k is at `va` and `tg`. Inside a region
whose first word is no longer where it was, the word alone is read. The lines of the words come out; none while a write
comes first. -/
def State.translateRegion (s : State) (first k : Nat) (va : Word) (tg : Target) : Option (List (Option Nat) × State) :=
  let start := va - w64 (4 * k)
  let tg0 : Option Target :=
    if k = 0 then some tg
    else
      match (s.freshWalk s.dieNo s.sq.dxp s.th.level fetchAcc (start.toNat % 2 ^ 57) true).1 with
      | .ok t => if t.pa = first then some t else none
      | _ => none
  match s.sched.caching, tg0 with
  | true, some tg0 => (s.regionWords start tg0 64).map fun ws => (ws.map (·.1.tileLine), s.keepRegion first ws)
  | _, _ => some ([tg.tileLine], s)

/-- A fetch of a word finds its line in the tile buffer, or not, and uses a prefetch of it; it fills no line (R436, R438;
log 43). One that found the line missing before it waited does not count as served. -/
def State.fetchUse (s : State) : Option Nat → State
  | some n =>
    if s.sched.caching then s.useLine n (s.cp.tileBuffer.contains n && s.th.missed ≠ some n) else s
  | none => s

/-- Where the fetch of the word at a physical address stands: the first word of the thread's region, and the word's
index in it. A region entry (R212) is where no region is under way, after the 64th word, and after the last word of a
cached region. -/
def State.regionAt (s : State) (pa : Nat) : Nat × Nat :=
  match s.th.region with
  | none => (pa, 0)
  | some (f, k) =>
    if 64 ≤ k then (pa, 0)
    else
      match s.ringFind f with
      | some r => if k < r.words.length then (f, k) else (pa, 0)
      | none => (f, k)

/-- Whether the current thread stands at a region entry (R212). -/
def State.atEntry (s : State) : Bool := (s.regionAt 0).2 = 0

/-- The thread begins the word at index k of a region. A region entry that misses the keyring counts in `krmiss`, every
translation in `krxlat` (Table 9.6). -/
def Thread.enterWord (t : Thread) (first k : Nat) (xlat : Bool) : Thread :=
  { t with
    region := some (first, k + 1)
    krmiss := if xlat && k = 0 then t.krmiss + 1 else t.krmiss
    krxlat := if xlat then t.krxlat + 1 else t.krxlat }

/-- The word at the thread's position. A position that is not a multiple of 4 is misaligned (log 20). Without `caching`
a region is translated at its entry, and its words are read as the thread reaches them. -/
def readWord : M IWord := do
  let s ← getS
  let pc := s.th.pc
  if pc.toNat % 4 ≠ 0 then trapM 0x0C pc
  else
    let tg ← translateM fetchAcc ⟨0, 0, 0, 2, 0⟩ pc
    if tg.place.isMem then poisonCheck tg.pa
    let s ← getS
    let (first, k) := s.regionAt tg.pa
    match (s.ringFind first).bind (fun r => r.wordAt k tg.pa) with
    | some w =>
      modS fun s => s.setTh (s.th.enterWord first k false)
      pure w
    | none =>
      let late : M IWord := fun s => .error (.wait .fetch) (s.missTile tg.pa (if tg.place.isMem then tg.pbmt else 1))
      match s.fetchWord tg with
      | none => late
      | some (w, s) =>
        match s.translateRegion first k pc tg with
        | none => late
        | some (lines, s) =>
          modS fun _ => lines.foldl State.fetchUse (s.setTh (s.th.enterWord first k (s.sched.caching || k = 0)))
          pure w

/-- The word to execute: the one in `ir` where the thread has begun it; else it is fetched, and a fetch that has to wait
is made again. A page that sequential fetch cannot enter has ended the region (R214). -/
def fetchM : M IWord := fun s =>
  if s.th.wait.begun then .ok s.th.ir s
  else
    match readWord (s.setTh { s.th with ir := 0 }) with
    | .ok w s' => .ok w (s'.setTh { s'.th with wait := .none })
    | .error (.wait _) s' => .error (.wait .fetch) s'.drain
    | .error (.page f) s' => .error (.page f) (s'.setTh { s'.th with region := none })
    | .error e s' => .error e s'

/-- Words whose effects are all the thread's own: they alone begin while a `qnext` is outstanding, so that no later access
is performed before its claim (R102, R131) and the boundary at it can still be presented (R221, R407). -/
def undoable (w : IWord) : Bool :=
  let op := (w >>> 25).toNat
  let fn := w.toNat % 128
  (op = 0x01 && (fn = 0 || fn = 4 || fn = 6)) || (op = 0x02 && w.toNat % 4096 < 0x300) || (0x03 ≤ op && op ≤ 0x1B) ||
  op = 0x2F || op = 0x30 || (0x34 ≤ op && op ≤ 0x3A) || op = 0x3D

/-- Words whose outcome the hinge compares (Table 7.3): control transfers and loops, and indexed loads, plain, ordered and
acquire. -/
def hinged (w : IWord) : Bool :=
  let op := (w >>> 25).toNat
  let fn := w.toNat % 128
  (0x12 ≤ op && op ≤ 0x1B) || (op = 0x31 && 0x10 ≤ fn && fn < 0x50) || (op = 0x41 && (fn % 8 = 2 || fn % 8 = 3))

/-- The hinge compares an outcome of the current thread. An entry can differ only where the thread has loaded what was
written since the lead was forked (R162); whether it does is free (log 16). A mismatch is a flush and a counted re-fork
(R161). -/
def State.compareHinge (s : State) : State :=
  let s := s.setCp { s.cp with compared := s.cp.compared + 1 }
  if !s.th.doubt then s
  else
    let (v, s) := s.draw
    if bit v 0 then (s.bump 0x210 1).refork.fork else s

/-- The state with the word to be executed noted. -/
def State.withIr (s : State) (w : IWord) : State :=
  let s := if hinged w && !s.th.wait.begun then s.compareHinge else s
  s.setTh { s.th with ir := w, region := if endsRegion w || s.th.bodyEnds s.th.pc then none else s.th.region }

/-- The thread stays before an instruction that it does not begin: a `qnext` before it is outstanding. -/
def State.holdOrder (s : State) : State := s.setTh { s.th with wait := .order, ended := .waiting }

/-- Fetch, decode and execute one instruction of the current thread. A word that is no instruction traps with cause
0x01 and the word in `tval` (Table 9.5). -/
def runThread (ex : Instr → State → Host.Outcome State Fault Refusal) (s : State) :
    Host.Outcome State Fault Refusal :=
  match s.th.wait with
  | .trap cause tval telem tinfo => if s.th.claiming then .next s else .next (takeTrap cause tval telem tinfo s)
  | _ =>
    match fetchM s with
    | .error e s' => if s.th.claiming then .next s.holdOrder else finish e s'
    | .ok w s' =>
      if s.th.claiming && !s.th.wait.begun && !undoable w then .next s.holdOrder
      else
        match decode w with
        | .ok i => ex i (s'.withIr w)
        | .error _ => run (trapM 0x01 (w64 w.toNat)) (s'.withIr w)

/-- Whether a wait has been satisfied and only its result is to be written. -/
def Wait.satisfied : Wait → Bool
  | .boltDone _ => true
  | .wfeOver => true
  | _ => false

/-- The boundary that a trap of no instruction presents: the thread's position, or the `qnext` before it that is
outstanding (R407). -/
def State.rollBack (s : State) : State :=
  match s.sq.shadow with
  | some t => (s.setTh t).setSq { s.sq with shadow := none }
  | none => s

/-- A lane-retired notice or an engine command error of a thread is still to be taken. -/
def Thread.noticed (t : Thread) : Bool := t.laneNotices ≠ [] || t.engineErrors ≠ []

/-- A pre-emption looks at the current thread's boundary anew: a trap is taken there. -/
def State.unhold (s : State) : State := s.setSq { s.sq with held := s.sq.held.filter (· ≠ s.cur.thr) }

/-- What is due at a boundary beside the trap of the instruction there, in the order of R401: a lane-retired notice, an
engine command error, a pre-emption, for which the thread stands by. -/
def State.takeDue (s : State) : State :=
  match s.rollBack.th.laneNotices, s.rollBack.th.engineErrors with
  | l :: ls, _ =>
    let s := s.rollBack.unhold
    boundaryTrap 0x3E (w64 l) 0 (s.setTh { s.th with laneNotices := ls })
  | [], (pc, st) :: es =>
    let s := s.rollBack.unhold
    boundaryTrap 0x1A pc st (s.setTh { s.th with engineErrors := es })
  | [], [] => s.setSq { s.sq with held := s.sq.held ++ [s.cur.thr] }

/-- A notice or a pre-emption is due at the current thread's boundaries. -/
def State.anyDue (s : State) : Bool := s.th.noticed || s.sq.saving = some 0x30

/-- A lane-retired notice, an engine command error or a pre-emption due at a program-level boundary is taken there, after
any trap of the instruction itself, a `yield` included, and before any effect of it (R401, R405). A wait already satisfied
first completes (R141). -/
def atBoundary (ex : Instr → State → Host.Outcome State Fault Refusal) (s : State) :
    Host.Outcome State Fault Refusal :=
  let o := runThread ex s
  if s.th.level = .program ∧ ¬ s.th.wait.satisfied ∧ s.anyDue then
    match o with
    | .next s' => if s'.th.ended = .trapped || s'.sq.saving ≠ s.sq.saving then o else .next s.takeDue
    | _ => o
  else o

/-- Whether a thread waits for the pager. -/
def Wait.pages : Wait → Bool
  | .record _ | .pager _ _ _ => true
  | _ => false

/-- Threads of bound sequencers that may issue; `waiting` selects those in a wait. A sequencer that waits for the pager's
answer issues nothing (R59), and none does while the module is not READY (R433). -/
def State.runnable (s : State) (waiting : Bool) : List Cursor :=
  s.seqs.flatMap fun (q, v) =>
    if !s.ready || v.bound.isNone || v.stopped || (List.range v.split).any (fun t => (s.thread q t).wait.pages) then []
    else (List.range v.split).filterMap fun t =>
      let th := s.thread q t
      -- a wait already satisfied completes before the save (R141), and what is due at the boundary is taken before a
      -- pre-emption (R401)
      if v.saving.isSome && th.level = .program && !th.wait.satisfied &&
        (v.saving ≠ some 0x30 || (v.held.contains t && !th.noticed)) then none
      else if waiting then
        (match th.wait with
          | .none | .record _ | .pager _ _ _ => none
          | .join => if th.noticed && th.level = .program then some ⟨q, t⟩ else none
          | _ => some ⟨q, t⟩)
      else if th.wait = .none then some ⟨q, t⟩ else none

/-- Round robin: the first after the current one, else the first. -/
def nextCursor (c : Cursor) (l : List Cursor) : List Cursor :=
  l.filter (fun d => threadKey c < threadKey d) ++ l.filter (fun d => threadKey d ≤ threadKey c)

/-- The first outcome of a list that changes the state. -/
def firstChange (s : State) : List (State × Host.Outcome State Fault Refusal) →
    Option (Host.Outcome State Fault Refusal)
  | [] => none
  | (s0, o) :: l =>
    match o with
    | .next s' => if s' = s0 then firstChange s l else some o
    | _ => some o

/-- A ready thread's instruction, if there is a ready thread. -/
def tryReady (ex : Instr → State → Host.Outcome State Fault Refusal) (s : State) :
    Option (Host.Outcome State Fault Refusal) :=
  match nextCursor s.cur (s.runnable false) with
  | c :: _ => some (atBoundary ex { s with cur := c })
  | [] => none

/-- A step of another agent that is due, or a waiting thread that can go on. -/
def tryOther (ex : Instr → State → Host.Outcome State Fault Refusal) (due : State → List Instr) (s : State) :
    Option (Host.Outcome State Fault Refusal) :=
  match firstChange s ((due s).map fun i => (s, ex i s)) with
  | some o => some o
  | none => firstChange s ((nextCursor s.cur (s.runnable true)).map fun c =>
      ({ s with cur := c }, atBoundary ex { s with cur := c }))

/-- A thread as time passes: once every write is long past its fork, any may be since (R109, R162). -/
def Thread.keepFork (s : State) (t : Thread) : Thread :=
  if (List.range 8).any (s.lags t.forkAt) then { t with forkAt := s.lift t.forkAt, doubt := true } else t

/-- A command's frontiers under the limit of R109. -/
def Command.lift (s : State) (c : Command) : Command :=
  { c with front := s.lift c.front, cap := s.lift c.cap, wrote := s.lift c.wrote }

def Arrival.lift (s : State) (a : Arrival) : Arrival := { a with front := s.lift a.front }

/-- Every stamp that the module keeps under the limit of R109: no component of one lags its die's count by 2^30 or more,
so that the comparisons of the next step are sound. -/
def State.liftStamps (s : State) : State :=
  { s with
    threads := s.threads.map fun (k, t) => (k, t.keepFork s)
    seqs := s.seqs.map fun (k, q) => (k, { q with arrivals := q.arrivals.map (Arrival.lift s) })
    cores := s.cores.map fun (k, c) => (k, { c with
      frontier := s.lift c.frontier, copyq := c.copyq.map (Command.lift s) })
    dies := s.dies.map fun (k, d) => (k, { d with
      walker := s.lift d.walker, dispatcher := s.lift d.dispatcher, walkq := d.walkq.map (Command.lift s)
      fcvq := d.fcvq.map (Command.lift s)
      fe := d.fe.map fun (i, f) => (i, { f with queue := f.queue.map (Command.lift s) })
      dlq := d.dlq.map fun l => { l with front := s.lift l.front }
      copies := d.copies.map fun (n, c) => (n, { c with stamp := s.lift c.stamp })
      invals := d.invals.map fun i => { i with stamp := s.lift i.stamp } })
    flights := s.flights.map fun f => { f with
      stamp := s.lift f.stamp, op := f.op.map fun o => { o with joins := s.lift o.joins } }
    lines := s.lines.map fun (n, l) => (n, { l with stamp := s.lift l.stamp })
    bolts := s.bolts.map fun (n, b) => (n, { b with opened := s.lift b.opened, last := s.lift b.last })
    resvs := s.resvs.map fun r => { r with front := s.lift r.front }
    hwqs := s.hwqs.map fun k => { k with front := s.lift k.front }
    queues := s.queues.map fun (n, k) => (n, { k with front := s.lift k.front })
    launches := s.launches.map fun l => { l with front := s.lift l.front }
    completions := s.completions.map fun c => { c with wrote := c.wrote.map s.lift }
    saved := s.saved.map fun c => { c with arrivals := c.arrivals.map (Arrival.lift s) }
    results := s.results.map fun (id, v, err, pc, front) => (id, v, err, pc, s.lift front) }

/-- Time passes with a step: the reference timer counts on (R431), and the limit of R109 is kept. -/
def passTime : Host.Outcome State Fault Refusal → Host.Outcome State Fault Refusal
  | .next t => .next { t.liftStamps with rtimer := t.rtimer + Config.tick t.turn }
  | o => o

/-- The oldest outstanding prefetch of each core's lead arrives (R91, R94). -/
def State.leadArrives (s : State) : State :=
  if !s.sched.lazy then s
  else s.cores.foldl (fun s (c, v) =>
    match v.leadOut with
    | [] => s
    | (pa, pbmt, slot) :: l =>
      let v := { v with leadOut := l }
      -- a schedule that keeps no copies has lost the line at once (R94)
      (s.setCore c (if s.sched.caching then v else v.waste (· = lineOf pa))).hintFill c ⟨pa, pbmt, slot, s.place pa⟩
        .both) s

/-- The next step with an empty agenda: threads and the other agents take turns; where nothing can go on, nothing
changes. -/
def nextStep (ex : Instr → State → Host.Outcome State Fault Refusal) (due : State → List Instr) (s : State) :
    Host.Outcome State Fault Refusal :=
  let s' := { s with turn := s.turn + 1 }.leadArrives.rehomeLost
  let first := if s.turn % 2 = 0 then tryReady ex s' else tryOther ex due s'
  match first with
  | some o => o
  | none =>
    match (if s.turn % 2 = 0 then tryOther ex due s' else tryReady ex s') with
    | some o => o
    | none => .next s'

/-- Tables, code bytes and one bound full-share sequencer of context 0, so that the next step fetches the word: what a
boot, a feature commit, a context, a launch and its binding leave (log 2). Table pages at physical 0x1000 to 0x5FFF map
the virtual page 0x10000 to physical 0x10000. -/
def State.placeWord (s : State) (w : Nat) : State :=
  let cells := cellsAt 0x1000 (bytesOfNat 2 0x801) ++ cellsAt 0x2000 (bytesOfNat 2 0xC01) ++
    cellsAt 0x3000 (bytesOfNat 2 0x1001) ++ cellsAt 0x4000 (bytesOfNat 2 0x1401) ++
    cellsAt 0x5080 (bytesOfNat 2 0x40DF) ++ cellsAt 0x10000 (bytesOfNat 4 w)
  { s with
    agenda := [], cur := ⟨0, 0⟩, turn := 0,
    mem := memPutAll s.mem cells,
    slot0 := { s.slot0 with loaded := true },
    ready := true, featoff := 0xFFF0F#64, featacc := 0xFFF0F#64, featuse := 0xFFF0F#64,
    featstat := 0x8000000000000000#64,
    contexts := Sparse.set s.contexts 0 { s.context 0 with v := true, dxp := 0xA000000000000001#64 },
    seqs := [(0, { bound := some ⟨0, 0, 0⟩, groups := 15, dxp := 0xA000000000000001#64 })],
    threads := Sparse.set s.threads 0 { pc := 0x10000#64 } }

end

end Sys2Proof.Machine
end

