-- ==== Sys2Proof/Machine/Landings.lean ====
section
/-! DEFINITION. Steps in which what threads have issued takes effect: results land, writes and invalidations are
applied, bolts and queues move on, replicas collapse, and notices are taken (R70, R71, R93, R107, R136, R143, R166,
R168, R189, R222, R367). -/

namespace Sys2Proof.Machine

/-! ## Threads -/

/-- ENGINE_COMMAND_ERROR: taken at a program-level boundary, after any trap of the instruction there and a lane-retired
notice (R401, R405). An instruction that waits at a bolt, a barrier or for an event has no trap due; at any other boundary
the error is taken when the thread comes to it (`atBoundary`). -/
def execEngineCommandError (seq thr : Nat) (s : State) : Host.Outcome State Fault Refusal :=
  let s' := { s with cur := ⟨seq, thr⟩ }
  let t := s'.th
  let ready := s'.sq.bound.isSome && !s'.sq.stopped && decide (t.level = .program) && decide (t.laneNotices = []) &&
    (match t.wait with
      | .bolt _ _ _ | .barrier _ | .wfe _ => true
      | _ => false)
  match ready, t.engineErrors with
  | true, (pc, st) :: es => .next (boundaryTrap 0x1A pc st (s'.unhold.setTh { t with engineErrors := es }))
  | _, _ => .next s

/-- REGION_TRANSLATE: the engine translates, ahead of the thread, the region it is to enter, where no cached one serves.
A word that is no instruction traps only when the thread reaches it; a failed walk is dropped (R61, R212, R222). -/
def execRegionTranslate (seq thr : Nat) (s : State) : Host.Outcome State Fault Refusal :=
  let s' := { s with cur := ⟨seq, thr⟩ }
  let t := s'.th
  if s'.sq.bound.isNone || t.pc.toNat % 4 ≠ 0 || !s'.atEntry || t.wait.begun then .next s
  else
    let dropped : State := s'.bump 0x212 1
    if !canonical t.pc || fld s'.sq.dxp 63 60 = 0 then .next dropped
    else
      match s'.freshWalk s'.dieNo s'.sq.dxp t.level fetchAcc (t.pc.toNat % 2 ^ 57) true with
      | (.ok tg, _, _) =>
        if (s'.ringFind tg.pa).isSome || s'.poisoned s'.dieNo tg.pa then .next s
        else
          match s'.translateRegion tg.pa 0 t.pc tg with
          | some (_, s') => .next (s'.setTh { s'.th with krxlat := s'.th.krxlat + 1 })
          | none => .next s
      | _ => .next dropped

/-- LOAD_RESULT_LANDS: the k-th outstanding result of a thread. A ticket lands with its command. -/
def execLoadResultLands (seq thr k : Nat) (s : State) : Host.Outcome State Fault Refusal :=
  match (s.thread seq thr).pend[k]? with
  | some (.scalar r v) => .next (s.setThread seq thr { (s.thread seq thr).fillX r v with
      pend := (s.thread seq thr).pend.eraseIdx k })
  | some (.vector r v) => .next (s.setThread seq thr { (s.thread seq thr).setVreg r { v with empty := false } with
      pend := (s.thread seq thr).pend.eraseIdx k })
  | _ => .next s

/-- BOLT_STALL (R143). -/
def execBoltStall (seq thr : Nat) (s : State) : Host.Outcome State Fault Refusal :=
  let s' := { s with cur := ⟨seq, thr⟩ }
  match s'.th.wait with
  | .bolt _ va _ => if fld s'.sq.boltlim 31 0 = 0 then .next s else .next (takeTrap 0x16 va 0 0 s')
  | _ => .next s

/-- QNEXT_COMPLETE: a `qnext` outstanding that can complete does (R168). One whose header fails begins again, and its
access is an access fault (R22, R43). -/
def execQnextComplete (seq : Nat) (s : State) : Host.Outcome State Fault Refusal :=
  let s' := { s with cur := ⟨seq, 0⟩ }
  let lost := s'.th.pend.any fun p => match p with
    | .claim _ h _ _ => s'.headFails h
    | _ => false
  if lost then .next s'.rollBack else .next (s'.qnextLand.getD s)

/-! ## Writes -/

/-- WRITE_APPLY: the k-th write in flight, at its home, once its causal predecessors are applied there. -/
def execWriteApply (k : Nat) (s : State) : Host.Outcome State Fault Refusal :=
  match s.flights[k]? with
  | some f =>
    if f.op.isNone && s.flightReady f then .next ({ s with flights := s.flights.eraseIdx k }.applyFlight f) else .next s
  | none => .next s

/-- INVALIDATION_APPLY: the k-th invalidation that has reached a die. -/
def execInvalidationApply (die k : Nat) (s : State) : Host.Outcome State Fault Refusal :=
  match (s.die die).invals[k]? with
  | some i => if s.canApply die i.origin i.stamp then .next (s.applyInval die i) else .next s
  | none => .next s

/-- BOLT_OPERATION_APPLY: the k-th in flight, where it is a bolt operation that its home slice can take. -/
def execBoltOperationApply (k : Nat) (s : State) : Host.Outcome State Fault Refusal :=
  match s.flights[k]? with
  | some f =>
    if f.op.isSome && s.flightReady f then .next ({ s with flights := s.flights.eraseIdx k }.applyFlight f) else .next s
  | none => .next s

/-- QUEUE_PUBLISH: the k-th reservation. Freed ranges whose FREE had to wait go first. -/
def execQueuePublish (k : Nat) (s : State) : Host.Outcome State Fault Refusal :=
  let s := if s.freed = [] then s else s.freeClaims []
  match s.resvs[k]? with
  | some r => if s.canPublish r then .next (s.publish r) else .next s
  | none => .next s

/-! ## Replicas (R70, R71) -/

/-- Pages of 4 KiB in a directory entry's page. -/
def entryPages (e : Word × Word) : Nat := if fld e.1 61 60 = 0 then 1 else if fld e.1 61 60 = 1 then 16 else 512

/-- A die's entry for a home page, other than the home's own: index and dwords. -/
def State.holderEntry (s : State) (holder page : Nat) : Option (Nat × Word × Word) :=
  repFind (fun e => bit e.1 63 && fld e.1 39 0 = page && fld e.2 39 0 ≠ page) (s.die holder).rdir

/-- The tile-buffer copies of a page on a die are dropped, and its prefetched lines lost. -/
def State.dropPage (s : State) (die page pages : Nat) : State :=
  let lines (n : Nat) : Bool := 32 * page ≤ n && n < 32 * (page + pages)
  (s.dropTile die lines).wastePrefetch die lines

/-- A holder's bit leaves the home entry, or all of them do. -/
def State.dropHolder (s : State) (page : Nat) (keep : Nat → Nat) : State :=
  match s.homeEntry (page * 4096) with
  | some (i, e) =>
    let h := homeDie (page * 4096)
    s.setDie h { s.die h with rdir := Sparse.set (s.die h).rdir i (e.1, setFld e.2 47 40 (keep (fld e.2 47 40))) }
  | none => s

/-- A holder has answered, or been poisoned: once none is waited for, HOLDERS is 0 and the held writes proceed. -/
def State.answered (s : State) (page holder : Nat) : State :=
  let cs := s.collapses.map fun c =>
    if c.page = page then { c with waiting := c.waiting &&& ~~~(1#8 <<< holder) } else c
  if cs.any (fun c => c.page = page && c.waiting = 0) then
    let s := s.dropHolder page fun _ => 0
    let s := { s with
      collapses := cs.filter (fun c => c.page ≠ page),
      flights := s.flights.map fun f => if f.page = some page then { f with held := false } else f }
    if s.sched.lazy then s else s.drain
  else { s with collapses := cs }

/-- Whether a REPLICATE of a page to a holder is in progress (R68): a write to the page is held until it is done. -/
def State.replicating (s : State) (page holder : Nat) : Bool :=
  bit s.repcmd 62 && fld s.repRun 39 0 = page && fld s.repRun 50 48 = holder

/-- Whether a collapse waits for a holder. -/
def State.awaits (s : State) (page holder : Nat) : Bool :=
  !s.replicating page holder && s.collapses.any fun c => c.page = page && c.waiting.getLsbD holder

/-- HOLDER_ACK: the holder drops the replica's lines and its entry, and acknowledges. -/
def execHolderAck (page holder : Nat) (s : State) : Host.Outcome State Fault Refusal :=
  if !s.awaits page holder then .next s
  else
    match s.holderEntry holder page with
    | some (i, e) =>
      let s := s.dropPage holder page (entryPages e)
      let s := s.setDie holder { s.die holder with
        rdir := Sparse.set (s.die holder).rdir i (setFld e.1 63 63 0, e.2) }
      .next (s.answered page holder)
    | none => .next (s.answered page holder)

/-- REPLICA_POISON: the entry is poisoned, its holder leaves HOLDERS, and the driver is told. -/
def execReplicaPoison (page holder : Nat) (s : State) : Host.Outcome State Fault Refusal :=
  if !s.awaits page holder then .next s
  else
    let (rep, s) := match s.holderEntry holder page with
      | some (i, e) => (fld e.2 39 0, s.setDie holder { s.die holder with
          rdir := Sparse.set (s.die holder).rdir i (setFld (setFld e.1 63 63 0) 62 62 1, e.2) })
      | none => (0, s)
    let s := s.dropHolder page fun h => h &&& (255 - 2 ^ holder)
    let s := s.event 4 holder 0 0 0 (w64 holder) (w64 page) (w64 rep)
    .next (s.answered page holder)

end Sys2Proof.Machine
end

