-- ==== Sys2Proof/Machine/Pager.lean ====
section
/-! DEFINITION. Fault records and the pager's answers (R54 to R60). -/

namespace Sys2Proof.Machine

/-- Who a fault record names: die, core of the die, sequencer slot, thread, whether an engine made the access, the
virtual PC, and the loop stack of a thread. -/
structure Faulter where
  die : Nat
  core : Nat
  slot : Nat
  thr : Nat
  eng : Bool
  pc : Word
  loops : Option Thread
deriving DecidableEq, Repr

/-- Remaining trips of loop level j, the innermost active one first, saturated (Table 3.1). -/
def Thread.trip (t : Thread) (j : Nat) : Nat :=
  if j < t.ldepth.toNat then min (Sparse.get 0 t.lecnt (t.ldepth.toNat - 1 - j)).toNat 0xFFFFFFFF else 0

/-- The 64 bytes of a record with phase `ph` (Tables 3.1 and 3.2). -/
def faultRecord (f : PageFault) (w : Faulter) (ph : Nat) : List Byte :=
  let depth := match w.loops with
    | some t => t.ldepth.toNat % 8
    | none => 0
  let trip (j : Nat) : Nat := match w.loops with
    | some t => t.trip j
    | none => 0
  let pair (j : Nat) : Word := w64 (trip (j + 1) * 2 ^ 32 + trip j)
  let info := w64 (ph * 2 ^ 63 + depth * 2 ^ 60 + f.asid % 4096 * 2 ^ 48 + w.die % 8 * 2 ^ 45 + w.core % 32 * 2 ^ 40 +
    w.slot % 4 * 2 ^ 38 + w.thr % 4 * 2 ^ 36 + (if w.eng then 2 ^ 35 else 0) + f.esz % 8 * 2 ^ 32 +
    f.lvl % 16 * 2 ^ 20 + f.reason % 16 * 2 ^ 16 + f.cause % 256 * 2 ^ 8 + f.kind % 16 * 2 ^ 4)
  [f.va, info, f.stride, w64 (f.elem % 2 ^ 32 * 2 ^ 32 + f.rem % 2 ^ 32), w.pc, pair 0, pair 2, pair 4].flatMap dwordBytes

/-- A record written at the tail of a die's queue, with the vector where no unread record was held (R57). -/
def State.putRecord (s : State) (f : PageFault) (w : Faulter) (r : Record) : State :=
  let v := s.die w.die
  let n := fld v.fqbase 3 0
  let ph := if (v.fqtail.toNat / 2 ^ n) % 2 = 0 then 1 else 0
  let a := fld v.fqbase 63 6 * 64 + 64 * (v.fqtail.toNat % 2 ^ n)
  let s := s.physWrite a (faultRecord f w ph) s.key0
  let s := s.setDie w.die { s.die w.die with fqtail := v.fqtail + 1, records := (s.die w.die).records ++ [r] }
  if v.fqtail = v.fqhead then s.raiseVector w.die else s

/-- A record can be written now: there is a slot. -/
def State.fqRoom (s : State) (d : Nat) : Bool :=
  decide (((s.die d).fqtail - (s.die d).fqhead).toNat < 2 ^ fld (s.die d).fqbase 3 0)

/-- The fault of an engine's head command ends it: Deliver, or a closed queue (R57, R58, R138). -/
def Command.deliver (c : Command) : Command :=
  { c with pagerStage := 0, fault := none, followDue := false, code := some (if c.code.isSome then 9 else 2) }

/-- Whether a record of a die waits for an answer to an engine with no command queue of its own. -/
def State.outstandingOf (s : State) (die unit : Nat) : Bool :=
  (s.die die).records.any fun r => r.thread.isNone && r.unit = unit

/-- The pager answers Deliver to a graph, or the die's queue is closed: the access fails. The end of a graph leaves the
access out and goes on (log 42). -/
def Graph.deliver (g : Graph) : Graph :=
  if g.todo = [] && g.ending.isSome then { g with past := g.past ++ [0], asked := none }
  else { g with refused := true, asked := none }

/-- The record of a fault of die d's walker: of its oldest graph that waits for one, while none is outstanding (R58). -/
def State.walkerRecord (s : State) (d : Nat) : State :=
  match s.graphs.find? (fun g => g.die = d && g.asked.any fun a => a.2.isNone) with
  | none => s
  | some g =>
    match g.asked with
    | none => s
    | some (f, _) =>
      if s.fqClosed d then s.setGraph g.deliver
      else if !s.fqRoom d || s.outstandingOf d (304 + d) then s
      else
        let idx := (s.die d).fqtail.toNat
        let w : Faulter := ⟨d, 0, g.seq.getD 0 % 4, g.thr, false, g.pc, none⟩
        (s.putRecord f w ⟨idx, none, 304 + d⟩).setGraph { g with asked := some (f, some idx) }

/-- The record of a fault of the save engine of sequencer q, whose VPC is the boundary that thread 0 presents (log 46). -/
def State.saverRecord (s : State) (q : Nat) : State :=
  let d := q / 128
  match (s.seq q).asked with
  | some (f, none) =>
    if s.fqClosed d then s.setSeq q { s.seq q with asked := none }
    else if !s.fqRoom d || s.outstandingOf d (312 + q) then s
    else
      let idx := (s.die d).fqtail.toNat
      let pc := match (s.seq q).shadow with
        | some t => t.pc
        | none => (s.thread q 0).pc
      (s.putRecord f ⟨d, q / 4 % 32, q % 4, 0, false, pc, none⟩ ⟨idx, none, 312 + q⟩).setSeq q
        { s.seq q with asked := some (f, some idx) }
  | _ => s

/-- FAULT_RECORD_WRITE for thread `thr` of sequencer `unit`, or for the command at the head of engine `unit`, the walker
of die `unit` − 304, or the save engine of sequencer `unit` − 312. The record of an engine's access has LDEPTH, the trips
and STRIDE 0, and CORE 0 for a unit of the die, of which the tables say nothing (log 46). -/
def execFaultRecordWrite (eng : Bool) (unit thr : Nat) (s : State) : Host.Outcome State Fault Refusal :=
  if eng && decide (312 ≤ unit) then .next (s.saverRecord (unit - 312))
  else if eng && decide (304 ≤ unit) then .next (s.walkerRecord (unit - 304))
  else if eng then
    match s.unitQueue unit with
    | c :: l =>
      match c.fault with
      | some f =>
        let d := unitDie unit
        if c.pagerStage ≠ 1 then .next s
        else if s.fqClosed d then .next (s.setUnitQueue unit (c.deliver :: l))
        else if !s.fqRoom d then .next s
        else
          let idx := (s.die d).fqtail.toNat
          let q := c.seq.getD 0
          let s' := s.putRecord f ⟨d, unitCore unit % 32, q % 4, c.thr, unit < 256, c.pc, none⟩ ⟨idx, none, unit⟩
          .next (s'.setUnitQueue unit ({ c with pagerStage := 2, record := idx } :: l))
      | none => .next s
    | [] => .next s
  else
    let s' := { s with cur := ⟨unit, thr⟩ }
    match s'.th.wait with
    | .record f =>
      let d := unit / 128
      if s'.fqClosed d then .next (deliverFault f s')
      else if !s'.fqRoom d || (s'.die d).records.any (fun r => match r.thread with
          | some (q, _) => q = unit
          | none => false) then .next s
      else
        let idx := (s'.die d).fqtail.toNat
        let t := s'.th
        let w : Faulter := ⟨d, unit / 4 % 32, unit % 4, thr, false, t.pc, some t⟩
        let s' := s'.putRecord f w ⟨idx, some (unit, thr), 0⟩
        .next (s'.setTh { t with wait := .pager d idx f })
    | _ => .next s

/-- The outstanding record of an index, withdrawn from the list. -/
def State.takeRecord (s : State) (die idx : Nat) : Option (Record × State) :=
  match (s.die die).records.find? (fun r => r.idx = idx) with
  | some r => some (r, s.setDie die { s.die die with records := (s.die die).records.filter (fun r => r.idx ≠ idx) })
  | none => none

/-- How a thread goes on after its fault: an access is made again, and so is a fetch. -/
def PageFault.retryWait (f : PageFault) : Wait := if f.kind = 7 then .fetch else .memory

/-- What the pager's answer to an engine does: to the command at the head of a unit, to the graph that the record of a
walker is of, to a save. -/
def State.engineAnswer (s : State) (die idx unit : Nat) (c : Command → Command) (g : Graph → Graph) : State :=
  if 312 ≤ unit then s.setSeq (unit - 312) { s.seq (unit - 312) with asked := none }
  else if 304 ≤ unit then
    { s with graphs := s.graphs.map fun x =>
        if x.die = die && x.asked.any (fun a => a.2 = some idx) then g x else x }
  else
    match s.unitQueue unit with
    | h :: l => s.setUnitQueue unit (c h :: l)
    | [] => s

/-- PFREPLY_RETRY: the element translates again with a fresh walk. An answer to no outstanding record is ignored, and so
is one before READY (R429). -/
def execPfreplyRetry (die idx : Nat) (s : State) : Host.Outcome State Fault Refusal :=
  match (if s.ready then s.takeRecord die idx else none) with
  | none => .next s
  | some (r, s') =>
    match r.thread with
    | some (q, t) =>
      match (s'.thread q t).wait with
      | .pager _ _ f => .next (s'.setThread q t { s'.thread q t with wait := f.retryWait })
      | _ => .next s'
    | none =>
      .next (s'.engineAnswer die idx r.unit (fun c => { c with pagerStage := 0, fault := none })
        fun g => { g with asked := none })

/-- PFREPLY_DELIVER: the trap is taken as a page fault, the command ends, or the walker's access fails; a save is tried
again (log 34). Ignored before READY (R429). -/
def execPfreplyDeliver (die idx : Nat) (s : State) : Host.Outcome State Fault Refusal :=
  match (if s.ready then s.takeRecord die idx else none) with
  | none => .next s
  | some (r, s') =>
    match r.thread with
    | some (q, t) =>
      let s' := { s' with cur := ⟨q, t⟩ }
      match s'.th.wait with
      | .pager _ _ f => .next (deliverFault f s')
      | _ => .next s'
    | none => .next (s'.engineAnswer die idx r.unit Command.deliver Graph.deliver)

/-- PFWAIT_EXPIRY: the sequencer is to be pre-empted at the faulting instruction, and its record is withdrawn (R59). -/
def execPfwaitExpiry (seq thr : Nat) (s : State) : Host.Outcome State Fault Refusal :=
  let t := s.thread seq thr
  let go (s : State) (f : PageFault) : State :=
    let s := s.setThread seq thr { t with wait := f.retryWait, vstart := w64 f.resume }
    let q := s.seq seq
    s.setSeq seq { q with saving := some (q.saving.getD 0x30) }
  if fld (s.seq seq).pfwait 31 0 = 0 then .next s
  else
    match t.wait with
    | .record f => .next (go s f)
    | .pager d idx f =>
      match s.takeRecord d idx with
      | some (_, s') => .next (go s' f)
      | none => .next (go s f)
    | _ => .next s

end Sys2Proof.Machine
end

