-- ==== Sys2Proof/Machine/Saves.lean ====
section
/-! DEFINITION. Requests of the runtime, pre-emption, the save area and its restore (R407 to R416), lane and core
retirement, machine checks and unit failures (R21, R22, R418, R419). -/

namespace Sys2Proof.Machine

/-! ## Requests (R283, R407) -/

/-- Every thread of a sequencer. -/
def State.mapThreads (s : State) (q : Nat) (f : Thread → Thread) : State :=
  (List.range (s.seq q).split).foldl (fun s t => s.mapThread q t f) s

/-- MIGRATION_REQUEST_POST: a request of MIG or STOP, and bit 1 of each thread's event latch. While a request that a
`pollp` has returned stands, it stays the one (R439), and another changes nothing (log 34). -/
def execMigrationRequestPost (seq : Nat) (request : BitVec 4) (s : State) : Host.Outcome State Fault Refusal :=
  if (s.seq seq).bound.isNone || request.toNat % 4 = 0 || (s.seq seq).polled then .next s
  else
    let s := s.setSeq seq { s.seq seq with migreq := request.setWidth 64 }
    .next (s.mapThreads seq fun t => { t with latch := t.latch ||| 2 })

/-- MIGRATION_REQUEST_WITHDRAW. -/
def execMigrationRequestWithdraw (seq : Nat) (s : State) : Host.Outcome State Fault Refusal :=
  .next (if (s.seq seq).bound.isNone then s else s.setSeq seq { s.seq seq with migreq := 0, polled := false })

/-- PREEMPT_REQUEST: the context is to be saved with CAUSE 0x30. A `yield` already taken stands alone (R401). What
`pollp` reports stays until the save (R283). -/
def execPreemptRequest (seq : Nat) (s : State) : Host.Outcome State Fault Refusal :=
  let q := s.seq seq
  .next (if q.bound.isNone || q.stopped || q.saving.isSome then s
    else s.setSeq seq { q with saving := some 0x30 })

/-! ## The save area (R410 to R413) -/

/-- CSR images of a thread-control record, in its order. -/
def Thread.csrs (t : Thread) : List Word :=
  [t.vl, t.vtype, t.vstride, t.vmsk, t.vstart, t.xrm, t.frm, t.fflags, t.vxsat, t.ftrap, t.vverd] ++
  (List.range 4).map (Sparse.get 0xFF800000#64 t.vt ·) ++ (List.range 8).map (Sparse.get 0 t.qlen ·) ++ [t.vlmaxb] ++
  (List.range 6).flatMap (fun e =>
    [Sparse.get 0 t.lecnt e, Sparse.get 0 t.leidx e, Sparse.get 0 t.lebeg e, Sparse.get 0 t.leend e]) ++
  [t.ldepth, t.instret, t.emucount, t.krmiss, t.krxlat]

/-- A record (R411): type, thread, FE, index, payload. -/
def saveRecord (type thr fe idx : Nat) (payload : List Byte) : List Byte :=
  dwordBytes (w64 (type * 2 ^ 56 + thr * 2 ^ 54 + fe * 2 ^ 52 + idx % 1024 * 2 ^ 42 + payload.length)) ++ payload

/-- Bytes padded with zeros to a multiple of 8. -/
def pad8 (bs : List Byte) : List Byte := bs ++ List.replicate ((8 - bs.length % 8) % 8) 0

/-- Records of thread `i` of a split of `w`: control, vector registers, masks, scale banks, pending tickets. -/
def Thread.records (t : Thread) (i w : Nat) : List Byte :=
  let full : Nat := (2 ^ 32 - 1) - t.xempty.toNat
  let control := ([t.pc, w64 full] ++ (List.range 31).map (fun r => t.getX (r + 1)) ++ t.csrs ++ [t.latch]).flatMap dwordBytes
  let part (b : BitVec 4096) : List Byte := bytesOfNat (512 / w) b.toNat
  saveRecord 1 i 0 0 control ++
  t.v.flatMap (fun (k, r) =>
    if r.vb = 0 && !r.empty then [] else saveRecord 2 i (if r.empty then 1 else 0) k (bytesOfNat r.vb r.bits.toNat)) ++
  (List.range 16).flatMap (fun j =>
    if t.kw.getLsbD j then saveRecord 3 i 0 j (part (Sparse.get 0 t.k j)) else []) ++
  (if t.scaw then saveRecord 4 i 0 0 (part t.sca) else []) ++
  (if t.scbw then saveRecord 4 i 0 1 (part t.scb) else []) ++
  t.pend.flatMap (fun p => match p with
    | .ticket r id => saveRecord 9 i 2 r (dwordBytes (w64 id))
    | _ => [])

/-- A tile's record. CHK is only ever read capped at 0xFFFF (R362), and is saved so. -/
def Tile.record (t : Tile) (k : Nat) : List Byte :=
  saveRecord 5 0 0 k (dwordBytes (w64 (t.cnt % 2 ^ 32 * 2 ^ 32 + min t.chk 0xFFFF * 2 ^ 16 + t.vr % 256)) ++ dwordBytes 0 ++
    bytesOfNat 512 t.rb.toNat ++ (List.range t.vr).flatMap (fun r => bytesOfNat 512 (t.zrow r)) ++
    (List.range t.vr).flatMap (fun r => bytesOfNat 512 (t.hrow r)))

/-- Names of the enabled tiles. -/
def Seq.onTiles (q : Seq) : List Nat :=
  (List.range (min q.zn q.named)) ++ (List.range (q.zn - q.named)).map (· + 32)

/-- The save area of a sequencer's context: header and records. -/
def saveArea (q : Seq) (ts : List Thread) (cause : Nat) (front : Stamp) : List Byte :=
  let w := ts.length
  let t0 := ts.headD {}
  let body :=
    ts.zipIdx.flatMap (fun (t, i) => t.records i w) ++
    saveRecord 10 0 0 0 ([q.dxp, q.pfwait, q.boltlim, q.tvec].flatMap dwordBytes) ++
    (if q.zon then q.onTiles.flatMap fun k => (q.tileAt k).record k else []) ++
    (if q.wext ≠ 0 then saveRecord 6 0 0 0 (pad8 (memBytes q.wbuf 0 q.wext)) else []) ++
    (if q.rext ≠ 0 then saveRecord 7 0 0 0 (pad8 (memBytes q.rbuf 0 q.rext)) else []) ++
    q.arrivals.flatMap (fun a => saveRecord 8 0 0 a.level (dwordBytes (w64 a.id))) ++
    dwordBytes 0
  let maxvb := ts.zipIdx.foldl (fun n (t, i) => n + (t.v.foldl (fun m r => max m r.2.vb) 0) * 2 ^ (16 * i)) 0
  let split := if w = 4 then 2 else if w = 2 then 1 else 0
  [w64 ((64 + body.length) * 2 ^ 32 + 2 ^ 16 + cause % 256 * 2 ^ 8),
    w64 (q.kind * 2 ^ 62 + split * 2 ^ 60 + t0.vn * 2 ^ 54 + t0.vx * 2 ^ 44 + t0.depth * 2 ^ 40 + q.gen.toNat),
    w64 maxvb,
    w64 (q.wext * 2 ^ 44 + q.rext * 2 ^ 27 + (if q.zon then q.zn else 0) * 2 ^ 21 + (if q.zon then 2 ^ 20 else 0))].flatMap
      dwordBytes ++
  (List.range 8).flatMap (fun d => bytesOfNat 4 (front.comp d).toNat) ++ body

/-! ## Saving (R407 to R409) -/

/-- Commands and graphs of a sequencer that may still report, with their ticket registers. -/
def State.issued (s : State) (q : Nat) : List (Nat × Nat × Nat) :=
  let cs (l : List Command) : List (Nat × Nat × Nat) := (l.filter fun c => c.seq = some q && c.node.isNone).map fun c =>
    (c.thr, c.ticket, c.id)
  s.cores.flatMap (fun c => cs c.2.copyq) ++
  s.dies.flatMap (fun d => cs d.2.walkq ++ cs d.2.fcvq ++ d.2.fe.flatMap (fun f => cs f.2.queue) ++
    (d.2.dlq.filter fun l => l.seq = some q).map fun l => (l.thr, l.ticket, l.id)) ++
  (s.graphs.filter fun g => g.seq = some q && g.queue.isNone).map (fun g => (g.thr, g.ticket, g.id)) ++
  (List.range (s.seq q).split).flatMap (fun i => (s.thread q i).pend.filterMap fun p => match p with
    | .ticket r id => some (i, r, id)
    | _ => none)

/-- A follow-on command of the sequencer: the save waits for it (R370, R408). -/
def Command.followsOn (c : Command) (q : Nat) : Bool := c.seq = some q && c.kind = 1

/-- Whether the context of a sequencer can be saved now, with a CAUSE: every thread presents a program-level boundary. A
pre-emption leaves what is due there to be taken first, the trap of the instruction (`held`) and a notice, but where the
sequencer waits for the pager and issues nothing: the notice is saved with it (R59, R401, R407, log 22). -/
def State.saveReady (s : State) (q cause : Nat) : Bool :=
  let threads := (List.range (s.seq q).split).map fun i => (s.thread q i, i)
  let stands (t : Thread) (i : Nat) : Bool := ((s.seq q).held.contains i || t.wait = .join) && !t.noticed
  !(s.seq q).stopped &&
  threads.all (fun (t, i) => t.level = .program && !t.wait.satisfied && (cause ≠ 0x30 || stands t i ||
    threads.any (·.1.wait.pages))) &&
  !(s.core (q / 4)).copyq.any (·.followsOn q) && !s.resvs.any (fun r => r.seq = some q)

/-- The boundary a thread presents: every result with a time bound has landed. -/
def Thread.atBoundary (t : Thread) : Thread := { t.landAll with wait := .none, region := none }

/-- The threads of a sequencer at the boundaries they present: at a `qnext` that is outstanding, the thread as it stood
there (R407). -/
def State.presented (s : State) (q : Nat) : List Thread :=
  match (s.seq q).shadow with
  | some t => [t.atBoundary]
  | none => (List.range (s.seq q).split).map fun i => (s.thread q i).atBoundary

/-- A save area written and performed. -/
def saveWrite (p : Party) (area : Word) (bs : List Byte) : E Unit := do
  let t ← eTarget p true bs.length area 64
  if !t.place.isMem then eEnd 3
  eWriteAll p area bs
  eSettled

/-- Engine command errors that threads have not yet taken wait for the restore as results do (R405, R407): the state,
and their identities. -/
def keepErrors (s : State) : List (Nat × Word × Word) → State × List (Nat × Nat × Nat)
  | [] => (s, [])
  | (i, pc, v) :: l =>
    let (id, s) := s.fresh
    let r := keepErrors { s with results := s.results ++ [(id, v, true, pc, 0)] } l
    (r.1, (i, 0, id) :: r.2)

/-- The trap of a save, in the trace of each thread (R422): a pre-emption's, and that of a core's retirement. That of a
`yield` was recorded there, whatever cause it saves. -/
def State.traceSave (s : State) (seq cause : Nat) : State :=
  if cause ≠ 0x30 && (cause ≠ 0x3F || (s.die (seq / 128)).lcmap.getLsbD (seq / 4 % 32)) then s
  else
    { (List.range (s.seq seq).split).foldl (fun (s : State) i => { s with cur := ⟨seq, i⟩ }.traceEntry 4 (w64 cause)) s
      with cur := s.cur }

/-- CONTEXT_SAVE: the save area is written and the sequencer unbound. A page fault of the save engine goes to the pager,
and the save is made anew once that has answered (R54, R58). Where the area at `tsave` cannot be written nothing happens
(log 34). -/
def execContextSave (seq : Nat) (s : State) : Host.Outcome State Fault Refusal :=
  let q := s.seq seq
  let s' := s.drain
  match q.saving, q.bound with
  | some cause, some b =>
    if !s.saveReady seq cause || q.asked.isSome || s'.flights.any (fun f => f.seq = some seq) then .next s
    else
      let ts := s'.presented seq
      let front := s'.frontier (seq / 4)
      let bs := saveArea q ts cause front
      match saveWrite ⟨seq / 128, seq / 4, q.dxp, .supervisor⟩ q.tsave bs (.start s' front) with
      | .ok _ e =>
        let (id, s) := e.s.fresh
        let (s, errs) := keepErrors s (ts.zipIdx.flatMap fun (t, i) => t.engineErrors.map fun r => (i, r))
        let sv : Saved := ⟨id, b, q.tsave, q.dxp, seq / 4, q.arrivals, q.claims, s.issued seq ++ errs, q.rebound,
          q.gen, q.splitCounts, q.resumeOn, q.groups, [], ts.map (·.laneNotices)⟩
        let s := (s.traceSave seq cause).raiseFrontier (seq / 4) e.front
        let s := { s with saved := s.saved ++ [sv] }
        .next ((s.setSeq seq { q with claims := [], rebound := [] }).unbind seq)
      | .error (.page f) _ =>
        .next (if s.fqClosed (seq / 128) then s else s.setSeq seq { q with asked := some (f, none) })
      | .error _ _ => .next s
  | _, _ => .next s

/-! ## Restoring (R414 to R416) -/

/-- The records of an area from an offset: type, thread, FE, index, payload; none where the list does not end. -/
def parseRecords (bs : List Byte) : Nat → Nat → Option (List (Nat × Nat × Nat × Nat × List Byte))
  | 0, _ => none
  | n + 1, off =>
    let h := dwordOf bs off
    let len := fld h 31 0
    let type := fld h 63 56
    if type = 0 then some []
    else if 10 < type || len % 8 ≠ 0 || bs.length < off + 8 + len then none
    else
      match parseRecords bs n (off + 8 + len) with
      | some l => some ((type, fld h 55 54, fld h 53 52, fld h 51 42, (bs.drop (off + 8)).take len) :: l)
      | none => none

/-- Tiles of a share kind. -/
def kindTiles (k : Nat) : Nat := if k = 0 then 48 else if k = 1 then 24 else 12

/-- The share a group mask forms: its kind and slot, or none. -/
def shareOf (groups : Nat) : Option (Nat × Nat) :=
  match groups with
  | 15 => some (0, 0)
  | 3 => some (1, 0)
  | 12 => some (1, 2)
  | 1 => some (2, 0)
  | 2 => some (2, 1)
  | 4 => some (2, 2)
  | 8 => some (2, 3)
  | _ => none

/-- `pwrisl` of an island at reset: FMAX 3,300, running at it (R432, log 8). -/
def pwrislReset : Word := 0x0CE40CE4#64

/-- Whether a share of a core is free and its core live and not off, in a module that is READY (R154, R395, R432,
R433). -/
def State.shareFree (s : State) (core groups : Nat) : Bool :=
  s.ready && decide (core < 256) && (s.die (core / 32)).lcmap.getLsbD (core % 32) &&
  fld (Sparse.get pwrislReset s.pwrisl (4 * (core / 32) + core % 32 / 16)) 59 58 ≠ 3 &&
  (List.range 4).all fun j => !((s.seq (4 * core + j)).bound.isSome &&
    (s.seq (4 * core + j)).groups.toNat &&& groups ≠ 0)

/-- Live physical lanes of a group mask on a core. -/
def CorePair.lanesOf (c : CorePair) (groups : Nat) : List Nat :=
  (List.range 64).filter fun l => groups.testBit (l / 16) && c.live.getLsbD l

/-- Live lanes of thread i of w on a share. -/
def CorePair.threadLanes (c : CorePair) (groups w i : Nat) : List Nat :=
  let n := 16 * popBelow groups 4
  let b := match shareOf groups with
    | some (_, slot) => 16 * slot
    | none => 0
  lanesIn (c.lanesOf groups) (b + i * n / w) (n / w)

/-- A thread from its control record: the CSRs take the rules of a write. -/
def Thread.ofControl (p : List Byte) (t : Thread) : Thread :=
  let d (i : Nat) : Word := dwordOf p (8 * i)
  let t := (List.range 31).foldl (fun (t : Thread) r => t.setX (r + 1) (d (r + 2))) t
  let csr (t : Thread) (c i : Nat) : Thread := t.csrWrite c (d (33 + i))
  let t := { t with pc := d 0, xempty := ~~~((d 1).setWidth 32) &&& 0xFFFFFFFE#32, vl := d 33 &&& 0x1FFF#64,
                    vtype := d 34 &&& 0x8000000000000FFF#64 }
  let t := (List.range 9).foldl (fun t i => csr t (2 + i) (2 + i)) t
  let t := (List.range 4).foldl (fun t i => csr t (0x010 + i) (11 + i)) t
  let t := (List.range 8).foldl (fun t i => csr t (0x018 + i) (15 + i)) t
  let t := (List.range 25).foldl (fun t i => csr t (0x040 + i) (24 + i)) t
  { t with vlmaxb := d 56 &&& 0xFFFF#64, instret := d 82, emucount := d 83, krmiss := d 84, krxlat := d 85, latch := d 86 }

/-- A record taken into a thread. -/
def Thread.takeRecord (t : Thread) (w type fe idx : Nat) (p : List Byte) : Thread :=
  let part : BitVec 4096 := BitVec.ofNat 4096 (natOfBytes (p.take (512 / w)))
  if type = 1 then t.ofControl p
  else if type = 2 then
    t.setVreg idx { bits := BitVec.ofNat 32768 (natOfBytes p), vb := p.length, empty := fe = 1 }
  else if type = 3 then { t with k := Sparse.set t.k idx part, kw := t.kw ||| (1#16 <<< idx) }
  else if type = 4 then (if idx = 0 then { t with sca := part, scaw := true } else { t with scb := part, scbw := true })
  else t

/-- The lanes of a restored thread, and R416's exception for a context that yielded. -/
def Thread.onLanes (t : Thread) (lanes : List Nat) (yielded : Bool) : Thread :=
  let m := w64 (64 * lanes.length * t.depth)
  let t := { t with lanes := lanes, layout := lanes, level := .program }
  if yielded && m ≠ t.vlmaxb then { t with vlmaxb := m, vtype := 0x8000000000000000#64, vl := 0 } else t

/-- A tile from its record. -/
def Tile.ofRecord (p : List Byte) : Tile :=
  let h := dwordOf p 0
  let vr := fld h 7 0
  let row (i : Nat) : BitVec 4096 := BitVec.ofNat 4096 (natOfBytes ((p.drop (528 + 512 * i)).take 512))
  { cnt := fld h 63 32, chk := fld h 31 16, vr := vr, rb := BitVec.ofNat 4096 (natOfBytes ((p.drop 16).take 512)),
    z := (List.range vr).map fun r => (r, row r), h := (List.range vr).map fun r => (r, row (vr + r)) }

/-- A record taken into the sequencer. -/
def Seq.takeRecord (q : Seq) (type idx : Nat) (p : List Byte) : Seq :=
  if type = 5 then q.setTile idx (.ofRecord p)
  else if type = 6 then { q with wbuf := memPutAll [] (cellsAt 0 (p.take q.wext)) }
  else if type = 7 then { q with rbuf := memPutAll [] (cellsAt 0 (p.take q.rext)) }
  else if type = 10 then
    { q with dxp := dwordOf p 0, pfwait := dwordOf p 8 &&& 0xFFFFFFFF#64, boltlim := dwordOf p 16 &&& 0xFFFFFFFF#64,
             tvec := dwordOf p 24 &&& ~~~3#64 }
  else q

/-- What a restore found: the sequencer and its threads on the new share, the frontier. -/
structure Restored where
  q : Seq
  ts : List Thread
  front : Stamp
deriving DecidableEq, Repr

/-- The valid extent of a buffer of a saved context, with what has been put into it since the save. -/
def Saved.extent (sv : Saved) (dkind n : Nat) : Nat :=
  sv.fills.foldl (fun n f => if f.1 = dkind then max n (f.2.1 + f.2.2.length) else n) n

/-- R414's conditions and the state restored; none where the restore is refused. -/
def State.restored (s : State) (sv : Saved) (bs : List Byte) (core groups kind : Nat) : Option Restored :=
  let d (i : Nat) : Word := dwordOf bs (8 * i)
  let cause := fld (d 0) 15 8
  let w := 2 ^ fld (d 1) 61 60
  let depth := fld (d 1) 43 40
  let on := bit (d 3) 20
  let ntile := fld (d 3) 26 21
  let wext := fld (d 3) 63 44
  let rext := fld (d 3) 43 27
  let tiles := kindTiles kind
  let lanes (i : Nat) : List Nat := (s.core core).threadLanes groups w i
  let nn (t : Nat) : Nat := t * 2 / 3
  let base : Seq := {
    bound := some sv.binding, groups := BitVec.ofNat 4 groups, split := w, tiles := tiles, tsave := sv.area,
    zon := on, zn := ntile, wext := wext, rext := rext, gen := BitVec.ofNat 32 (fld (d 1) 31 0), claims := sv.claims,
    rebound := sv.rebound, splitCounts := if w = 1 then [] else sv.splitCounts }
  match parseRecords bs (bs.length / 8) 64 with
  | none => none
  | some rs =>
    let sup := rs.filter fun r => r.1 = 10
    let ok := decide (fld (d 0) 31 16 = 1) && decide (w ≤ 4) && decide (sup.length = 1) &&
      (List.range w).all (fun i => lanes i ≠ [] && decide (fld (d 2) (16 * i + 15) (16 * i) ≤ 8 * (lanes i).length * depth)) &&
      decide (sv.extent 1 wext ≤ base.wbufSize) && decide (sv.extent 2 rext ≤ base.rbufSize) && decide (ntile ≤ tiles) &&
      (!on || (decide (4096 ≤ 64 * ((s.core core).lanesOf groups).length * depth) &&
        decide (min ntile (nn tiles) = min ntile (nn (kindTiles (fld (d 1) 63 62)))))) &&
      (cause ≠ 0x30 || decide (kind ≤ fld (d 1) 63 62))
    if !ok then none
    else
      let q := rs.foldl (fun q r => q.takeRecord r.1 r.2.2.2.1 r.2.2.2.2) base
      let q := sv.fills.foldl (fun q f => q.putBuf f.1 f.2.1 f.2.2) q
      let q := { q with
        dxp := s.dxpWrite (s.context sv.binding.ctx).dxp q.dxp
        arrivals := (rs.filter fun r => r.1 = 8).map fun r =>
          match sv.arrivals.find? (fun a => a.level = r.2.2.2.1) with
          | some a => a
          | none => ⟨r.2.2.2.1, unitOf r.2.2.2.1 sv.core, 0, 0⟩ }
      let t0 : Thread := { vdecl := w64 (fld (d 1) 53 44 * 2 ^ 14 + fld (d 1) 59 54 * 2 ^ 8 + depth * 2 ^ 4) }
      let one (i : Nat) : Thread :=
        let t := rs.foldl (fun (t : Thread) r =>
          if r.2.1 = i then t.takeRecord w r.1 r.2.2.1 r.2.2.2.1 r.2.2.2.2 else t) t0
        let t := rs.foldl (fun (t : Thread) r =>
          if r.1 = 9 && r.2.1 = i then t.awaitTicket r.2.2.2.1 (dwordOf r.2.2.2.2 0).toNat else t) t
        { t.onLanes (lanes i) (cause = 0x31) with laneNotices := sv.notices.getD i [] }
      some ⟨q, (List.range w).map one, BitVec.ofNat 256 (natOfBytes ((bs.drop 32).take 32))⟩

/-- What the sequencer had issued names its new place (R407). -/
def State.reown (s : State) (l : List (Nat × Nat × Nat)) (q : Nat) : State :=
  let mine (id : Nat) : Bool := l.any fun t => t.2.2 = id
  let cs (l : List Command) : List Command := l.map fun c => if mine c.id then { c with seq := some q } else c
  { s with
    cores := s.cores.map fun (k, c) => (k, { c with copyq := cs c.copyq }),
    dies := s.dies.map fun (k, d) =>
      (k, { d with
        walkq := cs d.walkq, fcvq := cs d.fcvq,
        fe := d.fe.map fun (j, f) => (j, { f with queue := cs f.queue }),
        dlq := d.dlq.map fun l => if mine l.id then { l with seq := some q } else l }),
    graphs := s.graphs.map fun g => if mine g.id then { g with seq := some q } else g }

/-- Results that came while the context was saved reach it, each with its command's frontier (R120). -/
def State.giveResults (s : State) (sv : Saved) (q : Nat) : State :=
  sv.tickets.foldl (fun s (thr, reg, id) =>
    match s.results.find? (fun r => r.1 = id) with
    | some (_, v, err, pc, front) =>
      let s := { s with results := s.results.filter fun r => r.1 ≠ id }
      if reg ≠ 0 then fillTicket id v front s
      else if err then
        s.mapThread q (s.issuerThread q thr) fun t => { t with engineErrors := t.engineErrors ++ [(pc, v)] }
      else s
    | none => s) s

/-- A share is taken: one that a rebind has freed counts as a move of its die's balancer (Table 16.10), and the right to
it is used (R396). -/
def State.takeGrants (s : State) (core groups : Nat) : State :=
  let mine (g : Nat × Nat × Nat × Nat) : Bool := g.1 = core && g.2.1 &&& groups ≠ 0
  let d := s.die (core / 32)
  { s.setDie (core / 32) { d with balmove := d.balmove + w64 (s.grants.countP mine) } with
    grants := s.grants.filter (!mine ·) }

/-- Matrix nodes that waited for the sequencer to be resident are begun (Table 6.6). -/
def State.unpark (s : State) (q : Nat) : State :=
  s.graphs.foldl (fun s g =>
    if g.seq = some q ∧ g.parked ≠ [] then
      (s.setGraph { g with parked := [], todo := g.todo ++ g.parked.map .dispatch }).runGraph g.id
    else s) s

/-- A save area read: the header gives its length. -/
def saveRead (p : Party) (area : Word) : E (List Byte) := do
  let h ← eReadAll p area 64
  eReadAll p area (max 64 (fld (dwordOf h 0) 63 32))

/-- Whether a saved context may be tried on a share kind: the one it is to be restored on, until that is refused (R440). -/
def Saved.triedOn (sv : Saved) (kind : Nat) : Bool := sv.share.isNone || sv.share = some kind

/-- CONTEXT_RESTORE of the k-th saved context onto a share, the lead forked afresh (R162); refused, it leaves the context
saved, for any share. -/
def execContextRestore (k core groups : Nat) (s : State) : Host.Outcome State Fault Refusal :=
  match s.saved[k]?, shareOf groups with
  | some sv, some (kind, slot) =>
    if !s.shareFree core groups || !sv.triedOn kind then .next s
    else
      match saveRead ⟨core / 32, core, sv.dxp, .supervisor⟩ sv.area (.start s (s.frontier core)) with
      | .error _ _ => .next s
      | .ok bs e =>
        match e.s.restored sv bs core groups kind with
        | none =>
          .next { s with saved := s.saved.map fun c => if c.id = sv.id then { c with share := none } else c }
        | some r =>
          let q := 4 * core + slot
          let s := { e.s.takeGrants core groups with saved := e.s.saved.filter (fun c => c.id ≠ sv.id) }
          let s := s.setSeq q r.q
          let s := r.ts.zipIdx.foldl (fun s (t, i) => s.setThread q i (t.fork s.counts)) s
          let s := s.raiseFrontier core (r.front.join e.front)
          .next (((s.reown sv.tickets q).giveResults sv q).unpark q).testBarriers
  | _, _ => .next s

/-! ## Errors (R21, R22, R418, R419) -/

/-- Sequencers bound on a core. -/
def State.resident4 (s : State) (core : Nat) : List Nat :=
  (List.range 4).filterMap fun j => if (s.seq (4 * core + j)).bound.isSome then some (4 * core + j) else none

/-- What is saved of a thread in a handler when no handler can run on its core: what its trap presents (R415). -/
def Thread.leaveHandler (t : Thread) : Thread :=
  if t.level = .supervisor then { t.eret with level := .program, wait := .none } else t

/-- A resident of a core that is retired: saved with CAUSE 0x3F where its storage can still be read, which is free; else
reported lost, with nothing left of it on the dead core (R17, R419, log 17). -/
def State.evacuate (s : State) (q : Nat) : State :=
  let (w, s) := s.draw
  if bit w 0 then (s.seqEvent 8 q 5 0 (s.thread q 0).pc).unbind q
  else
    let s := s.mapThreads q Thread.leaveHandler
    s.setSeq q { s.seq q with saving := some 0x3F, stopped := false }

/-- LANE_RETIRE: the lane goes while its group keeps 12 others, else the core (R21). The instruction in flight and
the registers are not affected; each thread that owned the lane is told at its next boundary. -/
def execLaneRetire (core lane : Nat) (s : State) : Host.Outcome State Fault Refusal :=
  let c := s.core core
  if 256 ≤ core || 64 ≤ lane || !c.live.getLsbD lane || !(s.die (core / 32)).lcmap.getLsbD (core % 32) then .next s
  else
    let g := lane / 16
    let left := ((List.range 16).filter fun i => c.live.getLsbD (16 * g + i)).length - 1
    let s := s.setCore core { c with live := c.live &&& ~~~(1#64 <<< lane) }
    if 12 ≤ left then
      .next ((s.resident4 core).foldl (fun s q => s.mapThreads q fun t =>
        if t.lanes.contains lane then
          { t with lanes := t.lanes.filter (· ≠ lane), laneNotices := t.laneNotices ++ [lane] }
        else t) s)
    else
      let d := s.die (core / 32)
      let s := s.setDie (core / 32) { d with lcmap := d.lcmap &&& ~~~(1#32 <<< (core % 32)) }
      let s := s.event 6 (core / 32) (core % 32) 0 0 (w64 left) 0 0
      .next ((s.resident4 core).foldl State.evacuate s)

/-- The state a source loses becomes free values (R419, Table 17.6). -/
def State.loseState (s : State) (q thr source : Nat) : State :=
  if source = 2 then
    let t := s.thread q thr
    let keys := List.range t.vn ++ (List.range t.vx).map (· + 32)
    { s.setThread q thr { t with
        v := keys.map fun k => (k, { t.vreg k with bits := Config.freeRow (s.free + k) }) } with free := s.free + 1024 }
  else if source = 3 then
    let v := s.seq q
    let row (n : Nat) : BitVec 4096 := (Config.freeRow n).setWidth 4096
    let tile (k : Nat) : Tile :=
      { v.tileAt k with
        z := (List.range 128).map fun r => (r, row (s.free + 300 * k + r))
        h := (List.range 128).map fun r => (r, row (s.free + 300 * k + 128 + r)) }
    let buf (n o : Nat) : List Host.Cell :=
      memPutAll [] ((List.range n).map fun i => (i, (Config.freeRow (s.free + o + i)).setWidth 8))
    { s.setSeq q { v with
        tile := if v.zon then v.onTiles.map fun k => (k, tile k) else v.tile
        wbuf := buf v.wext 20000
        rbuf := buf v.rext 1000000 } with free := s.free + 2000000 }
  else s

/-- MACHINE_CHECK of a source of Table 17.6 but 5, which is a core's retirement: taken before anything else (R401), at
the boundary presented. The translation engine's is taken at a region entry, before its word is begun (R222), and `tval` is
then the source, as Table 17.6 has it, or the entry's position, as Table 9.5 has it: which is free (log 47). -/
def execMachineCheck (seq thr source : Nat) (s : State) : Host.Outcome State Fault Refusal :=
  let s' := { s with cur := ⟨seq, thr⟩ }
  if s'.sq.bound.isNone || s'.sq.stopped || s'.sq.split ≤ thr || source = 0 || source = 5 || 7 < source ||
      (source = 1 && (s'.th.wait.begun || !s'.atEntry)) then .next s
  else
    let s' := s'.rollBack
    let rst : Word := if source = 1 || source = 4 || source = 6 then 1 else 0
    let s' := s'.loseState seq thr source
    let (v, s') := if source = 1 then s'.draw else (0, s')
    let tval := if bit v 0 then s'.th.pc else w64 source
    .next (enterTrap 0x3F s'.th.pc tval 0 rst (s'.traceEntry 4 0x3F))

/-- A copy command of a pod address that was queued to a port which fails ends with CODE 7; which commands were is free
(R22, log 15). The command, and whether it ended. -/
def Command.portFails (c : Command) (n : Nat) : Command × Bool :=
  match CopyDesc.ofBytes c.desc true with
  | some k =>
    if c.kind ≤ 1 && c.code.isNone && (k.spod || k.dpod) && Config.podFails n then
      ({ c with pagerStage := 0, fault := none, followDue := false, code := some 7, past := [] }, true)
    else (c, false)
  | none => (c, false)

/-- The copy commands of a unit when a peer port of its die fails. A fault record of the one at its head is withdrawn. -/
def State.portFailsAt (s : State) (u : Nat) : State :=
  let l := (s.unitQueue u).zipIdx.map fun (c, i) => c.portFails (s.free + i)
  if l = [] then s
  else
    let s := { s.setUnitQueue u (l.map (·.1)) with free := s.free + l.length }
    if l.head?.any (·.2) then
      let d := s.die (unitDie u)
      s.setDie (unitDie u) { d with records := d.records.filter fun r => !(r.thread.isNone && r.unit = u) }
    else s

/-- A peer port that can serve no more is failed: dead in its register and in `ppmap` (R22, R434). The commands that can
be queued to it, where the spec names no route, are those of the engines of its own die (DESIGN CHOICE, log 15). -/
def State.failPort (s : State) (die port : Nat) (p : Port) : State :=
  let s := s.setDie die { s.die die with port := Sparse.set (s.die die).port port { p with live := false } }
  let s := ((List.range 32).map (32 * die + ·) ++ [256 + die]).foldl State.portFailsAt s
  ({ s with ppmap := s.ppmap &&& ~~~(1#24 <<< (3 * die + port)) } : State).event 3 die 0 0 4 (w64 port) 0 0

/-- UNIT_FAIL: 1 a slice, 2 a pseudo-channel, 3 a frame engine, 4 a peer port of a die. -/
def execUnitFail (kind die unit : Nat) (s : State) : Host.Outcome State Fault Refusal :=
  let d := s.die die
  let told (s : State) : State := s.event 3 die 0 0 kind (w64 unit) 0 0
  if 8 ≤ die then .next s
  else if kind = 1 then
    .next (if unit < 64 && d.smap.getLsbD unit && !d.sfail.getLsbD unit then
      told (s.setDie die { d with sfail := d.sfail ||| (1#64 <<< unit) }) else s)
  else if kind = 2 then
    .next (if unit < 160 && d.pmap.getLsbD unit && !d.pfail.getLsbD unit then
      told (s.setDie die { d with pfail := d.pfail ||| (1#160 <<< unit) }) else s)
  else if kind = 3 then
    let f := s.frame die unit
    if 4 ≤ unit || !f.live then .next s
    else
      let q := f.queue.map fun c => { c with pagerStage := 0, fault := none, code := some (c.code.getD 7) }
      let s := s.setFrame die unit { f with live := false, ctxs := [], queue := q }
      let s := s.setDie die { s.die die with
        records := (s.die die).records.filter fun r => !(r.thread.isNone && r.unit = 264 + 4 * die + unit) }
      .next (told { s with femap := s.femap &&& ~~~(1#32 <<< (4 * die + unit)) })
  else if kind = 4 then
    let p := Sparse.get {} d.port unit
    .next (if 3 ≤ unit || !p.live then s else s.failPort die unit p)
  else .next s

/-- SOFT_ERROR_CORRECTED. One in a keyring entry drops the entry (R217); which unit's storage held the error is free, 0
to 255 naming the core's keyring entries by age and the rest none. -/
def execSoftErrorCorrected (core : Nat) (s : State) : Host.Outcome State Fault Refusal :=
  if 256 ≤ core then .next s
  else
    let (n, s) := s.draw
    let c := s.core core
    .next (s.setCore core { c with serrcnt := c.serrcnt + 1, ring := c.ring.eraseIdx n.toNat })

/-- EXPANSION_TABLE_REPLACE: refused unless its signature verifies and its generation is 3; then every translation
goes and VERSION rises. -/
def execExpansionTableReplace (generation : Nat) (verified : Bool) (s : State) : Host.Outcome State Fault Refusal :=
  .next (if verified && generation = 3 then { s.dropRings 4 0 with xtver := s.xtver + 1 } else s)

/-- LEAD_FABRIC_PREFETCH of a virtual address by the lead of the first sequencer bound on a core: the line fills the
core's tile buffer (R80); one homed on another die that the die's slices neither hold nor have asked for comes to them
as a fabric prefetch, from the replica where one serves it (R94, R436), and is lost at once where no copies are kept.
The lead waits at the limits of R91; a failed walk is dropped (R61). -/
def execLeadFabricPrefetch (core addr : Nat) (s : State) : Host.Outcome State Fault Refusal :=
  match s.resident4 core with
  | [] => .next s
  | q :: _ =>
    let s' := { s with cur := ⟨q, 0⟩ }
    let va := w64 addr
    if 1024 ≤ s'.cp.leadOut.length || !s'.portFree then .next s
    else if !canonical va || fld s'.sq.dxp 63 60 = 0 then .next (s'.bump 0x212 1)
    else
      let d := core / 32
      match s'.freshWalk d s'.sq.dxp s'.th.level ⟨0, true, false, false, false, false, 1⟩ (va.toNat % 2 ^ 57) true with
      | (.ok t, _, _) =>
        let n := lineOf t.pa
        if !t.place.isMem || t.pbmt ≠ 0 || s'.poisoned d t.pa then .next s
        else
          let held := (s'.die d).copies.any (fun c => c.1 = n) ||
            s'.cores.any (fun c => c.1 / 32 = d && (c.2.prefetched.contains n || c.2.leadOut.any (lineOf ·.1 = n)))
          let s1 := if homeDie t.pa = d || held then s'
            else
              let s1 := s'.bump 0x214 1
              let s1 := s1.setCp { s1.cp with prefetched := n :: s1.cp.prefetched }
              if s1.sched.lazy || s1.sched.caching then s1 else s1.setCp (s1.cp.waste (· = n))
          .next (if s1.sched.lazy then s1.setCp { s1.cp with leadOut := s1.cp.leadOut ++ [(t.pa, t.pbmt, t.slot)] }
            else s1.hintFill core t .both)
      | _ => .next (s'.bump 0x212 1)

end Sys2Proof.Machine
end

