-- ==== Sys2Proof/Machine/Objects.lean ====
section
/-! DEFINITION. Code objects: their form (R206 to R209), loading one into a context (R231 to R233) and unloading it
(R235 to R237). -/

namespace Sys2Proof.Machine

/-! ## The form of an object -/

def natAt (bs : List Byte) (off n : Nat) : Nat := natOfBytes ((bs.drop off).take n)

/-- A table of `n` entries of `size` bytes at an offset. -/
def entriesAt (bs : List Byte) (off size n : Nat) : List (List Byte) :=
  (List.range n).map fun i => (bs.drop (off + size * i)).take size

/-- A section entry and its bytes. -/
structure Section where
  flags : Nat
  align : Nat
  bytes : List Byte
deriving DecidableEq, Repr

structure Sym where
  name : List Byte
  sect : Nat
  value : Nat
  global : Bool
  hash : BitVec 256
deriving DecidableEq, Repr

structure Reloc where
  sect : Nat
  type : Nat
  off : Nat
  sym : Nat
  addend : Int
deriving DecidableEq, Repr

structure Stg where
  kernel : List Byte
  sym : Nat
  stage : Nat
  n : Nat
  x : Nat
  tiles : Nat
  share : Nat
deriving DecidableEq, Repr

structure Fco where
  gen : Nat
  sects : List Section
  syms : List Sym
  rels : List Reloc
  stages : List Stg
deriving DecidableEq, Repr

/-- Section indexes that name no section. -/
def sectExternal : Nat := 0xFFFFFFFF
def sectAbsolute : Nat := 0xFFFFFFFE

/-- A zero-terminated string of the string table. -/
def strAt (strs : List Byte) (off : Nat) : Option (List Byte) :=
  let l := strs.drop off
  let name := l.takeWhile (· ≠ 0)
  if name.length < l.length then some name else none

/-- All of a list, or none. -/
def allSome {α : Type} : List (Option α) → Option (List α)
  | [] => some []
  | some a :: l => (allSome l).map (a :: ·)
  | none :: _ => none

def Section.ofBytes (file strs e : List Byte) : Option Section :=
  let flags := natAt e 4 4
  let off := natAt e 8 8
  let size := natAt e 16 8
  let al := natAt e 24 8
  if (strAt strs (natAt e 0 4)).isNone || 16 ≤ flags || (flags.testBit 1 && flags.testBit 2) ||
      !(List.range 13).any (fun k => al = 2 ^ k) || (!flags.testBit 3 && file.length < off + size) then none
  else some ⟨flags, al, if flags.testBit 3 then List.replicate size 0 else (file.drop off).take size⟩

/-- A symbol entry. HASH is taken as found: no status of Table 9.10 is for one that is not the SHA-256 of the body, or
that is nonzero without one (DESIGN CHOICE, log 50). -/
def Sym.ofBytes (strs : List Byte) (sects : List Section) (e : List Byte) : Option Sym :=
  let sect := natAt e 4 4
  let value := natAt e 8 8
  match strAt strs (natAt e 0 4) with
  | none => none
  | some name =>
    let inside : Bool := match sects[sect]? with
      | some s => decide (value + natAt e 16 8 ≤ s.bytes.length)
      | none => decide (sect = sectExternal) || decide (sect = sectAbsolute)
    if !inside || 1 < natAt e 24 4 || 2 < natAt e 28 4 then none
    else some ⟨name, sect, value, natAt e 24 4 = 1, BitVec.ofNat 256 (natAt e 32 32)⟩

def Reloc.ofBytes (sects : List Section) (nsym : Nat) (e : List Byte) : Option Reloc :=
  let r : Reloc := ⟨natAt e 0 4, natAt e 4 4, natAt e 8 8, natAt e 16 4, sval 64 (natAt e 24 8)⟩
  match sects[r.sect]? with
  | none => none
  | some s =>
    if nsym ≤ r.sym || natAt e 20 4 ≠ 0 || s.bytes.length < r.off + (if r.type = 1 then 8 else 4) then none else some r

def Stg.ofBytes (strs : List Byte) (nsym : Nat) (e : List Byte) : Option Stg :=
  match strAt strs (natAt e 0 4) with
  | none => none
  | some k =>
    if nsym ≤ natAt e 4 4 || natAt e 14 18 ≠ 0 then none
    else some ⟨k, natAt e 4 4, natAt e 8 1, natAt e 9 1, natAt e 10 2, natAt e 12 1, natAt e 13 1⟩

/-- The object, or none where a header, table or section is refused (status BADOBJ). -/
def Fco.ofBytes (bs : List Byte) : Option Fco :=
  let at4 (o : Nat) := natAt bs o 4
  let at8 (o : Nat) := natAt bs o 8
  let fits (off size n : Nat) : Bool := off % 8 = 0 && decide (off + size * n ≤ bs.length)
  if bs.length < 128 || at4 0 ≠ 0x004F4346 || natAt bs 6 2 ≠ 0 || natAt bs 0x48 0x38 ≠ 0 ||
      !fits (at8 0x18) 32 (at4 8) || !fits (at8 0x20) 64 (at4 0xC) || !fits (at8 0x28) 32 (at4 0x10) ||
      !fits (at8 0x30) 32 (at4 0x14) || bs.length < at8 0x38 + at8 0x40 then none
  else
    let strs := (bs.drop (at8 0x38)).take (at8 0x40)
    match allSome ((entriesAt bs (at8 0x18) 32 (at4 8)).map (Section.ofBytes bs strs)) with
    | none => none
    | some sects =>
      match allSome ((entriesAt bs (at8 0x20) 64 (at4 0xC)).map (Sym.ofBytes strs sects)),
          allSome ((entriesAt bs (at8 0x28) 32 (at4 0x10)).map (Reloc.ofBytes sects (at4 0xC))),
          allSome ((entriesAt bs (at8 0x30) 32 (at4 0x14)).map (Stg.ofBytes strs (at4 0xC))) with
      | some syms, some rels, some stages => some ⟨natAt bs 4 2, sects, syms, rels, stages⟩
      | _, _, _ => none

/-- A stage entry within R72 and Table 7.1. -/
def Fco.stageOk (o : Fco) (g : Stg) : Bool :=
  (g.n = 8 || g.n = 16 || g.n = 32) && g.x % 32 = 0 && decide (g.x ≤ 992) && decide (g.tiles ≤ 48) &&
  decide (g.share ≤ 2) && decide (g.stage < 8) &&
  (match o.syms[g.sym]? with
    | some y =>
      (match o.sects[y.sect]? with
        | some s => s.flags.testBit 2 && y.value % 4 = 0
        | none => false)
    | none => false)

/-! ## Relocation (R208) -/

/-- The low n bits of a word replaced. -/
def putLow (w n v : Nat) : Nat := w - w % 2 ^ n + v % 2 ^ n

/-- The patched bytes, or none where the value does not fit. `p` is the address of the word, `v` is S + A; `t` is
T − S of a PCLO14 entry. -/
def Reloc.value (r : Reloc) (p : Nat) (v : Int) (t : Option Int) (old : List Byte) : Option (List Byte) :=
  let w := natOfBytes (old.take 4)
  let word (n x : Nat) : Option (List Byte) := some (bytesOfNat 4 (putLow w n x))
  let d := sval 64 (pat 64 (v - p))
  let at4 : Bool := r.off % 4 = 0
  let hi (x : Int) : Option (List Byte) :=
    if at4 && decide (-2 ^ 31 ≤ x) && decide (x < 2 ^ 31 - 2048) then word 20 (pat 20 ((x + 0x800) / 4096)) else none
  let lo (x : Int) : Option (List Byte) := if at4 then word 14 (pat 14 (sval 12 (pat 12 x))) else none
  let branch (n : Nat) : Option (List Byte) :=
    if at4 && d % 4 = 0 && decide (-2 ^ (n - 1) ≤ d / 4) && decide (d / 4 < 2 ^ (n - 1)) then word n (pat n (d / 4)) else none
  if r.type = 1 then some (bytesOfNat 8 (pat 64 v))
  else if r.type = 2 then (if 0 ≤ v ∧ v < 2 ^ 32 then some (bytesOfNat 4 (pat 32 v)) else none)
  else if r.type = 3 then branch 14
  else if r.type = 4 then branch 25
  else if r.type = 5 then hi v
  else if r.type = 6 then lo v
  else if r.type = 7 then hi d
  else if r.type = 8 then
    (match t with
      | some x => lo x
      | none => none)
  else none

/-- Section bytes with some replaced. -/
def patchAt (bs : List Byte) (off : Nat) (new : List Byte) : List Byte :=
  bs.take off ++ new ++ bs.drop (off + new.length)

/-- Every relocation applied: the sections' bytes, given the sections' and the symbols' addresses. -/
def relocate (base addr : List Nat) (all : List Reloc) : List Reloc → List (List Byte) → Option (List (List Byte))
  | [], secs => some secs
  | r :: rs, secs =>
    let sAddr := addr.getD r.sym 0
    let place (r : Reloc) : Nat := base.getD r.sect 0 + r.off
    let v := sval 64 (pat 64 ((sAddr : Int) + r.addend))
    let t := (all.find? (fun q => q.type = 7 && place q = sAddr)).map fun q =>
      ((addr.getD q.sym 0 : Nat) : Int) + q.addend - sAddr
    let bs := secs.getD r.sect []
    match r.value (place r) v t ((bs.drop r.off).take 8) with
    | none => none
    | some new => relocate base addr all rs (secs.set r.sect (patchAt bs r.off new))

/-! ## Mapping pages -/

/-- A page of physical memory filled under a key slot; none where an access to it fails (R22, R43). -/
def State.fillPage (s : State) (slot pa : Nat) (bs : List Byte) : Option State :=
  let fails (pa : Nat) : Bool := (s.place pa).isMem && (s.unitFailed pa || (decide (pa < 0x8000000000) && !s.slotUsable slot))
  if (List.range 32).any fun i => fails (pa + 128 * i) then none
  else some ((List.range 32).foldl (fun s i =>
    let l := (bs.drop (128 * i)).take 128
    s.physWrite (pa + 128 * i) (l ++ List.replicate (128 - l.length) 0) (some (s.slot slot).key)) s)

/-- A table entry written under the walk's key. -/
def State.pteWrite (s : State) (dxp : Word) (pa : Nat) (e : Word) : State :=
  s.physWrite pa (dwordBytes e) (some (s.slot (walkSlot dxp)).key)

/-- The leaf of an unmapped page written, with tables from the pool where the walk finds none. -/
def mapFrom (dxp : Word) (va : Nat) (leaf : Word) : Nat → Option Nat → List Nat → State → Option (List Nat × State)
  | _, none, _, _ => none
  | 0, some t, pool, s =>
    let a := t + 8 * ((va >>> 12) % 512)
    match s.pteRead dxp a with
    | none => none
    | some e => if bit e 0 then none else some (pool, s.pteWrite dxp a leaf)
  | l + 1, some t, pool, s =>
    let a := t + 8 * ((va >>> (12 + 9 * (l + 1))) % 512)
    match s.pteRead dxp a with
    | none => none
    | some e =>
      if bit e 0 then
        if fld e 3 1 ≠ 0 || pointerMalformed e (l + 1) then none
        else mapFrom dxp va leaf l (s.ppnAddr (fld dxp 63 60) (fld e 49 10) 0) pool s
      else
        match pool with
        | [] => none
        | p :: ps =>
          match (s.ppnAddr (fld dxp 63 60) p 0).bind fun pa => (s.fillPage (walkSlot dxp) pa []).map (pa, ·) with
          | none => none
          | some (pa, s) => mapFrom dxp va leaf l (some pa) ps (s.pteWrite dxp a (w64 (p * 1024 + 1)))

/-- Pages mapped one after another and filled: virtual address, physical page, leaf flags, contents. A page that an access
fails to is no memory for the object (R22, R43, status NOSPACE). -/
def mapPages (dxp : Word) : List (Nat × Nat × Nat × List Byte) → List Nat → State → Option State
  | [], _, s => some s
  | (va, ppn, flags, bs) :: l, pool, s =>
    match mapFrom dxp va (w64 (ppn * 1024 + flags)) 4 (s.ppnAddr (fld dxp 63 60) (fld dxp 39 0) 0) pool s with
    | none => none
    | some (pool, s) =>
      match s.ppnAddr (fld dxp 63 60) ppn 0 with
      | none => none
      | some pa =>
        match s.fillPage 0 pa bs with
        | some s' => if (s.place pa).isMem || decide (0x800000000000 ≤ pa) then mapPages dxp l pool s' else none
        | none => none

/-- V, R, U and what the section's flags add (R231). -/
def Section.leaf (x : Section) : Nat :=
  0x13 + (if x.flags.testBit 2 then 8 else 0) + (if x.flags.testBit 1 then 4 else 0)

/-! ## Loading (R231 to R233) -/

/-- How a LOAD or UNLOAD ends: status of Table 9.10 and INFO. -/
abbrev Loaded := Nat × Word × State

/-- Pages of a section. -/
def Section.pages (x : Section) : Nat := (x.bytes.length + 4095) / 4096

/-- Addresses of the sections, laid page after page from `va`. -/
def sectionBases : List Section → Nat → List Nat
  | [], _ => []
  | x :: l, va => va :: sectionBases l (va + 4096 * x.pages)

/-- The address of a symbol once loaded: an external one's definition, a shared definition, or its own. -/
def Sym.address (y : Sym) (table : List Symbol) (base : List Nat) : Option Nat :=
  let old := table.find? fun g => g.name = y.name
  if y.sect = sectExternal then old.map fun g => g.addr.toNat
  else
    let own := if y.sect = sectAbsolute then y.value else base.getD y.sect 0 + y.value
    match old with
    | some g => some (if y.global && g.hash = y.hash && y.hash ≠ 0 then g.addr.toNat else own)
    | none => some own

/-- A global definition that clashes with the table (R233). -/
def Sym.clashes (y : Sym) (table : List Symbol) : Bool :=
  y.global && y.sect ≠ sectExternal && table.any fun g => g.name = y.name && (g.hash ≠ y.hash || y.hash = 0)

/-- Globals entered in turn; none where one clashes. -/
def enterSymbols (handle : Nat) : List (Sym × Nat) → List Symbol → Option (List Symbol)
  | [], table => some table
  | (y, a) :: l, table =>
    if y.clashes table then none
    else if y.global && y.sect ≠ sectExternal && !table.any (fun g => g.name = y.name) then
      enterSymbols handle l (table ++ [⟨y.name, w64 a, y.hash, handle⟩])
    else enterSymbols handle l table

/-- An object placed in a context, whole or not at all. `q` is the packet's queue. -/
def State.loadObject (s : State) (ctx q : Nat) (bs : List Byte) : Loaded :=
  let c := s.context ctx
  let again := c.objects.find? fun o =>
    c.ord && o.unloadedAt.isNone && o.bytes = bs && !o.refs.contains q
  match again with
  | some o =>
    (0, w64 o.handle, s.setContext ctx { c with objects := c.objects.map fun p =>
      if p.handle = o.handle then { p with refs := p.refs ++ [q] } else p })
  | none =>
    match Fco.ofBytes bs with
    | none => (1, 0, s)
    | some o =>
      if 3 < o.gen || !s.feature o.gen then (2, 0, s)
      else if !o.stages.all o.stageOk then (6, 0, s)
      else
        let total := o.sects.foldl (fun n x => n + x.pages) 0
        match Config.loadPlace s.free total with
        | none => (7, 0, { s with free := s.free + 1 })
        | some (va, phys) =>
          let s1 := { s with free := s.free + 1 }
          let base := sectionBases o.sects (va.toNat / 4096 * 4096)
          match allSome (o.syms.map fun y => y.address c.symbols base) with
          | none => (4, 0, s1)
          | some addr =>
            match relocate base addr o.rels o.rels (o.sects.map (·.bytes)) with
            | none => (5, 0, s1)
            | some secs =>
              let (handle, s2) := s1.fresh
              match enterSymbols handle (o.syms.zip addr) c.symbols with
              | none => (3, 0, s1)
              | some table =>
                let pages := ((o.sects.zip base).zip secs).flatMap fun ((x, b), d) =>
                  (List.range x.pages).map fun i => (b + 4096 * i, x.leaf, (d.drop (4096 * i)).take 4096)
                let jobs := (pages.zip phys).map fun ((a, f, d), p) => (a, p, f, d)
                match (if phys.length < total then none else mapPages c.dxp jobs (phys.drop total) s2) with
                | none => (7, 0, s1)
                | some s3 =>
                  let shares := (o.syms.filterMap fun y =>
                    if y.global && y.sect ≠ sectExternal then
                      (c.symbols.find? fun g => g.name = y.name).map fun g => (g.handle, g.name)
                    else none)
                  let obj : Object := ⟨handle, bs, shares, if c.ord then [q] else [], none, pages.map fun p => w64 p.1⟩
                  let stages := o.stages.map fun g =>
                    (⟨handle, g.kernel, g.stage, g.n, g.x, g.tiles, g.share, w64 (addr.getD g.sym 0)⟩ : StageEntry)
                  (0, w64 handle, s3.setContext ctx { c with
                    objects := c.objects ++ [obj]
                    symbols := table
                    stages := c.stages ++ stages })

/-! ## Unloading (R235 to R237) -/

/-- A loaded object of a context. -/
def Context.loaded (c : Context) (handle : Nat) : Option Object :=
  c.objects.find? fun o => o.handle = handle && o.unloadedAt.isNone

/-- Symbols left when an object goes: those that another loaded object defines or shares (R233, R235). -/
def Context.symbolsWithout (c : Context) (handle : Nat) : List Symbol :=
  c.symbols.filter fun y => c.objects.any fun o =>
    o.handle ≠ handle && o.unloadedAt.isNone && (o.handle = y.handle || o.shares.contains (y.handle, y.name))

/-- UNLOAD of a handle for a queue: the status and the state. -/
def State.unloadObject (s : State) (ctx q handle : Nat) : Nat × State :=
  let c := s.context ctx
  match c.loaded handle with
  | none => (10, s)
  | some o =>
    let gone (u : BitVec 32) : Context := { c with
      objects := c.objects.map fun p => if p.handle = handle then { p with unloadedAt := some u, refs := [] } else p
      symbols := c.symbolsWithout handle
      stages := c.stages.filter fun g => g.handle ≠ handle }
    if !c.ord then (0, (s.setContext ctx { gone c.gen with gen := c.gen + 1 }).reap ctx)
    else if !o.refs.contains q then (9, s)
    else if o.refs = [q] then
      -- no launch of another queue runs it: its own references are gone (R237); R233 keeps pages that are shared
      let s := s.setContext ctx { gone (c.gen - 1) with symbols := c.symbols.filter fun y => y.handle ≠ handle }
      (0, (s.reap ctx).dropContext ctx)
    else
      (0, s.setContext ctx { c with objects := c.objects.map fun p =>
        if p.handle = handle then { p with refs := p.refs.filter (· ≠ q) } else p })

end Sys2Proof.Machine
end

