-- ==== Sys2Proof/Machine/Packets.lean ====
section
/-! DEFINITION. Launch queues and their packets (R384 to R390, R394): the beginning of a packet, its checks, and the
packets other than LAUNCH; and the acceptance of a launch. -/

namespace Sys2Proof.Machine

/-! ## The next packet of a queue (R384 to R386) -/

def pktKind (bs : List Byte) : Nat := fld (dwordOf bs 0) 63 56

/-- Packets of a queue begun and not completed that a later packet waits for: all but LAUNCH and GRAPH. -/
def Queue.blocked (k : Queue) : Bool := k.begun.any fun b => pktKind b.2.2 ≠ 1 && pktKind b.2.2 ≠ 2

/-- The next packet of an enabled queue: none where there is none, `some none` where it cannot be read. -/
def State.peek (s : State) (q : Nat) : Option (Option (List Byte)) :=
  let k := s.queue q
  let c := s.context k.ctx
  if !k.en || k.err || !c.v || c.busy || k.prod = k.cons then none
  else
    let pa := k.base * 64 + k.cons.toNat % 2 ^ k.lsize * 64
    match s.place pa with
    | .hbm _ => if s.unitFailed pa || !s.slotUsable 0 then some none else some (some (s.physRead pa 64 s.key0))
    | .window _ => if s.unitFailed pa then some none else some (some (s.physRead pa 64 none))
    | .host _ => some (some (s.physRead pa 64 none))
    | _ => some none

/-- Whether the next packet of a queue can begin: R386, and room in the unit it goes to (R148, R366). -/
def State.canBegin (s : State) (q : Nat) : Bool :=
  let k := s.queue q
  match s.peek q with
  | some (some bs) =>
    let kind := pktKind bs
    let die := fld (dwordOf bs 0) 2 0
    !k.blocked &&
    (kind ≠ 6 || decide (k.begun = [])) &&
    (kind ≠ 4 || !(s.context k.ctx).ord || decide (k.begun = [])) &&
    (kind ≠ 2 || !s.walkerFull die) &&
    (kind ≠ 7 || decide ((s.unitQueue (256 + die)).length < 16))
  | some none => !k.blocked
  | none => false

/-- The queue that is served next: the highest PRIO, then the one served least recently (R385). -/
def State.nextQueue (s : State) : Option Nat :=
  (s.queues.foldl (fun (best : Option (Nat × Queue)) (q, k) =>
    if !s.canBegin q then best
    else
      match best with
      | none => some (q, k)
      | some (_, b) => if b.prio < k.prio || (b.prio = k.prio && k.served < b.served) then some (q, k) else best) none).map
    (·.1)

/-- The next packet of a queue begins, where it is of the kind asked for and the queue's turn: CONS passes it, and the
dispatcher acquires the packets completed before it. Every write before it is applied (R384). -/
def State.beginPacket (s : State) (q : Nat) (want : List Byte → Bool) : Option (List Byte × BitVec 32 × State) :=
  let s := s.drain
  if s.nextQueue ≠ some q || s.flights ≠ [] then none
  else
    match s.peek q with
    | some (some bs) =>
      if !want bs then none
      else
        let (n, s) := s.fresh
        let k := s.queue q
        let idx := BitVec.ofNat 32 n
        let s := s.setQueue q { k with cons := k.cons + 1, begun := k.begun ++ [(idx, k.ctx, bs)], served := n }
        some (bs, idx, s.setDie 0 { s.die 0 with dispatcher := (s.die 0).dispatcher.join k.front })
    | _ => none

/-- A queue whose next packet cannot be read stops with ECODE 3. -/
def State.stopUnreadable (s : State) (q : Nat) : State :=
  match s.peek q with
  | some none => s.setQueue q { s.queue q with err := true, ecode := 3 }
  | _ => s

/-! ## Packet checks and accesses (R387) -/

/-- Reserved fields: `karg` bits of KARG and the dwords listed are used. -/
def packetOk (bs : List Byte) (device : Bool) (karg : Nat) (used : List Nat) : Bool :=
  let h := dwordOf bs 0
  fld h 52 43 = 0 && (device || fld h 55 54 = 0) && decide (fld h 31 0 < 2 ^ karg) && (dwordOf bs 8).toNat % 16 = 0 &&
  (List.range 6).all fun i => used.contains (16 + 8 * i) || dwordOf bs (16 + 8 * i) = 0

/-- The dispatcher of a die as a party of a context. -/
def State.dispatch (s : State) (die ctx : Nat) : Party := ⟨die, 32 * die, (s.context ctx).dxp, .supervisor⟩

/-- An access of a packet: a failure is a status, FAULT for every translation or access failure. -/
def eFault {α : Type} (act : E α) : E α := fun e =>
  match act e with
  | .error (.code _) e' => .error (.code 14) e'
  | .error (.page _) e' => .error (.code 14) e'
  | r => r

/-- A dispatcher's work: its result or status, and the module; none where it must wait. -/
def State.byDispatcher {α : Type} (s : State) (die : Nat) (act : E α) : Option (Except Nat α × State) :=
  let keep (e : Eng) : State := e.s.setDie die { e.s.die die with dispatcher := e.front }
  match act (.start s (s.die die).dispatcher) with
  | .ok a e => some (.ok a, keep e)
  | .error (.code n) e => some (.error n, keep e)
  | .error (.page _) e => some (.error 14, keep e)
  | .error .busy _ => none

/-- The rest of a packet that has begun: its status and INFO, at once; or the module as the packet leaves it in
progress. A packet that must wait has not begun. -/
def State.runPacket (s0 : State) (q : Nat) (want : List Byte → Bool)
    (act : List Byte → BitVec 32 → State → Option (Option (Nat × Word) × State)) : Host.Outcome State Fault Refusal :=
  match s0.beginPacket q want with
  | none => .next (s0.stopUnreadable q)
  | some (bs, idx, s) =>
    match act bs idx s with
    | none => .next s0
    | some (some (st, info), s) => .next (s.completePacket q idx st info)
    | some (none, s) => .next s

/-- Until the first feature commit, LAUNCH, GRAPH and LOAD packets complete with NOFEAT (R230). -/
def State.noFeat (s : State) : Bool := !bit s.featstat 63

/-! ## GRAPH, LOAD, UNLOAD, FENCE, COPY -/

/-- GRAPH_PACKET. -/
def execGraphPacket (queue : Nat) (s : State) : Host.Outcome State Fault Refusal :=
  s.runPacket queue (fun bs => pktKind bs = 2) fun bs idx s =>
    let ctx := (s.queue queue).ctx
    let die := fld (dwordOf bs 0) 2 0
    let va := dwordOf bs 16
    if s.noFeat then some (some (8, 0), s)
    else if !packetOk bs false 3 [16] || va.toNat % 256 ≠ 0 then some (some (11, 0), s)
    else
      match s.byDispatcher 0 (eFault (eReadAll (s.dispatch 0 ctx) va 256)) with
      | none => none
      | some (.error n, s) => some (some (n, 0), s)
      | some (.ok hd, s) =>
        let (id, s) := s.fresh
        let g : Graph := ⟨id, die, va, (s.context ctx).dxp, .supervisor, ctx, none, 0, idx.toNat, 0, some queue,
          fld (dwordOf hd 0) 15 0, 0, [], [], [], none, [], [], [], none, false⟩
        some (none, s.submitGraph g (s.die 0).dispatcher)

/-- LOAD_PACKET. -/
def execLoadPacket (queue : Nat) (s : State) : Host.Outcome State Fault Refusal :=
  s.runPacket queue (fun bs => pktKind bs = 3) fun bs _ s =>
    let ctx := (s.queue queue).ctx
    if s.noFeat then some (some (8, 0), s)
    else if !packetOk bs false 0 [16, 24] then some (some (11, 0), s)
    else
      match s.byDispatcher 0 (eFault (eReadAll (s.dispatch 0 ctx) (dwordOf bs 16) (dwordOf bs 24).toNat)) with
      | none => none
      | some (.error n, s) => some (some (n, 0), s)
      | some (.ok obj, s) =>
        let (st, info, s) := s.loadObject ctx queue obj
        some (some (st, info), s)

/-- UNLOAD_PACKET. -/
def execUnloadPacket (queue : Nat) (s : State) : Host.Outcome State Fault Refusal :=
  s.runPacket queue (fun bs => pktKind bs = 4) fun bs _ s =>
    if !packetOk bs false 0 [16] then some (some (11, 0), s)
    else
      let (st, s) := s.unloadObject (s.queue queue).ctx queue (dwordOf bs 16).toNat
      some (some (st, 0), s)

/-- FENCE_PACKET. -/
def execFencePacket (queue : Nat) (s : State) : Host.Outcome State Fault Refusal :=
  s.runPacket queue (fun bs => pktKind bs = 6) fun bs _ s =>
    some (some (if packetOk bs false 0 [] then 0 else 11, 0), s)

/-- COPY_PACKET: a command of the die's walker (R368). -/
def execCopyPacket (queue : Nat) (s : State) : Host.Outcome State Fault Refusal :=
  s.runPacket queue (fun bs => pktKind bs = 7) fun bs idx s =>
    let ctx := (s.queue queue).ctx
    let die := fld (dwordOf bs 0) 2 0
    let va := dwordOf bs 16
    if !packetOk bs false 3 [16] || va.toNat % 128 ≠ 0 then some (some (11, 0), s)
    else
      match s.byDispatcher 0 (eFault (eReadAll (s.dispatch 0 ctx) va 128)) with
      | none => none
      | some (.error n, s) => some (some (n, 0), s)
      | some (.ok desc, s) =>
        let (id, s) := s.fresh
        let front := (s.die 0).dispatcher
        let c : Command := ⟨id, 0, desc, none, 0, idx.toNat, 0, front, (s.context ctx).dxp, .supervisor, ctx, 0, 0,
          some queue, none, 0, none, false, 0, none, 0, front, 0, []⟩
        some (none, s.setUnitQueue (256 + die) (s.unitQueue (256 + die) ++ [c]))

/-! ## BOLT packets -/

/-- A bolt's address for a packet: FAULT where it does not translate or R135 refuses it. -/
def eBoltTarget (p : Party) (va : Word) : E Target := eFault (do
  let t ← eTarget p true 16 va 16
  let s ← eState
  if !t.place.isMem || s.poisoned p.die t.pa then eEnd 3
  pure t)

def boltOp (bs : List Byte) : Nat := fld (dwordOf bs 0) 0 0

/-- The BOLT packet of an operation in progress in a queue. -/
def Queue.boltPacket (k : Queue) (op : Nat) : Option (BitVec 32 × Nat × List Byte) :=
  if k.boltWait.isSome then k.begun.find? (fun b => pktKind b.2.2 = 5 && boltOp b.2.2 = op) else none

/-- BOLT_ARRIVE_PACKET: the arrive is sent, and the packet completes once it is performed. -/
def execBoltArrivePacket (queue : Nat) (s : State) : Host.Outcome State Fault Refusal :=
  let k := s.queue queue
  match k.boltPacket 0, k.boltWait with
  | some (idx, _), some (_, id) =>
    if s.flights.any (fun f => f.id = id) then .next s
    else .next ((s.setQueue queue { k with boltWait := none }).completePacket queue idx 0 0)
  | _, _ =>
  s.runPacket queue (fun bs => pktKind bs = 5 && boltOp bs = 0) fun bs _ s =>
    let p := s.dispatch 0 (s.queue queue).ctx
    let va := dwordOf bs 16
    if !packetOk bs false 2 [16, 24] || fld (dwordOf bs 24) 63 48 ≠ 0 || va.toNat % 16 ≠ 0 then some (some (11, 0), s)
    else
      match s.byDispatcher 0 (eBoltTarget p va) with
      | none => none
      | some (.error n, s) => some (some (n, 0), s)
      | some (.ok t, s) =>
        if s.overdue 0 then none
        else
          let f := (s.die 0).dispatcher
          let (id, st, s) := s.boltSend 0 f t.pa ⟨2, fld (dwordOf bs 24) 47 0, 0, f⟩ (s.slot t.slot).key (some 4) none
          let s := s.setDie 0 { s.die 0 with dispatcher := (s.die 0).dispatcher.join st }
          if s.flights.any (fun f => f.id = id) then
            some (none, s.setQueue queue { s.queue queue with boltWait := some (0, id) })
          else some (some (0, 0), s)

/-- BOLT_WAIT_PACKET: the wait begins, and is satisfied at once where PH differs; one that waits is satisfied by the
first flip after its registration (R141). INFO is PH. -/
def execBoltWaitPacket (queue : Nat) (s : State) : Host.Outcome State Fault Refusal :=
  let k := s.queue queue
  match k.boltPacket 1, k.boltWait with
  | some (idx, _, bs), some (pa, flips) =>
    if (s.boltStamps pa).flips = flips then .next s
    else
      let s := s.setQueue queue { k with boltWait := none }
      let s := s.setDie 0 { s.die 0 with dispatcher := (s.die 0).dispatcher.join (s.boltStamps pa).last }
      .next (s.completePacket queue idx 0 (if bit (dwordOf bs 0) 1 then 0 else 1))
  | _, _ =>
    s.runPacket queue (fun bs => pktKind bs = 5 && boltOp bs = 1) fun bs _ s =>
      let p := s.dispatch 0 (s.queue queue).ctx
      let va := dwordOf bs 16
      if !packetOk bs false 2 [16] || va.toNat % 16 ≠ 0 then some (some (11, 0), s)
      else
        match s.byDispatcher 0 (eBoltTarget p va) with
        | none => none
        | some (.error n, s) => some (some (n, 0), s)
        | some (.ok t, s) =>
          let ph := (s.boltAt t.pa (s.slot t.slot).key).ph
          if ph ≠ bit (dwordOf bs 0) 1 then
            let s := s.setDie 0 { s.die 0 with dispatcher := (s.die 0).dispatcher.join (s.boltStamps t.pa).last }
            some (some (0, if ph then 1 else 0), s)
          else
            some (none, s.setQueue queue { s.queue queue with boltWait := some (t.pa, (s.boltStamps t.pa).flips) })

/-- BOLT_PACKET_STALL: a wait that no flip has satisfied passes its context's BOLTLIM. -/
def execBoltPacketStall (queue : Nat) (s : State) : Host.Outcome State Fault Refusal :=
  let k := s.queue queue
  match k.boltPacket 1, k.boltWait with
  | some (idx, ctx, bs), some (pa, flips) =>
    if (s.context ctx).boltlim = 0 || (s.boltStamps pa).flips ≠ flips then .next s
    else .next ((s.setQueue queue { k with boltWait := none }).completePacket queue idx 15
      (if bit (dwordOf bs 0) 1 then 1 else 0))
  | _, _ => .next s

/-! ## Shares (R152) -/

/-- D of a footprint (R72). -/
def depthOf (n x : Nat) : Nat :=
  let f := n + x
  if f ≤ 128 then 8 else if f ≤ 256 then 4 else if f ≤ 512 then 2 else 1

/-- Group masks of a share kind. -/
def masksOf (kind : Nat) : List Nat := if kind = 0 then [15] else if kind = 1 then [3, 12] else [1, 2, 4, 8]

/-- Whether a share meets R152 for a stage, whatever it holds now. -/
def State.meets (s : State) (r : StageRun) (core groups : Nat) : Bool :=
  let l := ((s.core core).lanesOf groups).length
  decide (core < 256) && (s.die (core / 32)).lcmap.getLsbD (core % 32) && r.dies.getLsbD (core / 32) &&
  (masksOf r.share).contains groups && decide (0 < l) &&
  (r.tiles = 0 || decide (4096 ≤ l * 64 * depthOf r.n r.x)) && decide (r.tiles ≤ kindTiles r.share)

/-- Shares of a kind: core and groups. -/
def sharesOf (kind : Nat) : List (Nat × Nat) :=
  (List.range 256).flatMap fun c => (masksOf kind).map fun g => (c, g)

/-! ## Accepting a launch (R389, R390) -/

/-- A pod address: one that names a module by bits 61:57 (R298). -/
def podForm (va : Word) : Bool := fld va 63 62 = 0 && !bit va 56 && fld va 61 57 ≠ 0

/-- A header's or bolt's place: FAULT for a walk, permission or key failure, BADPIPE outside memory or for a page that
is not PBMT 0 or 1. -/
def ePlace (p : Party) (w : Bool) (va : Word) : E Target := fun e =>
  let s := e.s
  let a : Acc := ⟨if w then 11 else 10, !w, w, false, false, false, 64⟩
  if !canonical va then .error (.code (if podForm va && !s.feature 18 then 12 else 14)) e
  else
    match s.walkFrom p.dxp (va.toNat % 2 ^ 57) 4 (s.ppnAddr (fld p.dxp 63 60) (fld p.dxp 39 0) 0) with
    | .leaf l _ lvl =>
      match s.leafCheck p.die p.dxp p.level a (va.toNat % 2 ^ 57) l lvl, s.leafAddr p.dxp l lvl (va.toNat % 2 ^ 57) with
      | .page _ _, _ => .error (.code 14) e
      | .wait, _ => .error .busy e
      | _, none => .error (.code 12) e
      | _, some pa =>
        if !(s.place pa).isMem || fld l 62 61 = 2 then .error (.code 12) e
        else eFault (eTarget p w 64 va 64) e
    | .wait => .error .busy e
    | _ => .error (.code 14) e

/-- A status caught instead of ending the work. -/
def eTry {α : Type} (act : E α) : E (Except Nat α) := fun e =>
  match act e with
  | .ok a e' => .ok (.ok a) e'
  | .error (.code n) e' => .ok (.error n) e'
  | .error (.page _) e' => .ok (.error 14) e'
  | .error .busy e' => .error .busy e'

/-- A stage's input queue as the dispatcher reads it. -/
def eHeader (p : Party) (va : Word) : E (Head × QHeader) := do
  if va.toNat % 64 ≠ 0 then eEnd 12
  let t ← ePlace p false va
  let bs ← eFault (eRead p 64 va 64)
  let h := QHeader.ofBytes bs
  if (h.fault true).isSome then eEnd 12
  pure (t.head, h)

/-- Each stage's header, or the status its reading met. -/
def eHeaders (p : Party) (desc : List Byte) : Nat → Nat → E (List (Except Nat (Head × QHeader)))
  | 0, _ => pure []
  | n + 1, j => do
    let h ← eTry (eHeader p (dwordOf desc (0x40 + 32 * j)))
    let l ← eHeaders p desc n (j + 1)
    pure (h :: l)

def isStatus {α : Type} (n : Nat) : Except Nat α → Bool
  | .error m => m = n
  | .ok _ => false

/-- Distinct kernel names of an object in table order. -/
def kernels : List StageEntry → List (List Byte)
  | [] => []
  | g :: l => let ks := kernels l; g.kernel :: ks.filter (· ≠ g.kernel)

/-- Entries of a list with no two equal. -/
def noDup : List Nat → Bool
  | [] => true
  | a :: l => !l.contains a && noDup l

/-- A stage's run from its entry, its part of the descriptor and its header. -/
def stageRun (g : StageEntry) (desc : List Byte) (j : Nat) (header : Head) : StageRun :=
  let d := dwordOf desc (0x48 + 32 * j)
  ⟨g.entry, g.n, g.x, g.tiles, g.share, dwordOf desc (0x40 + 32 * j), header, fld d 63 48, fld d 47 32,
    BitVec.ofNat 8 (fld d 31 24), fld d 23 0⟩

/-- Table 7.1's and R390's limits of a stage's part of the descriptor. -/
def stageLimits (desc : List Byte) (j : Nat) (h : QHeader) : Bool :=
  let d := dwordOf desc (0x48 + 32 * j)
  decide (1 ≤ fld d 63 48) && decide (fld d 63 48 ≤ fld d 47 32) && decide (fld d 47 32 ≤ 8192) && fld d 31 24 ≠ 0 &&
  decide (1 ≤ fld d 23 0) && decide (fld d 23 0 ≤ 2 ^ h.lcap) &&
  dwordOf desc (0x50 + 32 * j) = 0 && dwordOf desc (0x58 + 32 * j) = 0

/-- A LAUNCH accepted, in the order of R389, or the status that refuses it. `q`: the queue whose references an ordered
context asks for; a packet of no queue, of `dlaunch` or a graph's launch node, is asked for none, of which R237 says
nothing (DESIGN CHOICE, log 51). -/
def acceptM (die ctx : Nat) (q : Option Nat) (device : Bool) (bs : List Byte) : E Launch := do
  let s ← eState
  let p := s.dispatch die ctx
  let c := s.context ctx
  if s.noFeat then eEnd 8
  if pktKind bs ≠ 1 || !packetOk bs device 8 [16, 24, 32] || (dwordOf bs 16).toNat % 64 ≠ 0 then eEnd 11
  let desc ← eFault (eReadAll p (dwordOf bs 16) 64)
  let n := fld (dwordOf desc 0) 3 0
  let rest ← eFault (eReadAll p (dwordOf bs 16 + 64) (32 * min n 8))
  let desc := desc ++ rest
  let heads ← eHeaders p desc (min n 8) 0
  let cb := dwordOf desc 8
  let close0 := bit (dwordOf desc 0) 4
  let bolt ← eTry (if cb = 0 then pure none else do
    if cb.toNat % 16 ≠ 0 then eEnd 12
    let t ← ePlace p false cb
    pure (some t.pa))
  if heads.any (isStatus 14) || isStatus 14 bolt then eEnd 14
  let handle := (dwordOf bs 24).toNat
  match c.loaded handle with
  | none => eEnd 10
  | some o =>
    if c.ord && (match q with
        | some q => !o.refs.contains q
        | none => false) then eEnd 9
    let mine := c.stages.filter fun g => g.handle = handle
    match (kernels mine)[fld (dwordOf bs 0) 7 0]? with
    | none => eEnd 6
    | some k =>
      let ours := mine.filter fun g => g.kernel = k
      let hs := heads.filterMap fun h => match h with
        | .ok v => some v
        | .error _ => none
      let desc0 := fld (dwordOf desc 0) 63 5 = 0 && (List.range 6).all fun i => dwordOf desc (16 + 8 * i) = 0
      if !desc0 || n = 0 || 8 < n || n ≠ ours.length || hs.length ≠ n || isStatus 12 bolt || !noDup (hs.map (·.1.pa)) ||
          !(hs.zipIdx.all fun ((_, h), j) => stageLimits desc j h) then eEnd 12
      match allSome ((List.range n).map fun j => ours.find? fun g => g.stage = j) with
      | none => eEnd 4
      | some gs =>
        let runs := (gs.zip hs).zipIdx.map fun ((g, h), j) => stageRun g desc j h.1
        let s ← eState
        if !(runs.all fun r => (sharesOf r.share).any fun (core, m) => s.meets r core m) then eEnd 13
        let pa := match bolt with
          | .ok (some pa) => if close0 then none else some (pa, (s.boltStamps pa).flips)
          | _ => none
        let h := dwordOf bs 0
        pure { id := 0, ctx, prio := fld h 55 54, arg := dwordOf bs 32, stages := runs, compl := dwordOf bs 8,
               irq := bit h 53, vec := fld h 42 32, queue := none, ticket := none, node := none, total := 0,
               closeBolt := pa, closeVa := cb, close0, front := 0, die, handle }

/-- CLOSED set in a header, with release at `.pk` (R170); where the header cannot be written yet, a page with replicas
collapses first. -/
def State.setClosed (s : State) (die : Nat) (front : Stamp) (h : Head) : State :=
  let s := if s.countReady die front h then s else s.drain
  if s.countReady die front h then
    let bs := s.homeBytes (h.pa + 16) 8 (lineKeyBits h.pa (s.headKey h))
    (s.setHeader die front h 16 (dwordBytes (setFld (dwordOf bs 0) 63 63 1)) (some 4)).2
  else s.startCollapse h.pa

/-- An accepted launch entered, stage 0's input closed where CLOSE0 says so (R393). -/
def State.enterLaunch (s : State) (l : Launch) : State :=
  let s := { s with launches := s.launches ++ [l] }
  match l.close0, l.stages with
  | true, r :: _ => s.setClosed l.die l.front r.header
  | _, _ => s

/-- A launch that did not come from a queue ends: record, ticket, graph node (R394, Table 6.6). -/
def State.endDevice (s : State) (die ctx : Nat) (compl : Word) (irq : Bool) (vec status : Nat) (info : Word)
    (ticket : Option Nat) (node : Option (Nat × Nat)) : State :=
  let s := s.completeRecord die ctx compl irq vec status info 0xFFFFFFFF
  match node with
  | some (g, n) =>
    -- the walker acquires the node's launch (R147)
    let s := s.setDie die { s.die die with walker := (s.die die).walker.join (s.die die).dispatcher }
    { s with graphs := s.graphs.map fun x =>
        if x.id = g then { x with results := x.results ++ [(n, 0, decide (status ≠ 0), 0)] } else x }
  | none =>
    match ticket with
    | some id => s.finishTicket id (w64 (2 ^ 63 + status * 2 ^ 48)) (s.die die).dispatcher 1 false none die 0 0
    | none => s

/-- The oldest packet that a sequencer or graph handed to a die's dispatcher, accepted or refused (R394). -/
def State.acceptDevice (s : State) (die : Nat) : State :=
  match (s.die die).dlq with
  | [] => s
  | l :: rest =>
    let s1 := s.setDie die { s.die die with dlq := rest, dispatcher := (s.die die).dispatcher.join l.front }
    let h := dwordOf l.packet 0
    let ticket := if l.ticket = 0 then none else some l.id
    match s1.byDispatcher die (acceptM die l.ctx none true l.packet) with
    | none => s
    | some (.error n, s) =>
      s.endDevice die l.ctx (if n = 11 && (dwordOf l.packet 8).toNat % 16 ≠ 0 then 0 else dwordOf l.packet 8) (bit h 53)
        (fld h 42 32) n 0 ticket l.node
    | some (.ok a, s) =>
      let (id, s) := s.fresh
      s.enterLaunch { a with id, ticket, node := l.node, front := l.front }

/-- LAUNCH_PACKET of launch queue `src`, or of the dispatcher of die `src − 4096`. A KIND that is none of Table 16.3
completes with BADPKT. -/
def execLaunchPacket (src : Nat) (s : State) : Host.Outcome State Fault Refusal :=
  if 4096 ≤ src then .next (s.acceptDevice (src - 4096))
  else
    s.runPacket src (fun bs => pktKind bs = 1 || pktKind bs = 0 || decide (7 < pktKind bs)) fun bs idx s =>
      if pktKind bs ≠ 1 then some (some (11, 0), s)
      else
        let k := s.queue src
        match s.byDispatcher 0 (acceptM 0 k.ctx (some src) false bs) with
        | none => none
        | some (.error n, s) => some (some (n, 0), s)
        | some (.ok a, s) =>
          let (id, s) := s.fresh
          some (none, s.enterLaunch { a with
            id, prio := k.prio, queue := some (src, idx), front := (s.die 0).dispatcher })

end Sys2Proof.Machine
end

