-- ==== Sys2Proof/Machine/Launches.lean ====
section
/-! DEFINITION. Accepted launches (R391 to R393): placement and binding of instances, closing of input queues (R170),
completion; and the stage balancer (R396, R397, R444). -/

namespace Sys2Proof.Machine

/-! ## Placement (R391, R396) -/

/-- Instances of a launch, or of one stage of it, by a test of their binding: bound, and saved. -/
def State.boundOf (s : State) (p : Binding → Bool) : Nat :=
  (s.seqs.filter fun (_, v) => match v.bound with
    | some b => p b
    | none => false).length
def State.savedOf (s : State) (p : Binding → Bool) : Nat := (s.saved.filter fun c => p c.binding).length

/-- Instances a stage holds, bound or saved (log 30). -/
def State.instances (s : State) (l : Launch) (j : Nat) : Nat :=
  let p (b : Binding) : Bool := b.launch = l.id && b.stage = j
  s.boundOf p + s.savedOf p

/-- A queue is drained when CLOSED = 1 and HEAD = TAIL (R170). One whose header cannot be read is not known to be (R22,
R43; log 49). -/
def State.drained (s : State) (header : Head) : Bool :=
  let h := s.header header
  s.headOpen header && h.closed && h.avail = 0

/-- Whether a stage has an instance to place. -/
def State.wants (s : State) (l : Launch) (j : Nat) (r : StageRun) : Bool :=
  decide (s.instances l j < r.maxInst) && !s.drained r.header

/-- Whether a stage is below its MININST. -/
def State.below (s : State) (l : Launch) (j : Nat) (r : StageRun) : Bool := decide (s.instances l j < r.minInst)

/-- Stages of a launch with their numbers. -/
def Launch.numbered (l : Launch) : List (StageRun × Nat) := l.stages.zipIdx

/-- Whether a stage could take a free share that overlaps some groups of a core. -/
def State.couldTake (s : State) (r : StageRun) (core groups : Nat) : Bool :=
  (masksOf r.share).any fun m => m &&& groups ≠ 0 && s.shareFree core m && s.meets r core m

/-- The stage that asked for a share by a rebind and still has an instance to place on it (R396): that of the oldest right
to a part of the share that still stands. -/
def State.granted (s : State) (core groups : Nat) : Option (Nat × Nat) :=
  s.grants.findSome? fun (c, m, i, j) =>
    if c ≠ core || m &&& groups = 0 then none
    else
      match s.launches.find? (fun l => l.id = i) with
      | none => none
      | some l =>
        match l.stages[j]? with
        | some r => if s.wants l j r && s.shareFree core m && s.meets r core m then some (i, j) else none
        | none => none

/-- Launches that go before another: a higher priority, or the same and accepted earlier. -/
def Launch.ahead (l : Launch) (all : List Launch) : List Launch :=
  (all.takeWhile fun k => k.id ≠ l.id).filter (fun k => l.prio ≤ k.prio) ++ all.filter fun k => l.prio < k.prio

/-- Whether an instance of a stage may be bound now to a share: it is free and meets R152, and no launch, stage or
rebind with a better right to it (R391, R396) could take it. -/
def State.bindable (s : State) (l : Launch) (j : Nat) (r : StageRun) (core groups : Nat) : Bool :=
  s.wants l j r && s.shareFree core groups && s.meets r core groups &&
  (match s.granted core groups with
    | some g => g = (l.id, j)
    | none =>
      !(l.ahead s.launches).any (fun k => k.numbered.any fun (t, i) => s.wants k i t && s.couldTake t core groups) &&
      (s.below l j r || !l.numbered.any fun (t, i) => s.wants l i t && s.below l i t && s.couldTake t core groups))

/-! ## Binding (R75, R392) -/

/-- The thread of a fresh instance on a share. -/
def bindThread (l : Launch) (r : StageRun) (lanes : List Nat) : Thread :=
  let d := depthOf r.n r.x
  { pc := r.entry, x := [(1, l.arg), (2, r.queue), (3, w64 r.claim)],
    vdecl := w64 (r.x * 2 ^ 14 + r.n * 2 ^ 8 + d * 2 ^ 4), vlmaxb := w64 (64 * lanes.length * d), lanes, layout := lanes }

/-- An instance bound to a share; the lead is forked from its thread (R162). The reserved bit of the context's DXP reads 0
(R5). A MODE that Table 2.8 does not list is kept, and its tables are walked as the device's own; so is MODE 0xB while
feature 16 is not committed, and its tables are walked as the host's (DESIGN CHOICE, log 42). -/
def State.bindInstance (s : State) (l : Launch) (j : Nat) (r : StageRun) (core groups : Nat) : State :=
  match shareOf groups with
  | none => s
  | some (_, slot) =>
    let c := s.context l.ctx
    let q := 4 * core + slot
    let v : Seq := { bound := some ⟨l.id, j, l.ctx⟩, groups := BitVec.ofNat 4 groups, tiles := kindTiles r.share,
                     dxp := c.dxp &&& ~~~0x800000000000#64, pfwait := c.pfwait.setWidth 64,
                     boltlim := c.boltlim.setWidth 64, gen := c.gen }
    let s := (s.setSeq q v).setThread q 0 ((bindThread l r ((s.core core).lanesOf groups)).fork s.counts)
    let s := { s.takeGrants core groups with
      launches := s.launches.map fun (k : Launch) => if k.id = l.id then { k with total := k.total + 1 } else k }
    s.raiseFrontier core (s.die l.die).dispatcher

/-- SEQUENCER_BIND of an instance of stage `stage` of the launch with an identity to a share. -/
def execSequencerBind (launch stage core groups : Nat) (s : State) : Host.Outcome State Fault Refusal :=
  match s.launches.find? (fun l => l.id = launch) with
  | none => .next s
  | some l =>
    match l.stages[stage]? with
    | some r => .next (if s.bindable l stage r core groups then s.bindInstance l stage r core groups else s)
    | none => .next s

/-! ## Closing and completion (R170, R393) -/

/-- Whether no instance of a stage is bound and none can be bound any more: its queue is drained. -/
def State.stageEnded (s : State) (launch stage : Nat) : Bool :=
  match s.launches.find? (fun l => l.id = launch) with
  | none => true
  | some l =>
    match l.stages[stage]? with
    | some r => s.instances l stage = 0 && s.drained r.header
    | none => true

/-- Whether the runtime closes the input queue of a stage: stage 0's when its submitter has, a later one once every
stage before it has ended, every reservation is published, and no compaction queue feeds it (R171), nor a queue of the
hardware whose header cannot be read (R22, R43; log 49). -/
def State.closes (s : State) (l : Launch) (j : Nat) (r : StageRun) : Bool :=
  if j = 0 then
    l.close0 ||
    (match l.closeBolt with
      | some (pa, flips) => (s.boltStamps pa).flips ≠ flips
      | none => false)
  else
    (List.range j).all (s.stageEnded l.id ·) && !s.resvs.any (fun v => v.header.pa = r.header.pa) &&
    !s.hwqs.any fun k => k.ctx = l.ctx &&
      (!s.headOpen k.header || ((s.header k.header).mode = 1 && (s.header k.header).outq = r.queue))

/-- The stages that feed a queue the hardware serves (R170, log 45): of a compaction queue, those before the stage whose
input its OUTQ is; else every stage of the launches that have appended to it. -/
def State.feeders (s : State) (k : HwQueue) : List (Nat × Nat) :=
  let h := s.header k.header
  let before := s.launches.flatMap fun l =>
    if l.ctx = k.ctx && h.mode = 1 then
      l.numbered.flatMap fun (r, j) => if r.queue = h.outq then (List.range j).map fun i => (l.id, i) else []
    else []
  if before ≠ [] then k.feeders ++ before
  else s.launches.flatMap fun l =>
    if k.feeders.any (·.1 = l.id) then (List.range l.stages.length).map fun i => (l.id, i) else []

/-- QUEUE_CLOSE of a stage's input queue; of the `stage`-th queue the queue hardware serves where `launch` is 0. -/
def execQueueClose (launch stage : Nat) (s : State) : Host.Outcome State Fault Refusal :=
  if launch = 0 then
    match s.hwqs[stage]? with
    | none => .next s
    | some k =>
      let ready := s.headOpen k.header && !(s.header k.header).closed && (s.feeders k).all (fun f => s.stageEnded f.1 f.2) &&
        !s.resvs.any fun v => v.header.pa = k.header.pa
      .next (if ready then s.setClosed k.die k.front k.header else s)
  else
    match s.launches.find? (fun l => l.id = launch) with
    | none => .next s
    | some l =>
      match l.stages[stage]? with
      | some r =>
        .next (if s.headOpen r.header && !(s.header r.header).closed && s.closes l stage r then s.setClosed l.die l.front r.header else s)
      | none => .next s

/-- LAUNCH_COMPLETE: every input queue is drained and no instance is bound, or saved (log 30). INFO is the instances
bound over the launch's life. -/
def execLaunchComplete (launch : Nat) (s : State) : Host.Outcome State Fault Refusal :=
  match s.launches.find? (fun l => l.id = launch) with
  | none => .next s
  | some l =>
    let p (b : Binding) : Bool := b.launch = l.id
    if !l.stages.all (fun r => s.drained r.header) || s.boundOf p ≠ 0 || s.savedOf p ≠ 0 then .next s
    else
      let s := { s with launches := s.launches.filter fun (k : Launch) => k.id ≠ l.id }
      let s := s.setDie l.die { s.die l.die with dispatcher := (s.die l.die).dispatcher.join l.front }
      .next (match l.queue with
        | some (q, idx) => s.completePacket q idx 0 (w64 l.total)
        | none => s.endDevice l.die l.ctx l.compl l.irq l.vec 0 (w64 l.total) l.ticket l.node)

/-! ## The stage balancer (R396, R397) -/

/-- A stage as a die's balancer samples it: launch, stage number, run, entries waiting and capacity. -/
structure Sample where
  l : Launch
  j : Nat
  r : StageRun
  avail : Nat
  cap : Nat
deriving DecidableEq, Repr

/-- Sequencers of a stage bound on a die. -/
def State.onDie (s : State) (die : Nat) (l : Launch) (j : Nat) : List (Nat × Seq) :=
  s.seqs.filter fun (q, v) => q / 128 = die && v.bound = some ⟨l.id, j, l.ctx⟩

/-- The stages with an instance on a die, whose headers can be read. -/
def State.samples (s : State) (die : Nat) : List Sample :=
  s.launches.flatMap fun l => l.numbered.filterMap fun (r, j) =>
    if s.onDie die l j = [] || !s.headOpen r.header then none
    else
      let h := s.header r.header
      some ⟨l, j, r, h.avail, 2 ^ h.lcap⟩

def Sample.above (x : Sample) : Bool := decide (3 * x.cap < 4 * x.avail)

/-- Whether an appender of a stage on the die waited for space in this epoch (R166). -/
def State.waitedForSpace (s : State) (die : Nat) (x : Sample) : Bool :=
  (s.onDie die x.l x.j).any fun (q, v) =>
    v.spaceWaited || (List.range v.split).any fun t => (s.thread q t).wait = .space

/-- Grow: above 75 %, not back-pressured, below MAXINST (R444). -/
def State.grows (s : State) (die : Nat) (x : Sample) : Bool :=
  x.above && decide (s.boundOf (fun b => b.launch = x.l.id && b.stage = x.j) < x.r.maxInst) &&
  (match x.l.stages[x.j + 1]? with
    | none => true
    | some n =>
      let h := s.header n.header
      s.headOpen n.header && !s.waitedForSpace die x && !decide (3 * 2 ^ h.lcap < 4 * h.avail))

/-- Shrink: below 25 %, above MININST in all, more than one instance on the die (R396). -/
def State.shrinks (s : State) (die : Nat) (x : Sample) : Bool :=
  decide (4 * x.avail < x.cap) &&
  decide (x.r.minInst < s.boundOf (fun b => b.launch = x.l.id && b.stage = x.j)) &&
  decide (1 < (s.onDie die x.l x.j).length)

/-- Samples by occupancy, the highest first. -/
def bySample : List Sample → List Sample
  | [] => []
  | x :: l => put x (bySample l)
where
  put (x : Sample) : List Sample → List Sample
    | [] => [x]
    | y :: l => if y.avail * x.cap ≤ x.avail * y.cap then x :: y :: l else y :: put x l

/-- A request posted to a sequencer of a shrink stage whose share would meet R152 for the grow stage: the stage of
lowest occupancy first. The stages that have yielded one are left out. -/
def State.postRebind (s : State) (die : Nat) (x : Sample) : List Sample → List (Nat × Nat) → State × List (Nat × Nat)
  | [], used => (s, used)
  | y :: l, used =>
    if used.contains (y.l.id, y.j) then State.postRebind s die x l used
    else
      match (s.onDie die y.l y.j).find? (fun (q, v) =>
          !v.rebind && v.rebound = [] && v.saving.isNone && !v.stopped && s.meets x.r (q / 4) v.groups.toNat) with
      | some (q, v) =>
        let s := s.setSeq q { v with rebind := true, rebindFor := some (x.l.id, x.j) }
        (s.setDie die { s.die die with balreq := (s.die die).balreq + 1 }, (y.l.id, y.j) :: used)
      | none => State.postRebind s die x l used

/-- What the balancer does for the grow stages in turn. -/
def State.serveGrow (die : Nat) (shrink : List Sample) : List Sample → List (Nat × Nat) → State → State
  | [], _, s => s
  | x :: l, used, s =>
    match (sharesOf x.r.share).find? (fun (c, g) => c / 32 = die && s.bindable x.l x.j x.r c g) with
    | some (c, g) => State.serveGrow die shrink l used (s.bindInstance x.l x.j x.r c g)
    | none =>
      let (s, used) := s.postRebind die x shrink used
      State.serveGrow die shrink l used s

/-- What appenders waited for in the epoch is past (R396). -/
def State.newEpoch (s : State) (die : Nat) : State :=
  { s with seqs := s.seqs.map fun (q, v) => if q / 128 = die then (q, { v with spaceWaited := false }) else (q, v) }

/-- BALANCER_EPOCH of a die. -/
def execBalancerEpoch (die : Nat) (s : State) : Host.Outcome State Fault Refusal :=
  if 8 ≤ die then .next s
  else if !(s.die die).balEn then .next (s.newEpoch die)
  else
    let s := s.setDie die { s.die die with balepoch := (s.die die).balepoch + 1 }
    let all := s.samples die
    let shrink := (bySample (all.filter (s.shrinks die ·))).reverse
    let grow := bySample (all.filter (s.grows die ·))
    let keeps (v : Seq) : Bool := shrink.any fun y => v.bound = some ⟨y.l.id, y.j, y.l.ctx⟩
    let s := { s with seqs := s.seqs.map fun (q, v) =>
        if q / 128 = die && v.rebind && !keeps v then (q, { v with rebind := false, rebindFor := none }) else (q, v) }
    .next ((State.serveGrow die shrink grow [] s).newEpoch die)

end Sys2Proof.Machine
end

