-- ==== Sys2Proof/Machine/HwQueues.lean ====
section
/-! DEFINITION. The queue hardware (R171 to R173): compaction queues, bypass queues, their stop at a fault and restart. -/

namespace Sys2Proof.Machine

/-- The queue hardware as a party of the queue's address space. -/
def HwQueue.party (k : HwQueue) : Party := ⟨k.die, 32 * k.die, k.dxp, .supervisor⟩

def State.setHw (s : State) (k : HwQueue) : State :=
  { s with hwqs := s.hwqs.map fun x => if x.header.pa = k.header.pa then k else x }

/-- A fault stops the queue, and the runtime is told by an event whose fields Table 18.7 does not give: free values
(log 33). -/
def State.stopHw (s : State) (k : HwQueue) : State :=
  let (kind, s) := s.draw
  let (code, s) := s.draw
  let (data, s) := s.draw
  let (addr, s) := s.draw
  (s.setHw { k with stopped := true, past := [] }).event kind.toNat k.die 0 0 code.toNat data addr 0

/-- The hardware's work for a queue: the state after it; a fault stops the queue, a wait keeps what is done. -/
def State.byHw (s : State) (k : HwQueue) (act : E (State → State)) : State :=
  match act ⟨s, k.front, 0, k.front, 0, k.past, 0⟩ with
  | .ok f e => f (e.s.setHw { k with front := e.front, past := [] })
  | .error .busy e => e.s.setHw { k with front := e.front, past := e.past }
  | .error _ e => e.s.stopHw k

/-- The header translated for its updates, and the publications consumed acquired. -/
def HwQueue.headerAt (k : HwQueue) : E Unit := do
  let _ ← eTarget k.party true 64 k.va 64
  fun e =>
    let f := e.front.join (e.s.line (lineOf k.header.pa)).stamp
    .ok () { e with front := f, cap := f }

/-- Counts of a header can be written now; a page with replicas collapses first (R70). -/
def HwQueue.canCount (k : HwQueue) (h : Head) : E Unit := fun e =>
  if e.s.countReady k.die e.front h then .ok () e else .error .busy { e with s := e.s.drain.startCollapse h.pa }

/-- Entry of index e of a queue with a header. -/
def readEntry (p : Party) (h : QHeader) (e : Nat) : E Nat := do
  let n := 2 ^ h.esz
  let bs ← eRead p n (h.base + w64 (e % 2 ^ h.lcap * n)) n
  pure (natOfBytes bs)

/-- A row of ROWB bytes copied. -/
def copyRow (p : Party) (h : QHeader) (src dst : Word) : E Unit := do
  let bs ← eReadAll p src h.rowb
  eWriteAll p dst bs

/-- The rows of a tile-ring slot, from the j-th entry on. -/
def copySlot (p : Party) (h : QHeader) (slot first : Nat) : Nat → Nat → E Unit
  | 0, _ => pure ()
  | n + 1, j => do
    let i ← readEntry p h (first + j)
    copyRow p h (h.src + w64 (i * h.rowb)) (h.dst + w64 ((slot * tdim + j) * h.rowb))
    copySlot p h slot first n (j + 1)

/-- OUTQ's header: where it is and its contents now; MODE 0 and ESZ 3 (Table 7.6) and R165. -/
def HwQueue.outq (k : HwQueue) (h : QHeader) : E (Head × QHeader) := do
  if h.outq.toNat % 64 ≠ 0 then eEnd 3
  let t ← eTarget k.party true 64 h.outq 64
  let bs ← eReadAt k.party 64 h.outq 64
  let o := QHeader.ofBytes bs
  if !t.place.isMem || t.pbmt = 2 || (o.fault true).isSome || o.esz ≠ 3 then eEnd 3
  pure (t.head, o)

/-- Whether the OUTQ entry that last named a slot has been freed. -/
def HwQueue.slotFree (k : HwQueue) (o : QHeader) : Bool :=
  match k.named.find? (fun x => x.1 = k.slot) with
  | some (_, e) => serialBelow (BitVec.ofNat 32 e) o.free
  | none => true

/-- HEAD of a queue advanced over entries, under what the hardware has done. -/
def State.hwClaim (s : State) (k : HwQueue) (h : QHeader) (n : Nat) (f : HwQueue → HwQueue) : State :=
  match s.hwqs.find? (fun x => x.header.pa = k.header.pa) with
  | some x =>
    let (st, s) := s.setCount x.die x.front x.header offHead (h.head + BitVec.ofNat 32 n) none
    s.setHw (f { x with front := x.front.join st })
  | none => s

/-- A queue that is not stopped, whose header can be read: where its reading fails, the queue stops (R22, R43, R173). One
whose page has no translation waits for one. -/
def State.hwServes (s : State) (k : Nat) (act : HwQueue → Host.Outcome State Fault Refusal) :
    Host.Outcome State Fault Refusal :=
  match s.hwqs[k]? with
  | none => .next s
  | some k =>
    if k.stopped || k.header.pa = lostAddr then .next s
    else if s.headFails k.header then .next (s.stopHw k)
    else act k

/-- COMPACTION_CLAIM of the k-th queue: up to `tdim` entries claimed and their rows copied to the next slot. -/
def execCompactionClaim (k : Nat) (s : State) : Host.Outcome State Fault Refusal :=
  s.hwServes k fun k =>
    let h := s.header k.header
    let r := min tdim h.avail
    if k.claimed.isSome || h.mode ≠ 1 || r = 0 || (r < tdim && !h.closed) then .next s
    else
      .next (s.byHw k (do
        if h.nslot = 0 || h.rowb % 4 ≠ 0 then eEnd 3
        k.headerAt
        let (_, o) ← k.outq h
        if !k.slotFree o then throw .busy
        copySlot k.party h k.slot h.head.toNat r 0
        eSettled
        k.canCount k.header
        pure fun s => s.hwClaim k h r fun x => { x with claimed := some (h.head.toNat, r) }))

/-- The OUTQ entry of a slot reserved: its index. -/
def HwQueue.reserve (k : HwQueue) (h : QHeader) : E (Nat × Head × QHeader) := do
  let (out, o) ← k.outq h
  let e ← eOnce (do
    if 2 ^ o.lcap < (o.resv - o.free).toNat + 1 then throw .busy
    k.canCount out
    fun e =>
      let (st, s) := e.s.setCount k.die e.front out offResv (o.resv + 1) none
      .ok o.resv.toNat { e with s, front := e.front.join st })
  pure (e, out, o)

/-- COMPACTION_SLOT_DONE: the claimed rows being performed, OUTQ receives their entry and the range is freed; with
nothing claimed and the queue drained, OUTQ is closed, and the hardware has done with the queue. -/
def execCompactionSlotDone (k : Nat) (s : State) : Host.Outcome State Fault Refusal :=
  s.hwServes k fun k =>
    let h := s.header k.header
    if h.mode ≠ 1 then .next s
    else
      match k.claimed with
      | some (first, r) =>
        .next (s.byHw k (do
          eSettled
          let (e, out, o) ← k.reserve h
          eWriteAll k.party (o.base + w64 (e % 2 ^ o.lcap * 8)) (bytesOfNat 8 (r * 2 ^ 48 + k.slot))
          pure fun s =>
            match s.hwqs.find? (fun x => x.header.pa = k.header.pa) with
            | some x =>
              let (id, s) := s.fresh
              let s := { s with resvs := s.resvs ++
                [(⟨id, out, e, 1, none, 0, k.die, x.front, 0, h.outq, k.dxp⟩ : Resv)] }
              let s := if s.sched.lazy then s else s.publishAll s.resvs.length
              let s := s.freeClaims [⟨k.header, k.va, k.dxp, first, r⟩]
              s.setHw { x with
                claimed := none, slot := (k.slot + 1) % h.nslot
                named := (k.slot, e) :: k.named.filter fun n => n.1 ≠ k.slot }
            | none => s))
      | none =>
        if !s.drained k.header then .next s
        else
          .next (s.byHw k (do
            let (out, o) ← k.outq h
            pure fun s =>
              if s.resvs.any (fun v => v.header.pa = out.pa) then s
              else
                let s := if o.closed then s else s.setClosed k.die k.front out
                if (s.header out).closed then { s with hwqs := s.hwqs.filter fun x => x.header.pa ≠ k.header.pa }
                else s))

/-- BYPASS_COPY of the k-th queue: the row of the next published entry copied, and its entry freed; the hardware has
done with a queue that is drained. -/
def execBypassCopy (k : Nat) (s : State) : Host.Outcome State Fault Refusal :=
  s.hwServes k fun k =>
    let h := s.header k.header
    if h.mode ≠ 2 then .next s
    else if h.avail = 0 then
      .next (if h.closed then { s with hwqs := s.hwqs.filter fun x => x.header.pa ≠ k.header.pa } else s)
    else
      .next (s.byHw k (do
        if h.rowb % 4 ≠ 0 then eEnd 3
        k.headerAt
        let i ← readEntry k.party h h.head.toNat
        copyRow k.party h (h.src + w64 (i * h.rowb)) (h.dst + w64 (i * h.rowb))
        eSettled
        k.canCount k.header
        pure fun s => (s.hwClaim k h 1 id).freeClaims [⟨k.header, k.va, k.dxp, h.head.toNat, 1⟩]))

/-- QUEUE_HARDWARE_RESTART of the k-th queue. -/
def execQueueHardwareRestart (k : Nat) (s : State) : Host.Outcome State Fault Refusal :=
  match s.hwqs[k]? with
  | some k => .next (s.setHw { k with stopped := false })
  | none => .next s

end Sys2Proof.Machine
end

