-- ==== Sys2Proof/Machine/Boot.lean ====
section
/-! DEFINITION. Reset and boot (R20, R22, R429), features (R227 to R230), power and heat (R432, R433), peer links (R434),
and the window's size (R89). -/

namespace Sys2Proof.Machine

/-! ## Reset and boot -/

/-- `hbmcap` of a stack with p live pseudo-channels (R25). -/
def hbmcapOf (p : Nat) : Nat := 2 ^ 36 * p / 160 / 2 ^ 21 * 2 ^ 21

/-- A die as a reset leaves it: its units, its links, and the maps until the configuration record is loaded (log 36). -/
def Die.cleared (d : Die) : Die :=
  { hbmcap := d.hbmcap, lcmap := d.lcmap, sdiv := d.sdiv, pdiv := d.pdiv, smap := d.smap, pmap := d.pmap,
    sfail := d.sfail, pfail := d.pfail, fcvLive := d.fcvLive,
    fe := d.fe.map fun (k, f) => (k, { live := f.live }),
    port := d.port.map fun (k, v) => (k, { live := v.live, up := v.up, width := v.width, partner := v.partner,
                                           partnerPort := v.partnerPort }) }

/-- A die after the configuration record is loaded: units that failed are removed, and the divisors recomputed
(R20, R22). -/
def Die.booted (d : Die) : Die :=
  let smap := d.smap &&& ~~~d.sfail
  let pmap := d.pmap &&& ~~~d.pfail
  let p := popBelow pmap.toNat 160
  { d with hbmcap := hbmcapOf p, sdiv := popBelow smap.toNat 64, pdiv := p, smap, pmap, sfail := 0, pfail := 0 }

/-- Set bits of 0 to n − 1 that satisfy a test. -/
def bitsOf (n : Nat) (p : Nat → Bool) : Nat := (List.range n).foldl (fun r i => if p i then r + 2 ^ i else r) 0

/-- `femap` and `ppmap` from the live units. -/
def State.liveMaps (s : State) : State :=
  { s with
    femap := BitVec.ofNat 32 (bitsOf 32 fun i => (Sparse.get {} (s.die (i / 4)).fe (i % 4)).live)
    ppmap := BitVec.ofNat 24 (bitsOf 24 fun i => (Sparse.get {} (s.die (i / 3)).port (i % 3)).live) }

/-- The features that firmware offers (Table 9.7). -/
def State.offered (s : State) : Word :=
  0xBF70F#64 ||| (if s.femap = 0 then 0 else 0x800#64) ||| (if s.ppmap = 0 then 0 else 0x40000#64)

/-- Every register and queue as reset leaves it (R6, R186). The host's memory, the bytes of HBM with the keys they were
written under, the units in service, lanes and cores retired in service among the missing, the outputs and the model's
own counts stay. Window bytes are gone, and every line's stamp and synchronisation record (log 36). -/
def State.atReset (s : State) : State :=
  { State.reset with
    agenda := s.agenda
    turn := s.turn
    sched := s.sched
    free := s.free
    nextId := s.nextId
    host := s.host
    mem := s.mem.filter (fun c => c.1 < 0x8000000000)
    lines := (s.lines.filter (fun l => l.1 < 0x100000000)).map (fun (n, l) => (n, { key := l.key }))
    dies := s.dies.map (fun (k, d) => (k, d.cleared))
    cores := s.cores.map (fun (k, c) => (k, { live := c.live }))
    thermal := s.thermal
    msix := s.msix
    replies := s.replies
    podOut := s.podOut
    barBase := s.barBase
    hostAtomics := s.hostAtomics }

/-- `pwrisl`i. -/
def State.island (s : State) (i : Nat) : Word := Sparse.get pwrislReset s.pwrisl i
def State.setIsland (s : State) (i : Nat) (v : Word) : State := { s with pwrisl := Sparse.set s.pwrisl i v }

/-- The junction temperature is at or above 105 °C. -/
def State.hot (s : State) : Bool := decide (1050 ≤ fld s.thermal 15 0)

/-- A frequency firmware runs an island at, 800 MHz to FMAX by steps of 100: a free value; 800 for a core half held by
heat. -/
def State.pickMhz (s : State) (i fmax : Nat) : Nat × State :=
  let (w, s) := s.draw
  if fmax < 800 then (fmax, s)
  else if s.hot && i % 4 < 2 then (800, s) else (800 + 100 * (w.toNat % ((fmax - 800) / 100 + 1)), s)

/-- Firmware chooses the frequency of every core half anew. -/
def State.rescale (s : State) : State :=
  (List.range 32).foldl (fun (s : State) i =>
    if i % 4 < 2 then
      let (mhz, s) := s.pickMhz i (fld (s.island i) 31 16)
      s.setIsland i (setFld (s.island i) 15 0 mhz)
    else s) s

/-- The boot of Table 18.3, ending at the step that fails, or at READY for 0 (log 14). The heat of the module stands:
core halves are held at 800 MHz, and one too hot to run is shut down again (R433). -/
def State.boot (s : State) (err : Nat) : State :=
  let s := if err = 0 || 3 ≤ err then { s with dies := s.dies.map fun (k, d) => (k, d.booted) } else s
  let s := if err = 0 || 4 ≤ err then s.liveMaps else s
  let s := if s.hot then s.rescale else s
  if 1150 ≤ fld s.thermal 15 0 then { s with bootErr := 0x20 }
  else if err = 0 then
    { s with
      slot0 := ⟨true, false, Config.freeKey s.free⟩, bootId := s.free, free := s.free + 1, featoff := s.offered
      ready := true }
  else { s with bootErr := BitVec.ofNat 8 err }

/-- What a device reset does: the outcome of the boot is a free value. -/
def State.deviceReset (s : State) : State :=
  let (w, s) := s.draw
  s.atReset.boot (w.toNat % 6)

/-- DEVICE_RESET. -/
def execDeviceReset (s : State) : Host.Outcome State Fault Refusal := .next s.deviceReset

/-- POWER_ON, its boot ending with a BOOTERR of Table 18.3, or 0: HBM reads as log 6 says. -/
def execPowerOn (bootErr : BitVec 8) (s : State) : Host.Outcome State Fault Refusal :=
  .next (({ s.atReset with mem := [], lines := [] } : State).boot (if bootErr.toNat ≤ 5 then bootErr.toNat else 1))

/-- Until READY, control BAR writes other than `devctl` are ignored (R429). -/
def State.whenReady (s : State) (f : State → State) : State := if s.ready then f s else s

/-! ## Features -/

/-- Feature bits that are not reserved (R227). -/
def featureBits : Word := 0xFFF0F#64

/-- Whether a context exists. -/
def State.anyContext (s : State) : Bool := s.contexts.any fun c => c.2.v

/-- A commit request (R229, R230): the first failing row of Table 9.9. -/
def State.commit (s : State) : State :=
  let reason : Word :=
    if s.anyContext then 1
    else if s.featacc &&& ~~~featureBits ≠ 0 then 2
    else if s.featacc &&& ~~~s.featoff ≠ 0 then 3
    else if !bit s.featacc 3 then 4 else 0
  if reason = 0 then
    { (s.dropRings 4 0).dropTlbs 4 0 with featuse := s.featacc, featstat := 0x8000000000000000#64 }
  else { s with featstat := (s.featstat &&& 0x8000000000000000#64) ||| reason }

/-- FEATURE_COMMIT. -/
def execFeatureCommit (s : State) : Host.Outcome State Fault Refusal := .next (s.whenReady State.commit)

/-! ## The window (R88, R89) -/

/-- SWIN_WRITE: a write of `swin` of a die. -/
def execSwinWrite (die : Nat) (value : BitVec 64) (s : State) : Host.Outcome State Fault Refusal :=
  .next (if die < 8 then s.swinWrite die (fld value 2 0) else s)

/-- A change of WAYS finished: bytes above a smaller size are gone, new ways hold zeros. -/
def State.swinDone (s : State) (d : Nat) : State :=
  match (s.die d).newWays with
  | none => s
  | some w =>
    let s := s.drain
    let base := 0x10000000000 + d * 0x100000000
    let size := (s.die d).sdiv * w * 131072
    let gone (a : Nat) : Bool := base + size ≤ a && a < base + 0x100000000
    let line (n : Nat) : Bool := gone (128 * n)
    let s : State := { s with
      mem := s.mem.filter (fun c => !gone c.1)
      lines := s.lines.filter (fun l => !line l.1)
      bolts := s.bolts.filter (fun b => !gone b.1)
      dies := s.dies.map (fun (k, v) => (k, ({ v with copies := v.copies.filter (fun c => !line c.1) } : Die)))
      cores := s.cores.map (fun (k, c) => (k, ({ c with tileBuffer := c.tileBuffer.filter (fun n => !line n) } : CorePair))) }
    s.setDie d { s.die d with ways := w, newWays := none }

/-- SWIN_CHANGE_DONE. -/
def execSwinChangeDone (die : Nat) (s : State) : Host.Outcome State Fault Refusal := .next (s.swinDone die)

/-- BALCTL_WRITE. -/
def execBalctlWrite (die : Nat) (value : BitVec 64) (s : State) : Host.Outcome State Fault Refusal :=
  .next (if die < 8 then s.balctlSet die (bit value 0) else s)

/-! ## Islands, limit and heat (R431 to R433) -/

/-- Whether a sequencer is bound on a core half. -/
def State.halfBusy (s : State) (i : Nat) : Bool :=
  s.seqs.any fun (q, v) => v.bound.isSome && q / 128 = i / 4 && q / 64 % 2 = i % 4

/-- A write of `pwrisl`i: a state the island does not permit, or off for a core half with a bound sequencer, leaves it
as it is. -/
def State.islandWrite (s : State) (i : Nat) (v : Word) : State :=
  let req := fld v 63 62
  if 32 ≤ i || (2 ≤ req && 2 ≤ i % 4) || (req = 3 && s.halfBusy i) then s
  else
    let fmax := fld v 31 16
    let (mhz, s) := s.pickMhz i fmax
    s.setIsland i (w64 (req * 2 ^ 62 + req * 2 ^ 58 + fmax * 2 ^ 16 + mhz))

/-- PWRISL_WRITE. -/
def execPwrislWrite (i : Nat) (value : BitVec 64) (s : State) : Host.Outcome State Fault Refusal :=
  .next (s.whenReady (·.islandWrite i value))

/-- ISLAND_WAKE: work reopens the clocks of an idle island, or wakes one in retain. -/
def execIslandWake (i : Nat) (s : State) : Host.Outcome State Fault Refusal :=
  let v := s.island i
  .next (if i < 32 && (fld v 59 58 = 1 || fld v 59 58 = 2) then s.setIsland i (setFld v 59 58 0) else s)

/-- THERMAL_THROTTLE: the hottest junction, in tenths of a degree, is at or above 105 °C. -/
def execThermalThrottle (tenths : Nat) (s : State) : Host.Outcome State Fault Refusal :=
  .next (if 1050 ≤ tenths && tenths < 1150 then ({ s with thermal := w64 tenths } : State).rescale else s)

/-- THERMAL_THROTTLE_END. -/
def execThermalThrottleEnd (tenths : Nat) (s : State) : Host.Outcome State Fault Refusal :=
  .next (if tenths < 1050 && s.hot then ({ s with thermal := w64 tenths } : State).rescale else s)

/-- THERMAL_SHUTDOWN: every sequencer stops without a save and is reported lost; the module waits for a reset, its core
halves held as at any heat from 105 °C. -/
def execThermalShutdown (tenths : Nat) (s : State) : Host.Outcome State Fault Refusal :=
  if tenths < 1150 || 65536 ≤ tenths then .next s
  else
    let s : State := ({ s with thermal := w64 tenths, ready := false, bootErr := 0x20 } : State).rescale
    let bound := s.seqs.filter fun v => v.2.bound.isSome
    .next (bound.foldl (fun (s : State) (q, _) =>
      (s.setSeq q { s.seq q with stopped := true }).seqEvent 8 q 0xFF 0 (s.thread q 0).pc) s)

/-! ## Peer links (R434) -/

/-- PEER_LANE_FAIL: `lanes` lanes of the port still work; with fewer than 2 the port goes down, failed under R22. -/
def execPeerLaneFail (die port lanes : Nat) (s : State) : Host.Outcome State Fault Refusal :=
  let p := Sparse.get {} (s.die die).port port
  if 8 ≤ die || 3 ≤ port || !p.live then .next s
  else
    let w := min p.width (if 8 ≤ lanes then 8 else if 4 ≤ lanes then 4 else if 2 ≤ lanes then 2 else 0)
    if w ≠ 0 then .next (s.setDie die { s.die die with port := Sparse.set (s.die die).port port { p with width := w } })
    else .next (s.failPort die port { p with width := 0, up := false })

end Sys2Proof.Machine
end

