-- ==== Sys2Proof/Machine/Contexts.lean ====
section
/-! DEFINITION. Context entries and tear-down (R380 to R382), launch queue blocks (R383, R384), `seqkill` (R428). -/

namespace Sys2Proof.Machine

/-! ## Killing a sequencer (R381 step 3) -/

/-- A page with replicas collapses at once, every holder answering (R70). -/
def State.collapseNow (s : State) (pa : Nat) : State :=
  if s.holders pa = 0 then s
  else
    let s := s.startCollapse pa
    (List.range 8).foldl (fun (s : State) h =>
      match s.homeEntry pa with
      | some (_, e) =>
        let page := fld e.1 39 0
        if s.awaits page h then
          let s := match s.holderEntry h page with
            | some (i, x) =>
              let s := s.dropPage h page (entryPages x)
              s.setDie h { s.die h with rdir := Sparse.set (s.die h).rdir i (setFld x.1 63 63 0, x.2) }
            | none => s
          s.answered page h
        else s
      | none => s) s

/-- A sequencer killed: it leaves its barriers, its claimed entries are freed, its waits are abandoned. -/
def State.kill (s : State) (q : Nat) : State :=
  let s := (s.seq q).claims.foldl (fun s c => s.collapseNow c.header.pa) s
  s.unbind q

/-- A write of `seqkill`: GO kills the sequencer named, halted or not (R428). -/
def State.seqkillWrite (s : State) (v : Word) : State :=
  let s : State := { s with seqkill := v &&& 0x7FB#64 }
  let q := 4 * (32 * fld v 10 8 + fld v 7 3) + fld v 1 0
  if bit v 63 && (s.seq q).bound.isSome then s.kill q else s

/-- SEQKILL. -/
def execSeqkill (value : BitVec 64) (s : State) : Host.Outcome State Fault Refusal :=
  .next (s.whenReady (·.seqkillWrite value))

/-! ## Tear-down (R381, R382) -/

/-- The commands of a context in a unit's queue end with CODE 10; they leave the queue at once. -/
def State.endCommands (ctx u : Nat) (s : State) : State :=
  let l := s.unitQueue u
  let mine := l.filter fun c => c.ctx = ctx
  if mine = [] then s
  else
    let headGone : Bool := match l with
      | c :: _ => c.ctx = ctx
      | [] => false
    let s := s.setUnitQueue u (l.filter fun c => c.ctx ≠ ctx)
    let s := if headGone then s.setDie (unitDie u) { s.die (unitDie u) with
        records := (s.die (unitDie u)).records.filter fun r => !(r.thread.isNone && r.unit = u) } else s
    mine.foldl (fun s c => s.retireCommand u { c with code := some 10 }) s

/-- Whether an ending graph has written its FIN, the second of the accesses of its end. -/
def Graph.finWritten (g : Graph) : Bool := g.ending.isSome && g.todo = [] && decide (2 ≤ g.past.length)

/-- A graph's fault is withdrawn, and its record (R58). -/
def State.withdrawGraph (s : State) (g : Graph) : State :=
  match g.asked with
  | some (_, some idx) =>
    s.setDie g.die { s.die g.die with records := (s.die g.die).records.filter fun r => r.idx ≠ idx }
  | _ => s

/-- A graph of a context ends with ERR 6, but for one that has ended and has only its arrival to make: nodes whose work is
done are completed first (R146), and those that a discarded launch was to do are not. It has no node that ended it:
FAILNODE is 0 (DESIGN CHOICE, log 42). -/
def State.killGraph (s : State) (id : Nat) : State :=
  match s.graph id with
  | some g =>
    if g.finWritten then s.runGraph id
    else
      let finished := g.results.filter fun r => s.opDone r.2.2.2
      let ends := g.todo ++ finished.map fun (n, st, bad, _) => .finish n st bad
      let named (n : Nat) : Bool := g.results.any (fun r => r.1 = n) || ends.any fun
        | .finish k _ _ => k = n
        | _ => false
      ((s.withdrawGraph g).setGraph { g with
        ending := some (6, 0), running := g.running.filter named, parked := []
        results := g.results.filter fun r => !s.opDone r.2.2.2
        todo := ends, past := if g.todo = [] then [] else g.past, asked := none, refused := false }).runGraph id
  | none => s

/-- The last steps of a tear-down, once the context's graphs have ended. -/
def State.finishTeardown (s : State) (c : Nat) : State :=
  let s := (s.graphs.filter fun g => g.ctx = c).foldl (fun s g => s.runGraph g.id) s
  if s.graphs.any fun g => g.ctx = c then s
  else
    -- 5: its objects, symbols and stages, and the translations tagged with it
    let e := s.context c
    let s := s.setContext c { e with
      objects := e.objects.map fun o => { o with unloadedAt := some (o.unloadedAt.getD e.gen), refs := [] }
      symbols := [], stages := [] }
    let s := s.reap c
    let s : State := { s with cores := s.cores.map fun (k, v) => (k, { v with ring := v.ring.filter fun r => r.ctx ≠ c }) }
    -- 6
    s.setContext c { s.context c with v := false, busy := false, objects := [] }

/-- The tear-down of a context: BUSY until its graphs have ended. -/
def State.teardown (s : State) (c : Nat) : State :=
  -- 1: its queues take no more packets, and what it had begun reports nothing
  let s : State := { s with queues := s.queues.map fun (q, k) =>
      let begun := k.begun.filter fun b => b.2.1 ≠ c
      let waits : Bool := begun.any fun b => pktKind b.2.2 = 5
      (q, { k with
        en := k.en && k.ctx ≠ c, begun := begun, boltWait := if waits then k.boltWait else none }) }
  -- 2: accepted launches and waiting `dlaunch` packets are discarded
  let mine := s.launches.filter fun l => l.ctx = c
  let waiting := s.dies.foldl (fun n (_, d) => n + (d.dlq.filter fun l => l.ctx = c && l.node.isNone).length) 0
  let s : State := { s with
    launches := s.launches.filter fun l => l.ctx ≠ c
    grants := s.grants.filter fun g => !mine.any fun l => l.id = g.2.2.1
    dies := s.dies.map fun (k, d) => (k, { d with dlq := d.dlq.filter fun l => l.ctx ≠ c }) }
  -- 3: its sequencers are killed; contexts the runtime holds saved are gone with them (log 35)
  let bound := s.seqs.filter fun (_, v) => match v.bound with
    | some b => b.ctx = c
    | none => false
  let s := bound.foldl (fun s (q, _) => s.kill q) s
  let s : State := { s with saved := s.saved.filter fun v => v.binding.ctx ≠ c, hwqs := s.hwqs.filter fun k => k.ctx ≠ c }
  -- 4: its engine commands and graphs end
  let s := (List.range unitCount).foldl (fun s u => s.endCommands c u) s
  let s := (s.graphs.filter fun g => g.ctx = c).foldl (fun s g => s.killGraph g.id) s
  (s.setContext c { s.context c with
    busy := true, disc := BitVec.ofNat 32 (mine.length + waiting),
    killed := BitVec.ofNat 32 bound.length }).finishTeardown c

/-- A write of a context entry's first dword (R380). -/
def State.contextWrite (s : State) (c : Nat) (v : Word) : State :=
  let e := s.context c
  if e.v then (if bit v 61 && !e.busy then s.teardown c else s)
  else if bit v 63 then
    if bit s.featstat 63 && (!bit v 62 || s.feature 15) then
      s.setContext c { e with
        v := true, ord := bit v 62, disc := 0, killed := 0, gen := 0, objects := [], symbols := [], stages := [] }
    else s
  else s.setContext c { e with ord := bit v 62 }

/-- CONTEXT_CREATE: V = 1 written with the other bits of a value. -/
def execContextCreate (c : Nat) (value : BitVec 64) (s : State) : Host.Outcome State Fault Refusal :=
  .next (s.whenReady fun s => if c < 64 then s.contextWrite c (value ||| 0x8000000000000000#64) else s)

/-- CONTEXT_TEARDOWN: TEAR = 1 written; a tear-down in progress goes on. -/
def execContextTeardown (c : Nat) (s : State) : Host.Outcome State Fault Refusal :=
  .next (s.whenReady fun s =>
    if 64 ≤ c || !(s.context c).v then s else if (s.context c).busy then s.finishTeardown c else s.teardown c)

/-! ## Queue blocks -/

/-- Whether an enable is accepted (R383). -/
def State.enableOk (s : State) (k : Queue) : Bool :=
  decide (4 ≤ k.lsize) && decide (k.lsize ≤ 16) && (s.context k.ctx).v &&
  decide ((s.queues.filter fun x => x.2.en && x.2.ctx = k.ctx).length < 256) &&
  s.ringOk (k.base * 64) (64 * 2 ^ k.lsize)

/-- A write of a block's first dword (R383). -/
def State.queueWrite (s : State) (q : Nat) (v : Word) : State :=
  let k := s.queue q
  if k.en && !k.err then (if bit v 63 then s else s.setQueue q { k with en := false })
  else
    let k := { k with en := false, prio := fld v 62 61, lsize := fld v 60 56, ctx := fld v 5 0 }
    if !bit v 63 then s.setQueue q k
    else if (s.setQueue q k).enableOk k then
      s.setQueue q { k with en := true, err := false, ecode := 0, cons := 0, prod := 0 }
    else s.setQueue q { k with err := true, ecode := 1 }

/-- A write of BASE. -/
def State.baseWrite (s : State) (q : Nat) (v : Word) : State :=
  let k := s.queue q
  if k.en && !k.err then s else s.setQueue q { k with base := fld v 51 6 }

/-- A write of PROD: more than the ring holds stops the queue (R384). -/
def State.prodSet (s : State) (q : Nat) (v : Word) : State :=
  let k := s.queue q
  let p := BitVec.ofNat 32 (fld v 31 0)
  if k.en && !k.err && decide (2 ^ k.lsize < (p - k.cons).toNat) then
    s.setQueue q { k with prod := p, err := true, ecode := 2 }
  else s.setQueue q { k with prod := p }

/-- QUEUE_ENABLE: EN = 1 written with the other bits of a value. -/
def execQueueEnable (queue : Nat) (value : BitVec 64) (s : State) : Host.Outcome State Fault Refusal :=
  .next (s.whenReady fun s => if queue < 4096 then s.queueWrite queue (value ||| 0x8000000000000000#64) else s)

/-- PROD_WRITE. -/
def execProdWrite (queue : Nat) (value : BitVec 64) (s : State) : Host.Outcome State Fault Refusal :=
  .next (s.whenReady fun s => if queue < 4096 then s.prodSet queue value else s)

end Sys2Proof.Machine
end

