-- ==== Sys2Proof/Machine/HostPort.lean ====
section
/-! DEFINITION. What the host and other modules do through the ports: apertures and the memory BAR (R95 to R98, R425),
host invalidations (R50), replication (R68), the firmware mailbox (R430, R44) and requests of the pod (R435). -/

namespace Sys2Proof.Machine

/-! ## Apertures (R95, R98) -/

abbrev Aperture := Word × Word × Word × Word

def State.aperture (s : State) (j : Nat) : Aperture := Sparse.get (0, 0, 0, 0) s.apertures j
def State.setAperture (s : State) (j : Nat) (a : Aperture) : State := { s with apertures := Sparse.set s.apertures j a }

def Aperture.valid (a : Aperture) : Bool := bit a.1 63
def Aperture.tied (a : Aperture) : Bool := bit a.1 62
/-- First byte of the range in the BAR, its bytes, the target and the bolt. -/
def Aperture.base (a : Aperture) : Nat := fld a.1 39 0 * 4096
def Aperture.size (a : Aperture) : Nat := fld a.2.1 39 0 * 4096
def Aperture.target (a : Aperture) : Nat := fld a.2.2.1 51 12 * 4096
def Aperture.boltPa (a : Aperture) : Nat := fld a.2.2.2 51 4 * 16
def Aperture.key (a : Aperture) : Nat := fld a.1 61 55

/-- The checks at a write of V = 1. -/
def State.apertureOk (s : State) (j : Nat) (a : Aperture) : Bool :=
  let other (p : Nat × Aperture) : Bool :=
    p.1 ≠ j && Aperture.valid p.2 && overlapLen a.base a.size (Aperture.base p.2) (Aperture.size p.2) ≠ 0
  s.feature 17 && decide (0 < a.size) && !s.apertures.any other && overlapLen a.base a.size (2 ^ 39) (2 ^ 39) = 0 &&
  s.memCovered a.target a.size = a.size &&
  (!a.tied || s.memCovered a.boltPa 16 = 16) &&
  (decide (0x8000000000 ≤ a.target) || (s.slot a.key).loaded)

/-- A write of an aperture entry's first dword. While V = 1 its other fields stay, but for TIED. -/
def State.apertureWrite (s : State) (j : Nat) (v : Word) : State :=
  let a := s.aperture j
  let err := a.1 &&& 0x40000000000000#64
  let d0 := if a.valid then (a.1 &&& 0x3F8000FFFFFFFFFF#64) ||| (v &&& 0x4000000000000000#64) else v &&& 0x7F8000FFFFFFFFFF#64
  let b : Aperture := (d0, a.2)
  if !bit v 63 then s.setAperture j (d0 ||| err, a.2)
  else if s.apertureOk j b then s.setAperture j (d0 ||| 0x8000000000000000#64, a.2)
  else s.setAperture j (d0 ||| 0x40000000000000#64, a.2)

/-- A write of another dword of an entry: ignored while V = 1. -/
def State.apertureRest (s : State) (j i : Nat) (v : Word) : State :=
  let a := s.aperture j
  if a.valid then s
  else if i = 1 then s.setAperture j (a.1, v &&& 0xFFFFFFFFFF#64, a.2.2)
  else if i = 2 then s.setAperture j (a.1, a.2.1, v &&& 0xFFFFFFFFFF000#64, a.2.2.2)
  else s.setAperture j (a.1, a.2.1, a.2.2.1, v &&& 0xFFFFFFFFFFFF0#64)

/-- APERTURE_ENABLE: V = 1 written with the other bits of a value. -/
def execApertureEnable (j : Nat) (value : BitVec 64) (s : State) : Host.Outcome State Fault Refusal :=
  .next (s.whenReady fun s => if j < 64 then s.apertureWrite j (value ||| 0x8000000000000000#64) else s)

/-- APERTURE_DISABLE: V = 0 written with the other bits of a value. -/
def execApertureDisable (j : Nat) (value : BitVec 64) (s : State) : Host.Outcome State Fault Refusal :=
  .next (s.whenReady fun s => if j < 64 then s.apertureWrite j (value &&& 0x7FFFFFFFFFFFFFFF#64) else s)

/-! ## The memory BAR (R96, R97, R425) -/

/-- What a request names: physical address of its first byte, key slot, and the bolt it counts on. -/
def State.barTarget (s : State) (off len : Nat) : Option (Nat × Nat × Option Nat) :=
  if 2 ^ 39 ≤ off then some (off - 2 ^ 39, 0, none)
  else
    match s.apertures.find? (fun (_, a) => Aperture.valid a && decide (Aperture.base a ≤ off) &&
        decide (off + len ≤ Aperture.base a + Aperture.size a)) with
    | some (_, a) => some (Aperture.target a + (off - Aperture.base a), Aperture.key a,
        if Aperture.tied a then some (Aperture.boltPa a) else none)
    | none => none

/-- Whether every byte can be accessed under a slot: populated, no line's unit failed (R22), the slot usable. -/
def State.barOk (s : State) (pa len slot : Nat) : Bool :=
  s.memCovered pa len = len && (decide (0x8000000000 ≤ pa) || s.slotUsable slot) &&
  (List.range ((pa + len + 127) / 128 - pa / 128)).all fun i => !s.unitFailed (128 * (pa / 128 + i))

/-- A request to a part of a window that is changing waits until the change is done (R89). -/
def State.settleWindow (s : State) (pa len : Nat) : State :=
  if s.resizing pa || s.resizing (pa + len - 1) then s.swinDone (homeDie pa) else s

/-- What a request from outside waits for is done: collapses are answered, changes of windows made, writes applied. -/
def State.forceDrain (s : State) : State :=
  let s := s.collapses.foldl (fun s c => s.collapseNow (c.page * 4096)) s
  (List.range 8).foldl (fun s d => s.swinDone d) s.drain

/-- Cells of the enabled bytes. -/
def enabledCells (pa : Nat) : List (Option Byte) → List Host.Cell
  | [] => []
  | some b :: l => (pa, b) :: enabledCells (pa + 1) l
  | none :: l => enabledCells (pa + 1) l

/-- Cells written line by line by the host port: the stamp of the last write. -/
def State.hostWrite (key : BitVec 512) : Nat → List Host.Cell → Stamp → State → Stamp × State
  | 0, _, st, s => (st, s)
  | _, [], st, s => (st, s)
  | fuel + 1, (a, b) :: l, _, s =>
    let line := l.takeWhile fun c => lineOf c.1 = lineOf a
    let (st, s) := s.injectCells 0 0 a ((a, b) :: line) key none none
    State.hostWrite key fuel (l.drop line.length) st s

/-- Key bits of a line, those of slot 0 where it was never written. DESIGN CHOICE (log 49): R95 names no key slot for the
bolt of a tied aperture, whose line is read and written under the key bits it was last written under. -/
def State.lineKey (s : State) (pa : Nat) : BitVec 512 := ((s.line (lineOf pa)).key).getD s.slot0.key

/-- MEMORY_BAR_WRITE by a requester; a byte that is not enabled is none. Where the unit of a tied aperture's bolt has failed
the bytes are written and the bolt operation fails (R22, log 49). -/
def execMemoryBarWrite (requester off : Nat) (bytes : List (Option (BitVec 8))) (s : State) :
    Host.Outcome State Fault Refusal :=
  let n := bytes.length
  if !s.ready || 2 ^ 40 < off + n then .next { s with replies := none :: s.replies }
  else
    match s.barTarget off n with
    | none =>
      let s : State := { s with replies := none :: s.replies }
      .next (s.event 5 0 0 0 0 (w64 requester) (w64 off) (w64 n))
    | some (pa, slot, bolt) =>
      let s := s.settleWindow pa n
      let s := if s.overdue 0 (n + 1) then s.forceDrain else s
      if !s.barOk pa n slot then .next { s with replies := none :: s.replies }
      else
        let cells := enabledCells pa bytes
        let (st, s) := State.hostWrite (s.slot slot).key cells.length cells 0 s
        match bolt with
        | none => .next s
        | some b =>
          if s.unitFailed b then .next { s with replies := none :: s.replies }
          else
          let (_, _, s) := s.boltSend 0 st b ⟨1, cells.length, 0, st⟩ (s.lineKey b) (some 4) none
          .next s

/-- The bytes of a range as their home slices hold them, line by line. -/
def State.homeRange (s : State) (key : Option (BitVec 512)) : Nat → Nat → Nat → List Byte
  | 0, _, _ => []
  | fuel + 1, pa, n =>
    if n = 0 then []
    else
      let k := min n (128 - pa % 128)
      s.homeBytes pa k key ++ State.homeRange s key fuel (pa + k) (n - k)

/-- MEMORY_BAR_READ: the completion is an output. -/
def execMemoryBarRead (_requester off len : Nat) (s : State) : Host.Outcome State Fault Refusal :=
  if !s.ready || 2 ^ 40 < off + len then .next { s with replies := none :: s.replies }
  else
    match s.barTarget off len with
    | none => .next { s with replies := none :: s.replies }
    | some (pa, slot, _) =>
      let s := s.settleWindow pa len
      if !s.barOk pa len slot then .next { s with replies := none :: s.replies }
      else
        let key := if pa < 0x8000000000 then some (s.slot slot).key else none
        .next { s with replies := some (s.homeRange key len pa len) :: s.replies }

/-! ## Host invalidations (R50, R428) -/

/-- A write of `xlinvb`: GO while BUSY is ignored whole. -/
def State.xlinvWrite (s : State) (v : Word) : State :=
  let rw := v &&& 0x0FFF0000FFFFFFFF#64
  if bit s.xlinvb 62 then (if bit v 63 then s else { s with xlinvb := rw ||| 0x4000000000000000#64 })
  else { s with xlinvb := if bit v 63 then rw ||| 0x4000000000000000#64 else rw }

/-- XLINV. -/
def execXlinv (value : BitVec 64) (s : State) : Host.Outcome State Fault Refusal :=
  .next (s.whenReady (·.xlinvWrite value))

/-- XLINV_DONE: once every access that used an old entry is performed, none is cached, and the addresses that hardware
keeps are translated afresh (R49). -/
def execXlinvDone (s : State) : Host.Outcome State Fault Refusal :=
  let s' := s.drain
  if bit s.xlinvb 62 && s'.settled then
    .next { (s'.dropTlbs 4 0).rehome fun _ => true with xlinvb := s.xlinvb &&& ~~~0x4000000000000000#64 }
  else .next s

/-! ## Replication (R67, R68, R428) -/

/-- The lowest directory index with no entry in use. -/
def freeEntry (r : Sparse (Word × Word)) : Option Nat :=
  (List.range (min 16384 (r.length + 1))).find? fun i =>
    let e := Sparse.get (0, 0) r i
    !bit e.1 63 && !bit e.1 62

/-- Whether an entry of die `holder` is that of its replica of a page, whose own page it names (R67): a valid one, or one
that the driver has written and left without V, which names a page of the holder's HBM. -/
def replicaEntry (holder page : Nat) (e : Word × Word) : Bool :=
  !bit e.1 62 && fld e.1 39 0 = page && fld e.2 39 0 ≠ page && (bit e.1 63 || fld e.2 39 0 / 2 ^ 24 = holder)

/-- The holder's entry for a page: the valid one, or else the one that the driver has written, or else a free one. -/
def entryFor (r : Sparse (Word × Word)) (holder page : Nat) : Option Nat :=
  match r.find? (fun x => replicaEntry holder page x.2 && bit x.2.1 63),
      r.find? (fun x => replicaEntry holder page x.2) with
  | some (i, _), _ => some i
  | none, some (i, _) => some i
  | none, none => freeEntry r

/-- The entry that becomes a page's home entry, where none is valid: one that the driver has written and left without V,
or a free one. -/
def homeEntryFor (r : Sparse (Word × Word)) (page : Nat) : Option Nat :=
  match r.find? (fun x => !bit x.2.1 63 && !bit x.2.1 62 && fld x.2.1 39 0 = page && fld x.2.2 39 0 = page) with
  | some (i, _) => some i
  | none => freeEntry r

/-- `repcmd` ends with ERR. -/
def State.repErr (s : State) (rw : Word) : State := { s with repcmd := rw ||| 0x2000000000000000#64 }

/-- A replication to a holder begins under a home entry: writes in flight to the page are held from then on and collapse
it, and a collapse in progress waits for the new holder too (R68, R70). -/
def State.replicateBegin (s : State) (rw : Word) (e : Word × Word) (holder : Nat) : State :=
  let page := fld e.1 39 0
  let late (f : Flight) : Bool := page ≤ f.pa / 4096 && f.pa / 4096 < page + entryPages e
  let s : State := { s with
    repcmd := rw ||| 0x4000000000000000#64, repRun := setFld rw 39 0 page
    collapses := s.collapses.map fun c =>
      if c.page = page then { c with waiting := c.waiting ||| 1#8 <<< holder } else c
    flights := s.flights.map fun f => if late f then { f with held := true, page := some page } else f }
  if s.flights.any late then s.startCollapse (page * 4096) else s

/-- A write of `repcmd`: GO begins a replication (R68 step 1). -/
def State.replicateWrite (s : State) (v : Word) : State :=
  let rw := v &&& 0x77FFFFFFFFFFF#64
  let busy := bit s.repcmd 62
  if busy then (if bit v 63 then s else { s with repcmd := rw ||| (s.repcmd &&& 0x6000000000000000#64) })
  else if !bit v 63 then { s with repcmd := rw ||| (s.repcmd &&& 0x2000000000000000#64) }
  else
    let page := fld v 39 0
    let key := fld v 46 40
    let holder := fld v 50 48
    let pa := page * 4096
    let isHbm := match s.place pa with
      | .hbm _ => true
      | _ => false
    if !isHbm || !s.feature 14 || !s.slotUsable key then s.repErr rw
    else
      let h := homeDie pa
      match s.homeEntry pa with
      | some (i, e) =>
        if fld e.1 59 53 ≠ key || (entryFor (s.die holder).rdir holder page).isNone then s.repErr rw
        else
          (s.setDie h { s.die h with
            rdir := Sparse.set (s.die h).rdir i (e.1, setFld e.2 47 40 (fld e.2 47 40 ||| 2 ^ holder))
            }).replicateBegin rw e holder
      | none =>
        match homeEntryFor (s.die h).rdir page, entryFor (s.die holder).rdir holder page with
        | some i, some _ =>
          let size := fld (Sparse.get (0, 0) (s.die h).rdir i).1 61 60
          let d0 := w64 (2 ^ 63 + size * 2 ^ 60 + key * 2 ^ 53 + page)
          (s.setDie h { s.die h with
            rdir := Sparse.set (s.die h).rdir i (d0, w64 (2 ^ holder * 2 ^ 40 + page)) }).replicateBegin rw (d0, 0) holder
        | _, _ => s.repErr rw

/-- REPLICATE. -/
def execReplicate (value : BitVec 64) (s : State) : Host.Outcome State Fault Refusal :=
  .next (s.whenReady (·.replicateWrite value))

/-- The lines of a page copied to a replica under a key. -/
def State.copyPage (key : BitVec 512) (src dst : Nat) : Nat → State → State
  | 0, s => s
  | n + 1, s =>
    let s := s.physWrite (dst + 128 * n) (s.homeBytes (src + 128 * n) 128 (some key)) (some key)
    State.copyPage key src dst n s

/-- Whether a line of a page, or of its copy, is in a unit that has failed. -/
def State.copyFails (s : State) (src dst lines : Nat) : Bool :=
  (List.range lines).any fun i => s.unitFailed (src + 128 * i) || s.unitFailed (dst + 128 * i)

/-- REPLICATE_DONE: the copy is made, and the holder's entry validated. One that a failed unit keeps from being made ends
with ERR, and a holder that has no replica leaves HOLDERS (R22, log 49). -/
def execReplicateDone (s : State) : Host.Outcome State Fault Refusal :=
  if !bit s.repcmd 62 then .next s
  else
    let page := fld s.repRun 39 0
    let key := fld s.repRun 46 40
    let holder := fld s.repRun 50 48
    let idle := { s with repcmd := s.repcmd &&& ~~~0x4000000000000000#64 }
    match s.homeEntry (page * 4096), entryFor (s.die holder).rdir holder page with
    | some (_, e), some i =>
      let x := Sparse.get (0, 0) (s.die holder).rdir i
      let ready := replicaEntry holder page x
      let lines := 32 * entryPages e
      let total := (s.die holder).hbmcap / 4096 / entryPages e
      let lppn := if ready then fld x.2 39 0
        else holder * 2 ^ 24 + Config.replicaPage s.free holder % total * entryPages e
      if s.copyFails (page * 4096) (lppn * 4096) lines then
        let idle := if bit x.1 63 then idle else idle.dropHolder page fun h => h &&& (255 - 2 ^ holder)
        .next (idle.repErr idle.repcmd)
      else
      let idle := idle.copyPage (s.slot key).key (page * 4096) (lppn * 4096) lines
      let d0 := w64 (2 ^ 63 + fld e.1 61 60 * 2 ^ 60 + key * 2 ^ 53 + page)
      .next { idle.setDie holder { idle.die holder with
        rdir := Sparse.set (idle.die holder).rdir i (d0, w64 lppn) } with free := s.free + 1 }
    | _, _ => .next idle.drain

/-! ## The firmware mailbox (R430, R44) -/

/-- Whether every byte of a request's buffer can be accessed: host memory, or module memory through the memory BAR, in no
failed unit and under a slot 0 that may be used (R22, R43). -/
def State.busOk (s : State) (h n : Nat) : Bool :=
  (List.range n).all fun i =>
    match s.hostBus (h + i) with
    | some pa =>
      match s.place pa with
      | .host _ => true
      | p => p.isMem && !s.ownFails pa
    | none => false

/-- A host bus range read, or written: host memory, or HBM through the memory BAR under slot 0. -/
def State.busRead (s : State) (h n : Nat) : List Byte :=
  (List.range n).flatMap fun i =>
    match s.hostBus (h + i) with
    | some pa => s.physRead pa 1 s.key0
    | none => [0]
def State.busWrite (h : Nat) : List Byte → State → State
  | [], s => s
  | b :: l, s =>
    State.busWrite (h + 1) l (match s.hostBus h with
      | some pa => s.physWrite pa [b] s.key0
      | none => s)

/-- `fwcmd` with a status, BUSY clear. -/
def fwStatus (v : Word) (st : Nat) : Word := (v &&& 0x7F0F#64) ||| w64 (st * 2 ^ 48)

/-- A request begins only with GO, and not while one is busy. -/
def State.fwGo (s : State) (v : Word) (op : Nat) : Bool := bit v 63 && !bit s.fwcmd 62 && fld v 3 0 = op

/-- Bytes of a quote. -/
def quoteBytes : Nat := 64 + 96 + 8 + 1568 + 29792

/-- A request whose buffer cannot be accessed accesses none of it and changes no slot: R430 gives no STATUS for it, which
is free (log 49). -/
def State.fwFails (s : State) (v : Word) : State :=
  let (n, s) := s.draw
  { s with fwcmd := fwStatus v (n.toNat % 256) }

/-- QUOTE: the quote is written after the nonce. -/
def State.quoteRun (s : State) (v : Word) : State :=
  if s.fwlen.toNat < 32 + quoteBytes then { s with fwcmd := fwStatus v 5 }
  else if !s.busOk s.fwbuf.toNat (32 + quoteBytes) then s.fwFails v
  else
    let said := bytesOfNat 64 Config.deviceKey.toNat ++ bytesOfNat 96 (Config.measured s.bootId).toNat ++
      dwordBytes s.featoff ++ bytesOfNat 1568 (Config.kemKey s.bootId).toNat
    let q := said ++ bytesOfNat 29792 (Config.quoteSignature s.free (said ++ s.busRead s.fwbuf.toNat 32)).toNat
    { State.busWrite (s.fwbuf.toNat + 32) q s with fwcmd := fwStatus v 0, free := s.free + 1 }

/-- INSTALL. -/
def State.installRun (s : State) (v : Word) : State :=
  let slot := fld v 14 8
  let n := 1568 + 12 + 64 + 16
  if s.fwlen.toNat < n then { s with fwcmd := fwStatus v 5 }
  else if (s.slot slot).loaded then { s with fwcmd := fwStatus v 1 }
  else if !s.busOk s.fwbuf.toNat n then s.fwFails v
  else if Config.installOk s.free (s.busRead s.fwbuf.toNat n) (BitVec.ofNat 7 slot) then
    { s.setSlot slot ⟨true, false, Config.freeKey s.free⟩ with fwcmd := fwStatus v 0, free := s.free + 1 }
  else { s with fwcmd := fwStatus v 2, free := s.free + 1 }

/-- CLEAR: the slot is closing, and the request busy. -/
def State.clearRun (s : State) (v : Word) : State :=
  let slot := fld v 14 8
  if !(s.slot slot).loaded then { s with fwcmd := fwStatus v 3 }
  else if slot = 0 && s.anyContext then { s with fwcmd := fwStatus v 4 }
  else { s.setSlot slot { s.slot slot with closing := true } with fwcmd := fwStatus v 0 ||| 0x4000000000000000#64 }

/-- A write of `fwcmd`. An OP that Table 18.4 does not have asks for nothing. -/
def State.fwcmdWrite (s : State) (v : Word) : State :=
  if bit s.fwcmd 62 then
    (if bit v 63 then s else { s with fwcmd := (s.fwcmd &&& 0x40FF000000000000#64) ||| (v &&& 0x7F0F#64) })
  else if s.fwGo v 1 then s.quoteRun v
  else if s.fwGo v 2 then s.installRun v
  else if s.fwGo v 3 then s.clearRun v
  else { s with fwcmd := (s.fwcmd &&& 0xFF000000000000#64) ||| (v &&& 0x7F0F#64) }

/-- QUOTE. -/
def execQuote (value : BitVec 64) (s : State) : Host.Outcome State Fault Refusal :=
  .next (s.whenReady fun s => if s.fwGo value 1 then s.quoteRun value else s)

/-- INSTALL. -/
def execInstall (value : BitVec 64) (s : State) : Host.Outcome State Fault Refusal :=
  .next (s.whenReady fun s => if s.fwGo value 2 then s.installRun value else s)

/-- CLEAR. -/
def execClear (value : BitVec 64) (s : State) : Host.Outcome State Fault Refusal :=
  .next (s.whenReady fun s => if s.fwGo value 3 then s.clearRun value else s)

/-- Whether an access using a key slot is not performed (R44): a replication under way with it; an entry reserved and not
published, work asked for and not given, or claimed entries freed and not released, whose header is under it; or a prefetch
of a lead. -/
def State.slotInUse (s : State) (slot : Nat) : Bool :=
  let under (h : Head) : Bool := h.slot = slot && decide (h.pa < 0x8000000000)
  let asked (t : Thread) : Bool := t.pend.any fun
    | .claim _ h _ _ => under h
    | _ => false
  (bit s.repcmd 62 && fld s.repRun 46 40 = slot) || s.resvs.any (fun r => under r.header) ||
  s.freed.any (fun c => under c.header) || s.threads.any (fun (_, t) => asked t) ||
  s.seqs.any (fun (_, q) => q.shadow.any asked) ||
  s.cores.any fun (_, c) => c.leadOut.any fun (pa, _, k) => k = slot && decide (pa < 0x8000000000)

/-- KEY_SLOT_CLEAR_DONE: every access under the slot is performed, and its lines are dropped; the keys are zeroed. -/
def execKeySlotClearDone (slot : Nat) (s : State) : Host.Outcome State Fault Refusal :=
  let s' := s.drain
  if 128 ≤ slot || !(s.slot slot).closing || !s'.settled || s'.slotInUse slot then .next s
  else
    let k := (s.slot slot).key
    let s : State := { s' with
      dies := s'.dies.map fun (n, d) => (n, { d with copies := d.copies.filter fun c => c.2.key ≠ some k })
      cores := s'.cores.map fun (n, c) => (n, { c with tileBuffer := [] }) }
    let s := s.setSlot slot {}
    .next (if bit s.fwcmd 62 then
      { s with fwcmd := s.fwcmd &&& ~~~0x4000000000000000#64 } else s)

/-! ## Requests of the pod (R121, R298, R435) -/

/-- The new value of an atomic by its FN (Table 12.3); `y` is a compare-and-swap's new value. -/
def amoNew (fn m x y : Nat) : Option Nat :=
  if fn = 0 || fn = 1 then some x
  else if fn = 2 || fn = 3 then (if m = x then some y else none)
  else if fn = 4 || fn = 5 then some (m + x)
  else if fn = 6 || fn = 7 then some (m &&& x)
  else if fn = 8 || fn = 9 then some (m ||| x)
  else if fn = 10 || fn = 11 then some (m ^^^ x)
  else if fn = 12 then some (if sless 32 x m then x else m)
  else if fn = 13 then some (if sless 64 x m then x else m)
  else if fn = 14 then some (if sless 32 m x then x else m)
  else if fn = 15 then some (if sless 64 m x then x else m)
  else if fn = 16 || fn = 17 then some (min m x)
  else if fn = 18 || fn = 19 then some (max m x)
  else if fn = 20 then some (fAdd f32 0 m x).1
  else if fn = 21 then some (fMinMax f32 true m x).1
  else some (fMinMax f32 false m x).1

/-- Width of an atomic's operand by its FN. -/
def amoWidth (fn : Nat) : Nat := if fn < 20 && fn % 2 = 1 then 8 else 4

/-- The party of requests that enter from the pod, at die 0 (log 15). -/
def State.podParty (s : State) : Party := ⟨0, 0, (s.context (fld s.podctl 5 0)).dxp, .supervisor⟩

/-- An incoming atomic at its home slice: the old value. A peer-port write has no foreign causal past and leaves the
line's record as it is (R106, R126). -/
def podAmo (p : Party) (fn : Nat) (va : Word) (x y : Nat) : E (List Byte) := do
  let n := amoWidth fn
  if 0x16 < fn || va.toNat % n ≠ 0 then eEnd 3
  let t ← eTarget p true n va n
  if !t.place.isMem then eEnd 3
  eMod (·.collapseNow t.pa)
  fun e =>
    match e.s.atomicLine true 0 0 t.pa n (e.s.slot t.slot).key none
        (fun b => (amoNew fn (natOfBytes b) (x % 2 ^ (8 * n)) y).map (bytesOfNat n)) with
    | some (old, _, s) => .ok old { e with s := s }
    | none => .error .busy e

/-- POD_REQUEST_IN: an atomic of Table 12.3 by its FN, with its operand and a compare-and-swap's new value in `bytes`;
or a copy: `bytes` written, or as many read as the operand says where there are none. The answer is an output. -/
def execPodRequestIn (copy : Bool) (fn : Nat) (addr operand : BitVec 64) (bytes : List (BitVec 8)) (s : State) :
    Host.Outcome State Fault Refusal :=
  let va := addr &&& 0x00FFFFFFFFFFFFFF#64
  let ok := s.ready && bit s.podctl 63 && (s.context (fld s.podctl 5 0)).v && fld addr 63 62 = 0 && !bit addr 56 &&
    fld addr 61 57 = fld s.podctl 12 8
  let s := s.peerTraffic
  let p := s.podParty
  let act : E (List Byte) :=
    if !copy then podAmo p fn va operand.toNat (natOfBytes bytes)
    else if bytes = [] then eReadAll p va operand.toNat
    else do
      eWriteAll p va bytes
      pure []
  if !ok then .next { s with replies := none :: s.replies }
  else
    match act (.start s.forceDrain 0) with
    | .ok r e => .next { e.s with replies := some r :: e.s.replies }
    | .error _ e => .next { e.s with replies := none :: e.s.replies }

end Sys2Proof.Machine
end

