-- ==== Sys2Proof/Machine/Bar.lean ====
section
/-! DEFINITION. The control BAR (R424, R426, Tables 9.8, 16.1, 16.2, 16.8, 18.1, 18.2, 4.11, 3.6): what its registers
read as, and what a write of each does. -/

namespace Sys2Proof.Machine

/-- A dword from two 32-bit halves. -/
def pair32 (hi lo : BitVec 32) : Word := w64 (hi.toNat * 2 ^ 32 + lo.toNat)

/-- A register of context entry c (Table 16.1). -/
def Context.reg (c : Context) (off : Nat) : Word :=
  if off = 0 then w64 ((if c.v then 2 ^ 63 else 0) + (if c.ord then 2 ^ 62 else 0) + (if c.busy then 2 ^ 60 else 0))
  else if off = 8 then c.dxp
  else if off = 16 then pair32 c.boltlim c.pfwait
  else if off = 24 then pair32 c.disc c.killed else 0

/-- A register of a queue block (Table 16.2). -/
def Queue.reg (k : Queue) (off : Nat) : Word :=
  if off = 0 then w64 ((if k.en then 2 ^ 63 else 0) + k.prio % 4 * 2 ^ 61 + k.lsize % 32 * 2 ^ 56 + k.ctx % 64)
  else if off = 8 then w64 (k.base % 2 ^ 46 * 64)
  else if off = 16 then k.prod.setWidth 64
  else w64 ((if k.err then 2 ^ 63 else 0) + k.ecode % 256 * 2 ^ 48 + k.cons.toNat)

/-- The dword at an 8-byte aligned offset of the control BAR. Offsets not listed read zero, and so do WO fields. -/
def State.barReg (s : State) (off : Nat) : Word :=
  if off = 0 then w64 ((if s.ready then 2 ^ 63 else 0) + s.bootErr.toNat * 2 ^ 48)
  else if off = 0x10 then s.rtimer
  else if 0x100 ≤ off && off < 0x200 then
    let d := s.die ((off - 0x100) / 0x20)
    let r := off % 0x20
    if r = 0 then d.fqbase else if r = 8 then d.fqhead.setWidth 64 else if r = 16 then d.fqtail.setWidth 64 else 0
  else if off = 0x200 then s.eqbase
  else if off = 0x208 then s.eqhead.setWidth 64
  else if off = 0x210 then s.eqtail.setWidth 64
  else if off = 0x300 then s.xlinva
  else if off = 0x308 then s.xlinvb
  else if off = 0x310 then s.repcmd
  else if off = 0x318 then s.seqkill
  else if off = 0x400 then s.fwcmd
  else if off = 0x408 then s.fwbuf
  else if off = 0x410 then s.fwlen
  else if off = 0x800 then s.featoff
  else if off = 0x808 then s.featacc
  else if off = 0x818 then s.featstat
  else if off = 0x820 then s.featuse
  else if off = 0x828 then w64 (s.xtgen.toNat * 2 ^ 48 + s.xtver.toNat)
  else if 0x900 ≤ off && off < 0x940 then (s.die ((off - 0x900) / 8)).lcmap.setWidth 64
  else if off = 0x940 then s.femap.setWidth 64
  else if off = 0x948 then s.ppmap.setWidth 64
  else if off = 0x950 then s.podctl
  else if 0xA00 ≤ off && off < 0xB00 then s.island ((off - 0xA00) / 8)
  else if off = 0xB00 then s.pwrlim
  else if off = 0xB08 then s.thermal
  else if 0x10000 ≤ off && off < 0x11000 then (s.context ((off - 0x10000) / 64)).reg (off % 64)
  else if 0x20000 ≤ off && off < 0x40000 then (s.queue ((off - 0x20000) / 32)).reg (off % 32)
  else if 0x40000 ≤ off && off < 0x40800 then
    let a := s.aperture ((off - 0x40000) / 32)
    if off % 32 = 0 then a.1 else if off % 32 = 8 then a.2.1 else if off % 32 = 16 then a.2.2.1 else a.2.2.2
  else if 0x100000 ≤ off && off < 0x300000 then
    let e := Sparse.get (0, 0) (s.die ((off - 0x100000) / 0x40000)).rdir (off % 0x40000 / 16)
    if off % 16 = 0 then e.1 else e.2
  else 0

/-- The state of an outcome, or the state before it. -/
def nextOr (s : State) : Host.Outcome State Fault Refusal → State
  | .next t => t
  | _ => s

/-- A dword written at an 8-byte aligned offset of the control BAR. RO fields, reserved bits and offsets not listed
ignore it. -/
def State.barSet (s : State) (off : Nat) (v : Word) : State :=
  if off = 8 then (if bit v 0 then s.deviceReset else s)
  else if !s.ready then s
  else if 0x100 ≤ off && off < 0x200 then
    let i := (off - 0x100) / 0x20
    let d := s.die i
    let r := off % 0x20
    if r = 0 then s.setDie i { d with fqbase := v &&& ~~~0x30#64 }
    else if r = 8 then s.setDie i { d with fqhead := v.setWidth 32 }
    else if r = 24 then
      nextOr s (if bit v 32 then execPfreplyDeliver i (fld v 31 0) s else execPfreplyRetry i (fld v 31 0) s)
    else s
  else if off = 0x200 then { s with eqbase := v &&& ~~~0x30#64 }
  else if off = 0x208 then { s with eqhead := v.setWidth 32 }
  else if off = 0x300 then { s with xlinva := v &&& ~~~0xFFF#64 }
  else if off = 0x308 then s.xlinvWrite v
  else if off = 0x310 then s.replicateWrite v
  else if off = 0x318 then s.seqkillWrite v
  else if off = 0x400 then s.fwcmdWrite v
  else if off = 0x408 then { s with fwbuf := v }
  else if off = 0x410 then { s with fwlen := v }
  else if off = 0x808 then { s with featacc := v }
  else if off = 0x810 then (if bit v 0 then s.commit else s)
  else if off = 0x950 then { s with podctl := v &&& 0x8000000000001F3F#64 }
  else if 0xA00 ≤ off && off < 0xB00 then s.islandWrite ((off - 0xA00) / 8) v
  else if off = 0xB00 then (if 2400 < fld v 15 0 then s else { s with pwrlim := v &&& 0xFFFF#64 })
  else if 0x10000 ≤ off && off < 0x11000 then
    let i := (off - 0x10000) / 64
    let c := s.context i
    if off % 64 = 0 then s.contextWrite i v
    else if c.v then s
    else if off % 64 = 8 then s.setContext i { c with dxp := v &&& ~~~0x800000000000#64 }
    else if off % 64 = 16 then s.setContext i { c with boltlim := v.extractLsb' 32 32, pfwait := v.extractLsb' 0 32 }
    else s
  else if 0x20000 ≤ off && off < 0x40000 then
    let q := (off - 0x20000) / 32
    if off % 32 = 0 then s.queueWrite q v else if off % 32 = 8 then s.baseWrite q v
    else if off % 32 = 16 then s.prodSet q v else s
  else if 0x40000 ≤ off && off < 0x40800 then
    let j := (off - 0x40000) / 32
    if off % 32 = 0 then s.apertureWrite j v else s.apertureRest j (off % 32 / 8) v
  else if 0x100000 ≤ off && off < 0x300000 then
    let i := (off - 0x100000) / 0x40000
    let d := s.die i
    let k := off % 0x40000 / 16
    let e := Sparse.get (0, 0) d.rdir k
    let e := if off % 16 = 0 then (v &&& 0xFFE000FFFFFFFFFF#64, e.2) else (e.1, v &&& 0xFFFFFFFFFFFF#64)
    s.setDie i { d with rdir := Sparse.set d.rdir k e }
  else s

/-- A value with the half that a 32-bit write does not reach taken from the register (R28; for the control BAR, log
20). -/
def mergeHalf (half : Option Bool) (old v : Word) : Word :=
  match half with
  | none => v
  | some false => (old &&& 0xFFFFFFFF00000000#64) ||| (v &&& 0xFFFFFFFF#64)
  | some true => (v &&& 0xFFFFFFFF00000000#64) ||| (old &&& 0xFFFFFFFF#64)

/-- REGISTER_WRITE of the 8-byte aligned register at an offset: of the control BAR, or of the register space of die
`off` div 2^32. `half` names the half of a 32-bit write; the value stands at its place in the dword. -/
def execRegisterWrite (bar : Bool) (off : Nat) (half : Option Bool) (value : BitVec 64) (s : State) :
    Host.Outcome State Fault Refusal :=
  let off := off - off % 8
  if bar then .next (s.barSet off (mergeHalf half (s.barReg off) value))
  else if 8 ≤ off / 2 ^ 32 || !regAssigned (off % 2 ^ 32) then .next s
  else .next (s.dieRegWrite (off / 2 ^ 32) (off % 2 ^ 32) half value)

end Sys2Proof.Machine
end

