-- ==== Sys2Proof/Machine/Debug.lean ====
section
/-! DEFINITION. Major 0x44: the strip history, the trace buffer (R420 to R422) and `vtrim` (R417). -/

namespace Sys2Proof.Machine

/-- Dword j of a strip-history entry (Table 17.7). -/
def Hist.dword (h : Hist) (j : Nat) : Word :=
  if j = 0 then h.vpc else if j = 1 then h.first else if j = 2 then h.last else h.info

/-- `shist`. -/
def execShist (d a b : BitVec 5) (fa fb : Bool) (s : State) : Host.Outcome State Fault Refusal :=
  runS (do
    let x ← rx a fa
    let y ← rx b fb
    let t ← getT
    wx d (match t.hist[x.toNat]? with
      | some h => h.dword (fld y 1 0)
      | none => 0)) s

/-- `shcnt`. -/
def execShcnt (d : BitVec 5) (s : State) : Host.Outcome State Fault Refusal :=
  runS (do
    let t ← getT
    wx d t.histN) s

/-- `trrd`. -/
def execTrrd (d a b : BitVec 5) (fa fb : Bool) (s : State) : Host.Outcome State Fault Refusal :=
  run (do
    liftT supervisorOnly
    let x ← liftT (rx a fa)
    let y ← liftT (rx b fb)
    let s ← getS
    liftT (wx d (match s.cp.trace[x.toNat]? with
      | some e => if bit y 0 then e.2 else e.1
      | none => 0))
    pure .seq) s

/-- `vtrim`: elements at and above `vl` become zero, and VB is that of the `vl` elements left. -/
def execVtrim (d : BitVec 5) (s : State) : Host.Outcome State Fault Refusal :=
  runS (do
    vOk d
    notVill
    destV d
    modT fun t =>
      let n := t.vlN * t.ew
      t.setVreg d.toNat { t.vreg d.toNat with
        bits := BitVec.ofNat 32768 ((t.vreg d.toNat).bits.toNat % 2 ^ n)
        vb := 8 * ((n + 63) / 64) }) s

end Sys2Proof.Machine
end

