-- ==== Sys2Proof/Machine/Fcv.lean ====
section
/-! DEFINITION. The format-conversion engine (R377, R378): `fcv`, and the conversion between dense and row-compressed
form. -/

namespace Sys2Proof.Machine

/-- `fcv`. -/
def execFcv (d a : BitVec 5) (fa : Bool) (s : State) : Host.Outcome State Fault Refusal :=
  run (do
    needFeature 12
    let va ← liftT (rx a fa)
    liftT (destX d)
    let bs ← descriptorM va 128 128
    let s ← getS
    issueM (296 + s.dieNo) 4 bs d 0) s

/-- Table 15.15. -/
structure FcvDesc where
  etype : Nat
  toDense : Bool
  rows : Nat
  cols : Nat
  dense : Word
  dpitch : Word
  hdr : Word
  vals : Word
  colidx : Word
  rowptr : Word
  cap : Nat
deriving DecidableEq, Repr

def FcvDesc.ofBytes (bs : List Byte) : Option FcvDesc :=
  let d (o : Nat) : Word := dwordOf bs o
  let r : FcvDesc := ⟨fld (d 0) 4 1, bit (d 0) 0, fld (d 8) 63 32, fld (d 8) 31 0, d 0x10, d 0x18, d 0x20, d 0x28,
    d 0x30, d 0x38, (d 0x40).toNat⟩
  if fld (d 0) 63 5 = 0 && decide (r.etype < 12) && r.rows ≠ 0 && r.cols ≠ 0 && r.hdr.toNat % 32 = 0 &&
      (List.range 6).all (fun i => d (0x50 + 8 * i) = 0) then some r else none

/-- Bytes of an element. -/
def FcvDesc.w (r : FcvDesc) : Nat := 2 ^ ewLog r.etype

/-- A value of n bytes at an address that is a multiple of n. -/
def eLoad (p : Party) (rem : Nat) (va : Word) (n : Nat) : E Nat := do
  if va.toNat % n ≠ 0 then eEnd 4
  let bs ← eRead p rem va n
  pure (natOfBytes bs)
def eStore (p : Party) (rem : Nat) (va : Word) (n v : Nat) : E Unit := do
  if va.toNat % n ≠ 0 then eEnd 4
  eWrite p rem va (bytesOfNat n v) none

/-- Bytes of the dense matrix from element (i, j) on. -/
def FcvDesc.left (r : FcvDesc) (i j : Nat) : Nat := ((r.rows - i) * r.cols - j) * r.w

/-- The dword at 0x10 of a header. -/
def FcvDesc.mark (r : FcvDesc) (complete : Bool) : Word := w64 ((if complete then 2 ^ 63 else 0) + r.etype)

/-- Row i of the dense matrix compressed from column j: the count of nonzero elements so far comes out. The bit says
whether CAP is passed. -/
def packRow (p : Party) (r : FcvDesc) (i : Nat) : Nat → Nat → Nat → E (Nat × Bool)
  | 0, _, k => pure (k, false)
  | n + 1, j, k => do
    let v ← eLoad p (r.left i j) (r.dense + w64 i * r.dpitch + w64 (j * r.w)) r.w
    if isZeroElem r.etype v then packRow p r i n (j + 1) k
    else if r.cap ≤ k then pure (k, true)
    else do
      eStore p (r.left i j) (r.vals + w64 (k * r.w)) r.w v
      eStore p (r.left i j) (r.colidx + w64 (4 * k)) 4 j
      packRow p r i n (j + 1) (k + 1)

/-- Rows from i: the row pointers' values. -/
def packRows (p : Party) (r : FcvDesc) : Nat → Nat → Nat → E (List Nat)
  | 0, _, k => pure [k]
  | n + 1, i, k => do
    let (k', past) ← packRow p r i r.cols 0 k
    if past then eEnd 11
    eCount (i + 1)
    let l ← packRows p r n (i + 1) k'
    pure (k :: l)

def storePtrs (p : Party) (base : Word) : List Nat → Nat → E Unit
  | [], _ => pure ()
  | v :: l, i => do
    eStore p (4 * (l.length + 1) + 32) (base + w64 (4 * i)) 4 v
    storePtrs p base l (i + 1)

/-- Dense to compressed (R378): the bytes written. COMPLETE alone is cleared first, the top byte of its dword. -/
def compress (p : Party) (r : FcvDesc) : E Nat := do
  eWrite p (r.left 0 0) (r.hdr + 0x17) [0] none
  let ptrs ← packRows p r r.rows 0 0
  let nnz := ptrs.getLast?.getD 0
  storePtrs p r.rowptr ptrs 0
  eSetDword p r.hdr (w64 (r.rows * 2 ^ 32 + r.cols)) none 32
  eSetDword p (r.hdr + 8) (w64 nnz) none 24
  eSetDword p (r.hdr + 16) (r.mark false) none 16
  eSetDword p (r.hdr + 24) 0 none
  eSettled
  eSetDword p (r.hdr + 16) (r.mark true) none
  pure (nnz * (r.w + 4) + 4 * (r.rows + 1) + 32)

def loadList (p : Party) (base : Word) (w : Nat) : Nat → Nat → E (List Nat)
  | 0, _ => pure []
  | n + 1, i => do
    let v ← eLoad p (w * (n + 1)) (base + w64 (w * i)) w
    let l ← loadList p base w n (i + 1)
    pure (v :: l)

/-- Strictly ascending, all below a bound. -/
def ascending (bound : Nat) : List Nat → Bool
  | [] => true
  | [x] => decide (x < bound)
  | x :: y :: l => decide (x < y) && ascending bound (y :: l)

/-- Whether row pointers are non-decreasing. -/
def nondecreasing : List Nat → Bool
  | [] => true
  | [_] => true
  | x :: y :: l => decide (x ≤ y) && nondecreasing (y :: l)

/-- The row's elements written, `l` holding the pairs of column and value still to come. -/
def spreadRow (p : Party) (r : FcvDesc) (i : Nat) : Nat → Nat → List (Nat × Nat) → E Unit
  | 0, _, _ => pure ()
  | n + 1, j, l => do
    let v := match l.find? (fun x => x.1 = j) with
      | some x => x.2
      | none => 0
    eStore p (r.left i j) (r.dense + w64 i * r.dpitch + w64 (j * r.w)) r.w v
    spreadRow p r i n (j + 1) l

def spreadRows (p : Party) (r : FcvDesc) (rowOf : Nat → List (Nat × Nat)) : Nat → Nat → E Unit
  | 0, _ => pure ()
  | n + 1, i => do
    spreadRow p r i r.cols 0 (rowOf i)
    eCount (i + 1)
    spreadRows p r rowOf n (i + 1)

/-- Compressed to dense (R378). -/
def expand (p : Party) (r : FcvDesc) : E Nat := do
  let h0 ← eDword p r.hdr (r.left 0 0)
  let h1 ← eDword p (r.hdr + 8) (r.left 0 0)
  let h2 ← eDword p (r.hdr + 16) (r.left 0 0)
  if !bit h2 63 || fld h2 3 0 ≠ r.etype || h0 ≠ w64 (r.rows * 2 ^ 32 + r.cols) || decide (r.cap < h1.toNat) then eEnd 1
  let ptrs ← loadList p r.rowptr 4 (r.rows + 1) 0
  if !nondecreasing ptrs || ptrs.getLast? ≠ some h1.toNat then eEnd 1
  let idx ← loadList p r.colidx 4 h1.toNat 0
  let rowIdx (i : Nat) : List Nat := (idx.drop (ptrs.getD i 0)).take (ptrs.getD (i + 1) 0 - ptrs.getD i 0)
  if !(List.range r.rows).all (fun i => ascending r.cols (rowIdx i)) then eEnd 1
  let vals ← loadList p r.vals r.w h1.toNat 0
  spreadRows p r (fun i => (rowIdx i).zip (vals.drop (ptrs.getD i 0))) r.rows 0
  pure (r.rows * r.cols * r.w)

/-- The whole of a conversion. -/
def fcvData (die : Nat) (c : Command) : E Command := do
  let s ← eState
  if !(s.die die).fcvLive then eEnd 7
  match FcvDesc.ofBytes c.desc with
  | none => eEnd 1
  | some r =>
    let n ← if r.toDense then expand (c.party (296 + die)) r else compress (c.party (296 + die)) r
    eSettled
    pure { c with code := some 0, follow := w64 n }

/-- FCV_RUN. -/
def execFcvRun (die : Nat) (s : State) : Host.Outcome State Fault Refusal :=
  let u := 296 + die % 8
  match s.unitQueue u with
  | c :: _ =>
    if c.code.isNone && c.pagerStage = 0 then .next ((s.runHead u (fcvData (die % 8))).getD s) else .next s
  | [] => .next s

end Sys2Proof.Machine
end

