-- ==== Sys2Proof/Machine/ScalarFp.lean ====
section
/-! DEFINITION. Scalar floating point, major 0x06 (R268, Table 11.5). -/

namespace Sys2Proof.Machine

/-- A two-source operation of a format: the result is written, then its flags are recorded (R268). -/
def fp2 (t : Fmt) (d a b : BitVec 5) (fa fb : Bool) (f : Nat → Nat → Nat → Nat × Nat) : T Unit := do
  let x ← rx a fa
  let y ← rx b fb
  let th ← getT
  let r := f th.mode (x.toNat % 2 ^ t.width) (y.toNat % 2 ^ t.width)
  wx d (w64 r.1)
  raiseX r.2

/-- A one-source operation. -/
def fp1 (t : Fmt) (d a : BitVec 5) (fa : Bool) (f : Nat → Nat → Nat × Nat) : T Unit := do
  let x ← rx a fa
  let th ← getT
  let r := f th.mode (x.toNat % 2 ^ t.width)
  wx d (w64 r.1)
  raiseX r.2

/-- `fmac`: the destination's old value is the accumulator, which blocks (R183). -/
def fpMac (t : Fmt) (d a b : BitVec 5) (fa fb : Bool) : T Unit := do
  let x ← rx a fa
  let y ← rx b fb
  let z ← rx d false
  let th ← getT
  let r := fFma t th.mode false (x.toNat % 2 ^ t.width) (y.toNat % 2 ^ t.width) (z.toNat % 2 ^ t.width)
  wx d (w64 r.1)
  raiseX r.2

/-- The 64-bit pattern of a conversion's integer. -/
def intBits (r : Int × Nat) : Nat × Nat := (pat 64 r.1, r.2)

/-- `fadd.d`. -/
def execFaddD (d : BitVec 5) (a : BitVec 5) (b : BitVec 5) (fa : Bool) (fb : Bool) (s : State) :
    Host.Outcome State Fault Refusal :=
  runS (fp2 f64 d a b fa fb (fAdd f64)) s

/-- `fsub.d`. -/
def execFsubD (d : BitVec 5) (a : BitVec 5) (b : BitVec 5) (fa : Bool) (fb : Bool) (s : State) :
    Host.Outcome State Fault Refusal :=
  runS (fp2 f64 d a b fa fb (fSub f64)) s

/-- `fmul.d`. -/
def execFmulD (d : BitVec 5) (a : BitVec 5) (b : BitVec 5) (fa : Bool) (fb : Bool) (s : State) :
    Host.Outcome State Fault Refusal :=
  runS (fp2 f64 d a b fa fb (fMul f64)) s

/-- `fdiv.d`. -/
def execFdivD (d : BitVec 5) (a : BitVec 5) (b : BitVec 5) (fa : Bool) (fb : Bool) (s : State) :
    Host.Outcome State Fault Refusal :=
  runS (fp2 f64 d a b fa fb (fDiv f64)) s

/-- `fmin.d`. -/
def execFminD (d : BitVec 5) (a : BitVec 5) (b : BitVec 5) (fa : Bool) (fb : Bool) (s : State) :
    Host.Outcome State Fault Refusal :=
  runS (fp2 f64 d a b fa fb (fun _ => fMinMax f64 false)) s

/-- `fmax.d`. -/
def execFmaxD (d : BitVec 5) (a : BitVec 5) (b : BitVec 5) (fa : Bool) (fb : Bool) (s : State) :
    Host.Outcome State Fault Refusal :=
  runS (fp2 f64 d a b fa fb (fun _ => fMinMax f64 true)) s

/-- `feq.d`. -/
def execFeqD (d : BitVec 5) (a : BitVec 5) (b : BitVec 5) (fa : Bool) (fb : Bool) (s : State) :
    Host.Outcome State Fault Refusal :=
  runS (fp2 f64 d a b fa fb (fun _ => fEq f64)) s

/-- `flt.d`. -/
def execFltD (d : BitVec 5) (a : BitVec 5) (b : BitVec 5) (fa : Bool) (fb : Bool) (s : State) :
    Host.Outcome State Fault Refusal :=
  runS (fp2 f64 d a b fa fb (fun _ => fLess f64 false)) s

/-- `fle.d`. -/
def execFleD (d : BitVec 5) (a : BitVec 5) (b : BitVec 5) (fa : Bool) (fb : Bool) (s : State) :
    Host.Outcome State Fault Refusal :=
  runS (fp2 f64 d a b fa fb (fun _ => fLess f64 true)) s

/-- `fmac.d`. -/
def execFmacD (d : BitVec 5) (a : BitVec 5) (b : BitVec 5) (fa : Bool) (fb : Bool) (s : State) :
    Host.Outcome State Fault Refusal :=
  runS (fpMac f64 d a b fa fb) s

/-- `fsqrt.d`. -/
def execFsqrtD (d : BitVec 5) (a : BitVec 5) (fa : Bool) (s : State) : Host.Outcome State Fault Refusal :=
  runS (fp1 f64 d a fa (fSqrt f64)) s

/-- `fneg.d`. -/
def execFnegD (d : BitVec 5) (a : BitVec 5) (fa : Bool) (s : State) : Host.Outcome State Fault Refusal :=
  runS (fp1 f64 d a fa (fun _ => fNeg f64)) s

/-- `fabs.d`. -/
def execFabsD (d : BitVec 5) (a : BitVec 5) (fa : Bool) (s : State) : Host.Outcome State Fault Refusal :=
  runS (fp1 f64 d a fa (fun _ => fAbs f64)) s

/-- `fclass.d`. -/
def execFclassD (d : BitVec 5) (a : BitVec 5) (fa : Bool) (s : State) : Host.Outcome State Fault Refusal :=
  runS (fp1 f64 d a fa (fun _ => fClass f64)) s

/-- `ftoi.d`. -/
def execFtoiD (d : BitVec 5) (a : BitVec 5) (fa : Bool) (s : State) : Host.Outcome State Fault Refusal :=
  runS (fp1 f64 d a fa (fun m x => intBits (fToInt f64 m true 64 x))) s

/-- `fton.d`. -/
def execFtonD (d : BitVec 5) (a : BitVec 5) (fa : Bool) (s : State) : Host.Outcome State Fault Refusal :=
  runS (fp1 f64 d a fa (fun m x => intBits (fToInt f64 m false 64 x))) s

/-- `itof.d`: from a 64-bit integer, rounded (R248). -/
def execItofD (d : BitVec 5) (a : BitVec 5) (fa : Bool) (s : State) : Host.Outcome State Fault Refusal :=
  runS (fp1 f64 d a fa (fun m x => fOfInt f64 m (sval 64 x))) s

/-- `ntof.d`: from a 64-bit integer, rounded (R248). -/
def execNtofD (d : BitVec 5) (a : BitVec 5) (fa : Bool) (s : State) : Host.Outcome State Fault Refusal :=
  runS (fp1 f64 d a fa (fun m x => fOfInt f64 m (x))) s

/-- `fadd.s`. -/
def execFaddS (d : BitVec 5) (a : BitVec 5) (b : BitVec 5) (fa : Bool) (fb : Bool) (s : State) :
    Host.Outcome State Fault Refusal :=
  runS (fp2 f32 d a b fa fb (fAdd f32)) s

/-- `fsub.s`. -/
def execFsubS (d : BitVec 5) (a : BitVec 5) (b : BitVec 5) (fa : Bool) (fb : Bool) (s : State) :
    Host.Outcome State Fault Refusal :=
  runS (fp2 f32 d a b fa fb (fSub f32)) s

/-- `fmul.s`. -/
def execFmulS (d : BitVec 5) (a : BitVec 5) (b : BitVec 5) (fa : Bool) (fb : Bool) (s : State) :
    Host.Outcome State Fault Refusal :=
  runS (fp2 f32 d a b fa fb (fMul f32)) s

/-- `fdiv.s`. -/
def execFdivS (d : BitVec 5) (a : BitVec 5) (b : BitVec 5) (fa : Bool) (fb : Bool) (s : State) :
    Host.Outcome State Fault Refusal :=
  runS (fp2 f32 d a b fa fb (fDiv f32)) s

/-- `fmin.s`. -/
def execFminS (d : BitVec 5) (a : BitVec 5) (b : BitVec 5) (fa : Bool) (fb : Bool) (s : State) :
    Host.Outcome State Fault Refusal :=
  runS (fp2 f32 d a b fa fb (fun _ => fMinMax f32 false)) s

/-- `fmax.s`. -/
def execFmaxS (d : BitVec 5) (a : BitVec 5) (b : BitVec 5) (fa : Bool) (fb : Bool) (s : State) :
    Host.Outcome State Fault Refusal :=
  runS (fp2 f32 d a b fa fb (fun _ => fMinMax f32 true)) s

/-- `feq.s`. -/
def execFeqS (d : BitVec 5) (a : BitVec 5) (b : BitVec 5) (fa : Bool) (fb : Bool) (s : State) :
    Host.Outcome State Fault Refusal :=
  runS (fp2 f32 d a b fa fb (fun _ => fEq f32)) s

/-- `flt.s`. -/
def execFltS (d : BitVec 5) (a : BitVec 5) (b : BitVec 5) (fa : Bool) (fb : Bool) (s : State) :
    Host.Outcome State Fault Refusal :=
  runS (fp2 f32 d a b fa fb (fun _ => fLess f32 false)) s

/-- `fle.s`. -/
def execFleS (d : BitVec 5) (a : BitVec 5) (b : BitVec 5) (fa : Bool) (fb : Bool) (s : State) :
    Host.Outcome State Fault Refusal :=
  runS (fp2 f32 d a b fa fb (fun _ => fLess f32 true)) s

/-- `fmac.s`. -/
def execFmacS (d : BitVec 5) (a : BitVec 5) (b : BitVec 5) (fa : Bool) (fb : Bool) (s : State) :
    Host.Outcome State Fault Refusal :=
  runS (fpMac f32 d a b fa fb) s

/-- `fsqrt.s`. -/
def execFsqrtS (d : BitVec 5) (a : BitVec 5) (fa : Bool) (s : State) : Host.Outcome State Fault Refusal :=
  runS (fp1 f32 d a fa (fSqrt f32)) s

/-- `fneg.s`. -/
def execFnegS (d : BitVec 5) (a : BitVec 5) (fa : Bool) (s : State) : Host.Outcome State Fault Refusal :=
  runS (fp1 f32 d a fa (fun _ => fNeg f32)) s

/-- `fabs.s`. -/
def execFabsS (d : BitVec 5) (a : BitVec 5) (fa : Bool) (s : State) : Host.Outcome State Fault Refusal :=
  runS (fp1 f32 d a fa (fun _ => fAbs f32)) s

/-- `fclass.s`. -/
def execFclassS (d : BitVec 5) (a : BitVec 5) (fa : Bool) (s : State) : Host.Outcome State Fault Refusal :=
  runS (fp1 f32 d a fa (fun _ => fClass f32)) s

/-- `ftoi.s`. -/
def execFtoiS (d : BitVec 5) (a : BitVec 5) (fa : Bool) (s : State) : Host.Outcome State Fault Refusal :=
  runS (fp1 f32 d a fa (fun m x => intBits (fToInt f32 m true 64 x))) s

/-- `fton.s`. -/
def execFtonS (d : BitVec 5) (a : BitVec 5) (fa : Bool) (s : State) : Host.Outcome State Fault Refusal :=
  runS (fp1 f32 d a fa (fun m x => intBits (fToInt f32 m false 64 x))) s

/-- `itof.s`: from a 64-bit integer, rounded (R248). -/
def execItofS (d : BitVec 5) (a : BitVec 5) (fa : Bool) (s : State) : Host.Outcome State Fault Refusal :=
  runS (fp1 f64 d a fa (fun m x => fOfInt f32 m (sval 64 x))) s

/-- `ntof.s`: from a 64-bit integer, rounded (R248). -/
def execNtofS (d : BitVec 5) (a : BitVec 5) (fa : Bool) (s : State) : Host.Outcome State Fault Refusal :=
  runS (fp1 f64 d a fa (fun m x => fOfInt f32 m (x))) s

/-- `fcvt.d.s`: f32 to f64, exact. -/
def execFcvtDS (d : BitVec 5) (a : BitVec 5) (fa : Bool) (s : State) : Host.Outcome State Fault Refusal :=
  runS (fp1 f32 d a fa (fCvt f32 f64)) s

/-- `fcvt.s.d`: f64 to f32, rounded. -/
def execFcvtSD (d : BitVec 5) (a : BitVec 5) (fa : Bool) (s : State) : Host.Outcome State Fault Refusal :=
  runS (fp1 f64 d a fa (fCvt f64 f32)) s

end Sys2Proof.Machine
end

