-- ==== Sys2Proof/Machine/Sparse.lean ====
section
/-! DEFINITION. Sparse registers (0x3C): R338 to R344. -/

namespace Sys2Proof.Machine

/-- The registers of sparse register n: coordinates `v(16 + 2n)`, values `v(17 + 2n)` (R338). -/
def coordReg (q : BitVec 5) : Nat := 16 + 2 * q.toNat
def valueReg (q : BitVec 5) : Nat := 17 + 2 * q.toNat

/-- Capacity in pairs (R338). -/
def Thread.sparseCap (t : Thread) : Nat := t.vlmaxN / 32

def Thread.qlenN (t : Thread) (q : BitVec 5) : Nat := (Sparse.get 0 t.qlen q.toNat).toNat % 2048

/-- A sparse field: below 8, with all 32 vector registers declared (R187, R338). -/
def qOk (q : BitVec 5) : T Unit := fun t =>
  if q.toNat < 8 ∧ t.vn = 32 then .ok () t else .error (.trap 0x02 (w64 q.toNat) 0 0) t

/-- A vector operand that is a register of a sparse operand is refused (R340). -/
def notPart (v q : BitVec 5) : T Unit := fun t =>
  if v.toNat = coordReg q ∨ v.toNat = valueReg q then .error (.trap 0x02 (w64 v.toNat) 0 0) t else .ok () t

/-- Types i32, n32 and f32, and `vstart` 0 where the row asks for it (R340). -/
def sparseCfg (start : Bool) : T Unit := do
  notVill
  let t ← getT
  need (t.etype = 2 || t.etype = 6 || t.etype = 10)
  if start then need (t.vstart = 0)

/-- The first pair j ≥ 1 whose coordinate is not above its predecessor's. -/
def unordered (c : Nat → Nat) : Nat → Nat → Option Nat
  | 0, _ => none
  | n + 1, j => if c j ≤ c (j - 1) then some j else unordered c n (j + 1)

/-- A sparse source checked and read (R339): its pairs in order. R339 gives no order of its checks against the reads: the
length is tested before the registers are read, and A's order before B is read (DESIGN CHOICE, log 51). -/
def sparseSrc (q : BitVec 5) (p : Bool) : T (List (Nat × Nat)) := do
  let t ← getT
  let n := t.qlenN q
  if t.sparseCap < n then trapT 0x03 (w64 n)
  let c ← rvK (coordReg q) p
  let v ← rvK (valueReg q) p
  match unordered (elemAt 32 c) (n - 1) 1 with
  | some j => trapT 0x12 (w64 j)
  | none => pure ((List.range n).map fun j => (elemAt 32 c j, elemAt 32 v j))

/-- A sparse destination waits while one of its registers is empty (R339). -/
def sparseDest (q : BitVec 5) : T Unit := do
  destVK (coordReg q)
  destVK (valueReg q)

/-- Pairs and length written; elements from the length upward keep their values (R338). -/
def Thread.putSparse (t : Thread) (q : BitVec 5) (l : List (Nat × Nat)) : Thread :=
  let put (t : Thread) (r : Nat) (xs : List Nat) : Thread :=
    t.putV r 32 (xs.zipIdx.foldl (fun b (x, j) => setElem 32 b j x) (t.vreg r).bits.toNat) xs.length
  let t := put (put t (coordReg q) (l.map (·.1))) (valueReg q) (l.map (·.2))
  { t with qlen := Sparse.set t.qlen q.toNat (w64 l.length), vstart := 0 }

/-- A pair's value from two: bits, flags, saturation. -/
def pairOp (t : Thread) (ff : Nat → Nat → Nat × Nat) (fi : Int → Int → Int) (x y : Nat) : Nat × Nat × Bool :=
  if t.etype = 10 then
    let r := ff x y
    (r.1, r.2, false)
  else
    let r := fitTo t.satOn (isSigned t.etype) 32 (fi (ival t.etype 32 x) (ival t.etype 32 y))
    (r.1, 0, r.2)

/-- The merge of R341 on lists with ascending coordinates: coordinates of both combined, of one copied where `union`
is set. `n` bounds the steps. -/
def mergePairs (union : Bool) (f : Nat → Nat → Nat × Nat × Bool) :
    Nat → List (Nat × Nat) → List (Nat × Nat) → List (Nat × Nat × Nat × Bool)
  | 0, _, _ => []
  | n + 1, a, b =>
    let one (x : Nat × Nat) (l : List (Nat × Nat × Nat × Bool)) := if union then (x.1, x.2, 0, false) :: l else l
    match a, b with
    | [], [] => []
    | x :: a', [] => one x (mergePairs union f n a' [])
    | [], y :: b' => one y (mergePairs union f n [] b')
    | x :: a', y :: b' =>
      if x.1 = y.1 then (x.1, f x.2 y.2) :: mergePairs union f n a' b'
      else if x.1 < y.1 then one x (mergePairs union f n a' (y :: b'))
      else one y (mergePairs union f n (x :: a') b')

/-- `sadd` and `smul` (R341). A flag that traps leaves the destination and `qlen` written: R340 raises it after the result,
and says too that a trap leaves both unchanged (DESIGN CHOICE, log 23). -/
def sparseMerge (d a b : BitVec 5) (fa fb union : Bool) (ff : Nat → Nat → Nat → Nat × Nat) (fi : Int → Int → Int) :
    M Flow := do
  needFeature 10
  liftT (do
    qOk d
    qOk a
    qOk b
    sparseCfg true
    let x ← sparseSrc a fa
    let y ← sparseSrc b fb
    sparseDest d
    let t ← getT
    let l := mergePairs union (pairOp t (ff t.mode) fi) (x.length + y.length) x y
    satX (l.any fun p => p.2.2.2)
    if t.sparseCap < l.length then trapT 0x13 (w64 l.length)
    modT fun t => t.putSparse d (l.map fun p => (p.1, p.2.1))
    raiseX (l.foldl (fun r p => r ||| p.2.2.1) 0))
  pure .seq

/-- `sadd`. -/
def execSadd (d a b : BitVec 5) (fa fb : Bool) (s : State) : Host.Outcome State Fault Refusal :=
  run (sparseMerge d a b fa fb true (fAdd f32) fun x y => x + y) s
/-- `smul`. -/
def execSmul (d a b : BitVec 5) (fa fb : Bool) (s : State) : Host.Outcome State Fault Refusal :=
  run (sparseMerge d a b fa fb false (fMul f32) fun x y => x * y) s

/-- The pairs of values at common coordinates. -/
def common (x y : List (Nat × Nat)) : List (Nat × Nat) :=
  (mergePairs false (fun u v => (u + v * 2 ^ 32, 0, false)) (x.length + y.length) x y).map
    fun p => (p.2.1 % 2 ^ 32, p.2.1 / 2 ^ 32)

/-- The value and flags of `sdot` (R342). -/
def sparseDot (e mode : Nat) (l : List (Nat × Nat)) : Word × Nat :=
  if l = [] then (0, 0)
  else if e = 10 then
    let ps := l.map fun p => (f32.val p.1, f32.val p.2)
    let ms := ps.map fun p => p.1.mul p.2
    let fl := ps.foldl (fun r p => r ||| p.1.nanFlags ||| p.2.nanFlags) 0
    let fl := ms.foldl (fun r p => r ||| p.2) fl
    let r := sumRound f32 mode (ms.map (·.1))
    (w64 r.1, r.2 ||| fl)
  else (iword (l.foldl (fun r p => r + ival e 32 p.1 * ival e 32 p.2) 0), 0)

/-- `sdot` (R342): a reduction, so its result may land later (R189); a flag that traps leaves it written (DESIGN CHOICE,
log 23). -/
def execSdot (d a b : BitVec 5) (fa fb : Bool) (s : State) : Host.Outcome State Fault Refusal :=
  run (do
    needFeature 10
    let l ← liftT (do
      qOk a
      qOk b
      sparseCfg true
      let x ← sparseSrc a fa
      let y ← sparseSrc b fb
      destX d
      pure (common x y))
    let s ← getS
    let r := sparseDot s.th.etype s.th.mode l
    landX d r.1 (r.2 &&& s.th.ftrap.toNat % 64 = 0)
    liftT (raiseX r.2)
    pure .seq) s

/-- What a fault says of pair j of n: 8 bytes apart; the whole form is redone (R343). -/
def pairElem (j n : Nat) : Elem := ⟨j, n - j, 8, 3, 0⟩

/-- Pairs j to j + n − 1 read from memory, each once. -/
def loadPairs (a : Word) (total : Nat) : Nat → Nat → M (List (Nat × Nat))
  | 0, _ => pure []
  | n + 1, j => do
    let v ← once j (do
      let t ← elementAt (loadAcc 1 8) (pairElem j total) (a + w64 (8 * j)) 8
      let bs ← readM t 8
      pure (natOfBytes bs))
    let r ← loadPairs a total n (j + 1)
    pure ((v % 2 ^ 32, v / 2 ^ 32) :: r)

/-- Pairs stored from pair j upward, each once. -/
def storePairs (a : Word) (total : Nat) : List (Nat × Nat) → Nat → M Unit
  | [], _ => pure ()
  | p :: l, j => do
    onceU j (do
      let t ← elementAt (storeAcc 4 8) (pairElem j total) (a + w64 (8 * j)) 8
      writeM t (bytesOfNat 8 (p.1 + p.2 * 2 ^ 32)) none)
    storePairs a total l (j + 1)

/-- `sld` (R343). -/
def execSld (d a b : BitVec 5) (fa fb : Bool) (s : State) : Host.Outcome State Fault Refusal :=
  run (do
    needFeature 10
    liftT (do
      qOk d
      sparseCfg true)
    let base ← liftT (rx a fa)
    let n ← liftT (rx b fb)
    liftT (sparseDest d)
    aligned base 8
    let s ← getS
    if s.th.sparseCap < n.toNat then trapM 0x13 n
    let old := s.th
    let l ← loadPairs base n.toNat n.toNat 0
    match unordered (fun j => (l.getD j (0, 0)).1) (n.toNat - 1) 1 with
    | some j => trapM 0x12 (w64 j)
    | none =>
      modS fun s => s.setTh (s.th.putSparse d l)
      holdRegs old [coordReg d, valueReg d]
      pure .seq) s

/-- `sst` (R343): D is the source. -/
def execSst (d a : BitVec 5) (fa : Bool) (s : State) : Host.Outcome State Fault Refusal :=
  run (do
    needFeature 10
    liftT (do
      qOk d
      sparseCfg true)
    let base ← liftT (rx a fa)
    let l ← liftT (sparseSrc d false)
    aligned base 8
    storePairs base l.length l 0
    pure .seq) s

/-- `sexp` (R344). -/
def execSexp (d a b : BitVec 5) (fa fb : Bool) (s : State) : Host.Outcome State Fault Refusal :=
  run (do
    needFeature 10
    liftT (do
      vOk d
      qOk a
      notVill
      notPart d a
      sparseCfg false
      let l ← sparseSrc a fa
      let y ← rx b fb
      destV d
      moveLoop d fun i =>
        match l.find? (fun p => p.1 = y.toNat % 2 ^ 32 + i) with
        | some p => some p.2
        | none => some 0)
    pure .seq) s

/-- `scmp` (R344). -/
def execScmp (d a b : BitVec 5) (fa fb : Bool) (s : State) : Host.Outcome State Fault Refusal :=
  run (do
    needFeature 10
    liftT (do
      qOk d
      vOk a
      notVill
      notPart a d
      sparseCfg true
      let x ← rv a fa
      let y ← rx b fb
      sparseDest d
      let t ← getT
      let l := t.activeElems
      let base := y.toNat % 2 ^ 32
      match l.getLast? with
      | some i => if 2 ^ 32 ≤ base + i then trapT 0x12 (w64 i)
      | none => pure ()
      modT fun t => t.putSparse d (l.map fun i => (base + i, elemAt 32 x i)))
    pure .seq) s

end Sys2Proof.Machine
end

