-- ==== Sys2Proof/Machine/Dispatch.lean ====
section
/-! DEFINITION. One arm per instruction or step: each calls its own meaning. -/

namespace Sys2Proof.Machine

/-- What executing an instruction, or another agent's step, does (R220). -/
def exec (i : Instr) (s : State) : Host.Outcome State Fault Refusal :=
  match i with
  | .nop => Sys2Proof.Machine.execNop s
  | .trap a fa => Sys2Proof.Machine.execTrap a fa s
  | .brk => Sys2Proof.Machine.execBrk s
  | .eret => Sys2Proof.Machine.execEret s
  | .wfe d a fa => Sys2Proof.Machine.execWfe d a fa s
  | .yield => Sys2Proof.Machine.execYield s
  | .pollp d => Sys2Proof.Machine.execPollp d s
  | .halt => Sys2Proof.Machine.execHalt s
  | .cinval scope a b fa fb => Sys2Proof.Machine.execCinval scope a b fa fb s
  | .tlbsync scope a b fa fb => Sys2Proof.Machine.execTlbsync scope a b fa fb s
  | .qnext d a b fa fb => Sys2Proof.Machine.execQnext d a b fa fb s
  | .exit => Sys2Proof.Machine.execExit s
  | .csrrw d a fa csr => Sys2Proof.Machine.execCsrrw d a fa csr s
  | .csrrs d a fa csr => Sys2Proof.Machine.execCsrrs d a fa csr s
  | .csrrc d a fa csr => Sys2Proof.Machine.execCsrrc d a fa csr s
  | .fwait a fa => Sys2Proof.Machine.execFwait a fa s
  | .fwaitv a fa => Sys2Proof.Machine.execFwaitv a fa s
  | .fsts d a => Sys2Proof.Machine.execFsts d a s
  | .fstv d a => Sys2Proof.Machine.execFstv d a s
  | .fwall => Sys2Proof.Machine.execFwall s
  | .add d a b fa fb => Sys2Proof.Machine.execAdd d a b fa fb s
  | .sub d a b fa fb => Sys2Proof.Machine.execSub d a b fa fb s
  | .and d a b fa fb => Sys2Proof.Machine.execAnd d a b fa fb s
  | .or d a b fa fb => Sys2Proof.Machine.execOr d a b fa fb s
  | .xor d a b fa fb => Sys2Proof.Machine.execXor d a b fa fb s
  | .andn d a b fa fb => Sys2Proof.Machine.execAndn d a b fa fb s
  | .sll d a b fa fb => Sys2Proof.Machine.execSll d a b fa fb s
  | .srl d a b fa fb => Sys2Proof.Machine.execSrl d a b fa fb s
  | .sra d a b fa fb => Sys2Proof.Machine.execSra d a b fa fb s
  | .rol d a b fa fb => Sys2Proof.Machine.execRol d a b fa fb s
  | .ror d a b fa fb => Sys2Proof.Machine.execRor d a b fa fb s
  | .slt d a b fa fb => Sys2Proof.Machine.execSlt d a b fa fb s
  | .sltn d a b fa fb => Sys2Proof.Machine.execSltn d a b fa fb s
  | .seq d a b fa fb => Sys2Proof.Machine.execSeq d a b fa fb s
  | .min d a b fa fb => Sys2Proof.Machine.execMin d a b fa fb s
  | .max d a b fa fb => Sys2Proof.Machine.execMax d a b fa fb s
  | .minn d a b fa fb => Sys2Proof.Machine.execMinn d a b fa fb s
  | .maxn d a b fa fb => Sys2Proof.Machine.execMaxn d a b fa fb s
  | .clz d a fa => Sys2Proof.Machine.execClz d a fa s
  | .ctz d a fa => Sys2Proof.Machine.execCtz d a fa s
  | .cpop d a fa => Sys2Proof.Machine.execCpop d a fa s
  | .sextB d a fa => Sys2Proof.Machine.execSextB d a fa s
  | .sextH d a fa => Sys2Proof.Machine.execSextH d a fa s
  | .sextW d a fa => Sys2Proof.Machine.execSextW d a fa s
  | .zextH d a fa => Sys2Proof.Machine.execZextH d a fa s
  | .zextW d a fa => Sys2Proof.Machine.execZextW d a fa s
  | .mul d a b fa fb => Sys2Proof.Machine.execMul d a b fa fb s
  | .mulh d a b fa fb => Sys2Proof.Machine.execMulh d a b fa fb s
  | .mulhn d a b fa fb => Sys2Proof.Machine.execMulhn d a b fa fb s
  | .mulhsn d a b fa fb => Sys2Proof.Machine.execMulhsn d a b fa fb s
  | .div d a b fa fb => Sys2Proof.Machine.execDiv d a b fa fb s
  | .divn d a b fa fb => Sys2Proof.Machine.execDivn d a b fa fb s
  | .rem d a b fa fb => Sys2Proof.Machine.execRem d a b fa fb s
  | .remn d a b fa fb => Sys2Proof.Machine.execRemn d a b fa fb s
  | .faddD d a b fa fb => Sys2Proof.Machine.execFaddD d a b fa fb s
  | .fsubD d a b fa fb => Sys2Proof.Machine.execFsubD d a b fa fb s
  | .fmulD d a b fa fb => Sys2Proof.Machine.execFmulD d a b fa fb s
  | .fdivD d a b fa fb => Sys2Proof.Machine.execFdivD d a b fa fb s
  | .fsqrtD d a fa => Sys2Proof.Machine.execFsqrtD d a fa s
  | .fmacD d a b fa fb => Sys2Proof.Machine.execFmacD d a b fa fb s
  | .fminD d a b fa fb => Sys2Proof.Machine.execFminD d a b fa fb s
  | .fmaxD d a b fa fb => Sys2Proof.Machine.execFmaxD d a b fa fb s
  | .fnegD d a fa => Sys2Proof.Machine.execFnegD d a fa s
  | .fabsD d a fa => Sys2Proof.Machine.execFabsD d a fa s
  | .feqD d a b fa fb => Sys2Proof.Machine.execFeqD d a b fa fb s
  | .fltD d a b fa fb => Sys2Proof.Machine.execFltD d a b fa fb s
  | .fleD d a b fa fb => Sys2Proof.Machine.execFleD d a b fa fb s
  | .fclassD d a fa => Sys2Proof.Machine.execFclassD d a fa s
  | .ftoiD d a fa => Sys2Proof.Machine.execFtoiD d a fa s
  | .ftonD d a fa => Sys2Proof.Machine.execFtonD d a fa s
  | .itofD d a fa => Sys2Proof.Machine.execItofD d a fa s
  | .ntofD d a fa => Sys2Proof.Machine.execNtofD d a fa s
  | .fcvtDS d a fa => Sys2Proof.Machine.execFcvtDS d a fa s
  | .faddS d a b fa fb => Sys2Proof.Machine.execFaddS d a b fa fb s
  | .fsubS d a b fa fb => Sys2Proof.Machine.execFsubS d a b fa fb s
  | .fmulS d a b fa fb => Sys2Proof.Machine.execFmulS d a b fa fb s
  | .fdivS d a b fa fb => Sys2Proof.Machine.execFdivS d a b fa fb s
  | .fsqrtS d a fa => Sys2Proof.Machine.execFsqrtS d a fa s
  | .fmacS d a b fa fb => Sys2Proof.Machine.execFmacS d a b fa fb s
  | .fminS d a b fa fb => Sys2Proof.Machine.execFminS d a b fa fb s
  | .fmaxS d a b fa fb => Sys2Proof.Machine.execFmaxS d a b fa fb s
  | .fnegS d a fa => Sys2Proof.Machine.execFnegS d a fa s
  | .fabsS d a fa => Sys2Proof.Machine.execFabsS d a fa s
  | .feqS d a b fa fb => Sys2Proof.Machine.execFeqS d a b fa fb s
  | .fltS d a b fa fb => Sys2Proof.Machine.execFltS d a b fa fb s
  | .fleS d a b fa fb => Sys2Proof.Machine.execFleS d a b fa fb s
  | .fclassS d a fa => Sys2Proof.Machine.execFclassS d a fa s
  | .ftoiS d a fa => Sys2Proof.Machine.execFtoiS d a fa s
  | .ftonS d a fa => Sys2Proof.Machine.execFtonS d a fa s
  | .itofS d a fa => Sys2Proof.Machine.execItofS d a fa s
  | .ntofS d a fa => Sys2Proof.Machine.execNtofS d a fa s
  | .fcvtSD d a fa => Sys2Proof.Machine.execFcvtSD d a fa s
  | .addi d a fa imm => Sys2Proof.Machine.execAddi d a fa imm s
  | .andi d a fa imm => Sys2Proof.Machine.execAndi d a fa imm s
  | .ori d a fa imm => Sys2Proof.Machine.execOri d a fa imm s
  | .xori d a fa imm => Sys2Proof.Machine.execXori d a fa imm s
  | .slli d a fa sh => Sys2Proof.Machine.execSlli d a fa sh s
  | .srli d a fa sh => Sys2Proof.Machine.execSrli d a fa sh s
  | .srai d a fa sh => Sys2Proof.Machine.execSrai d a fa sh s
  | .slti d a fa imm => Sys2Proof.Machine.execSlti d a fa imm s
  | .ldhi d imm => Sys2Proof.Machine.execLdhi d imm s
  | .pcadd d imm => Sys2Proof.Machine.execPcadd d imm s
  | .jal off => Sys2Proof.Machine.execJal off s
  | .jalr d a fa imm => Sys2Proof.Machine.execJalr d a fa imm s
  | .beq a b fa off => Sys2Proof.Machine.execBeq a b fa off s
  | .bne a b fa off => Sys2Proof.Machine.execBne a b fa off s
  | .blt a b fa off => Sys2Proof.Machine.execBlt a b fa off s
  | .bge a b fa off => Sys2Proof.Machine.execBge a b fa off s
  | .bltn a b fa off => Sys2Proof.Machine.execBltn a b fa off s
  | .bgen a b fa off => Sys2Proof.Machine.execBgen a b fa off s
  | .loop a fa imm => Sys2Proof.Machine.execLoop a fa imm s
  | .lbrk => Sys2Proof.Machine.execLbrk s
  | .lidx d n => Sys2Proof.Machine.execLidx d n s
  | .lrem d n => Sys2Proof.Machine.execLrem d n s
  | .lclr => Sys2Proof.Machine.execLclr s
  | .ldb d a fa imm => Sys2Proof.Machine.execLdb d a fa imm s
  | .ldbn d a fa imm => Sys2Proof.Machine.execLdbn d a fa imm s
  | .ldh d a fa imm => Sys2Proof.Machine.execLdh d a fa imm s
  | .ldhn d a fa imm => Sys2Proof.Machine.execLdhn d a fa imm s
  | .ldw d a fa imm => Sys2Proof.Machine.execLdw d a fa imm s
  | .ldwn d a fa imm => Sys2Proof.Machine.execLdwn d a fa imm s
  | .ldd d a fa imm => Sys2Proof.Machine.execLdd d a fa imm s
  | .stb d a fa imm => Sys2Proof.Machine.execStb d a fa imm s
  | .sth d a fa imm => Sys2Proof.Machine.execSth d a fa imm s
  | .stw d a fa imm => Sys2Proof.Machine.execStw d a fa imm s
  | .std d a fa imm => Sys2Proof.Machine.execStd d a fa imm s
  | .ldbAcq d a fa scope => Sys2Proof.Machine.execLdbAcq d a fa scope s
  | .ldbnAcq d a fa scope => Sys2Proof.Machine.execLdbnAcq d a fa scope s
  | .ldhAcq d a fa scope => Sys2Proof.Machine.execLdhAcq d a fa scope s
  | .ldhnAcq d a fa scope => Sys2Proof.Machine.execLdhnAcq d a fa scope s
  | .ldwAcq d a fa scope => Sys2Proof.Machine.execLdwAcq d a fa scope s
  | .ldwnAcq d a fa scope => Sys2Proof.Machine.execLdwnAcq d a fa scope s
  | .lddAcq d a fa scope => Sys2Proof.Machine.execLddAcq d a fa scope s
  | .stbRel d a fa scope => Sys2Proof.Machine.execStbRel d a fa scope s
  | .sthRel d a fa scope => Sys2Proof.Machine.execSthRel d a fa scope s
  | .stwRel d a fa scope => Sys2Proof.Machine.execStwRel d a fa scope s
  | .stdRel d a fa scope => Sys2Proof.Machine.execStdRel d a fa scope s
  | .amoSwapW d a ord scope fa => Sys2Proof.Machine.execAmoSwapW d a ord scope fa s
  | .amoSwapD d a ord scope fa => Sys2Proof.Machine.execAmoSwapD d a ord scope fa s
  | .amoCasW d a ord scope fa => Sys2Proof.Machine.execAmoCasW d a ord scope fa s
  | .amoCasD d a ord scope fa => Sys2Proof.Machine.execAmoCasD d a ord scope fa s
  | .amoAddW d a ord scope fa => Sys2Proof.Machine.execAmoAddW d a ord scope fa s
  | .amoAddD d a ord scope fa => Sys2Proof.Machine.execAmoAddD d a ord scope fa s
  | .amoAndW d a ord scope fa => Sys2Proof.Machine.execAmoAndW d a ord scope fa s
  | .amoAndD d a ord scope fa => Sys2Proof.Machine.execAmoAndD d a ord scope fa s
  | .amoOrW d a ord scope fa => Sys2Proof.Machine.execAmoOrW d a ord scope fa s
  | .amoOrD d a ord scope fa => Sys2Proof.Machine.execAmoOrD d a ord scope fa s
  | .amoXorW d a ord scope fa => Sys2Proof.Machine.execAmoXorW d a ord scope fa s
  | .amoXorD d a ord scope fa => Sys2Proof.Machine.execAmoXorD d a ord scope fa s
  | .amoMinW d a ord scope fa => Sys2Proof.Machine.execAmoMinW d a ord scope fa s
  | .amoMinD d a ord scope fa => Sys2Proof.Machine.execAmoMinD d a ord scope fa s
  | .amoMaxW d a ord scope fa => Sys2Proof.Machine.execAmoMaxW d a ord scope fa s
  | .amoMaxD d a ord scope fa => Sys2Proof.Machine.execAmoMaxD d a ord scope fa s
  | .amoMinnW d a ord scope fa => Sys2Proof.Machine.execAmoMinnW d a ord scope fa s
  | .amoMinnD d a ord scope fa => Sys2Proof.Machine.execAmoMinnD d a ord scope fa s
  | .amoMaxnW d a ord scope fa => Sys2Proof.Machine.execAmoMaxnW d a ord scope fa s
  | .amoMaxnD d a ord scope fa => Sys2Proof.Machine.execAmoMaxnD d a ord scope fa s
  | .amoFaddS d a ord scope fa => Sys2Proof.Machine.execAmoFaddS d a ord scope fa s
  | .amoFmaxS d a ord scope fa => Sys2Proof.Machine.execAmoFmaxS d a ord scope fa s
  | .amoFminS d a ord scope fa => Sys2Proof.Machine.execAmoFminS d a ord scope fa s
  | .fenceRel scope => Sys2Proof.Machine.execFenceRel scope s
  | .fenceAcq scope => Sys2Proof.Machine.execFenceAcq scope s
  | .fenceAr scope => Sys2Proof.Machine.execFenceAr scope s
  | .fenceSc scope => Sys2Proof.Machine.execFenceSc scope s
  | .fenceAll => Sys2Proof.Machine.execFenceAll s
  | .boltArm a b fa fb => Sys2Proof.Machine.execBoltArm a b fa fb s
  | .boltArrive scope a b fa fb => Sys2Proof.Machine.execBoltArrive scope a b fa fb s
  | .boltWait d a b fa fb => Sys2Proof.Machine.execBoltWait d a b fa fb s
  | .boltRd d a fa => Sys2Proof.Machine.execBoltRd d a fa s
  | .pfR a fa imm => Sys2Proof.Machine.execPfR a fa imm s
  | .pfS a fa imm => Sys2Proof.Machine.execPfS a fa imm s
  | .pfW a fa imm => Sys2Proof.Machine.execPfW a fa imm s
  | .pfDrop a fa imm => Sys2Proof.Machine.execPfDrop a fa imm s
  | .vsetvl d a b fa fb => Sys2Proof.Machine.execVsetvl d a b fa fb s
  | .vsetvlmax d b fb => Sys2Proof.Machine.execVsetvlmax d b fb s
  | .vsetvli d a ty fa blen sat => Sys2Proof.Machine.execVsetvli d a ty fa blen sat s
  | .vld d a fa => Sys2Proof.Machine.execVld d a fa s
  | .vldX8 d a b fa fb => Sys2Proof.Machine.execVldX8 d a b fa fb s
  | .vldX16 d a b fa fb => Sys2Proof.Machine.execVldX16 d a b fa fb s
  | .vldX32 d a b fa fb => Sys2Proof.Machine.execVldX32 d a b fa fb s
  | .vldX d a b fa fb => Sys2Proof.Machine.execVldX d a b fa fb s
  | .vldX8O d a b fa fb => Sys2Proof.Machine.execVldX8O d a b fa fb s
  | .vldX16O d a b fa fb => Sys2Proof.Machine.execVldX16O d a b fa fb s
  | .vldX32O d a b fa fb => Sys2Proof.Machine.execVldX32O d a b fa fb s
  | .vldXO d a b fa fb => Sys2Proof.Machine.execVldXO d a b fa fb s
  | .vldX32Acq d a b fa fb scope => Sys2Proof.Machine.execVldX32Acq d a b fa fb scope s
  | .vldXAcq d a b fa fb scope => Sys2Proof.Machine.execVldXAcq d a b fa fb scope s
  | .vldX32OAcq d a b fa fb scope => Sys2Proof.Machine.execVldX32OAcq d a b fa fb scope s
  | .vldXOAcq d a b fa fb scope => Sys2Proof.Machine.execVldXOAcq d a b fa fb scope s
  | .vldsN2 d a fa => Sys2Proof.Machine.execVldsN2 d a fa s
  | .vldsN3 d a fa => Sys2Proof.Machine.execVldsN3 d a fa s
  | .vldsN4 d a fa => Sys2Proof.Machine.execVldsN4 d a fa s
  | .vldsN5 d a fa => Sys2Proof.Machine.execVldsN5 d a fa s
  | .vldsN6 d a fa => Sys2Proof.Machine.execVldsN6 d a fa s
  | .vldsN7 d a fa => Sys2Proof.Machine.execVldsN7 d a fa s
  | .vldsN8 d a fa => Sys2Proof.Machine.execVldsN8 d a fa s
  | .vst d a fa => Sys2Proof.Machine.execVst d a fa s
  | .vstX8 d a b fa fb => Sys2Proof.Machine.execVstX8 d a b fa fb s
  | .vstX16 d a b fa fb => Sys2Proof.Machine.execVstX16 d a b fa fb s
  | .vstX32 d a b fa fb => Sys2Proof.Machine.execVstX32 d a b fa fb s
  | .vstX d a b fa fb => Sys2Proof.Machine.execVstX d a b fa fb s
  | .vstX8O d a b fa fb => Sys2Proof.Machine.execVstX8O d a b fa fb s
  | .vstX16O d a b fa fb => Sys2Proof.Machine.execVstX16O d a b fa fb s
  | .vstX32O d a b fa fb => Sys2Proof.Machine.execVstX32O d a b fa fb s
  | .vstXO d a b fa fb => Sys2Proof.Machine.execVstXO d a b fa fb s
  | .vstsN2 d a fa => Sys2Proof.Machine.execVstsN2 d a fa s
  | .vstsN3 d a fa => Sys2Proof.Machine.execVstsN3 d a fa s
  | .vstsN4 d a fa => Sys2Proof.Machine.execVstsN4 d a fa s
  | .vstsN5 d a fa => Sys2Proof.Machine.execVstsN5 d a fa s
  | .vstsN6 d a fa => Sys2Proof.Machine.execVstsN6 d a fa s
  | .vstsN7 d a fa => Sys2Proof.Machine.execVstsN7 d a fa s
  | .vstsN8 d a fa => Sys2Proof.Machine.execVstsN8 d a fa s
  | .vldscSca a fa => Sys2Proof.Machine.execVldscSca a fa s
  | .vldscScb a fa => Sys2Proof.Machine.execVldscScb a fa s
  | .vstbm d a b fa fb => Sys2Proof.Machine.execVstbm d a b fa fb s
  | .vldbm d a fa => Sys2Proof.Machine.execVldbm d a fa s
  | .vpfR a fa => Sys2Proof.Machine.execVpfR a fa s
  | .vpfS a fa => Sys2Proof.Machine.execVpfS a fa s
  | .vpfRX32 a b fa fb => Sys2Proof.Machine.execVpfRX32 a b fa fb s
  | .vpfRX a b fa fb => Sys2Proof.Machine.execVpfRX a b fa fb s
  | .vhaccX32 d a b fa fb rel scope => Sys2Proof.Machine.execVhaccX32 d a b fa fb rel scope s
  | .vhaccX d a b fa fb rel scope => Sys2Proof.Machine.execVhaccX d a b fa fb rel scope s
  | .vscaddX32 d a b fa fb rel scope => Sys2Proof.Machine.execVscaddX32 d a b fa fb rel scope s
  | .vscaddX d a b fa fb rel scope => Sys2Proof.Machine.execVscaddX d a b fa fb rel scope s
  | .vadd d a b fa fb xm => Sys2Proof.Machine.execVadd d a b fa fb xm s
  | .vaddVs d a b fa fb xm => Sys2Proof.Machine.execVaddVs d a b fa fb xm s
  | .vsub d a b fa fb xm => Sys2Proof.Machine.execVsub d a b fa fb xm s
  | .vsubVs d a b fa fb xm => Sys2Proof.Machine.execVsubVs d a b fa fb xm s
  | .vrsub d a b fa fb xm => Sys2Proof.Machine.execVrsub d a b fa fb xm s
  | .vrsubVs d a b fa fb xm => Sys2Proof.Machine.execVrsubVs d a b fa fb xm s
  | .vmul d a b fa fb xm => Sys2Proof.Machine.execVmul d a b fa fb xm s
  | .vmulVs d a b fa fb xm => Sys2Proof.Machine.execVmulVs d a b fa fb xm s
  | .vmulh d a b fa fb => Sys2Proof.Machine.execVmulh d a b fa fb s
  | .vmulhVs d a b fa fb => Sys2Proof.Machine.execVmulhVs d a b fa fb s
  | .vdiv d a b fa fb => Sys2Proof.Machine.execVdiv d a b fa fb s
  | .vdivVs d a b fa fb => Sys2Proof.Machine.execVdivVs d a b fa fb s
  | .vrem d a b fa fb => Sys2Proof.Machine.execVrem d a b fa fb s
  | .vremVs d a b fa fb => Sys2Proof.Machine.execVremVs d a b fa fb s
  | .vmin d a b fa fb => Sys2Proof.Machine.execVmin d a b fa fb s
  | .vminVs d a b fa fb => Sys2Proof.Machine.execVminVs d a b fa fb s
  | .vmax d a b fa fb => Sys2Proof.Machine.execVmax d a b fa fb s
  | .vmaxVs d a b fa fb => Sys2Proof.Machine.execVmaxVs d a b fa fb s
  | .vand d a b fa fb => Sys2Proof.Machine.execVand d a b fa fb s
  | .vandVs d a b fa fb => Sys2Proof.Machine.execVandVs d a b fa fb s
  | .vor d a b fa fb => Sys2Proof.Machine.execVor d a b fa fb s
  | .vorVs d a b fa fb => Sys2Proof.Machine.execVorVs d a b fa fb s
  | .vxor d a b fa fb => Sys2Proof.Machine.execVxor d a b fa fb s
  | .vxorVs d a b fa fb => Sys2Proof.Machine.execVxorVs d a b fa fb s
  | .vsll d a b fa fb xm => Sys2Proof.Machine.execVsll d a b fa fb xm s
  | .vsllVs d a b fa fb xm => Sys2Proof.Machine.execVsllVs d a b fa fb xm s
  | .vsrl d a b fa fb => Sys2Proof.Machine.execVsrl d a b fa fb s
  | .vsrlVs d a b fa fb => Sys2Proof.Machine.execVsrlVs d a b fa fb s
  | .vsra d a b fa fb => Sys2Proof.Machine.execVsra d a b fa fb s
  | .vsraVs d a b fa fb => Sys2Proof.Machine.execVsraVs d a b fa fb s
  | .vmseq d a b fa fb => Sys2Proof.Machine.execVmseq d a b fa fb s
  | .vmseqVs d a b fa fb => Sys2Proof.Machine.execVmseqVs d a b fa fb s
  | .vmsne d a b fa fb => Sys2Proof.Machine.execVmsne d a b fa fb s
  | .vmsneVs d a b fa fb => Sys2Proof.Machine.execVmsneVs d a b fa fb s
  | .vmslt d a b fa fb => Sys2Proof.Machine.execVmslt d a b fa fb s
  | .vmsltVs d a b fa fb => Sys2Proof.Machine.execVmsltVs d a b fa fb s
  | .vmsle d a b fa fb => Sys2Proof.Machine.execVmsle d a b fa fb s
  | .vmsleVs d a b fa fb => Sys2Proof.Machine.execVmsleVs d a b fa fb s
  | .vmsgt d a b fa fb => Sys2Proof.Machine.execVmsgt d a b fa fb s
  | .vmsgtVs d a b fa fb => Sys2Proof.Machine.execVmsgtVs d a b fa fb s
  | .vmacc d a b fa fb xm => Sys2Proof.Machine.execVmacc d a b fa fb xm s
  | .vmaccVs d a b fa fb xm => Sys2Proof.Machine.execVmaccVs d a b fa fb xm s
  | .vwadd d a b fa fb => Sys2Proof.Machine.execVwadd d a b fa fb s
  | .vwaddVs d a b fa fb => Sys2Proof.Machine.execVwaddVs d a b fa fb s
  | .vwsub d a b fa fb => Sys2Proof.Machine.execVwsub d a b fa fb s
  | .vwsubVs d a b fa fb => Sys2Proof.Machine.execVwsubVs d a b fa fb s
  | .vwmul d a b fa fb => Sys2Proof.Machine.execVwmul d a b fa fb s
  | .vwmulVs d a b fa fb => Sys2Proof.Machine.execVwmulVs d a b fa fb s
  | .vwmacc d a b fa fb xm => Sys2Proof.Machine.execVwmacc d a b fa fb xm s
  | .vwmaccVs d a b fa fb xm => Sys2Proof.Machine.execVwmaccVs d a b fa fb xm s
  | .vnsrl d a b fa fb xm => Sys2Proof.Machine.execVnsrl d a b fa fb xm s
  | .vnsrlVs d a b fa fb xm => Sys2Proof.Machine.execVnsrlVs d a b fa fb xm s
  | .vnsra d a b fa fb xm => Sys2Proof.Machine.execVnsra d a b fa fb xm s
  | .vnsraVs d a b fa fb xm => Sys2Proof.Machine.execVnsraVs d a b fa fb xm s
  | .vsadd d a b fa fb xm => Sys2Proof.Machine.execVsadd d a b fa fb xm s
  | .vsaddVs d a b fa fb xm => Sys2Proof.Machine.execVsaddVs d a b fa fb xm s
  | .vssub d a b fa fb xm => Sys2Proof.Machine.execVssub d a b fa fb xm s
  | .vssubVs d a b fa fb xm => Sys2Proof.Machine.execVssubVs d a b fa fb xm s
  | .vaadd d a b fa fb => Sys2Proof.Machine.execVaadd d a b fa fb s
  | .vaaddVs d a b fa fb => Sys2Proof.Machine.execVaaddVs d a b fa fb s
  | .vasub d a b fa fb => Sys2Proof.Machine.execVasub d a b fa fb s
  | .vasubVs d a b fa fb => Sys2Proof.Machine.execVasubVs d a b fa fb s
  | .vsmul d a b fa fb xm => Sys2Proof.Machine.execVsmul d a b fa fb xm s
  | .vsmulVs d a b fa fb xm => Sys2Proof.Machine.execVsmulVs d a b fa fb xm s
  | .vssrl d a b fa fb => Sys2Proof.Machine.execVssrl d a b fa fb s
  | .vssrlVs d a b fa fb => Sys2Proof.Machine.execVssrlVs d a b fa fb s
  | .vssra d a b fa fb => Sys2Proof.Machine.execVssra d a b fa fb s
  | .vssraVs d a b fa fb => Sys2Proof.Machine.execVssraVs d a b fa fb s
  | .vfadd d a b fa fb xm => Sys2Proof.Machine.execVfadd d a b fa fb xm s
  | .vfaddVs d a b fa fb xm => Sys2Proof.Machine.execVfaddVs d a b fa fb xm s
  | .vfsub d a b fa fb xm => Sys2Proof.Machine.execVfsub d a b fa fb xm s
  | .vfsubVs d a b fa fb xm => Sys2Proof.Machine.execVfsubVs d a b fa fb xm s
  | .vfmul d a b fa fb xm => Sys2Proof.Machine.execVfmul d a b fa fb xm s
  | .vfmulVs d a b fa fb xm => Sys2Proof.Machine.execVfmulVs d a b fa fb xm s
  | .vfdiv d a b fa fb xm => Sys2Proof.Machine.execVfdiv d a b fa fb xm s
  | .vfdivVs d a b fa fb xm => Sys2Proof.Machine.execVfdivVs d a b fa fb xm s
  | .vfsqrt d a fa xm => Sys2Proof.Machine.execVfsqrt d a fa xm s
  | .vfmac d a b fa fb xm => Sys2Proof.Machine.execVfmac d a b fa fb xm s
  | .vfmacVs d a b fa fb xm => Sys2Proof.Machine.execVfmacVs d a b fa fb xm s
  | .vfnmac d a b fa fb xm => Sys2Proof.Machine.execVfnmac d a b fa fb xm s
  | .vfnmacVs d a b fa fb xm => Sys2Proof.Machine.execVfnmacVs d a b fa fb xm s
  | .vfmin d a b fa fb xm => Sys2Proof.Machine.execVfmin d a b fa fb xm s
  | .vfminVs d a b fa fb xm => Sys2Proof.Machine.execVfminVs d a b fa fb xm s
  | .vfmax d a b fa fb xm => Sys2Proof.Machine.execVfmax d a b fa fb xm s
  | .vfmaxVs d a b fa fb xm => Sys2Proof.Machine.execVfmaxVs d a b fa fb xm s
  | .vfneg d a fa xm => Sys2Proof.Machine.execVfneg d a fa xm s
  | .vfabs d a fa xm => Sys2Proof.Machine.execVfabs d a fa xm s
  | .vfclass d a fa xm => Sys2Proof.Machine.execVfclass d a fa xm s
  | .vmfeq d a b fa fb xm => Sys2Proof.Machine.execVmfeq d a b fa fb xm s
  | .vmfeqVs d a b fa fb xm => Sys2Proof.Machine.execVmfeqVs d a b fa fb xm s
  | .vmflt d a b fa fb xm => Sys2Proof.Machine.execVmflt d a b fa fb xm s
  | .vmfltVs d a b fa fb xm => Sys2Proof.Machine.execVmfltVs d a b fa fb xm s
  | .vmfle d a b fa fb xm => Sys2Proof.Machine.execVmfle d a b fa fb xm s
  | .vmfleVs d a b fa fb xm => Sys2Proof.Machine.execVmfleVs d a b fa fb xm s
  | .vfrec d a fa xm => Sys2Proof.Machine.execVfrec d a fa xm s
  | .vfrsq d a fa xm => Sys2Proof.Machine.execVfrsq d a fa xm s
  | .vcvt d a fa xm ty => Sys2Proof.Machine.execVcvt d a fa xm ty s
  | .vfdot d a b fa fb xm => Sys2Proof.Machine.execVfdot d a b fa fb xm s
  | .vdot d a b fa fb xm => Sys2Proof.Machine.execVdot d a b fa fb xm s
  | .vbq d a fa xm src bank => Sys2Proof.Machine.execVbq d a fa xm src bank s
  | .vfreca d a fa xm => Sys2Proof.Machine.execVfreca d a fa xm s
  | .vfrsqa d a fa xm => Sys2Proof.Machine.execVfrsqa d a fa xm s
  | .vmv d a fa => Sys2Proof.Machine.execVmv d a fa s
  | .vmerge d a b fa fb => Sys2Proof.Machine.execVmerge d a b fa fb s
  | .vbcast d a fa => Sys2Proof.Machine.execVbcast d a fa s
  | .vext d a b fa fb => Sys2Proof.Machine.execVext d a b fa fb s
  | .vins d a b fa fb => Sys2Proof.Machine.execVins d a b fa fb s
  | .vslideup d a b fa fb => Sys2Proof.Machine.execVslideup d a b fa fb s
  | .vslidedn d a b fa fb => Sys2Proof.Machine.execVslidedn d a b fa fb s
  | .vperm d a b fa fb => Sys2Proof.Machine.execVperm d a b fa fb s
  | .vcpvl d a fa => Sys2Proof.Machine.execVcpvl d a fa s
  | .vxrd d a fa => Sys2Proof.Machine.execVxrd d a fa s
  | .vxwr a b fa fb => Sys2Proof.Machine.execVxwr a b fa fb s
  | .vredsum d a b fa fb => Sys2Proof.Machine.execVredsum d a b fa fb s
  | .vredmin d a b fa fb => Sys2Proof.Machine.execVredmin d a b fa fb s
  | .vredmax d a b fa fb => Sys2Proof.Machine.execVredmax d a b fa fb s
  | .vredand d a b fa fb => Sys2Proof.Machine.execVredand d a b fa fb s
  | .vredor d a b fa fb => Sys2Proof.Machine.execVredor d a b fa fb s
  | .vredxor d a b fa fb => Sys2Proof.Machine.execVredxor d a b fa fb s
  | .vfredsum d a b fa fb => Sys2Proof.Machine.execVfredsum d a b fa fb s
  | .vfredo d a b fa fb => Sys2Proof.Machine.execVfredo d a b fa fb s
  | .vfredmin d a b fa fb => Sys2Proof.Machine.execVfredmin d a b fa fb s
  | .vfredmax d a b fa fb => Sys2Proof.Machine.execVfredmax d a b fa fb s
  | .kand d a b => Sys2Proof.Machine.execKand d a b s
  | .kor d a b => Sys2Proof.Machine.execKor d a b s
  | .kxor d a b => Sys2Proof.Machine.execKxor d a b s
  | .kandn d a b => Sys2Proof.Machine.execKandn d a b s
  | .knot d a => Sys2Proof.Machine.execKnot d a s
  | .kmov d a => Sys2Proof.Machine.execKmov d a s
  | .kset d => Sys2Proof.Machine.execKset d s
  | .kclr d => Sys2Proof.Machine.execKclr d s
  | .kpop d a => Sys2Proof.Machine.execKpop d a s
  | .kfirst d a => Sys2Proof.Machine.execKfirst d a s
  | .kiota d a => Sys2Proof.Machine.execKiota d a s
  | .kfromv d a fa => Sys2Proof.Machine.execKfromv d a fa s
  | .ktov d a => Sys2Proof.Machine.execKtov d a s
  | .vsplit d n => Sys2Proof.Machine.execVsplit d n s
  | .vjoin => Sys2Proof.Machine.execVjoin s
  | .xsend n a b fa fb => Sys2Proof.Machine.execXsend n a b fa fb s
  | .xrecv d => Sys2Proof.Machine.execXrecv d s
  | .vcapp d a b fa fb => Sys2Proof.Machine.execVcapp d a b fa fb s
  | .sadd d a b fa fb => Sys2Proof.Machine.execSadd d a b fa fb s
  | .smul d a b fa fb => Sys2Proof.Machine.execSmul d a b fa fb s
  | .sdot d a b fa fb => Sys2Proof.Machine.execSdot d a b fa fb s
  | .sld d a b fa fb => Sys2Proof.Machine.execSld d a b fa fb s
  | .sst d a fa => Sys2Proof.Machine.execSst d a fa s
  | .sexp d a b fa fb => Sys2Proof.Machine.execSexp d a b fa fb s
  | .scmp d a b fa fb => Sys2Proof.Machine.execScmp d a b fa fb s
  | .vfmacv d a b fa fb => Sys2Proof.Machine.execVfmacv d a b fa fb s
  | .vbound d a b fa fb => Sys2Proof.Machine.execVbound d a b fa fb s
  | .vtraise n a fa => Sys2Proof.Machine.execVtraise n a fa s
  | .vfabr d a fa => Sys2Proof.Machine.execVfabr d a fa s
  | .zon a fa => Sys2Proof.Machine.execZon a fa s
  | .zoff => Sys2Proof.Machine.execZoff s
  | .zzero d => Sys2Proof.Machine.execZzero d s
  | .zmop d a b fa fb => Sys2Proof.Machine.execZmop d a b fa fb s
  | .zmopb d a b fa fb => Sys2Proof.Machine.execZmopb d a b fa fb s
  | .zmopv d a b fa fb => Sys2Proof.Machine.execZmopv d a b fa fb s
  | .zbnd d a fa => Sys2Proof.Machine.execZbnd d a fa s
  | .zabn d a => Sys2Proof.Machine.execZabn d a s
  | .zrd d a b fb => Sys2Proof.Machine.execZrd d a b fb s
  | .zcd d a b fb => Sys2Proof.Machine.execZcd d a b fb s
  | .zwr d a b fa fb => Sys2Proof.Machine.execZwr d a b fa fb s
  | .zswap d slot => Sys2Proof.Machine.execZswap d slot s
  | .zldS d a fa => Sys2Proof.Machine.execZldS d a fa s
  | .zstS d a fa => Sys2Proof.Machine.execZstS d a fa s
  | .zldX32 d a b fa fb => Sys2Proof.Machine.execZldX32 d a b fa fb s
  | .zldX d a b fa fb => Sys2Proof.Machine.execZldX d a b fa fb s
  | .zstX32 d a b fa fb => Sys2Proof.Machine.execZstX32 d a b fa fb s
  | .zstX d a b fa fb => Sys2Proof.Machine.execZstX d a b fa fb s
  | .zldSShadow d a fa => Sys2Proof.Machine.execZldSShadow d a fa s
  | .zstSShadow d a fa => Sys2Proof.Machine.execZstSShadow d a fa s
  | .zldX32Shadow d a b fa fb => Sys2Proof.Machine.execZldX32Shadow d a b fa fb s
  | .zldXShadow d a b fa fb => Sys2Proof.Machine.execZldXShadow d a b fa fb s
  | .zstX32Shadow d a b fa fb => Sys2Proof.Machine.execZstX32Shadow d a b fa fb s
  | .zstXShadow d a b fa fb => Sys2Proof.Machine.execZstXShadow d a b fa fb s
  | .cpy d a fa => Sys2Proof.Machine.execCpy d a fa s
  | .cpym d a b fa fb => Sys2Proof.Machine.execCpym d a b fa fb s
  | .gsub d a fa => Sys2Proof.Machine.execGsub d a fa s
  | .dlaunch d a fa => Sys2Proof.Machine.execDlaunch d a fa s
  | .frmDec d a fa => Sys2Proof.Machine.execFrmDec d a fa s
  | .frmRsz d a fa => Sys2Proof.Machine.execFrmRsz d a fa s
  | .fcv d a fa => Sys2Proof.Machine.execFcv d a fa s
  | .barCr => Sys2Proof.Machine.execBarCr s
  | .barQd => Sys2Proof.Machine.execBarQd s
  | .barDi => Sys2Proof.Machine.execBarDi s
  | .barPk => Sys2Proof.Machine.execBarPk s
  | .barPd => Sys2Proof.Machine.execBarPd s
  | .shist d a b fa fb => Sys2Proof.Machine.execShist d a b fa fb s
  | .shcnt d => Sys2Proof.Machine.execShcnt d s
  | .trrd d a b fa fb => Sys2Proof.Machine.execTrrd d a b fa fb s
  | .vtrim d => Sys2Proof.Machine.execVtrim d s
  | .engineCommandError seq thr => Sys2Proof.Machine.execEngineCommandError seq thr s
  | .regionTranslate seq thr => Sys2Proof.Machine.execRegionTranslate seq thr s
  | .loadResultLands seq thr k => Sys2Proof.Machine.execLoadResultLands seq thr k s
  | .writeApply k => Sys2Proof.Machine.execWriteApply k s
  | .invalidationApply die k => Sys2Proof.Machine.execInvalidationApply die k s
  | .faultRecordWrite eng unit thr => Sys2Proof.Machine.execFaultRecordWrite eng unit thr s
  | .pfreplyRetry die idx => Sys2Proof.Machine.execPfreplyRetry die idx s
  | .pfreplyDeliver die idx => Sys2Proof.Machine.execPfreplyDeliver die idx s
  | .pfwaitExpiry seq thr => Sys2Proof.Machine.execPfwaitExpiry seq thr s
  | .holderAck page holder => Sys2Proof.Machine.execHolderAck page holder s
  | .replicaPoison page holder => Sys2Proof.Machine.execReplicaPoison page holder s
  | .boltOperationApply k => Sys2Proof.Machine.execBoltOperationApply k s
  | .boltStall seq thr => Sys2Proof.Machine.execBoltStall seq thr s
  | .wfeTimeout seq thr => Sys2Proof.Machine.execWfeTimeout seq thr s
  | .barrierComplete level unit launch => Sys2Proof.Machine.execBarrierComplete level unit launch s
  | .qnextComplete seq => Sys2Proof.Machine.execQnextComplete seq s
  | .queuePublish k => Sys2Proof.Machine.execQueuePublish k s
  | .xsendLanding seq thr => Sys2Proof.Machine.execXsendLanding seq thr s
  | .queueClose launch stage => Sys2Proof.Machine.execQueueClose launch stage s
  | .compactionClaim k => Sys2Proof.Machine.execCompactionClaim k s
  | .compactionSlotDone k => Sys2Proof.Machine.execCompactionSlotDone k s
  | .bypassCopy k => Sys2Proof.Machine.execBypassCopy k s
  | .copyRun unit => Sys2Proof.Machine.execCopyRun unit s
  | .copyComplete unit => Sys2Proof.Machine.execCopyComplete unit s
  | .followonRun core => Sys2Proof.Machine.execFollowonRun core s
  | .frameOpen die eng => Sys2Proof.Machine.execFrameOpen die eng s
  | .frameDecode die eng => Sys2Proof.Machine.execFrameDecode die eng s
  | .frameClose die eng => Sys2Proof.Machine.execFrameClose die eng s
  | .resizeRun die eng => Sys2Proof.Machine.execResizeRun die eng s
  | .fcvRun die => Sys2Proof.Machine.execFcvRun die s
  | .graphNodeComplete graph node => Sys2Proof.Machine.execGraphNodeComplete graph node s
  | .launchPacket src => Sys2Proof.Machine.execLaunchPacket src s
  | .graphPacket queue => Sys2Proof.Machine.execGraphPacket queue s
  | .loadPacket queue => Sys2Proof.Machine.execLoadPacket queue s
  | .unloadPacket queue => Sys2Proof.Machine.execUnloadPacket queue s
  | .boltArrivePacket queue => Sys2Proof.Machine.execBoltArrivePacket queue s
  | .boltWaitPacket queue => Sys2Proof.Machine.execBoltWaitPacket queue s
  | .boltPacketStall queue => Sys2Proof.Machine.execBoltPacketStall queue s
  | .fencePacket queue => Sys2Proof.Machine.execFencePacket queue s
  | .copyPacket queue => Sys2Proof.Machine.execCopyPacket queue s
  | .sequencerBind launch stage core groups => Sys2Proof.Machine.execSequencerBind launch stage core groups s
  | .launchComplete launch => Sys2Proof.Machine.execLaunchComplete launch s
  | .balancerEpoch die => Sys2Proof.Machine.execBalancerEpoch die s
  | .migrationRequestPost seq request => Sys2Proof.Machine.execMigrationRequestPost seq request s
  | .preemptRequest seq => Sys2Proof.Machine.execPreemptRequest seq s
  | .contextSave seq => Sys2Proof.Machine.execContextSave seq s
  | .contextRestore k core groups => Sys2Proof.Machine.execContextRestore k core groups s
  | .laneRetire core lane => Sys2Proof.Machine.execLaneRetire core lane s
  | .machineCheck seq thr source => Sys2Proof.Machine.execMachineCheck seq thr source s
  | .unitFail kind die unit => Sys2Proof.Machine.execUnitFail kind die unit s
  | .softErrorCorrected core => Sys2Proof.Machine.execSoftErrorCorrected core s
  | .expansionTableReplace generation verified => Sys2Proof.Machine.execExpansionTableReplace generation verified s
  | .leadFabricPrefetch core addr => Sys2Proof.Machine.execLeadFabricPrefetch core addr s
  | .deviceReset => Sys2Proof.Machine.execDeviceReset s
  | .powerOn bootErr => Sys2Proof.Machine.execPowerOn bootErr s
  | .featureCommit => Sys2Proof.Machine.execFeatureCommit s
  | .contextCreate c value => Sys2Proof.Machine.execContextCreate c value s
  | .contextTeardown c => Sys2Proof.Machine.execContextTeardown c s
  | .queueEnable queue value => Sys2Proof.Machine.execQueueEnable queue value s
  | .prodWrite queue value => Sys2Proof.Machine.execProdWrite queue value s
  | .apertureEnable j value => Sys2Proof.Machine.execApertureEnable j value s
  | .apertureDisable j value => Sys2Proof.Machine.execApertureDisable j value s
  | .memoryBarWrite requester off bytes => Sys2Proof.Machine.execMemoryBarWrite requester off bytes s
  | .memoryBarRead requester off len => Sys2Proof.Machine.execMemoryBarRead requester off len s
  | .xlinv value => Sys2Proof.Machine.execXlinv value s
  | .xlinvDone => Sys2Proof.Machine.execXlinvDone s
  | .replicate value => Sys2Proof.Machine.execReplicate value s
  | .replicateDone => Sys2Proof.Machine.execReplicateDone s
  | .seqkill value => Sys2Proof.Machine.execSeqkill value s
  | .quote value => Sys2Proof.Machine.execQuote value s
  | .install value => Sys2Proof.Machine.execInstall value s
  | .clear value => Sys2Proof.Machine.execClear value s
  | .keySlotClearDone slot => Sys2Proof.Machine.execKeySlotClearDone slot s
  | .swinWrite die value => Sys2Proof.Machine.execSwinWrite die value s
  | .swinChangeDone die => Sys2Proof.Machine.execSwinChangeDone die s
  | .balctlWrite die value => Sys2Proof.Machine.execBalctlWrite die value s
  | .pwrislWrite isl value => Sys2Proof.Machine.execPwrislWrite isl value s
  | .islandWake isl => Sys2Proof.Machine.execIslandWake isl s
  | .thermalThrottle tenths => Sys2Proof.Machine.execThermalThrottle tenths s
  | .thermalShutdown tenths => Sys2Proof.Machine.execThermalShutdown tenths s
  | .peerLaneFail die port lanes => Sys2Proof.Machine.execPeerLaneFail die port lanes s
  | .podRequestIn copy fn addr operand bytes => Sys2Proof.Machine.execPodRequestIn copy fn addr operand bytes s
  | .registerWrite bar off half value => Sys2Proof.Machine.execRegisterWrite bar off half value s
  | .migrationRequestWithdraw seq => Sys2Proof.Machine.execMigrationRequestWithdraw seq s
  | .queueHardwareRestart k => Sys2Proof.Machine.execQueueHardwareRestart k s
  | .thermalThrottleEnd tenths => Sys2Proof.Machine.execThermalThrottleEnd tenths s

end Sys2Proof.Machine
end

