-- ==== Sys2Proof/Machine/Due.lean ====
section
/-! DEFINITION. The steps of agents other than threads that are due in a state, with no limit in time passing: what
queues, engines, walkers, dispatchers and the runtime do next. A step listed may still have to wait: it then changes
nothing (log 1). -/

namespace Sys2Proof.Machine

noncomputable section

/-- Indices of a list. -/
def indices {α : Type} (l : List α) : List Nat := List.range l.length

/-- Landings, writes, invalidations, bolts, publications and collapses. -/
def State.dueMemory (s : State) : List Instr := List.flatten [
  s.threads.flatMap fun (k, t) => (indices t.pend).map fun i => Instr.loadResultLands (k / 4) (k % 4) i,
  s.flights.zipIdx.map fun (f, i) => if f.op.isSome then Instr.boltOperationApply i else Instr.writeApply i,
  s.dies.flatMap fun (d, v) => (indices v.invals).map fun i => Instr.invalidationApply d i,
  (indices s.resvs).map Instr.queuePublish,
  if s.freed = [] then [] else [Instr.queuePublish 0],
  s.collapses.flatMap fun c => ((List.range 8).filter fun h => c.waiting.getLsbD h).map fun h => Instr.holderAck c.page h]

/-- Threads: barriers that complete, `qnext` that waits, records to write, contexts to save. -/
def State.dueThreads (s : State) : List Instr := List.flatten [
  s.seqs.flatMap fun (q, v) => List.flatten [
    if (s.thread q 0).claiming then [Instr.qnextComplete q] else [],
    if v.saving.isSome then [Instr.contextSave q] else [],
    match v.asked with
      | some (_, none) => [Instr.faultRecordWrite true (312 + q) 0]
      | _ => []],
  -- what other modules report is asked for now and then only, so that everything else goes on
  s.barriersOpen.flatMap fun (l, u, n) => if l ≠ 5 || s.turn % 8 = 0 then [Instr.barrierComplete l u n] else [],
  s.threads.filterMap fun (k, t) =>
    match t.wait with
    | .record _ => some (Instr.faultRecordWrite false (k / 4) (k % 4))
    | _ => none]

/-- The head of a unit's queue. -/
def State.dueUnit (s : State) (u : Nat) : List Instr :=
  match s.unitQueue u with
  | [] => []
  | c :: _ =>
    if c.pagerStage = 1 then [.faultRecordWrite true u 0]
    else if c.code.isSome then (if c.followDue then [.followonRun u] else [.copyComplete u])
    else if u < 264 then [.copyRun u]
    else if u < 296 then
      let d := (u - 264) / 4
      let e := (u - 264) % 4
      [.frameOpen d e, .frameDecode d e, .frameClose d e, .resizeRun d e]
    else [.fcvRun (u - 296)]

/-- Units with work. -/
def State.dueUnits (s : State) : List Instr :=
  s.cores.flatMap (fun (c, _) => s.dueUnit c) ++
  s.dies.flatMap fun (d, v) =>
    s.dueUnit (256 + d) ++ v.fe.flatMap (fun (e, _) => s.dueUnit (264 + 4 * d + e)) ++ s.dueUnit (296 + d)

/-- Graphs, packets and the queue hardware. -/
def State.dueWork (s : State) : List Instr := List.flatten [
  s.graphs.flatMap fun g => List.flatten [
    g.results.map fun r => Instr.graphNodeComplete g.id r.1,
    match g.asked with
      | some (_, none) => [Instr.faultRecordWrite true (304 + g.die) 0]
      | _ => [],
    if g.todo ≠ [] || g.ending.isSome then [Instr.graphNodeComplete g.id 0] else []],
  match s.nextQueue with
    | some q => [Instr.launchPacket q, .graphPacket q, .loadPacket q, .unloadPacket q, .boltArrivePacket q, .boltWaitPacket q,
        .fencePacket q, .copyPacket q]
    | none => [],
  s.queues.flatMap fun (q, k) => if k.boltWait.isSome then [Instr.boltWaitPacket q, .boltArrivePacket q] else [],
  s.dies.filterMap fun (d, v) => if v.dlq = [] then none else some (Instr.launchPacket (4096 + d)),
  (indices s.hwqs).flatMap fun k => [Instr.queueClose 0 k, .compactionClaim k, .compactionSlotDone k, .bypassCopy k]]

/-- A share that a stage can be bound to now. -/
def State.shareFor (s : State) (l : Launch) (j : Nat) (r : StageRun) : Option (Nat × Nat) :=
  if s.wants l j r then (sharesOf r.share).find? fun (c, g) => s.bindable l j r c g else none

/-- Launches: bindings, closings, completion. -/
def State.dueLaunches (s : State) : List Instr :=
  s.launches.flatMap fun l => List.flatten [
    l.numbered.filterMap fun (r, j) => (s.shareFor l j r).map fun (c, g) => Instr.sequencerBind l.id j c g,
    l.numbered.map fun (_, j) => Instr.queueClose l.id j,
    [Instr.launchComplete l.id]]

/-- The device's own changes that are under way. -/
def State.dueDevice (s : State) : List Instr := List.flatten [
  if s.slot0.closing then [Instr.keySlotClearDone 0] else [],
  s.slots.filterMap fun (i, k) => if k.closing then some (Instr.keySlotClearDone i) else none,
  s.dies.filterMap fun (d, v) => if v.newWays.isSome then some (Instr.swinChangeDone d) else none,
  s.contexts.filterMap fun (c, v) => if v.busy then some (Instr.contextTeardown c) else none,
  if bit s.xlinvb 62 then [Instr.xlinvDone] else [],
  if bit s.repcmd 62 then [Instr.replicateDone] else []]

/-- Everything that is due. -/
def dueSteps (s : State) : List Instr :=
  if s.ready then
    s.dueMemory ++ s.dueThreads ++ s.dueUnits ++ s.dueWork ++ s.dueLaunches ++ s.dueDevice
  else []

end

end Sys2Proof.Machine
end

