-- ==== Sys2Proof/Machine/Step.lean ====
section
/-! DEFINITION. One step of the module: the agenda's first step of another agent (log 1), else the next due step of a
thread or an agent. -/

namespace Sys2Proof.Machine

/-- One step. Completions not done go on first (R388). -/
noncomputable def step (s : State) : Host.Outcome State Fault Refusal :=
  match s.agenda with
  | e :: rest => if e.hasWord then .fault .badStimulus else passTime (exec e { s with agenda := rest })
  | [] => passTime (nextStep exec dueSteps s.completionsGo)

/-- The state with an instruction word placed where `step` fetches next. -/
noncomputable def State.withFetchWord (s : State) (nbits w : Nat) : State := s.placeWord (w % 2 ^ nbits)

end Sys2Proof.Machine
end

