-- ==== Sys2Proof/Safety.lean ====
section
/-! DEFINITION. What counts as a safe state and a safe step, and the vocabulary of the statements: states whose debug
unit is quiet, the state after an instruction that completes, which registers are ready, what the trace records, how a
number is rounded, and what a table entry asks. -/

namespace Sys2Proof.Machine

/-- The invariant of memory: both memories in canonical form. -/
def State.memOk (s : State) : Prop := Memory.wf s.mem = true ∧ Memory.wf s.host = true

/-- A step that does not stop the machine. -/
def safeStep (s : State) : Prop := ∃ t, step s = .next t

/-- The trace unit and the triggers of the current core do not watch the current slot (R422, R423). -/
abbrev State.quiet (s : State) : Prop := s.cp.traced s.slotNo = false

/-- The state as an instruction of the current thread begins (R420). -/
def State.atIssue (s : State) : State := s.setTh s.th.begin

/-- The state after an instruction that completed at the next word (R273) with the thread as `f` makes it. -/
def State.done (s : State) (f : Thread → Thread) : State := retire .seq (s.setTh (f s.th.begin))

/-- The state after an instruction that completed elsewhere, or left the module otherwise changed, as `u`. -/
def State.doneAt (s : State) (fl : Flow) (f : Thread → Thread) : State := retire fl (s.setTh (f s.th.begin))

/-- The scalar registers named are full (R189). -/
abbrev State.fullX (s : State) (rs : List (BitVec 5)) : Prop := ∀ r ∈ rs, s.th.xFull r.toNat = true

/-- The value of a scalar register. -/
def State.gx (s : State) (r : BitVec 5) : Word := s.th.getX r.toNat

/-- The vector registers named are declared (R77) and full (R189). -/
abbrev State.readyV (s : State) (rs : List (BitVec 5)) : Prop :=
  ∀ r ∈ rs, r.toNat < s.th.vn ∧ s.th.vFull r.toNat = true

/-- A trap of the current instruction (R403): taken at once, or, while a `qnext` before it is outstanding, once that is
complete (R220). -/
def takesTrap (cause : Nat) (tval telem tinfo : Word) (s : State) : State :=
  if s.th.claiming then s.setTh { s.th with wait := .trap cause tval telem tinfo, ended := .waiting }
  else takeTrap cause tval telem tinfo s

/-- The state after a scalar floating operation with result and flags `r` (R268, R211): the result and the flags are
written; a flag set in `ftrap` then traps, with cause 0x11 where AB is among them and 0x10 otherwise (R245). -/
def State.fpDone (s : State) (d : BitVec 5) (r : Nat × Nat) : State :=
  let f (t : Thread) : Thread :=
    { t.setX d.toNat (BitVec.ofNat 64 r.1) with fflags := t.fflags ||| BitVec.ofNat 64 r.2 }
  let trapping := r.2 &&& (s.th.ftrap.toNat % 64)
  if trapping = 0 then s.done f
  else takesTrap (if trapping.testBit 5 then 0x11 else 0x10) 0 0 0 (s.setTh { f s.th.begin with vstart := 0 })

/-- An outcome is a next state, and that state satisfies `P`. -/
def Nexts (o : Host.Outcome State Fault Refusal) (P : State → Prop) : Prop := ∃ t, o = .next t ∧ P t

/-- A thread with what the progress of one retired instruction changes (position, loop stack, counts, strip history, the
parts performed, what the lead's fork is of) taken from `t`. -/
def Thread.progress (u t : Thread) : Thread :=
  { u with
    pc := t.pc, ldepth := t.ldepth, lecnt := t.lecnt, leidx := t.leidx, instret := u.instret + 1, wait := .none,
    ended := .retired, hist := t.hist, histN := t.histN, opStart := t.opStart, opFirst := t.opFirst,
    opLast := t.opLast, opVl := t.opVl, opMask := t.opMask, past := t.past, missed := t.missed,
    forkAt := t.forkAt, doubt := t.doubt }

/-- The driver is told of an event (R427, Tables 18.6 and 18.7): the entry is in the queue at its tail, which is now past
it, with vector 8 where the queue was empty; an event that finds the queue closed or full, or whose write would fail (R22,
R43; log 49), is counted. -/
def State.tells (s t : State) (kind die core slot code : Nat) (data addr aux : Word) : Prop :=
  let n := s.eqbase.toNat % 16
  let base := s.eqbase.toNat / 64 * 64
  let a := base + 32 * (s.eqtail.toNat % 2 ^ n)
  let phase : Nat := if s.eqtail.toNat / 2 ^ n % 2 = 0 then 1 else 0
  if n < 6 ∨ 12 < n ∨ s.ringOk base (32 * 2 ^ n) = false ∨ 2 ^ n ≤ (s.eqtail - s.eqhead).toNat ∨ s.ownFails a = true then
    t.dropped = min (s.dropped + 1) 0x3FFF ∧ t.eqtail = s.eqtail ∧ t.msix = s.msix ∧ t.mem = s.mem ∧ t.host = s.host
  else
    t.dropped = 0 ∧ t.eqtail = s.eqtail + 1 ∧ t.msix = (if s.eqtail = s.eqhead then 8 :: s.msix else s.msix) ∧
    (s.place a ≠ .hole → t.physRead a 32 s.key0 =
      dwordBytes (eventWord phase kind die core slot s.dropped code) ++ dwordBytes data ++ dwordBytes addr ++ dwordBytes aux)

/-- Every thread but the current one is as it was. -/
def State.sameOthers (s t : State) : Prop :=
  ∀ k < 4096, k ≠ threadKey s.cur → Sparse.get {} t.threads k = Sparse.get {} s.threads k

/-- The default schedule with nothing of the memory system in progress: a thread of the module issues, no write or bolt
operation is in flight, no invalidation, copy or replica stands anywhere (R67, R93), every die has applied every write
(R107), and the core may have another request (R91). -/
abbrev State.plain (s : State) : Prop :=
  s.sched = ⟨false, false⟩ ∧ s.cur.seq < 1024 ∧ s.cur.thr < 4 ∧ s.flights = [] ∧ s.portFree = true ∧
  (∀ e < 8, (s.die e).invals = [] ∧ (s.die e).copies = [] ∧ (s.die e).rdir = [] ∧
    ∀ j < 8, (s.die e).applied.comp j = (s.die j).count) ∧
  ∀ l ∈ s.lines, l.2.holders = 0

/-- What a release of a scope waits for besides the accesses in flight: a `qnext` outstanding (R288), and at `.pd` the
sequencer's copy commands (R121). -/
abbrev State.mayRelease (s : State) (scope : Nat) : Prop :=
  s.th.claiming = false ∧ (scope = 5 → s.copyBusy s.cur.seq = false)

/-- How the translation of an access by the instruction of the current thread ends (R443), and the state it leaves: that
with the A and D bits set (R51). -/
def State.walked (s : State) (a : Acc) (va : Word) : Xlat × State :=
  s.atIssue.xlate s.coreNo s.sq.dxp s.th.level a va

/-- What a translation gives. -/
def Xlat.target : Xlat → Target
  | .ok t => t
  | _ => ⟨0, 0, 0, .hole⟩

/-- Where such an access goes, and the state after its translation. -/
def State.goesTo (s : State) (a : Acc) (va : Word) : Target := (s.walked a va).1.target
def State.walkedTo (s : State) (a : Acc) (va : Word) : State := (s.walked a va).2

/-- Such an access translates (R23, R443). -/
abbrev State.reaches (s : State) (a : Acc) (va : Word) : Prop :=
  canonical va = true ∧ (s.walked a va).1 = .ok (s.goesTo a va)

/-- Scalar accesses of 2^e bytes (Table 3.3, R30, R31): a load, a store, and an atomic, which host memory takes only
for swap, compare-and-swap and add of 8 bytes (R295). -/
def scalarLoadAcc (e : Nat) : Acc := ⟨0, true, false, false, e = 2 || e = 3, false, 2 ^ e⟩
def scalarStoreAcc (e : Nat) : Acc := ⟨3, false, true, false, e = 2 || e = 3, false, 2 ^ e⟩
def scalarAtomicAcc (host : Bool) (e : Nat) : Acc := ⟨6, true, true, false, false, true, if host then 2 ^ e else 16⟩

/-- The key bits under which a target's line of HBM is read or written. -/
def State.keyOf (s : State) (tg : Target) : Option (BitVec 512) :=
  if tg.pa < 0x8000000000 then some (s.slot tg.slot).key else none

/-- The bytes a target holds. -/
def State.heldAt (s : State) (tg : Target) (n : Nat) : List Byte :=
  match tg.place with
  | .host a => memBytes s.host a n
  | .regs d off => s.ioRead d off n
  | _ => s.homeBytes tg.pa n (s.keyOf tg)

/-- A byte of module memory as an access under key bits sees it (R45). -/
def State.seen (s : State) (key : Option (BitVec 512)) (x : Nat) : Byte := (s.homeBytes x 1 key).headD 0

/-- A target in module memory whose line was written under no other key. -/
abbrev State.inMemory (s : State) (tg : Target) : Prop :=
  tg.place.isMem = true ∧ (s.keyOf tg = none ∨ (s.line (lineOf tg.pa)).key = none ∨
    (s.line (lineOf tg.pa)).key = s.keyOf tg)

/-- Module memory with bytes written at targets and no other byte changed: in a line written to, seen under its target's
key, which the line is now under (R45); in every other line, as it stands. -/
def State.wrote (s t : State) (ws : List (Target × List Byte)) : Prop :=
  (∀ w ∈ ws, ∀ x : Nat, lineOf x = lineOf w.1.pa → t.seen (s.keyOf w.1) x =
    match ws.find? fun v => decide (v.1.pa ≤ x) && decide (x < v.1.pa + v.2.length) with
    | some v => v.2.getD (x - v.1.pa) 0
    | none => s.seen (s.keyOf w.1) x) ∧
  ∀ x : Nat, (∀ w ∈ ws, lineOf x ≠ lineOf w.1.pa) →
    memByte t.mem x = memByte s.mem x ∧ (t.line (lineOf x)).key = (s.line (lineOf x)).key

/-- What an access leaves apart from memory and the current thread: the frontier of the core (R108), and the stamps and
counts of the dies (R106, R107). -/
def State.memoryFrame (s t : State) : Prop :=
  t = { s with threads := t.threads, cores := t.cores, dies := t.dies, mem := t.mem, host := t.host, lines := t.lines,
               nextId := t.nextId } ∧
  (∀ c < 256, t.core c = { s.core c with frontier := (t.core c).frontier }) ∧
  (∀ c < 256, c ≠ s.coreNo → t.core c = s.core c) ∧
  ∀ e < 8, t.die e = { s.die e with count := (t.die e).count, applied := (t.die e).applied,
                                    invals := (t.die e).invals, copies := (t.die e).copies }

/-- A load completed: `v` is in register `d`, no other register and no byte of memory changed since the translation. -/
def LoadDone (s s' t : State) (d : BitVec 5) (v : Word) : Prop :=
  t.th = (s.th.setX d.toNat v).progress t.th ∧ t.th.pc = (seqNext s.th s.th.pc).1 ∧ s.sameOthers t ∧
  s'.memoryFrame t ∧ t.mem = s'.mem ∧ t.host = s'.host

/-- An access of module or host memory completed with the thread as `u` and the bytes `bs` at its target: every other
byte reads as before. -/
def StoreDone (s s' t : State) (u : Thread) (tg : Target) (bs : List Byte) : Prop :=
  t.th = u.progress t.th ∧ t.th.pc = (seqNext s.th s.th.pc).1 ∧ s.sameOthers t ∧ s'.memoryFrame t ∧
  match tg.place with
  | .host h => t.mem = s'.mem ∧ t.lines = s'.lines ∧
    ∀ x : Nat, memByte t.host x = if h ≤ x ∧ x < h + bs.length then bs.getD (x - h) 0 else memByte s'.host x
  | _ => t.host = s'.host ∧ s'.wrote t [(tg, bs)]

/-- The thread that a thread computation leaves. -/
def T.state {α : Type} (a : T α) (t : Thread) : Thread :=
  match a t with
  | .ok _ t' => t'
  | .error _ t' => t'

/-- The bits of a vector register, as a natural. -/
def State.vbits (s : State) (r : BitVec 5) : Nat := (s.th.vreg r.toNat).bits.toNat

/-- The state after an element loop over vector register `d` at width w (R316), `g` giving each element's result. -/
def State.loopDone (s : State) (d : BitVec 5) (w : Nat) (xm fp : Bool) (g : Nat → Nat → ERes) : State :=
  s.done (T.state (loopV d w xm fp g))

/-- The same over bits of mask `d`. -/
def State.maskDone (s : State) (d : BitVec 5) (xm fp : Bool) (g : Nat → Nat → ERes) : State :=
  s.done (T.state (loopK d xm fp g))

/-- No element of a loop raises a trapping flag (R211). -/
abbrev State.noTrap (s : State) (d : BitVec 5) (w : Nat) (xm : Bool) (g : Nat → Nat → ERes) : Prop :=
  (eloop (s.th.loopCfg w xm true) g (s.th.vlN - s.th.startN) s.th.startN
    { dst := s.vbits d, xk := s.th.mask s.th.xmReg }).stop = none

/-- The same for a loop over bits of a mask. -/
abbrev State.noTrapK (s : State) (d : BitVec 5) (xm : Bool) (g : Nat → Nat → ERes) : Prop :=
  (eloop (s.th.loopCfg 0 xm true) g (s.th.vlN - s.th.startN) s.th.startN
    { dst := s.th.mask d.toNat, xk := s.th.mask s.th.xmReg }).stop = none

/-- Operand B of a row: the low bits of a scalar, or the elements of a register (R315). -/
def State.opB (s : State) (sc : Bool) (b : BitVec 5) (w i : Nat) : Nat :=
  if sc then (s.gx b).toNat % 2 ^ w else elemAt w (s.vbits b) i

/-- The operands of a row with destination d are declared and full. -/
abbrev State.readyRow (s : State) (sc : Bool) (d a b : BitVec 5) : Prop :=
  if sc then s.readyV [d, a] ∧ s.fullX [b] else s.readyV [d, a, b]

/-- Where an access made for a core, an address space and a level goes: none where it would trap, wait, or set an A or D
bit. -/
def State.targetFor (s : State) (core : Nat) (dxp : Word) (l : Level) (a : Acc) (va : Word) : Option Target :=
  if canonical va then
    match s.xlate core dxp l a va with
    | (.ok tg, s') => if s' = s then some tg else none
    | _ => none
  else none

/-- The same for the current thread. -/
def State.targetOf (s : State) (a : Acc) (va : Word) : Option Target :=
  s.targetFor s.coreNo s.sq.dxp s.th.level a va

/-- A descriptor of n times 64 bytes as an instruction reads it (R366). -/
def State.descAt (s : State) (va : Word) : Nat → Option (List Byte)
  | 0 => some []
  | n + 1 =>
    match s.targetOf ⟨10, true, false, false, false, false, 64⟩ va, s.descAt (va + 64) n with
    | some tg, some l => some (s.heldAt tg 64 ++ l)
    | _, _ => none

/-- The value of n bytes that a vector load at `va` finds. -/
def State.valueAt (s : State) (kind : Nat) (va : Word) (n : Nat) : Option Nat :=
  if va.toNat % n = 0 then (s.targetOf (loadAcc kind n) va).map fun tg => natOfBytes (s.heldAt tg n) else none

/-- addr(i, f) of Table 12.9, with the index vector's bits. -/
def Thread.elementAddr (t : Thread) (f : Form) (base : Word) (x i fi : Nat) : Word :=
  match f with
  | .strided => base + BitVec.ofNat 64 i * (if t.vstride ≠ 0 then t.vstride else BitVec.ofNat 64 (t.ew / 8))
  | .indexed xw => base + BitVec.ofNat 64 (elemAt xw x i)
  | .segment nf =>
    base + BitVec.ofNat 64 i * (if t.vstride ≠ 0 then t.vstride else BitVec.ofNat 64 (nf * (t.ew / 8))) +
      BitVec.ofNat 64 (fi * (t.ew / 8))

/-- Elements that an instruction touches: active, from `vstart`, below `vl`. -/
abbrev Thread.touched (t : Thread) (i : Nat) : Prop := t.startN ≤ i ∧ i < t.vlN ∧ t.active i = true

/-- The registers d to d + n − 1 are declared and full. -/
abbrev State.readyRun (s : State) (d : BitVec 5) (n : Nat) : Prop :=
  d.toNat + n ≤ 32 ∧ ∀ j < n, d.toNat + j < s.th.vn ∧ s.th.vFull (d.toNat + j) = true

/-- What an indexed form needs of its index vector (R303). -/
abbrev State.readyForm (s : State) (f : Form) (b : BitVec 5) : Prop :=
  match f with
  | .indexed xw => s.readyV [b] ∧ (xw ≤ s.th.ew ∨ s.th.vlN ≤ s.th.vlmaxN / xw)
  | _ => True

/-- One plain vector store of bytes, the frontier of the core raised (R106, R108); none where it would trap or wait. -/
def State.putAt (s : State) (kind : Nat) (va : Word) (bs : List Byte) : Option State :=
  if va.toNat % bs.length = 0 then
    match s.targetOf (storeAcc kind bs.length) va with
    | some tg =>
      match tg.place with
      | .host h => some { s with host := memPutAll s.host (cellsAt h bs) }
      | _ =>
        let r := s.inject s.dieNo s.front tg.pa bs (s.slot tg.slot).key none (some s.cur.seq)
        some (r.2.raise r.1)
    | none => none
  else none

/-- Stores in order. -/
def State.putList (s : State) (kind : Nat) : List (Word × List Byte) → Option State
  | [] => some s
  | (va, bs) :: l =>
    match s.putAt kind va bs with
    | some s' => s'.putList kind l
    | none => none

/-- An access of the queue hardware for a queue that translates, to module memory (R171). -/
abbrev HwQueue.mayRead (k : HwQueue) (s : State) (n : Nat) (va : Word) (t : Target) : Prop :=
  s.targetFor (32 * k.die) k.dxp .supervisor ⟨10, true, false, false, false, false, n⟩ va = some t ∧ t.place.isMem = true
abbrev HwQueue.mayWrite (k : HwQueue) (s : State) (n : Nat) (va : Word) (t : Target) : Prop :=
  s.targetFor (32 * k.die) k.dxp .supervisor ⟨11, false, true, false, false, false, n⟩ va = some t ∧ t.place.isMem = true

/-- The module after the rows of n entries of a compaction queue, from its j-th unclaimed one on, are copied in order to its
next slot; none where an access would not go to module memory or a row does not lie within a line. -/
def HwQueue.copies (k : HwQueue) (h : QHeader) (j : Nat) : Nat → State → Option State
  | 0, s => some s
  | n + 1, s =>
    let reads (m : Nat) (va : Word) : Option Target :=
      s.targetFor (32 * k.die) k.dxp .supervisor ⟨10, true, false, false, false, false, m⟩ va
    let e := 2 ^ h.esz
    match reads e (h.base + BitVec.ofNat 64 ((h.head.toNat + j) % 2 ^ h.lcap * e)) with
    | none => none
    | some et =>
      let src := h.src + BitVec.ofNat 64 (natOfBytes (s.heldAt et e) * h.rowb)
      let dst := h.dst + BitVec.ofNat 64 ((k.slot * 128 + j) * h.rowb)
      match reads h.rowb src, s.targetFor (32 * k.die) k.dxp .supervisor ⟨11, false, true, false, false, false, h.rowb⟩ dst with
      | some st, some dt =>
        if et.place.isMem && st.place.isMem && dt.place.isMem && decide (src.toNat % 128 + h.rowb ≤ 128) &&
            decide (dst.toNat % 128 + h.rowb ≤ 128) then
          k.copies h (j + 1) n (s.physWrite dt.pa (s.heldAt st h.rowb) (s.keyOf dt))
        else none
      | _, _ => none

/-- What a vector store writes, element by element and field by field. -/
def State.storeElems (s : State) (f : Form) (d : BitVec 5) (base : Word) (x : Nat) : List (Word × List Byte) :=
  ((List.range s.th.vlN).filter fun i => s.th.startN ≤ i && s.th.active i).flatMap fun i =>
    (List.range f.fields).map fun fi => (s.th.elementAddr f base x i fi,
      bytesOfNat (s.th.ew / 8) (elemAt s.th.ew (s.th.vreg (d.toNat + fi)).bits.toNat i))

/-! ## What the trace ring and the triggers record, said once more (R422, R423) -/

/-- The enabled triggers of the current core, of one of the kinds, that compare equal with an address. -/
def State.hits (s : State) (kinds : List Nat) (va : Word) : List Nat :=
  [0, 1].filter fun j =>
    let c := Sparse.get 0 s.cp.trgctl j
    c.getLsbD 63 && kinds.contains (c.toNat / 2 ^ 60 % 4) &&
      decide ((Sparse.get 0 s.cp.trgaddr j).toNat / 2 ^ (c.toNat % 64) = va.toNat / 2 ^ (c.toNat % 64))

/-- One of some triggers traps. -/
def State.traps (s : State) (js : List Nat) : Bool := js.any fun j => (Sparse.get 0 s.cp.trgctl j).getLsbD 62

/-- From `s` to `t` the core's trace ring has taken entries of these kinds and second dwords, the first one first, each of
the current slot and thread, and no other; the `cycle` in them is free (log 4). -/
def State.recorded (s t : State) (l : List (Nat × Word)) : Prop :=
  t.cp.trcpos = s.cp.trcpos + BitVec.ofNat 64 l.length ∧
  (∀ (j k : Nat) (dw : Word), l[j]? = some (k, dw) → ∃ d0, t.cp.trace[l.length - 1 - j]? = some (d0, dw) ∧
    d0.toNat / 2 ^ 56 = 16 * k + 4 * s.slotNo + s.cur.thr) ∧
  ∀ j : Nat, j + l.length < 4096 → t.cp.trace[j + l.length]? = s.cp.trace[j]?

/-! ## Rounding, said once more in exact numbers (Tables 10.1 and 10.2, R243, R244) -/

/-- Bits of a finite value. -/
abbrev Fmt.finite (t : Fmt) (x : Nat) : Prop := x < 2 ^ t.width ∧ x / 2 ^ t.fb % 2 ^ t.eb ≠ 2 ^ t.eb - 1

/-- The value of the bits below the sign. -/
def Fmt.magnitude (t : Fmt) (x : Nat) : ℚ :=
  let ex := x / 2 ^ t.fb
  if ex = 0 then (x : ℚ) * 2 ^ (1 - (t.bias : Int) - t.fb)
  else ((2 ^ t.fb + x % 2 ^ t.fb : Nat) : ℚ) * 2 ^ ((ex : Int) - t.bias - t.fb)

/-- The sign of bits, and their value. -/
def Fmt.negative (t : Fmt) (x : Nat) : Bool := x.testBit (t.eb + t.fb)
def Fmt.value (t : Fmt) (x : Nat) : ℚ :=
  if t.negative x then -t.magnitude (x % 2 ^ (t.eb + t.fb)) else t.magnitude (x % 2 ^ (t.eb + t.fb))

/-- Result and flags `r` are those of a number of sign `neg` and magnitude v, not 0, rounded under a mode (R243, R244):
the nearest representable value, or the next one on the mode's side; on overflow the value of Table 10.2. -/
def Fmt.Rounds (t : Fmt) (mode : Nat) (neg : Bool) (v : ℝ) (r : Nat × Nat) : Prop :=
  let mag (x : Nat) : ℝ := (t.magnitude x : ℚ)
  let top := mag (t.maxFinite false)
  let step := top - mag (t.maxFinite false - 1)
  let least := mag (2 ^ t.fb)
  let fine := mag 1
  let near : Bool := mode = 0 || mode = 4
  let cut : Bool := mode = 1 || (mode = 2 && !neg) || (mode = 3 && neg)
  let big : Prop := if near then top + step / 2 ≤ v else if cut then top + step ≤ v else top < v
  let tiny : Prop := if near then v < least - fine / 4 else if cut then v < least else v ≤ least - fine / 2
  ∃ y, r.1 = y + t.zero neg ∧
    (big → y = (if cut then t.maxFinite false else t.inf false) ∧ r.2 = 5) ∧
    (¬ big → y < t.inf false ∧
      (near = true → ∀ x < t.inf false, |v - mag y| ≤ |v - mag x| ∧
        (x ≠ y → |v - mag y| = |v - mag x| → if mode = 0 then y % 2 = 0 else x < y)) ∧
      (cut = true → mag y ≤ v ∧ ∀ x < t.inf false, mag x ≤ v → x ≤ y) ∧
      (near = false → cut = false → v ≤ mag y ∧ ∀ x < t.inf false, v ≤ mag x → y ≤ x) ∧
      (mag y = v → r.2 = 0) ∧ (mag y ≠ v → tiny → r.2 = 3) ∧ (mag y ≠ v → ¬ tiny → r.2 = 1))

/-- An integer that a number rounds to under a mode. -/
def roundsTo (mode : Nat) (v : ℚ) (z : Int) : Prop :=
  (mode = 0 → |v - z| ≤ 1 / 2 ∧ (|v - z| = 1 / 2 → z % 2 = 0)) ∧
  (mode = 1 → |(z : ℚ)| ≤ |v| ∧ |v - z| < 1 ∧ 0 ≤ v * z) ∧
  (mode = 2 → (z : ℚ) ≤ v ∧ v < z + 1) ∧
  (mode = 3 → v ≤ z ∧ (z : ℚ) < v + 1) ∧
  (mode = 4 → |v - z| ≤ 1 / 2 ∧ (|v - z| = 1 / 2 → |v| < |(z : ℚ)|))

/-! ## What a table entry asks, said once more (Table 2.6, R33, R35, R36, R443) -/

def entryField (e : Word) (hi lo : Nat) : Nat := e.toNat / 2 ^ lo % 2 ^ (hi + 1 - lo)

/-- The entry points to the next table. -/
abbrev entryPoints (e : Word) : Prop := entryField e 0 0 = 1 ∧ entryField e 3 1 = 0 ∧ entryField e 63 54 = 0 ∧
  entryField e 7 6 = 0 ∧ entryField e 4 4 = 0

/-- The entry, valid and no pointer, is malformed as a leaf of the level. -/
abbrev entryMalformed (l : Nat) (e : Word) : Prop := entryField e 3 1 = 0 ∨ entryField e 2 1 = 2 ∨ l = 4 ∨
  (entryField e 63 63 = 0 ∧ entryField e 49 10 % 2 ^ (9 * l) ≠ 0) ∨
  (entryField e 63 63 = 1 ∧ (l ≠ 0 ∨ entryField e 13 10 ≠ 8))

/-- The leaf grants the access at the level of privilege. -/
abbrev entryGrants (e : Word) (level : Level) (a : Acc) : Prop :=
  (a.r = true → entryField e 1 1 = 1) ∧ (a.w = true → entryField e 2 2 = 1) ∧ (a.x = true → entryField e 3 3 = 1) ∧
  (level = .program → entryField e 4 4 = 1) ∧ (level ≠ .program → a.x = true → entryField e 4 4 = 0)

/-- The physical address that the leaf gives, at a level. -/
def entryAddress (l : Nat) (e va : Word) : Nat :=
  if entryField e 63 63 = 1 then entryField e 49 14 * 65536 + va.toNat % 65536
  else entryField e 49 10 * 4096 + va.toNat % 2 ^ (12 + 9 * l)

/-- The A and D bits that the access needs set. -/
def accessedBits (a : Acc) : Word := if a.w then 0xC0 else 0x40

/-- The tables are those of a host process (MODE 0xB, R37). -/
def hostTables (dxp : Word) : Bool := decide (dxp.toNat / 2 ^ 60 = 0xB)

/-- The physical address that a page number of tables names: under host tables it is a host bus address (R40). -/
def State.tableAddr (s : State) (dxp : Word) (a : Nat) : Option Nat := if hostTables dxp then s.hostBus a else some a

/-- The key slot under which tables are read (R34, R40). -/
def tableSlot (dxp : Word) : Nat := if hostTables dxp then 0 else entryField dxp 46 40

/-- A translation `x` gives a target, where the entry `e` that it ends at passes: its A and D bits, where the access needs
them set and they are not, are set and nothing else changes; an entry in host memory that the root port does not update
atomically is an access fault (R41, R51). -/
def State.walkGives (s : State) (dxp : Word) (a : Acc) (at_ : Nat) (e : Word) (tg : Target) (x : Xlat × State) : Prop :=
  (e &&& accessedBits a = accessedBits a → x = (.ok tg, s)) ∧
  (e &&& accessedBits a ≠ accessedBits a →
    (∀ h, s.place at_ = .host h → x =
      if s.hostAtomics then
        (.ok tg, { s with host := memPutAll s.host (cellsAt h (dwordBytes (e ||| accessedBits a))) })
      else (.access, s)) ∧
    ((∀ h, s.place at_ ≠ .host h) → x =
      (.ok tg, s.physWrite at_ (dwordBytes (e ||| accessedBits a)) (some (s.slot (tableSlot dxp)).key))))

/-- A translation `x` for a party of a die, where the leaf `e` passed every check of its form and permissions: what the
region of its address makes of it (Table 2.5, R22, R26, R30, R31, R69, R89). -/
def State.walkLands (s : State) (die : Nat) (dxp : Word) (a : Acc) (at_ : Nat) (e : Word) (pa : Nat) (x : Xlat × State) :
    Prop :=
  let pbmt := entryField e 62 61
  let slot := if hostTables dxp then 0 else entryField e 60 54
  let failed : Prop := s.unitFailed (if a.w then pa else s.servedAt die pa pbmt) = true ∨
    (a.w = false ∧ pbmt = 0 ∧ s.copySliceFailed die pa = true)
  let goes (refused : Prop) (tg : Target) : Prop :=
    (refused → x = (.access, s)) ∧ (¬ refused → s.walkGives dxp a at_ e tg x)
  if s.resizing pa then x = (.wait, s)
  else
    match s.place pa with
    | .hole => x = (.access, s)
    | .hbm d => goes (pbmt = 2 ∨ failed ∨ s.slotUsable slot = false) ⟨pa, pbmt, slot, .hbm d⟩
    | .window d => goes (pbmt = 2 ∨ failed) ⟨pa, pbmt, 0, .window d⟩
    | .regs d off => goes (pbmt ≠ 2 ∨ a.io = false) ⟨pa, 2, 0, .regs d off⟩
    | .host h => goes ((a.atomic = true ∧ a.size ≠ 8) ∨ (a.x = true ∧ pbmt ≠ 0) ∨ (pbmt = 2 ∧ a.io = false))
        ⟨pa, if pbmt = 0 then 1 else pbmt, 0, .host h⟩

/-- What a translation `x` for a party of a die is when the entry `e` at `at_` of level l ends the walk. -/
def State.walkEnds (s : State) (die : Nat) (dxp va : Word) (level : Level) (a : Acc) (l at_ : Nat) (e : Word)
    (x : Xlat × State) : Prop :=
  let keyed : Prop := entryField e 60 54 ≠ 0 ∧ (hostTables dxp = true ∨ s.feature 13 = false)
  (entryField e 0 0 = 0 → x = (.page 0 l, s)) ∧
  (entryField e 0 0 = 1 → entryMalformed l e → x = (.page 2 l, s)) ∧
  (entryField e 0 0 = 1 → ¬ entryMalformed l e → entryField e 62 61 = 3 → x = (.page 3 l, s)) ∧
  (entryField e 0 0 = 1 → ¬ entryMalformed l e → entryField e 62 61 ≠ 3 →
    (keyed → x = (.page 4 l, s)) ∧
    (¬ keyed → ¬ entryGrants e level a → x = (.page 1 l, s)) ∧
    (¬ keyed → entryGrants e level a → entryField e 53 50 ≠ 0 → x = (.access, s)) ∧
    (¬ keyed → entryGrants e level a → entryField e 53 50 = 0 →
      match s.tableAddr dxp (entryAddress l e va) with
      | none => x = (.access, s)
      | some pa => s.walkLands die dxp a at_ e pa x))

/-- An engine as a command's work begins or goes on. -/
def Command.resume (c : Command) (s : State) : Eng := ⟨s, c.front, c.done, c.cap, c.wrote, c.past, 0⟩

/-- The state that a computation leaves. -/
def M.state {α : Type} (a : M α) (s : State) : State :=
  match a s with
  | .ok _ s' => s'
  | .error _ s' => s'

end Sys2Proof.Machine
end

