-- ==== Sys2Proof/Certificates/Slice0/Obligations.lean ====
section
/-! DEFINITION. The statements for the provers, one definition each; OBLIGATIONS.json lists them in this order. -/

open Sys2Proof Sys2Proof.Machine

/-- Table 8.2's three worked words, and words of other formats by their fields (R180, R181, opcode table). R185: the
words of all zeros and of all ones are no instruction. -/
def Obligations.DecodeWords : Prop :=
  decode 0x2842BFF6#32 = .ok (.beq 4 5 false 0x3FF6#14) ∧
  decode 0x20712345#32 = .ok (.ldhi 7 0x12345#20) ∧
  decode 0x27F28008#32 = .ok (.jalr 31 5 false 8#14) ∧
  (decode 0x00000000#32).isOk = false ∧ (decode 0xFFFFFFFF#32).isOk = false ∧
  ∀ (d a b : BitVec 5) (fa fb xm : Bool) (csr : BitVec 12) (imm : BitVec 14),
    let f (x : Bool) : BitVec 1 := BitVec.ofBool x
    decode (0x04#7 ++ d ++ a ++ b ++ f fa ++ f fb ++ 0#1 ++ 0x00#7) = .ok (.add d a b fa fb) ∧
    decode (0x02#7 ++ d ++ a ++ f fa ++ 0#2 ++ csr) = .ok (.csrrw d a fa csr) ∧
    decode (0x20#7 ++ d ++ a ++ f fa ++ imm) = .ok (.ldb d a fa imm) ∧
    decode (0x31#7 ++ d ++ a ++ 0#5 ++ f fa ++ 0#2 ++ 0x00#7) = .ok (.vld d a fa) ∧
    decode (0x34#7 ++ d ++ a ++ b ++ f fa ++ f fb ++ f xm ++ 0x00#7) = .ok (.vadd d a b fa fb xm) ∧
    decode (0x36#7 ++ d ++ a ++ b ++ f fa ++ f fb ++ f xm ++ 0x00#7) = .ok (.vfadd d a b fa fb xm) ∧
    decode (0x3C#7 ++ d ++ a ++ b ++ f fa ++ f fb ++ 0#1 ++ 0x00#7) = .ok (.sadd d a b fa fb) ∧
    decode (0x40#7 ++ d ++ a ++ b ++ f fa ++ f fb ++ 0#1 ++ 0x08#7) = .ok (.zmop d a b fa fb) ∧
    decode (0x42#7 ++ d ++ a ++ 0#5 ++ f fa ++ 0#2 ++ 0x00#7) = .ok (.cpy d a fa) ∧
    decode (0x44#7 ++ d ++ 0#5 ++ 0#5 ++ 0#3 ++ 0x04#7) = .ok (.vtrim d)

/-- R180 to R184: every well-formed instruction that has a word is what its word decodes to, with every operand; and a
word that decodes is the word of the instruction it decodes to, so that no two words stand for one instruction. -/
def Obligations.DecodeEncode : Prop :=
  (∀ i : Instr, i.hasWord = true → i.wf = true → decode (encode i) = .ok i) ∧
  ∀ (w : IWord) (i : Instr), decode w = .ok i → i.hasWord = true ∧ i.wf = true ∧ encode i = w

/-- R3, R180, R212, R431: where no agent's own step comes first, a step fetches the word at the position of the thread
whose turn it is, and is the instruction that the word decodes to, or the trap 0x01 with the word where it decodes to
none (R185); the word is the next of the thread's region, or enters one; the reference timer counts on. While a `qnext`
of the thread is outstanding, a word that reaches past the thread does not begin (R102, R131; log 44). A step of
another agent that is due is that step alone (log 1, 3 and 4). R401, R405: where a notice or a pre-emption is due at a
boundary of program level, a trap of the instruction there is taken first, and a `yield`; else a lane-retired notice
before an engine command error before the pre-emption, with nothing of the instruction done. `tinfo` is 0 in the trap,
which for its STRIDE half is the model's reading (log 21). -/
def Obligations.StepRunsDecoded : Prop :=
  ∀ (s : State) (c : Cursor) (l : List Cursor) (tg : Target) (i : Instr) (r : Reject) (es : List Instr),
    let s0 : State := s.completionsGo
    let s1 : State := { s0 with turn := s0.turn + 1 }.leadArrives.rehomeLost
    let u : State := { s1 with cur := c }
    let v : State := u.setTh { u.th with ir := 0 }
    let w : IWord := BitVec.ofNat 32 (natOfBytes (v.heldAt tg 4))
    let r0 := v.regionAt tg.pa
    let fetched : State := v.setTh (v.th.enterWord r0.1 r0.2 (decide (r0.2 = 0)))
    let at_ : State := fetched.withIr w
    (s.agenda = i :: es → i.hasWord = false → step s = passTime (exec i { s with agenda := es })) ∧
    (s.agenda = [] → (s0.turn % 2 = 0 ∨ tryOther exec dueSteps s1 = none) →
      nextCursor s1.cur (s1.runnable false) = c :: l →
      (u.th.level = .program → u.anyDue = true → u.th.claiming = false → u.sq.shadow = none → u.th.pc.toNat % 4 = 0 → v.plain →
        v.targetOf fetchAcc u.th.pc = some tg →
        (tg.place.isMem = true ∨ tg.place = .host (tg.pa - 0x800000000000)) → decode w = .ok i →
        ∀ t, exec i at_ = .next t → step s = passTime (.next
          (if t.th.ended = .trapped ∨ t.sq.saving ≠ u.sq.saving then t
          else
            match u.th.laneNotices, u.th.engineErrors with
            | n :: ns, _ => boundaryTrap 0x3E (BitVec.ofNat 64 n) 0 (u.unhold.setTh { u.th with laneNotices := ns })
            | [], (pc, st) :: es => boundaryTrap 0x1A pc st (u.unhold.setTh { u.th with engineErrors := es })
            | [], [] => u.setSq { u.sq with held := u.sq.held ++ [c.thr] }))) ∧
      ((u.th.level = .supervisor ∨ u.anyDue = false) →
      (u.th.pc.toNat % 4 ≠ 0 → step s = passTime (.next
        (if u.th.claiming then v.holdOrder else takeTrap 0x0C u.th.pc 0 0 v))) ∧
      (u.th.pc.toNat % 4 = 0 → v.plain → v.targetOf fetchAcc u.th.pc = some tg →
        (tg.place.isMem = true ∨ tg.place = .host (tg.pa - 0x800000000000)) →
        (u.th.claiming = true → undoable w = false → step s = passTime (.next fetched.holdOrder)) ∧
        (u.th.claiming = false ∨ undoable w = true →
          (decode w = .ok i → step s = passTime (exec i at_)) ∧
          (decode w = .error r → at_.quiet →
            step s = passTime (.next (takesTrap 0x01 (BitVec.ofNat 64 w.toNat) 0 0 at_.atIssue)))))))

/-- The memory of the module and of the host keep their canonical form in every step, whatever state it starts from. -/
def Obligations.MemoryFormKept : Prop :=
  ∀ s t : State, s.memOk → step s = .next t → t.memOk

/-- R186, R6, R429: after a device reset every register of every file is zero and full, nothing is bound, no context
exists and the module is not ready; until it is, a control BAR write other than of `devctl` changes nothing, and
memory BAR requests are answered as unsupported. Memory has its canonical form. -/
def Obligations.ResetState : Prop :=
  State.reset.memOk ∧ State.reset.ready = false ∧
  (∀ q < 1024, (State.reset.seq q).bound = none) ∧ (∀ c < 64, (State.reset.context c).v = false) ∧
  (∀ q < 1024, ∀ h < 4, let t := State.reset.thread q h
    (∀ r < 32, t.getX r = 0 ∧ t.xFull r = true) ∧ (∀ k < 1024, (t.vreg k).bits = 0 ∧ t.vFull k = true) ∧
    (∀ k < 16, t.mask k = 0) ∧ t.sca = 0 ∧ t.scb = 0 ∧
    ∀ k < 64, ∀ r < 128, ((State.reset.seq q).tileAt k).zrow r = 0 ∧ ((State.reset.seq q).tileAt k).hrow r = 0) ∧
  ∀ (s : State) (off n r : Nat) (v : Word) (bs : List (Option Byte)), s.ready = false →
    (off / 8 ≠ 1 → exec (.registerWrite true off none v) s = .next s) ∧
    exec (.memoryBarRead r off n) s = .next { s with replies := none :: s.replies } ∧
    exec (.memoryBarWrite r off bs) s = .next { s with replies := none :: s.replies }

/-- R188: `s0` reads as zero, is full, and discards writes; another register reads as last written and writing it
leaves the others. R189 and R183: an instruction whose source is empty traps with cause 0x0D and the register's number
in `tval` under policy 1, and waits at its place under policy 0; neither writes a register. Shown for `addi` and a
branch; `tinfo` is 0, which for its STRIDE half is the model's reading (log 21). R189: an instruction whose scalar
destination is empty waits, with nothing written. -/
def Obligations.RegisterFullness : Prop :=
  (∀ (t : Thread) (v : Word) (r q : Nat),
    t.getX 0 = 0 ∧ t.xFull 0 = true ∧ t.setX 0 v = t ∧ (t.emptyX 0).xFull 0 = true ∧
    (r ≠ 0 → (t.setX r v).getX r = v) ∧ (q ≠ r → (t.setX r v).getX q = t.getX q) ∧
    (t.setX r v).xempty = t.xempty ∧ (t.setX r v).v = t.v ∧ (t.setX r v).k = t.k ∧ (t.setX r v).pc = t.pc) ∧
  (∀ (s : State) (d a b : BitVec 5) (imm off : BitVec 14), s.quiet → s.th.xFull a.toNat = false →
    let w := s.setTh { s.th.begin with wait := .regs, ended := .waiting }
    let x := takesTrap 0x0D (BitVec.ofNat 64 a.toNat) 0 0 s.atIssue
    exec (.addi d a true imm) s = .next x ∧ exec (.addi d a false imm) s = .next w ∧
    exec (.beq a b true off) s = .next x ∧ exec (.beq a b false off) s = .next w) ∧
  (∀ (s : State) (d a : BitVec 5) (fa : Bool) (imm : BitVec 14) (up : BitVec 20), s.quiet → s.fullX [a] →
    s.th.xFull d.toNat = false →
    let w := s.setTh { s.th.begin with wait := .regs, ended := .waiting }
    exec (.addi d a fa imm) s = .next w ∧ exec (.ldhi d up) s = .next w)

/-- R273: a word at p that completes goes on at p + 4 unless it ends the innermost body; there the loop goes round
again while trips remain, and otherwise the entry is popped and the enclosing loop is tested. R274: a taken transfer
pops every level whose body lacks the target, and no more. What retirement changes (R220, R273, R420): of the module
nothing but the current thread; of the thread, its position, loop stack, count of instructions, and strip history. -/
def Obligations.LoopStackRules : Prop :=
  (∀ (t : Thread) (p : Word), t.ldepth.toNat ≤ 6 →
    let e := t.ldepth.toNat - 1
    (t.ldepth = 0 → seqNext t p = (p + 4, t)) ∧
    (t.ldepth ≠ 0 → p ≠ Sparse.get 0 t.leend e → seqNext t p = (p + 4, t)) ∧
    (t.ldepth ≠ 0 → p = Sparse.get 0 t.leend e → Sparse.get 0 t.lecnt e ≠ 0 →
      seqNext t p = (Sparse.get 0 t.lebeg e,
        { t with lecnt := Sparse.set t.lecnt e (Sparse.get 0 t.lecnt e - 1),
                 leidx := Sparse.set t.leidx e (Sparse.get 0 t.leidx e + 1) })) ∧
    (t.ldepth ≠ 0 → p = Sparse.get 0 t.leend e → Sparse.get 0 t.lecnt e = 0 →
      seqNext t p = seqNext { t with ldepth := BitVec.ofNat 64 e } p)) ∧
  (∀ (t : Thread) (tgt : Word), t.ldepth.toNat ≤ 6 →
    let n := (t.advance (.goto tgt)).ldepth.toNat
    let inside (e : Nat) : Prop :=
      (Sparse.get 0 t.lebeg e).toNat ≤ tgt.toNat ∧ tgt.toNat ≤ (Sparse.get 0 t.leend e).toNat
    t.advance (.goto tgt) = { t with pc := tgt, ldepth := BitVec.ofNat 64 n } ∧
    n ≤ t.ldepth.toNat ∧ (n ≠ 0 → inside (n - 1)) ∧ ∀ e < t.ldepth.toNat, n ≤ e → ¬ inside e) ∧
  (∀ (s : State) (f : Thread → Thread), s.quiet →
    let u := f s.th.begin
    let t := s.done f
    t = { s with threads := t.threads } ∧
    (∀ seq thr, 4 * seq + thr ≠ threadKey s.cur → t.thread seq thr = s.thread seq thr) ∧
    t.th = { u with
      pc := (seqNext u u.pc).1, ldepth := t.th.ldepth, lecnt := t.th.lecnt, leidx := t.th.leidx,
      instret := u.instret + 1, wait := .none, ended := .retired, hist := t.th.hist, histN := t.th.histN } ∧
    t.th.ldepth = (seqNext u u.pc).2.ldepth ∧ t.th.lecnt = (seqNext u u.pc).2.lecnt ∧
    t.th.leidx = (seqNext u u.pc).2.leidx)

/-- R264, Table 11.1: every two-source integer operation of major 0x04 completes with its result in `sd` and nothing
else of the module changed but the thread's own progress (`State.done`). R264, Table 11.1: the one-source operations
of major 0x04. -/
def Obligations.IntegerResults : Prop :=
  (∀ (s : State) (d a b : BitVec 5) (fa fb : Bool), s.quiet → s.fullX [d, a, b] →
    let x := s.gx a
    let y := s.gx b
    let k := (s.gx b).toNat % 64
    let r (v : Word) : Host.Outcome State Fault Refusal := .next (s.done fun t => t.setX d.toNat v)
    exec (.add d a b fa fb) s = r (x + y) ∧
    exec (.sub d a b fa fb) s = r (x - y) ∧
    exec (.and d a b fa fb) s = r (x &&& y) ∧
    exec (.or d a b fa fb) s = r (x ||| y) ∧
    exec (.xor d a b fa fb) s = r (x ^^^ y) ∧
    exec (.andn d a b fa fb) s = r (x &&& ~~~y) ∧
    exec (.sll d a b fa fb) s = r (BitVec.ofNat 64 (x.toNat * 2 ^ k)) ∧
    exec (.srl d a b fa fb) s = r (BitVec.ofNat 64 (x.toNat / 2 ^ k)) ∧
    exec (.sra d a b fa fb) s = r (BitVec.ofInt 64 (x.toInt / 2 ^ k)) ∧
    exec (.rol d a b fa fb) s = r (x <<< k ||| x >>> (64 - k)) ∧
    exec (.ror d a b fa fb) s = r (x >>> k ||| x <<< (64 - k)) ∧
    exec (.slt d a b fa fb) s = r (if x.toInt < y.toInt then 1 else 0) ∧
    exec (.sltn d a b fa fb) s = r (if x.toNat < y.toNat then 1 else 0) ∧
    exec (.seq d a b fa fb) s = r (if x = y then 1 else 0) ∧
    exec (.min d a b fa fb) s = r (BitVec.ofInt 64 (min x.toInt y.toInt)) ∧
    exec (.max d a b fa fb) s = r (BitVec.ofInt 64 (max x.toInt y.toInt)) ∧
    exec (.minn d a b fa fb) s = r (BitVec.ofNat 64 (min x.toNat y.toNat)) ∧
    exec (.maxn d a b fa fb) s = r (BitVec.ofNat 64 (max x.toNat y.toNat))) ∧
  (∀ (s : State) (d a : BitVec 5) (fa : Bool), s.quiet → s.fullX [d, a] →
    let x := s.gx a
    let r (v : Word) : Host.Outcome State Fault Refusal := .next (s.done fun t => t.setX d.toNat v)
    (∃ n ≤ 64, exec (.clz d a fa) s = r (BitVec.ofNat 64 n) ∧ (∀ i < n, x.getMsbD i = false) ∧
      (n < 64 → x.getMsbD n = true)) ∧
    (∃ n ≤ 64, exec (.ctz d a fa) s = r (BitVec.ofNat 64 n) ∧ (∀ i < n, x.getLsbD i = false) ∧
      (n < 64 → x.getLsbD n = true)) ∧
    exec (.cpop d a fa) s = r (BitVec.ofNat 64 ((List.range 64).filter fun i => x.getLsbD i).length) ∧
    exec (.sextB d a fa) s = r (BitVec.ofInt 64 (x.setWidth 8).toInt) ∧
    exec (.sextH d a fa) s = r (BitVec.ofInt 64 (x.setWidth 16).toInt) ∧
    exec (.sextW d a fa) s = r (BitVec.ofInt 64 (x.setWidth 32).toInt) ∧
    exec (.zextH d a fa) s = r (BitVec.ofNat 64 (x.toNat % 2 ^ 16)) ∧
    exec (.zextW d a fa) s = r (BitVec.ofNat 64 (x.toNat % 2 ^ 32)))

/-- R264 and R265, Table 11.2: the register–immediate operations and the two upper-immediate ones. R266 with R239,
Table 11.3: products, and quotients that truncate toward zero; a zero divisor gives all ones and the dividend, and the
most negative number over −1 gives itself and 0. -/
def Obligations.ImmediateAndMultiplyResults : Prop :=
  (∀ (s : State) (d a : BitVec 5) (fa : Bool) (imm : BitVec 14) (sh : BitVec 6) (up : BitVec 20),
    s.quiet → s.fullX [d, a] →
    let x := s.gx a
    let b := BitVec.ofInt 64 imm.toInt
    let u := BitVec.ofInt 64 (up ++ 0#12).toInt
    let r (v : Word) : Host.Outcome State Fault Refusal := .next (s.done fun t => t.setX d.toNat v)
    exec (.addi d a fa imm) s = r (x + b) ∧
    exec (.andi d a fa imm) s = r (x &&& b) ∧
    exec (.ori d a fa imm) s = r (x ||| b) ∧
    exec (.xori d a fa imm) s = r (x ^^^ b) ∧
    exec (.slli d a fa sh) s = r (BitVec.ofNat 64 (x.toNat * 2 ^ sh.toNat)) ∧
    exec (.srli d a fa sh) s = r (BitVec.ofNat 64 (x.toNat / 2 ^ sh.toNat)) ∧
    exec (.srai d a fa sh) s = r (BitVec.ofInt 64 (x.toInt / 2 ^ sh.toNat)) ∧
    exec (.slti d a fa imm) s = r (if x.toInt < imm.toInt then 1 else 0) ∧
    exec (.ldhi d up) s = r u ∧
    exec (.pcadd d up) s = r (s.th.pc + u)) ∧
  (∀ (s : State) (d a b : BitVec 5) (fa fb : Bool), s.quiet → s.fullX [d, a, b] →
    let x := s.gx a
    let y := s.gx b
    let r (v : Word) : Host.Outcome State Fault Refusal := .next (s.done fun t => t.setX d.toNat v)
    exec (.mul d a b fa fb) s = r (BitVec.ofInt 64 (x.toInt * y.toInt)) ∧
    exec (.mulh d a b fa fb) s = r (BitVec.ofInt 64 (x.toInt * y.toInt / 2 ^ 64)) ∧
    exec (.mulhn d a b fa fb) s = r (BitVec.ofNat 64 (x.toNat * y.toNat / 2 ^ 64)) ∧
    exec (.mulhsn d a b fa fb) s = r (BitVec.ofInt 64 (x.toInt * y.toNat / 2 ^ 64)) ∧
    exec (.div d a b fa fb) s =
      r (if y = 0 then BitVec.allOnes 64 else BitVec.ofInt 64 (x.toInt.tdiv y.toInt)) ∧
    exec (.divn d a b fa fb) s =
      r (if y = 0 then BitVec.allOnes 64 else BitVec.ofNat 64 (x.toNat / y.toNat)) ∧
    exec (.rem d a b fa fb) s = r (if y = 0 then x else BitVec.ofInt 64 (x.toInt.tmod y.toInt)) ∧
    exec (.remn d a b fa fb) s = r (if y = 0 then x else BitVec.ofNat 64 (x.toNat % y.toNat)))

/-- R268, Table 11.5, the f64 and the f32 forms: each completes with the rounded result in `sd` and its flags in
`fflags`, or traps after writing them where a flag is trapping. The operations are the model's own functions
(`Flags.lean`), which `RoundingRules` (O60) ties to R240 to R248. `tinfo` is 0 in the traps, which for its STRIDE half
is the model's reading (log 21). -/
def Obligations.ScalarFloatingResults : Prop :=
  (∀ (s : State) (d a b : BitVec 5) (fa fb : Bool), s.quiet → s.fullX [d, a, b] →
    let x := (s.gx a).toNat % 2 ^ 64
    let y := (s.gx b).toNat % 2 ^ 64
    let z := (s.gx d).toNat % 2 ^ 64
    let m := s.th.frm.toNat % 8
    let r (v : Nat × Nat) : Host.Outcome State Fault Refusal := .next (s.fpDone d v)
    exec (.faddD d a b fa fb) s = r (fAdd f64 m x y) ∧
    exec (.fsubD d a b fa fb) s = r (fSub f64 m x y) ∧
    exec (.fmulD d a b fa fb) s = r (fMul f64 m x y) ∧
    exec (.fdivD d a b fa fb) s = r (fDiv f64 m x y) ∧
    exec (.fminD d a b fa fb) s = r (fMinMax f64 false x y) ∧
    exec (.fmaxD d a b fa fb) s = r (fMinMax f64 true x y) ∧
    exec (.feqD d a b fa fb) s = r (fEq f64 x y) ∧
    exec (.fltD d a b fa fb) s = r (fLess f64 false x y) ∧
    exec (.fleD d a b fa fb) s = r (fLess f64 true x y) ∧
    exec (.fmacD d a b fa fb) s = r (fFma f64 m false x y z) ∧
    exec (.fsqrtD d a fa) s = r (fSqrt f64 m x) ∧
    exec (.fnegD d a fa) s = r (fNeg f64 x) ∧
    exec (.fabsD d a fa) s = r (fAbs f64 x) ∧
    exec (.fclassD d a fa) s = r (fClass f64 x) ∧
    exec (.ftoiD d a fa) s = r (intBits (fToInt f64 m true 64 x)) ∧
    exec (.ftonD d a fa) s = r (intBits (fToInt f64 m false 64 x)) ∧
    exec (.itofD d a fa) s = r (fOfInt f64 m (s.gx a).toInt) ∧
    exec (.ntofD d a fa) s = r (fOfInt f64 m (s.gx a).toNat) ∧
    exec (.fcvtDS d a fa) s = r (fCvt f32 f64 m ((s.gx a).toNat % 2 ^ 32))) ∧
  (∀ (s : State) (d a b : BitVec 5) (fa fb : Bool), s.quiet → s.fullX [d, a, b] →
    let x := (s.gx a).toNat % 2 ^ 32
    let y := (s.gx b).toNat % 2 ^ 32
    let z := (s.gx d).toNat % 2 ^ 32
    let m := s.th.frm.toNat % 8
    let r (v : Nat × Nat) : Host.Outcome State Fault Refusal := .next (s.fpDone d v)
    exec (.faddS d a b fa fb) s = r (fAdd f32 m x y) ∧
    exec (.fsubS d a b fa fb) s = r (fSub f32 m x y) ∧
    exec (.fmulS d a b fa fb) s = r (fMul f32 m x y) ∧
    exec (.fdivS d a b fa fb) s = r (fDiv f32 m x y) ∧
    exec (.fminS d a b fa fb) s = r (fMinMax f32 false x y) ∧
    exec (.fmaxS d a b fa fb) s = r (fMinMax f32 true x y) ∧
    exec (.feqS d a b fa fb) s = r (fEq f32 x y) ∧
    exec (.fltS d a b fa fb) s = r (fLess f32 false x y) ∧
    exec (.fleS d a b fa fb) s = r (fLess f32 true x y) ∧
    exec (.fmacS d a b fa fb) s = r (fFma f32 m false x y z) ∧
    exec (.fsqrtS d a fa) s = r (fSqrt f32 m x) ∧
    exec (.fnegS d a fa) s = r (fNeg f32 x) ∧
    exec (.fabsS d a fa) s = r (fAbs f32 x) ∧
    exec (.fclassS d a fa) s = r (fClass f32 x) ∧
    exec (.ftoiS d a fa) s = r (intBits (fToInt f32 m true 64 x)) ∧
    exec (.ftonS d a fa) s = r (intBits (fToInt f32 m false 64 x)) ∧
    exec (.itofS d a fa) s = r (fOfInt f32 m (s.gx a).toInt) ∧
    exec (.ntofS d a fa) s = r (fOfInt f32 m (s.gx a).toNat) ∧
    exec (.fcvtSD d a fa) s = r (fCvt f64 f32 m (s.gx a).toNat))

/-- R269, Table 11.6: a branch continues at P + 4 × OFF where its condition holds, popping the loops that lack the
target, and at the next word otherwise; nothing else changes. R270: `jal` and `jalr` link and jump; the target of
`jalr` is read before the link is written. R270 and R274: a call while a loop is active traps with cause 0x17, reason
4; else a target that is not a multiple of 4 traps with cause 0x0C and the target in `tval`. Neither writes a
register. `tinfo` is 0 in the traps, which for its STRIDE half is the model's reading (log 21). -/
def Obligations.BranchAndJumpResults : Prop :=
  (∀ (s : State) (a b : BitVec 5) (fa : Bool) (off : BitVec 14), s.quiet → s.fullX [a, b] →
    let x := s.gx a
    let y := s.gx b
    let r (taken : Prop) [Decidable taken] : Host.Outcome State Fault Refusal :=
      .next (s.doneAt (if taken then .goto (s.th.pc + BitVec.ofInt 64 (4 * off.toInt)) else .seq) id)
    exec (.beq a b fa off) s = r (x = y) ∧
    exec (.bne a b fa off) s = r (x ≠ y) ∧
    exec (.blt a b fa off) s = r (x.toInt < y.toInt) ∧
    exec (.bge a b fa off) s = r (y.toInt ≤ x.toInt) ∧
    exec (.bltn a b fa off) s = r (x.toNat < y.toNat) ∧
    exec (.bgen a b fa off) s = r (y.toNat ≤ x.toNat)) ∧
  (∀ (s : State) (d a : BitVec 5) (fa : Bool) (imm : BitVec 14) (off : BitVec 25), s.quiet →
    let t := s.gx a + BitVec.ofInt 64 imm.toInt
    (s.th.ldepth = 0 → s.fullX [31] → exec (.jal off) s =
      .next (s.doneAt (.goto (s.th.pc + BitVec.ofInt 64 (4 * off.toInt))) fun u => u.setX 31 (s.th.pc + 4))) ∧
    (s.fullX [d, a] → (d = 0 ∨ s.th.ldepth = 0) → t.toNat % 4 = 0 → exec (.jalr d a fa imm) s =
      .next (s.doneAt (.goto t) fun u => u.setX d.toNat (s.th.pc + 4)))) ∧
  (∀ (s : State) (d a : BitVec 5) (fa : Bool) (imm : BitVec 14) (off : BitVec 25), s.quiet →
    let t := s.gx a + BitVec.ofInt 64 imm.toInt
    (s.th.ldepth ≠ 0 → exec (.jal off) s = .next (takesTrap 0x17 4 0 0 s.atIssue)) ∧
    (s.th.ldepth ≠ 0 → d ≠ 0 → exec (.jalr d a fa imm) s = .next (takesTrap 0x17 4 0 0 s.atIssue)) ∧
    (s.fullX [a] → (d = 0 ∨ s.th.ldepth = 0) → t.toNat % 4 ≠ 0 →
      exec (.jalr d a fa imm) s = .next (takesTrap 0x0C t 0 0 s.atIssue)))

/-- R272 and R275: opening a loop, leaving one, reading its index and remaining trips, and clearing the stack. R272,
R274 and R275, Table 11.8: the loop instructions trap with cause 0x17 and the reason in `tval` before any effect; `tinfo`
is 0, which for its STRIDE half is the model's reading (log 21). -/
def Obligations.LoopInstructions : Prop :=
  (∀ (s : State) (d a n : BitVec 5) (fa : Bool) (imm : BitVec 14), s.quiet →
    let t := s.th
    let dep := t.ldepth.toNat
    let last := t.pc + BitVec.ofInt 64 (4 * (imm.toInt - 1))
    let fits := dep = 0 ∨ last.toNat ≤ (Sparse.get 0 t.leend (dep - 1)).toNat
    (s.fullX [a] → fits → s.gx a ≠ 0 → dep < 6 → exec (.loop a fa imm) s =
      .next (s.doneAt (.raw (t.pc + 4)) fun u => { u with
        ldepth := BitVec.ofNat 64 (dep + 1), lecnt := Sparse.set u.lecnt dep (s.gx a - 1),
        leidx := Sparse.set u.leidx dep 0, lebeg := Sparse.set u.lebeg dep (t.pc + 4),
        leend := Sparse.set u.leend dep last })) ∧
    (s.fullX [a] → fits → s.gx a = 0 → exec (.loop a fa imm) s =
      .next (s.doneAt (.raw (seqNext t last).1) fun u => (seqNext u last).2)) ∧
    (t.ldepth ≠ 0 → exec .lbrk s =
      let p := Sparse.get 0 t.leend (dep - 1)
      let u := { t.begin with ldepth := BitVec.ofNat 64 (dep - 1) }
      .next (s.doneAt (.raw (seqNext u p).1) fun _ => (seqNext u p).2)) ∧
    (s.fullX [d] → n.toNat < dep → exec (.lidx d n) s =
      .next (s.done fun u => u.setX d.toNat (Sparse.get 0 t.leidx (dep - 1 - n.toNat)))) ∧
    (s.fullX [d] → n.toNat < dep → exec (.lrem d n) s =
      .next (s.done fun u => u.setX d.toNat (Sparse.get 0 t.lecnt (dep - 1 - n.toNat)))) ∧
    exec .lclr s = .next (s.doneAt (.raw (t.pc + 4)) fun u => { u with ldepth := 0 })) ∧
  (∀ (s : State) (d a n : BitVec 5) (fa : Bool) (imm : BitVec 14), s.quiet →
    let t := s.th
    let dep := t.ldepth.toNat
    let last := t.pc + BitVec.ofInt 64 (4 * (imm.toInt - 1))
    let fits := dep = 0 ∨ last.toNat ≤ (Sparse.get 0 t.leend (dep - 1)).toNat
    let r (reason : Word) : Host.Outcome State Fault Refusal := .next (takesTrap 0x17 reason 0 0 s.atIssue)
    (s.fullX [a] → ¬ fits → exec (.loop a fa imm) s = r 5) ∧
    (s.fullX [a] → fits → s.gx a ≠ 0 → dep = 6 → exec (.loop a fa imm) s = r 1) ∧
    (dep = 0 → exec .lbrk s = r 2) ∧
    (dep ≤ n.toNat → exec (.lidx d n) s = r 3 ∧ exec (.lrem d n) s = r 3))

/-- R276, R190: a CSR read by `csrrs` or `csrrc` with `s0` gives the register's value and writes no CSR. R276, Table
11.11: a write of a thread's own CSR by each operation, with the old value in `sd`. Tables 8.4, 8.5, 11.7 and 17.2,
R402, R420 to R423: the value that each number names, of the thread, of its sequencer or of its core, and that a read
changes nothing; but `cycle` has moved on by a free amount (log 4), `refork` and `fabpfwaste` have counted a free
number of compared points that found no entry and the prefetches these orphaned, and `leadwait` has risen by a free
amount, which are the model's choices (log 16). -/
def Obligations.CsrReadAndWrite : Prop :=
  (∀ (s : State),
    let t := s.th
    let q := s.sq
    let k := s.cp
    let r (c : Nat) (v : Word) : Prop := s.csrRead c = (v, s)
    r 0x000 t.vl ∧ r 0x001 t.vtype ∧ r 0x002 t.vstride ∧ r 0x003 t.vmsk ∧ r 0x004 t.vstart ∧ r 0x005 t.xrm ∧
    r 0x006 t.frm ∧ r 0x007 t.fflags ∧ r 0x008 t.vxsat ∧ r 0x009 t.ftrap ∧ r 0x00A t.vverd ∧
    (∀ j < 4, r (0x010 + j) (Sparse.get 0xFF800000#64 t.vt j)) ∧ (∀ j < 8, r (0x018 + j) (Sparse.get 0 t.qlen j)) ∧
    r 0x020 (BitVec.ofNat 64 t.lanes.length) ∧ r 0x021 t.vlmaxb ∧ r 0x022 128 ∧ r 0x023 (BitVec.ofNat 64 q.tiles) ∧
    r 0x024 (if q.groups = 0 then 0 else BitVec.ofNat 64 (s.cur.thr * 2 ^ 10 ||| q.groups.toNat * 2 ^ 4 |||
      (if q.split = 4 then 2 else if q.split = 2 then 1 else 0) * 2 ^ 8 ||| s.cur.seq % 4 * 2 ^ 2 ||| q.kind)) ∧
    r 0x025 t.vdecl ∧
    (∀ e < 6, r (0x040 + 4 * e) (Sparse.get 0 t.lecnt e) ∧ r (0x041 + 4 * e) (Sparse.get 0 t.leidx e) ∧
      r (0x042 + 4 * e) (Sparse.get 0 t.lebeg e) ∧ r (0x043 + 4 * e) (Sparse.get 0 t.leend e)) ∧
    r 0x058 t.ldepth ∧ r 0x100 t.tpc ∧ r 0x101 t.tcause ∧ r 0x102 t.tval ∧ r 0x103 t.telem ∧ r 0x104 t.tinfo ∧
    r 0x105 t.tloop ∧ r 0x201 t.instret ∧ r 0x202 t.emucount ∧ r 0x203 t.krmiss ∧ r 0x204 t.krxlat ∧
    (∀ c ∈ [0x210, 0x212, 0x213, 0x214, 0x216], r c (Sparse.get 0 k.counters c)) ∧
    r 0x300 q.dxp ∧ r 0x301 q.tvec ∧ r 0x302 t.tstat ∧ r 0x303 t.tscratch ∧ r 0x304 q.tsave ∧ r 0x305 q.pfwait ∧
    r 0x306 q.boltlim ∧ r 0x310 k.trcctl ∧ r 0x311 k.trcpos ∧ r 0x312 (Sparse.get 0 k.trgctl 0) ∧
    r 0x313 (Sparse.get 0 k.trgctl 1) ∧ r 0x314 (Sparse.get 0 k.trgaddr 0) ∧ r 0x315 (Sparse.get 0 k.trgaddr 1) ∧
    r 0x318 k.serrcnt ∧
    (∃ n : Word, s.csrRead 0x200 =
      (k.cycle + n, { s with free := s.free + 1 }.setCp { k with cycle := k.cycle + n })) ∧
    (∃ n : Word, s.csrRead 0x217 = (Sparse.get 0 k.counters 0x217 + n, { s with free := s.free + 1 }.setCp
      { k with counters := Sparse.set k.counters 0x217 (Sparse.get 0 k.counters 0x217 + n) })) ∧
    ∀ c ∈ [0x211, 0x215],
      let v := (s.csrRead c).1
      let u := (s.csrRead c).2
      v = Sparse.get 0 u.cp.counters c ∧ u = { s with free := s.free + 1, cores := u.cores } ∧
      (∀ j < 256, j ≠ s.coreNo → u.core j = s.core j) ∧
      u.cp = { k with compared := 0, counters := u.cp.counters, prefetched := u.cp.prefetched } ∧
      (∀ x < 0x300, x ≠ 0x211 → x ≠ 0x215 → Sparse.get 0 u.cp.counters x = Sparse.get 0 k.counters x) ∧
      (∃ n ≤ k.compared, Sparse.get 0 u.cp.counters 0x211 = Sparse.get 0 k.counters 0x211 + BitVec.ofNat 64 n ∧
        (n = 0 → u.cp.prefetched = k.prefetched)) ∧
      (∀ l ∈ u.cp.prefetched, l ∈ k.prefetched) ∧
      (∀ l ∈ k.prefetched, (∀ p ∈ k.leadOut, lineOf p.1 ≠ l) → l ∈ u.cp.prefetched) ∧
      Sparse.get 0 u.cp.counters 0x215 = Sparse.get 0 k.counters 0x215 +
        BitVec.ofNat 64 (k.prefetched.length - u.cp.prefetched.length)) ∧
  (∀ (s : State) (d : BitVec 5) (fa : Bool) (csr : BitVec 12), s.quiet → s.fullX [d] →
    csrAllowed s.th.level csr.toNat false = true →
    let r := s.atIssue.csrRead csr.toNat
    let t := retire .seq (r.2.setTh (r.2.th.setX d.toNat r.1))
    exec (.csrrs d 0 fa csr) s = .next t ∧ exec (.csrrc d 0 fa csr) s = .next t) ∧
  (∀ (s : State) (d a : BitVec 5) (fa : Bool) (csr : BitVec 12), s.quiet → s.fullX [d, a] →
    csrAllowed s.th.level csr.toNat true = true → csr.toNat < 0x200 →
    let old := (s.csrRead csr.toNat).1
    let x := s.gx a
    let r (new : Word) : Host.Outcome State Fault Refusal :=
      .next (s.done fun t => (t.csrWrite csr.toNat new).setX d.toNat old)
    exec (.csrrw d a fa csr) s = r x ∧
    (a ≠ 0 → exec (.csrrs d a fa csr) s = r (old ||| x) ∧ exec (.csrrc d a fa csr) s = r (old &&& ~~~x)))

/-- R191, R271 and Tables 8.5, 11.7 and 17.2: what a write leaves in the registers of a thread: its fields, with
reserved bits clear. A value a field cannot take is ignored whole, `ldepth` 7 among them; LDEP of `tstat` takes every
value, as its table gives no limit (log 48). `vl`, `vtype` and the other read-only registers are never written. R402,
R59, R142, R422 and R423, with Tables 3.4, 6.3, 17.2 and 17.9: supervisor writes of the sequencer's and the core's
registers, and that the read-only ones keep their values (R190). R38, R39: a write of `dxp` with a MODE it cannot take
is ignored whole; another takes effect once the sequencer's earlier accesses are performed, the lead is re-forked, with
a count, and every later access translates under it. R94: the lead's outstanding prefetches are orphaned, and each of
their lines that nothing has used counts in `fabpfwaste`; those that have arrived stay. -/
def Obligations.CsrFields : Prop :=
  (∀ (t : Thread) (v : Word),
    (∀ c < 0x1000, c ∈ [0x000, 0x001, 0x020, 0x021, 0x022, 0x023, 0x024, 0x025, 0x200, 0x201, 0x202, 0x203, 0x204] ∨
      (0x210 ≤ c ∧ c ≤ 0x217) → t.csrWrite c v = t) ∧
    t.csrWrite 0x002 v = { t with vstride := v } ∧ t.csrWrite 0x003 v = { t with vmsk := v &&& 0x3FF#64 } ∧
    t.csrWrite 0x004 v = (if 4096 < v.toNat % 8192 then t else { t with vstart := v &&& 0x1FFF#64 }) ∧
    t.csrWrite 0x005 v = { t with xrm := v &&& 3 } ∧
    t.csrWrite 0x006 v = (if 5 ≤ v.toNat % 8 then t else { t with frm := v &&& 7 }) ∧
    t.csrWrite 0x007 v = { t with fflags := v &&& 0x3F#64 } ∧ t.csrWrite 0x008 v = { t with vxsat := v &&& 1 } ∧
    t.csrWrite 0x009 v = { t with ftrap := v &&& 0x3F#64 } ∧
    t.csrWrite 0x00A v = (if v.toNat % 4 = 3 then t else { t with vverd := v &&& 0xFFF#64 }) ∧
    (∀ j < 4, t.csrWrite (0x010 + j) v = { t with vt := Sparse.set t.vt j (v &&& 0xFFFFFFFF#64) }) ∧
    (∀ j < 8, t.csrWrite (0x018 + j) v =
      if 1024 < v.toNat % 2048 then t else { t with qlen := Sparse.set t.qlen j (v &&& 0x7FF#64) }) ∧
    (∀ e < 6, t.csrWrite (0x040 + 4 * e) v = { t with lecnt := Sparse.set t.lecnt e v } ∧
      t.csrWrite (0x041 + 4 * e) v = { t with leidx := Sparse.set t.leidx e v } ∧
      t.csrWrite (0x042 + 4 * e) v = { t with lebeg := Sparse.set t.lebeg e (v &&& ~~~3#64) } ∧
      t.csrWrite (0x043 + 4 * e) v = { t with leend := Sparse.set t.leend e (v &&& ~~~3#64) }) ∧
    t.csrWrite 0x058 v = (if v.toNat % 8 = 7 then t else { t with ldepth := v &&& 7 }) ∧
    t.csrWrite 0x100 v = { t with tpc := v } ∧ t.csrWrite 0x101 v = { t with tcause := v &&& 0xFF#64 } ∧
    t.csrWrite 0x102 v = { t with tval := v } ∧ t.csrWrite 0x103 v = { t with telem := v } ∧
    t.csrWrite 0x104 v = { t with tinfo := v } ∧ t.csrWrite 0x105 v = { t with tloop := v &&& ~~~(1#64 <<< 60) } ∧
    t.csrWrite 0x302 v = { t with tstat := v &&& 0x37#64 } ∧ t.csrWrite 0x303 v = { t with tscratch := v }) ∧
  (∀ (s : State) (d a : BitVec 5) (fa : Bool) (csr : BitVec 12), s.quiet → s.fullX [d, a] → s.th.level = .supervisor →
    let x := s.gx a
    let q (q : Seq) (old : Word) : Host.Outcome State Fault Refusal :=
      .next (retire .seq ((s.setSq q).setTh (s.th.begin.setX d.toNat old)))
    let k (k : CorePair) (old : Word) : Host.Outcome State Fault Refusal :=
      .next (retire .seq ((s.setCp k).setTh (s.th.begin.setX d.toNat old)))
    exec (.csrrw d a fa 0x301) s = q { s.sq with tvec := x &&& ~~~3#64 } s.sq.tvec ∧
    exec (.csrrw d a fa 0x302) s = .next (s.done fun t => ({ t with tstat := x &&& 0x37#64 }).setX d.toNat s.th.tstat) ∧
    exec (.csrrw d a fa 0x303) s = .next (s.done fun t => ({ t with tscratch := x }).setX d.toNat s.th.tscratch) ∧
    exec (.csrrw d a fa 0x304) s = q { s.sq with tsave := x &&& ~~~63#64 } s.sq.tsave ∧
    exec (.csrrw d a fa 0x305) s = q { s.sq with pfwait := x &&& 0xFFFFFFFF#64 } s.sq.pfwait ∧
    exec (.csrrw d a fa 0x306) s = q { s.sq with boltlim := x &&& 0xFFFFFFFF#64 } s.sq.boltlim ∧
    exec (.csrrw d a fa 0x310) s =
      k { s.cp with trcctl :=
        (if x.getLsbD 63 then (0 : Word) else s.cp.trcctl &&& (1#64 <<< 63)) ||| (x &&& 0xF0F#64) } s.cp.trcctl ∧
    (∀ j < 2, csr.toNat = 0x312 + j → exec (.csrrw d a fa csr) s =
      k { s.cp with trgctl := Sparse.set s.cp.trgctl j (x &&& 0xF00000000000003F#64) } (Sparse.get 0 s.cp.trgctl j)) ∧
    (∀ j < 2, csr.toNat = 0x314 + j → exec (.csrrw d a fa csr) s =
      k { s.cp with trgaddr := Sparse.set s.cp.trgaddr j x } (Sparse.get 0 s.cp.trgaddr j)) ∧
    (csr.toNat ∈ [0x000, 0x001, 0x201, 0x202, 0x203, 0x204, 0x210, 0x212, 0x213, 0x214, 0x216] → exec (.csrrw d a fa csr) s =
      .next (s.done fun t => t.setX d.toNat (s.csrRead csr.toNat).1)) ∧
    (csr.toNat = 0x311 → exec (.csrrw d a fa csr) s = .next (s.done fun t => t.setX d.toNat s.cp.trcpos)) ∧
    (csr.toNat = 0x318 → exec (.csrrw d a fa csr) s = .next (s.done fun t => t.setX d.toNat s.cp.serrcnt))) ∧
  (∀ (s : State) (d a : BitVec 5) (fa : Bool), s.quiet → s.fullX [d, a] → s.th.level = .supervisor → s.plain →
    s.th.claiming = false →
    let x := s.gx a
    let mode := x.toNat / 2 ^ 60
    let takes : Prop := mode = 0 ∨ mode = 0xA ∨ (mode = 0xB ∧ s.feature 16 = true)
    (¬ takes → exec (.csrrw d a fa 0x300) s =
      .next (retire .seq ((s.setSq s.sq).setTh (s.th.begin.setX d.toNat s.sq.dxp)))) ∧
    (takes → Nexts (exec (.csrrw d a fa 0x300) s) fun t =>
      let new := x &&& ~~~(1#64 <<< 47)
      t.sq = { s.sq with dxp := new } ∧ t.th = (s.th.setX d.toNat s.sq.dxp).progress t.th ∧ s.sameOthers t ∧
      t = { s with threads := t.threads, seqs := t.seqs, cores := t.cores } ∧
      let lost (n : Nat) : Bool := s.cp.leadOut.any fun p => lineOf p.1 = n
      t.cp = { s.cp with prefetched := s.cp.prefetched.filter (!lost ·), counters := t.cp.counters } ∧
      Sparse.get 0 t.cp.counters 0x215 =
        Sparse.get 0 s.cp.counters 0x215 + BitVec.ofNat 64 (s.cp.prefetched.filter lost).length ∧
      Sparse.get 0 t.cp.counters 0x211 = Sparse.get 0 s.cp.counters 0x211 + 1 ∧
      (∀ n < 1024, n ≠ 0x211 → n ≠ 0x215 → Sparse.get 0 t.cp.counters n = Sparse.get 0 s.cp.counters n) ∧
      ∀ acc va, t.walked acc va = t.atIssue.xlate s.coreNo new s.th.level acc va))

/-- R190: an access the level may not make is an illegal instruction, with the word in `tval`; so is any access to an
unassigned number, reads among them, at both levels. R263, R279, R421: an instruction of supervisor level is illegal at
program level, with the word in `tval`; and so are accesses to the trace registers of R422, which lie at 0x310 to
0x315. No register is written. `tinfo` is 0, which for its STRIDE half is the model's reading (log 21). -/
def Obligations.PrivilegeTraps : Prop :=
  (∀ (s : State) (d a : BitVec 5) (fa : Bool) (csr : BitVec 12), s.quiet →
    let c := csr.toNat
    let x : Host.Outcome State Fault Refusal := .next (takesTrap 0x01 (BitVec.ofNat 64 s.th.ir.toNat) 0 0 s.atIssue)
    let unassigned : Prop :=
      (0x00B ≤ c ∧ c < 0x010) ∨ (0x014 ≤ c ∧ c < 0x018) ∨ (0x026 ≤ c ∧ c < 0x040) ∨ (0x059 ≤ c ∧ c < 0x100) ∨
      (0x106 ≤ c ∧ c < 0x200) ∨ (0x205 ≤ c ∧ c < 0x210) ∨ (0x218 ≤ c ∧ c < 0x300) ∨ (0x307 ≤ c ∧ c < 0x310) ∨
      (0x316 ≤ c ∧ c < 0x318) ∨ 0x319 ≤ c
    (s.th.level = .program → 0x100 ≤ c → exec (.csrrw d a fa csr) s = x) ∧
    (s.th.level = .program → 0x100 ≤ c → a ≠ 0 → exec (.csrrs d a fa csr) s = x ∧ exec (.csrrc d a fa csr) s = x) ∧
    (s.th.level = .program → 0x300 ≤ c → exec (.csrrs d a fa csr) s = x ∧ exec (.csrrc d a fa csr) s = x) ∧
    (unassigned → exec (.csrrw d a fa csr) s = x ∧ exec (.csrrs d a fa csr) s = x ∧ exec (.csrrc d a fa csr) s = x)) ∧
  (∀ (s : State) (d a b scope : BitVec 5) (fa fb : Bool), s.quiet → s.th.level = .program →
    let x : Host.Outcome State Fault Refusal := .next (takesTrap 0x01 (BitVec.ofNat 64 s.th.ir.toNat) 0 0 s.atIssue)
    exec .eret s = x ∧ exec .halt s = x ∧ exec (.tlbsync scope a b fa fb) s = x ∧ exec (.trrd d a b fa fb) s = x)

/-- R278, Table 11.12: the waits complete once what they wait for is full, and the tests read the bits without waiting.
R279, R282, R283: `nop`; `wfe` with an event latched; `pollp`. R282: the limit of a waiting `wfe` passes: it returns
with bit 3 set, and the latch is cleared. The word waiting is a `wfe` with its registers d and a. `halt`, `yield`,
`cinval` and `tlbsync` complete once nothing of the sequencer is in progress (R284 to R287); `cinval` and `tlbsync`
drop everything in their scope, which is the model's choice (log 40). R284, R415: in a handler entered from program
level, `yield` saves what the trap presents, whatever NEST is: R403 enters no handler for a yield, so that R405's stop
at NEST = 1 is of the trap 0x03 alone (the model's reading, log 22); in another handler it traps, as in a split thread,
with `tinfo` 0, which for its STRIDE half is the model's reading (log 21). R283, R439, R440: `pollp` notes that it
returned a request; a `yield` clears the request, and the share kind that a returned request for migration named stands
for the restore. -/
def Obligations.SystemInstructions : Prop :=
  (∀ (s : State) (d a : BitVec 5) (fa : Bool), s.quiet →
    (s.fullX [a] → exec (.fwait a fa) s = .next (s.done id)) ∧
    (s.readyV [a] → exec (.fwaitv a fa) s = .next (s.done id)) ∧
    (s.fullX [d] → exec (.fsts d a) s =
      .next (s.done fun t => t.setX d.toNat (if s.th.xFull a.toNat then 1 else 0))) ∧
    (s.fullX [d] → a.toNat < s.th.vn → exec (.fstv d a) s =
      .next (s.done fun t => t.setX d.toNat (if s.th.vFull a.toNat then 1 else 0))) ∧
    (s.th.xempty = 0 → (∀ e ∈ s.th.v, e.2.empty = false) → exec .fwall s = .next (s.done id))) ∧
  (∀ (s : State) (d a : BitVec 5) (fa : Bool), s.quiet →
    exec .nop s = .next (s.done id) ∧
    (s.fullX [d, a] → s.th.latch ≠ 0 → s.th.wait ≠ .wfeOver → exec (.wfe d a fa) s =
      .next (s.done fun t => { t.setX d.toNat s.th.latch with latch := 0 })) ∧
    (s.fullX [d] → exec (.pollp d) s = .next (retire .seq
      ((s.setSq { s.sq with polled := s.sq.polled || s.sq.migreq != 0 }).setTh
        (s.th.begin.setX d.toNat s.sq.migreq))))) ∧
  (∀ (s : State) (q t : Nat) (d a : BitVec 5), s.cur = ⟨q, t⟩ → s.quiet → s.th.wait = .wfe true →
    fieldD s.th.ir = d → fieldA s.th.ir = a → s.fullX [d, a] →
    exec (.wfeTimeout q t) s =
      .next (s.done fun u => { u.setX d.toNat (s.th.latch ||| 8) with latch := 0 })) ∧
  (∀ (s : State), s.quiet →
    let kind := s.sq.migreq.toNat / 4 % 4
    let asks (cause : Nat) : Seq := { s.sq with
      saving := some cause, migreq := 0, polled := false,
      resumeOn := if s.sq.polled = true ∧ s.sq.migreq.getLsbD 0 = true ∧ kind ≠ 3 then some kind else none }
    (s.sq.split ≠ 1 → exec .yield s = .next (takesTrap 0x03 0 0 0 s.atIssue)) ∧
    (s.sq.split = 1 → s.th.claiming = false → s.th.level = .supervisor →
      (s.th.tstat.getLsbD 4 = true → exec .yield s = .next (takesTrap 0x03 0 0 0 s.atIssue)) ∧
      (s.th.tstat.getLsbD 4 = false → exec .yield s = .next (retire (.raw s.th.tpc)
        ((s.setSq (asks (s.th.tcause.toNat % 256))).setTh s.th.begin.eret)))) ∧
    (s.sq.split = 1 → s.th.claiming = false → s.th.level = .program → exec .yield s =
      let r := seqNext s.th.begin s.th.pc
      .next (retire (.raw r.1) ((s.setSq (asks 0x31)).setTh
        { r.2 with tpc := r.1, tcause := 0x31, tval := 0, telem := 0 })))) ∧
  (∀ (s : State) (scope a b : BitVec 5) (fa fb : Bool), s.quiet → s.plain → s.th.claiming = false →
    s.engineBusy s.cur.seq = false → s.resvs.any (fun r => r.seq = some s.cur.seq) = false →
    (s.th.level = .supervisor → exec .halt s = .next (retire .seq (stopSeq 0 s.th.pc s.atIssue))) ∧
    (s.fullX [a, b] → (s.gx a).toNat + (s.gx b).toNat ≤ 2 ^ 64 → exec (.cinval scope a b fa fb) s =
      .next (retire .seq (s.atIssue.dropRings scope.toNat s.coreNo))) ∧
    (s.th.level = .supervisor → s.fullX [a, b] → exec (.tlbsync scope a b fa fb) s =
      .next (retire .seq ((s.atIssue.dropTlbs scope.toNat s.coreNo).rehome fun _ => true))))

/-- R280: `trap` and `brk` take their causes at their own instruction. R404 and R281: `eret` restores the level and
depth from `tstat`, clears NEST and goes on at `tpc`; an LDEP of 7, which `ldepth` cannot hold (R271), leaves it as it
is, which is the model's choice (log 48). R162: the lead is forked from the thread. `tinfo` is 0 in the traps, which
for its STRIDE half is the model's reading (log 21). -/
def Obligations.RequestedTrapsAndReturn : Prop :=
  (∀ (s : State) (a : BitVec 5) (fa : Bool), s.quiet →
    (s.fullX [a] → exec (.trap a fa) s = .next (takesTrap 0x21 (s.gx a) 0 0 s.atIssue)) ∧
    exec .brk s = .next (takesTrap 0x20 0 0 0 s.atIssue)) ∧
  (∀ (s : State), s.quiet → s.th.level = .supervisor → exec .eret s =
    .next (s.doneAt (.raw s.th.tpc) fun t => { t with
      level := if s.th.tstat.getLsbD 4 then .supervisor else .program,
      ldepth := if s.th.tstat.toNat % 8 = 7 then t.ldepth else BitVec.ofNat 64 (s.th.tstat.toNat % 8),
      tstat := s.th.tstat &&& ~~~32#64, pc := s.th.tpc, region := none, forkAt := s.counts, doubt := false }))

/-- R403: trap entry with a handler and NEST clear saves the position, cause, values, loop state, level and depth,
sets NEST, and goes on at the handler at supervisor level; every other register and the rest of the module are as they
were (the strip history notes the instruction), but that every earlier instruction is complete (R220): the results
outstanding that have a time bound have landed. R403: without a handler, or with NEST set, the sequencer stops. -/
def Obligations.TrapEntryState : Prop :=
  (∀ (s : State) (cause : Nat) (tval telem tinfo : Word), s.quiet → s.sq.tvec ≠ 0 → s.th.tstat.getLsbD 5 = false →
    let t := takeTrap cause tval telem tinfo s
    t = s.setTh { s.th.landAll with
      tpc := s.th.pc, tcause := BitVec.ofNat 64 cause, tval := tval, telem := telem, tinfo := tinfo,
      tloop := s.th.tloopNow, ldepth := 0, level := .supervisor, pc := s.sq.tvec, region := none, wait := .none,
      ended := .trapped, hist := t.th.hist, histN := t.th.histN,
      tstat := BitVec.ofNat 64 (32 + (if s.th.level = .supervisor then 16 else 0) + s.th.ldepth.toNat % 8) } ∧
    t.mem = s.mem ∧ t.host = s.host ∧ (∀ p ∈ t.th.pend, p.unbounded = true) ∧
    (s.th.pend = [] → s.th.landAll = s.th) ∧ ∀ r v, s.th.pend = [.scalar r v] → s.th.landAll = { s.th.fillX r v with pend := [] }) ∧
  (∀ (s : State) (cause : Nat) (tval telem tinfo : Word), s.quiet →
    (s.sq.tvec = 0 ∨ s.th.tstat.getLsbD 5 = true) →
    let t := takeTrap cause tval telem tinfo s
    t.sq = { s.sq with stopped := true } ∧
    t.th = { s.th.landAll with wait := .none, ended := .trapped, hist := t.th.hist, histN := t.th.histN })

/-- R33 to R36, R40, R51, R53, R443: how a walk ends, under device tables and under a host process's (MODE 0xA and 0xB,
no translation cached). Each entry read from the root down ends it, or points at the next table; an entry that ends it
is judged in the order of R443; a leaf that passes gives its page's base and the offset, in HBM, an SRAM window, a
register space or host memory as Table 2.5 and R31 let the access (R30), and its A and D bits, where the access needs
them set and they are not, are set and nothing else changes. R34, R40: where a table entry is read, by the region it
lies in. R23, R38: a scalar load or store at an address that is not canonical traps with the page fault of its kind,
and with translation off takes an access fault; the address is in `tval` and no register or memory changes but
`vstart`. The model's choices: the walk reads the entry of the address's own 4 KiB of a 64 KiB page, where R35 lets the
device use any of the sixteen, and a store through a leaf with A = 0 and D = 1 sets A (log 42); a read that a copy in a
failed slice would serve is refused (`State.copySliceFailed`, log 49). -/
def Obligations.TranslationRules : Prop :=
  (∀ (s : State) (core : Nat) (dxp va : Word) (level : Level) (a : Acc) (e4 e3 e2 e1 e0 : Word),
    s.sched = ⟨false, false⟩ → (dxp.toNat / 2 ^ 60 = 0xA ∨ dxp.toNat / 2 ^ 60 = 0xB) →
    let x := s.xlate core dxp level a va
    let slot (l table : Nat) : Nat := table + 8 * (va.toNat / 2 ^ (12 + 9 * l) % 512)
    let reads (l : Nat) (table : Option Nat) : Option Word :=
      table.bind fun t => if s.resizing (slot l t) then none else s.pteRead dxp (slot l t)
    let noEntry (l : Nat) (table : Option Nat) : Prop :=
      x = (match table with
        | some t => if s.resizing (slot l t) then .wait else .access
        | none => .access, s)
    let down (e : Word) : Option Nat := s.tableAddr dxp (entryField e 49 10 * 4096)
    let root := s.tableAddr dxp (entryField dxp 39 0 * 4096)
    let ends (l : Nat) (table : Option Nat) (e : Word) : Prop :=
      ∀ t, table = some t → s.walkEnds (core / 32) dxp va level a l (slot l t) e x
    (reads 4 root = none → noEntry 4 root) ∧
    (reads 4 root = some e4 →
      (¬ entryPoints e4 → ends 4 root e4) ∧
      (entryPoints e4 → reads 3 (down e4) = none → noEntry 3 (down e4)) ∧
      (entryPoints e4 → reads 3 (down e4) = some e3 →
        (¬ entryPoints e3 → ends 3 (down e4) e3) ∧
        (entryPoints e3 → reads 2 (down e3) = none → noEntry 2 (down e3)) ∧
        (entryPoints e3 → reads 2 (down e3) = some e2 →
          (¬ entryPoints e2 → ends 2 (down e3) e2) ∧
          (entryPoints e2 → reads 1 (down e2) = none → noEntry 1 (down e2)) ∧
          (entryPoints e2 → reads 1 (down e2) = some e1 →
            (¬ entryPoints e1 → ends 1 (down e2) e1) ∧
            (entryPoints e1 → reads 0 (down e1) = none → noEntry 0 (down e1)) ∧
            (entryPoints e1 → reads 0 (down e1) = some e0 → ends 0 (down e1) e0)))))) ∧
  (∀ (s : State) (dxp : Word) (pa : Nat),
    let value (bs : List Byte) : Option Word := some (BitVec.ofNat 64 (natOfBytes bs))
    match s.place pa with
    | .hbm _ => s.pteRead dxp pa =
        if s.slotUsable (tableSlot dxp) = true ∧ s.unitFailed pa = false then
          value (s.homeBytes pa 8 (some (s.slot (tableSlot dxp)).key)) else none
    | .window _ => s.pteRead dxp pa = if s.unitFailed pa then none else value (memBytes s.mem pa 8)
    | .host h => s.pteRead dxp pa = value (memBytes s.host h 8)
    | _ => s.pteRead dxp pa = none) ∧
  (∀ (s : State) (d a : BitVec 5) (fa : Bool) (imm : BitVec 14), s.quiet → s.portFree = true → s.fullX [d, a] →
    let va := s.gx a + BitVec.ofInt 64 imm.toInt
    let x (cause : Nat) : Host.Outcome State Fault Refusal :=
      .next (takesTrap cause va 0 (faultInfo 1 0) (s.setTh { s.th.begin with vstart := 0 }))
    let sign : Prop := va.toNat / 2 ^ 56 = 0 ∨ va.toNat / 2 ^ 56 = 255
    let on : Prop := s.sq.dxp.toNat / 2 ^ 60 ≠ 0
    (¬ sign → exec (.ldb d a fa imm) s = x 0x09 ∧ exec (.ldbn d a fa imm) s = x 0x09 ∧ exec (.stb d a fa imm) s = x 0x0A) ∧
    (¬ sign → va.toNat % 2 = 0 → exec (.ldh d a fa imm) s = x 0x09 ∧ exec (.ldhn d a fa imm) s = x 0x09 ∧
      exec (.sth d a fa imm) s = x 0x0A) ∧
    (¬ sign → va.toNat % 4 = 0 → exec (.ldw d a fa imm) s = x 0x09 ∧ exec (.ldwn d a fa imm) s = x 0x09 ∧
      exec (.stw d a fa imm) s = x 0x0A) ∧
    (¬ sign → va.toNat % 8 = 0 → exec (.ldd d a fa imm) s = x 0x09 ∧ exec (.std d a fa imm) s = x 0x0A) ∧
    (sign → ¬ on → exec (.ldb d a fa imm) s = x 0x0B ∧ exec (.ldbn d a fa imm) s = x 0x0B ∧
      exec (.stb d a fa imm) s = x 0x0B) ∧
    (sign → ¬ on → va.toNat % 2 = 0 → exec (.ldh d a fa imm) s = x 0x0B ∧ exec (.ldhn d a fa imm) s = x 0x0B ∧
      exec (.sth d a fa imm) s = x 0x0B) ∧
    (sign → ¬ on → va.toNat % 4 = 0 → exec (.ldw d a fa imm) s = x 0x0B ∧ exec (.ldwn d a fa imm) s = x 0x0B ∧
      exec (.stw d a fa imm) s = x 0x0B) ∧
    (sign → ¬ on → va.toNat % 8 = 0 → exec (.ldd d a fa imm) s = x 0x0B ∧ exec (.std d a fa imm) s = x 0x0B))

/-- R292: an aligned scalar load whose address translates brings the bytes at the target, sign- or zero-extended, and
changes nothing else. R293: the acquire loads, at every scope. -/
def Obligations.ScalarLoadResults : Prop :=
  (∀ (s : State) (d a : BitVec 5) (fa : Bool) (imm : BitVec 14) (scope : BitVec 3), s.quiet → s.plain → s.fullX [d, a] →
    let r (e : Nat) (va : Word) (sg : Bool) (i : Instr) : Prop :=
      let acc := scalarLoadAcc e
      let bits := 8 * 2 ^ e
      let v := natOfBytes ((s.walkedTo acc va).heldAt (s.goesTo acc va) (2 ^ e))
      va.toNat % 2 ^ e = 0 → s.reaches acc va → Nexts (exec i s) fun t => LoadDone s (s.walkedTo acc va) t d
        (if sg then BitVec.ofInt 64 (BitVec.ofNat bits v).toInt else BitVec.ofNat 64 v)
    let va := s.gx a + BitVec.ofInt 64 imm.toInt
    let at_ := s.gx a
    r 0 va true (.ldb d a fa imm) ∧ r 0 va false (.ldbn d a fa imm) ∧ r 1 va true (.ldh d a fa imm) ∧
    r 1 va false (.ldhn d a fa imm) ∧ r 2 va true (.ldw d a fa imm) ∧ r 2 va false (.ldwn d a fa imm) ∧
    r 3 va false (.ldd d a fa imm) ∧
    r 0 at_ true (.ldbAcq d a fa scope) ∧ r 0 at_ false (.ldbnAcq d a fa scope) ∧ r 1 at_ true (.ldhAcq d a fa scope) ∧
    r 1 at_ false (.ldhnAcq d a fa scope) ∧ r 2 at_ true (.ldwAcq d a fa scope) ∧ r 2 at_ false (.ldwnAcq d a fa scope) ∧
    r 3 at_ false (.lddAcq d a fa scope))

/-- R292, R293 and R29: an aligned scalar store whose address translates writes its low bytes at the target, in module
memory, in host memory or in a die's register space, the least significant lowest, and no other byte of memory. The
data register is `d`. A release store does so once the accesses before it are performed (R114). R290: a misaligned
scalar load or store traps with cause 0x0C and the address in `tval`, before any effect. `tinfo` is 0 in the traps,
which for its STRIDE half is the model's reading (log 21). -/
def Obligations.ScalarStoreResults : Prop :=
  (∀ (s : State) (d a : BitVec 5) (fa : Bool) (imm : BitVec 14) (scope : BitVec 3), s.quiet → s.plain →
    s.fullX [d, a] →
    let r (e : Nat) (va : Word) (i : Instr) : Prop :=
      let tg := s.goesTo (scalarStoreAcc e) va
      let s' := s.walkedTo (scalarStoreAcc e) va
      let bs := (List.range (2 ^ e)).map fun i => (s.gx d).extractLsb' (8 * i) 8
      va.toNat % 2 ^ e = 0 → s.reaches (scalarStoreAcc e) va → Nexts (exec i s) fun t =>
        match tg.place with
        | .regs die off => t = { s'.ioWrite die off bs with threads := t.threads } ∧ t.th = s.th.progress t.th ∧
            t.th.pc = (seqNext s.th s.th.pc).1 ∧ s.sameOthers t ∧ t.mem = s'.mem ∧ t.host = s'.host
        | _ => StoreDone s s' t s.th tg bs
    let va := s.gx a + BitVec.ofInt 64 imm.toInt
    r 0 va (.stb d a fa imm) ∧ r 1 va (.sth d a fa imm) ∧ r 2 va (.stw d a fa imm) ∧ r 3 va (.std d a fa imm) ∧
    (s.mayRelease scope.toNat →
      r 0 (s.gx a) (.stbRel d a fa scope) ∧ r 1 (s.gx a) (.sthRel d a fa scope) ∧
      r 2 (s.gx a) (.stwRel d a fa scope) ∧ r 3 (s.gx a) (.stdRel d a fa scope))) ∧
  (∀ (s : State) (d a : BitVec 5) (fa : Bool) (imm : BitVec 14), s.quiet → s.fullX [d, a] →
    let va := s.gx a + BitVec.ofInt 64 imm.toInt
    let x : Host.Outcome State Fault Refusal := .next (takesTrap 0x0C va 0 0 s.atIssue)
    (va.toNat % 2 ≠ 0 → exec (.ldh d a fa imm) s = x ∧ exec (.ldhn d a fa imm) s = x ∧ exec (.sth d a fa imm) s = x) ∧
    (va.toNat % 4 ≠ 0 → exec (.ldw d a fa imm) s = x ∧ exec (.ldwn d a fa imm) s = x ∧ exec (.stw d a fa imm) s = x) ∧
    (va.toNat % 8 ≠ 0 → exec (.ldd d a fa imm) s = x ∧ exec (.std d a fa imm) s = x))

/-- R294 to R297: an atomic whose address translates leaves the new value there, in module memory or, for the forms the
host takes, in host memory (where the root port completes AtomicOps); every other byte as it was; and the old value in
`sd` (32-bit forms sign-extended, the f32 forms zero-extended). A compare-and-swap writes only where memory equals
`sd`. R298: at scope `.pd` the address is a pod address, and one of this module's own acts so, translated for the
issuing thread under its own `dxp` and level, which is the model's choice (log 15); one of another module sends that
module a request, and takes the value the reply brings, or an access fault where the other module refuses it; which,
the spec does not give (log 15, as is what crosses the peer ports). A release waits as R114 and R121 say. -/
def Obligations.AtomicResults : Prop :=
  ∀ (s : State) (d a : BitVec 5) (ord : BitVec 2) (scope : BitVec 3) (fa : Bool), s.quiet → s.plain →
    s.fullX [d, a] → (2 ≤ ord.toNat → s.mayRelease scope.toNat) → (scope = 5 → s.feature 18 = true) →
    let va := s.gx a
    let pod : Prop := va.toNat / 2 ^ 62 = 0 ∧ va.getLsbD 56 = false ∧ s.podctl.getLsbD 63 = true
    let own : Prop := va.toNat / 2 ^ 57 % 32 = s.podctl.toNat / 2 ^ 8 % 32
    let at_ : Word := if scope = 5 then va &&& 0x00FFFFFFFFFFFFFF#64 else va
    let arg (e : Nat) : Nat := (s.gx d).toNat % 2 ^ (8 * 2 ^ e)
    let sg (n x : Nat) : Int := (BitVec.ofNat n x).toInt
    let away (e fl : Nat) (i : Instr) : Prop :=
      scope = 5 → pod → ¬ own → va.toNat % 2 ^ e = 0 → Nexts (exec i s) fun t =>
        t.podOut.drop 2 = s.podOut ∧ (t.podOut.headD (0, 0)).1 = s.gx d ∧ (t.podOut.getD 1 (0, 0)).2 = va ∧
        t.mem = s.mem ∧ t.host = s.host ∧ s.sameOthers t ∧
        (Config.podFails s.free = false → t.th =
          ({ s.th.setX d.toNat (t.th.getX d.toNat) with fflags := s.th.fflags ||| BitVec.ofNat 64 fl }).progress t.th) ∧
        (Config.podFails s.free = true → s.th.claiming = false → s.sq.tvec ≠ 0 → s.th.tstat.getLsbD 5 = false →
          t.th.tcause = 0x0B ∧ t.th.tval = va ∧ t.th.pc = s.sq.tvec)
    let r (host : Bool) (e : Nat) (f : Nat → Nat → Nat → Nat) (i : Instr) : Prop :=
      let tg := s.goesTo (scalarAtomicAcc host e) at_
      let s' := s.walkedTo (scalarAtomicAcc host e) at_
      let old := natOfBytes (s'.heldAt tg (2 ^ e))
      let res : Word := if e = 2 then BitVec.ofInt 64 (sg 32 old) else BitVec.ofNat 64 old
      (va.toNat % 2 ^ e = 0 → (scope = 5 → pod ∧ own) → s.reaches (scalarAtomicAcc host e) at_ →
        (tg.place.isMem = true ∨ s.hostAtomics = true) → Nexts (exec i s) fun t =>
          StoreDone s s' t (s.th.setX d.toNat res) tg (bytesOfNat (2 ^ e) (f (8 * 2 ^ e) old (arg e)))) ∧
      away e 0 i
    let rf (f : Nat → Nat → Nat) (i : Instr) : Prop :=
      let tg := s.goesTo (scalarAtomicAcc false 2) at_
      let s' := s.walkedTo (scalarAtomicAcc false 2) at_
      let old := natOfBytes (s'.heldAt tg 4)
      let fl := (f32.val (arg 2)).nanFlags
      fl &&& s.th.ftrap.toNat % 64 = 0 →
      (va.toNat % 4 = 0 → (scope = 5 → pod ∧ own) → s.reaches (scalarAtomicAcc false 2) at_ → Nexts (exec i s) fun t =>
        StoreDone s s' t { s.th.setX d.toNat (BitVec.ofNat 64 old) with fflags := s.th.fflags ||| BitVec.ofNat 64 fl } tg
          (bytesOfNat 4 (f old (arg 2)))) ∧
      away 2 fl i
    r false 2 (fun _ _ x => x) (.amoSwapW d a ord scope fa) ∧
    r true 3 (fun _ _ x => x) (.amoSwapD d a ord scope fa) ∧
    r false 2 (fun _ m x => m + x) (.amoAddW d a ord scope fa) ∧
    r true 3 (fun _ m x => m + x) (.amoAddD d a ord scope fa) ∧
    r false 2 (fun _ m x => m &&& x) (.amoAndW d a ord scope fa) ∧
    r false 3 (fun _ m x => m &&& x) (.amoAndD d a ord scope fa) ∧
    r false 2 (fun _ m x => m ||| x) (.amoOrW d a ord scope fa) ∧
    r false 3 (fun _ m x => m ||| x) (.amoOrD d a ord scope fa) ∧
    r false 2 (fun _ m x => m ^^^ x) (.amoXorW d a ord scope fa) ∧
    r false 3 (fun _ m x => m ^^^ x) (.amoXorD d a ord scope fa) ∧
    r false 2 (fun n m x => if sg n x < sg n m then x else m) (.amoMinW d a ord scope fa) ∧
    r false 3 (fun n m x => if sg n x < sg n m then x else m) (.amoMinD d a ord scope fa) ∧
    r false 2 (fun n m x => if sg n m < sg n x then x else m) (.amoMaxW d a ord scope fa) ∧
    r false 3 (fun n m x => if sg n m < sg n x then x else m) (.amoMaxD d a ord scope fa) ∧
    r false 2 (fun _ m x => min m x) (.amoMinnW d a ord scope fa) ∧
    r false 3 (fun _ m x => min m x) (.amoMinnD d a ord scope fa) ∧
    r false 2 (fun _ m x => max m x) (.amoMaxnW d a ord scope fa) ∧
    r false 3 (fun _ m x => max m x) (.amoMaxnD d a ord scope fa) ∧
    rf (fun m x => (fAdd f32 0 m x).1) (.amoFaddS d a ord scope fa) ∧
    rf (fun m x => (fMinMax f32 true m x).1) (.amoFmaxS d a ord scope fa) ∧
    rf (fun m x => (fMinMax f32 false m x).1) (.amoFminS d a ord scope fa) ∧
    (d.toNat % 2 = 0 → s.fullX [d + 1] →
      r false 2 (fun _ m x => if m = x then (s.gx (d + 1)).toNat else m) (.amoCasW d a ord scope fa)) ∧
    (d.toNat % 2 = 0 → s.fullX [d + 1] →
      r true 3 (fun _ m x => if m = x then (s.gx (d + 1)).toNat else m) (.amoCasD d a ord scope fa))

/-- R117, R118, R299 and R199: with nothing of the memory system in progress every fence completes at once and changes
nothing else; `fence.all` counts in `emucount`. Scope 5 needs feature 18 (R290). R61, R301: where nothing is cached a
prefetch hint changes nothing but `hintdrop`, which rises by one where the address does not translate. It never traps
on its address. R314, R61: vector hints touch nothing but `hintdrop`, `vstart` and, where something is cached, what is
cached. -/
def Obligations.FencesAndHints : Prop :=
  (∀ (s : State) (scope : BitVec 5), s.quiet → s.plain → (scope = 5 → s.feature 18 = true) →
    (s.th.claiming = false → exec (.fenceAcq scope) s = .next (s.done id)) ∧
    (s.mayRelease scope.toNat → exec (.fenceRel scope) s = .next (s.done id) ∧
      exec (.fenceAr scope) s = .next (s.done id) ∧ exec (.fenceSc scope) s = .next (s.done id)) ∧
    (s.feature 19 = true → s.th.claiming = false →
      exec .fenceAll s = .next (s.done fun t => { t with emucount := t.emucount + 1 }))) ∧
  (∀ (s : State) (a : BitVec 5) (fa : Bool) (imm : BitVec 14), s.quiet → s.fullX [a] → s.sched.caching = false →
    let va := s.gx a + BitVec.ofInt 64 imm.toInt
    let r (w : Bool) : Host.Outcome State Fault Refusal :=
      .next (if (s.hint va w .nothing).1 then retire .seq (s.atIssue.bump 0x213 1) else s.done id)
    exec (.pfR a fa imm) s = r false ∧ exec (.pfS a fa imm) s = r false ∧ exec (.pfW a fa imm) s = r true ∧
    exec (.pfDrop a fa imm) s = r false) ∧
  (∀ (s : State) (a b : BitVec 5) (fa fb : Bool), s.quiet → s.sched.caching = false → s.fullX [a] →
    s.th.wait = .none → s.th.vtype.getLsbD 63 = false →
    let r (o : Host.Outcome State Fault Refusal) : Prop := Nexts o fun t =>
      t = { s with threads := t.threads, cores := t.cores } ∧
      t.th = ({ s.th with vstart := 0, idx := t.th.idx } : Thread).progress t.th ∧
      ∀ c < 256, t.core c = { s.core c with counters := (t.core c).counters } ∧
        ∀ n < 1024, n ≠ 0x213 → Sparse.get 0 (t.core c).counters n = Sparse.get 0 (s.core c).counters n
    r (exec (.vpfR a fa) s) ∧ r (exec (.vpfS a fa) s) ∧
    (s.readyForm (.indexed 32) b → r (exec (.vpfRX32 a b fa fb) s)) ∧
    (s.readyForm (.indexed 64) b → r (exec (.vpfRX a b fa fb) s)))

/-- R135 to R141, R300: bolt operations with nothing of the memory system in progress. Arming and arriving leave the
bolt as R137's update and test give it and no other byte of memory changed, and follow the thread's earlier writes
(R102); `bolt.rd` reads both dwords; `bolt.wait` completes with PH where the phase differs from the one observed, and
waits where it does not. ARRARR is kept modulo 2^15, which is the model's choice (log 41). -/
def Obligations.BoltResults : Prop :=
  ∀ (s : State) (d a b : BitVec 5) (scope : BitVec 5) (fa fb : Bool), s.quiet → s.plain →
    s.fullX [a, b] → s.th.wait = .none →
    let va := s.gx a
    let tg := s.goesTo (scalarAtomicAcc false 4) va
    let s' := s.walkedTo (scalarAtomicAcc false 4) va
    let x := (s.gx b).toNat
    let q := s'.boltAt tg.pa (s'.slot tg.slot).key
    let bytes (c : Bolt) : List Byte := dwordBytes c.word0 ++ dwordBytes c.word1
    let left (t : State) (c : Bolt) : Prop := s'.wrote t [(tg, bytes c)] ∧ t.host = s'.host ∧
      t.th = s.th.progress t.th ∧ t.th.pc = (seqNext s.th s.th.pc).1 ∧
      ((t.die s.dieNo).count ≠ 0 → serialBelow (t.front.comp s.dieNo) (t.die s.dieNo).count = false)
    va.toNat % 16 = 0 → s.reaches (scalarAtomicAcc false 4) va →
    Nexts (exec (.boltArm a b fa fb) s) (fun t => left t (q.update 0 (x % 2 ^ 48) (x / 2 ^ 48 % 2 ^ 15)).test.2) ∧
    (s.mayRelease scope.toNat →
      Nexts (exec (.boltArrive scope a b fa fb) s) fun t => left t (q.update 2 (x % 2 ^ 48) 0).test.2) ∧
    (s.fullX [d] → q.ph ≠ (s.gx b).getLsbD 0 → Nexts (exec (.boltWait d a b fa fb) s) fun t =>
      LoadDone s s' t d (if q.ph then 1 else 0)) ∧
    (s.fullX [d] → q.ph = (s.gx b).getLsbD 0 → Nexts (exec (.boltWait d a b fa fb) s) fun t =>
      t.th.wait = .bolt tg.pa va ((s.gx b).getLsbD 0) ∧ t.th.pc = s.th.pc ∧ t.mem = s'.mem ∧
      ∀ r < 32, t.th.getX r = s.th.getX r) ∧
    (s.fullX [d, d + 1] → d ≠ 31 → Nexts (exec (.boltRd d a fa) s) fun t =>
      t.th = ((s.th.setX d.toNat (BitVec.ofNat 64 (natOfBytes (s'.heldAt tg 8)))).setX (d.toNat + 1)
        (BitVec.ofNat 64 (natOfBytes ((s'.heldAt tg 16).drop 8)))).progress t.th ∧ t.mem = s'.mem ∧ t.host = s'.host)

/-- R319 and R192: a configuration instruction sets `vtype` and `vl` (the smaller of AVL and VLMAX), `vstart` 0, and
writes `vl` to `sd`; a reserved or unaccepted type or a nonzero reserved bit sets VILL alone and `vl` 0. VLMAX follows
the live lanes (R73). -/
def Obligations.VectorConfiguration : Prop :=
  ∀ (s : State) (d a b : BitVec 5) (fa fb sat : Bool) (ty : BitVec 4) (blen : BitVec 3), s.quiet →
    s.fullX [d, a, b] → s.th.layout = s.th.lanes → s.th.lanes.length * s.th.depth ≤ 512 →
    let bits := 64 * (s.th.lanes.length * s.th.depth)
    let r (avl : Option Nat) (v : Nat) : Host.Outcome State Fault Refusal :=
      let e := v % 16
      let ok := v / 2 ^ 12 % 2 ^ 51 = 0 ∧ (e < 11 ∨ (e < 13 ∧ s.feature 8 = true))
      let vlmax := bits / (8 <<< ewLog e)
      let vl := if ok then (match avl with | some n => min n vlmax | none => vlmax) else 0
      .next (s.done fun t => { t with
        vlmaxb := BitVec.ofNat 64 bits, vstart := 0, vl := BitVec.ofNat 64 vl,
        vtype := if ok then BitVec.ofNat 64 (v % 2 ^ 63) else BitVec.ofNat 64 (2 ^ 63),
        x := (t.setX d.toNat (BitVec.ofNat 64 vl)).x })
    exec (.vsetvl d a b fa fb) s = r (some (s.gx a).toNat) (s.gx b).toNat ∧
    exec (.vsetvlmax d b fb) s = r none (s.gx b).toNat ∧
    exec (.vsetvli d a ty fa blen sat) s =
      r (some (s.gx a).toNat) (ty.toNat + 16 * blen.toNat + if sat then 2048 else 0)

/-- R316, R318, R321, R322: the element-wise integer rows over values: each active element becomes the row's exact
value written as the row says (wrapped, `fit`, or saturated). R316, R321, R322: the integer rows over bit patterns,
and the two shifts and the accumulation with an exception bit. The accumulating row needs a destination distinct from
its sources (R317). -/
def Obligations.VectorIntegerResults : Prop :=
  (∀ (s : State) (d a b : BitVec 5) (fa fb xm : Bool), s.quiet → s.th.vtype.getLsbD 63 = false →
    isInt s.th.etype = true →
    let e := s.th.etype
    let w := s.th.ew
    let m := s.th.xrm.toNat % 4
    let r (sc xm : Bool) (c : Clamp) (f : Int → Int → Int) : Host.Outcome State Fault Refusal :=
      .next (s.loopDone d w xm false fun i _ => writeInt c s.th.satOn (isSigned e) w
        (f (ival e w (elemAt w (s.vbits a) i)) (ival e w (s.opB sc b w i))))
    (s.readyRow false d a b →
      exec (.vadd d a b fa fb xm) s = r false xm .fit (fun x y => x + y) ∧
      exec (.vsub d a b fa fb xm) s = r false xm .fit (fun x y => x - y) ∧
      exec (.vrsub d a b fa fb xm) s = r false xm .fit (fun x y => y - x) ∧
      exec (.vmul d a b fa fb xm) s = r false xm .fit (fun x y => x * y) ∧
      exec (.vsadd d a b fa fb xm) s = r false xm .sat (fun x y => x + y) ∧
      exec (.vssub d a b fa fb xm) s = r false xm .sat (fun x y => x - y) ∧
      exec (.vsmul d a b fa fb xm) s = r false xm .sat (fun x y => xround m (x * y) (if isSigned e then w - 1 else w)) ∧
      exec (.vmin d a b fa fb) s = r false false .wrap (fun x y => if y < x then y else x) ∧
      exec (.vmax d a b fa fb) s = r false false .wrap (fun x y => if x < y then y else x) ∧
      exec (.vmulh d a b fa fb) s = r false false .wrap (fun x y => x * y / 2 ^ w) ∧
      exec (.vaadd d a b fa fb) s = r false false .wrap (fun x y => xround m (x + y) 1) ∧
      exec (.vasub d a b fa fb) s = r false false .wrap (fun x y => xround m (x - y) 1)) ∧
    (s.readyRow true d a b →
      exec (.vaddVs d a b fa fb xm) s = r true xm .fit (fun x y => x + y) ∧
      exec (.vsubVs d a b fa fb xm) s = r true xm .fit (fun x y => x - y) ∧
      exec (.vrsubVs d a b fa fb xm) s = r true xm .fit (fun x y => y - x) ∧
      exec (.vmulVs d a b fa fb xm) s = r true xm .fit (fun x y => x * y) ∧
      exec (.vsaddVs d a b fa fb xm) s = r true xm .sat (fun x y => x + y) ∧
      exec (.vssubVs d a b fa fb xm) s = r true xm .sat (fun x y => x - y) ∧
      exec (.vsmulVs d a b fa fb xm) s = r true xm .sat (fun x y => xround m (x * y) (if isSigned e then w - 1 else w)) ∧
      exec (.vminVs d a b fa fb) s = r true false .wrap (fun x y => if y < x then y else x) ∧
      exec (.vmaxVs d a b fa fb) s = r true false .wrap (fun x y => if x < y then y else x) ∧
      exec (.vmulhVs d a b fa fb) s = r true false .wrap (fun x y => x * y / 2 ^ w) ∧
      exec (.vaaddVs d a b fa fb) s = r true false .wrap (fun x y => xround m (x + y) 1) ∧
      exec (.vasubVs d a b fa fb) s = r true false .wrap (fun x y => xround m (x - y) 1))) ∧
  (∀ (s : State) (d a b : BitVec 5) (fa fb xm : Bool), s.quiet → s.th.vtype.getLsbD 63 = false →
    isInt s.th.etype = true →
    let e := s.th.etype
    let w := s.th.ew
    let m := s.th.xrm.toNat % 4
    let r (sc xm : Bool) (c : Clamp) (f : Nat → Nat → Nat → Int) : Host.Outcome State Fault Refusal :=
      .next (s.loopDone d w xm false fun i dst => writeInt c s.th.satOn (isSigned e) w
        (f (elemAt w (s.vbits a) i) (s.opB sc b w i) (elemAt w dst i)))
    (s.readyRow false d a b →
      exec (.vand d a b fa fb) s = r false false .wrap (fun x y _ => ((x &&& y : Nat) : Int)) ∧
      exec (.vor d a b fa fb) s = r false false .wrap (fun x y _ => ((x ||| y : Nat) : Int)) ∧
      exec (.vxor d a b fa fb) s = r false false .wrap (fun x y _ => ((x ^^^ y : Nat) : Int)) ∧
      exec (.vsrl d a b fa fb) s = r false false .wrap (fun x y _ => ((x / 2 ^ (y % w) : Nat) : Int)) ∧
      exec (.vssrl d a b fa fb) s = r false false .wrap (fun x y _ => xround m x (y % w)) ∧
      exec (.vsra d a b fa fb) s = r false false .wrap (fun x y _ => sval w x / 2 ^ (y % w)) ∧
      exec (.vssra d a b fa fb) s = r false false .wrap (fun x y _ => xround m (sval w x) (y % w)) ∧
      exec (.vdiv d a b fa fb) s = r false false .wrap (fun x y _ => (((intDiv (isSigned e) w x y).1 : Nat) : Int)) ∧
      exec (.vrem d a b fa fb) s = r false false .wrap (fun x y _ => (((intDiv (isSigned e) w x y).2 : Nat) : Int)) ∧
      exec (.vsll d a b fa fb xm) s = r false xm .fit (fun x y _ => ival e w x * 2 ^ (y % w)) ∧
      (d ≠ a → d ≠ b → exec (.vmacc d a b fa fb xm) s =
        r false xm .fit (fun x y z => ival e w z + ival e w x * ival e w y))) ∧
    (s.readyRow true d a b →
      exec (.vandVs d a b fa fb) s = r true false .wrap (fun x y _ => ((x &&& y : Nat) : Int)) ∧
      exec (.vorVs d a b fa fb) s = r true false .wrap (fun x y _ => ((x ||| y : Nat) : Int)) ∧
      exec (.vxorVs d a b fa fb) s = r true false .wrap (fun x y _ => ((x ^^^ y : Nat) : Int)) ∧
      exec (.vsrlVs d a b fa fb) s = r true false .wrap (fun x y _ => ((x / 2 ^ (y % w) : Nat) : Int)) ∧
      exec (.vssrlVs d a b fa fb) s = r true false .wrap (fun x y _ => xround m x (y % w)) ∧
      exec (.vsraVs d a b fa fb) s = r true false .wrap (fun x y _ => sval w x / 2 ^ (y % w)) ∧
      exec (.vssraVs d a b fa fb) s = r true false .wrap (fun x y _ => xround m (sval w x) (y % w)) ∧
      exec (.vdivVs d a b fa fb) s = r true false .wrap (fun x y _ => (((intDiv (isSigned e) w x y).1 : Nat) : Int)) ∧
      exec (.vremVs d a b fa fb) s = r true false .wrap (fun x y _ => (((intDiv (isSigned e) w x y).2 : Nat) : Int)) ∧
      exec (.vsllVs d a b fa fb xm) s = r true xm .fit (fun x y _ => ival e w x * 2 ^ (y % w)) ∧
      (d ≠ a → exec (.vmaccVs d a b fa fb xm) s =
        r true xm .fit (fun x y z => ival e w z + ival e w x * ival e w y))))

/-- R317, R322: the widening and narrowing rows, whose destination is distinct from their sources and whose wide
elements fit the register. R321: an integer compare writes bit i of its mask for every active element, and no vector
register. R238, R318: what an integer row writes: the exact value reduced modulo 2^n, or clamped to the type's range
where the row saturates or `vtype.sat` is 1; the exception bit says whether it differs from the exact value. A
difference of two natural numbers that `vwsub` widens, and that is below 0, is taken modulo 2^(2w), which is the
model's choice (log 50). -/
def Obligations.VectorIntegerOthers : Prop :=
  (∀ (s : State) (d a b : BitVec 5) (fa fb xm : Bool), s.quiet → s.th.vtype.getLsbD 63 = false →
    isInt s.th.etype = true → d ≠ a → s.th.ew ≤ 32 → s.th.vlN * (2 * s.th.ew) ≤ s.th.vlmaxN →
    let e := s.th.etype
    let w := s.th.ew
    let m := s.th.xrm.toNat % 4
    let wide (sc xm : Bool) (c : Clamp) (f : Int → Int → Int → Int) : Host.Outcome State Fault Refusal :=
      .next (s.loopDone d (2 * w) xm false fun i dst => writeInt c s.th.satOn (isSigned e) (2 * w)
        (f (ival e w (elemAt w (s.vbits a) i)) (ival e w (s.opB sc b w i)) (ival e (2 * w) (elemAt (2 * w) dst i))))
    let narrow (sc : Bool) (f : Nat → Nat → Int) : Host.Outcome State Fault Refusal :=
      .next (s.loopDone d w xm false fun i _ => writeInt .fit s.th.satOn (isSigned e) w
        (f (elemAt (2 * w) (s.vbits a) i) (s.opB sc b w i)))
    (d ≠ b → s.readyRow false d a b →
      exec (.vwadd d a b fa fb) s = wide false false .wrap (fun x y _ => x + y) ∧
      exec (.vwsub d a b fa fb) s = wide false false .wrap (fun x y _ => x - y) ∧
      exec (.vwmul d a b fa fb) s = wide false false .wrap (fun x y _ => x * y) ∧
      exec (.vwmacc d a b fa fb xm) s = wide false xm .fit (fun x y z => z + x * y) ∧
      (isSigned e = false → exec (.vnsrl d a b fa fb xm) s =
        narrow false (fun x y => xround m x (y % (2 * w)))) ∧
      (isSigned e = true → exec (.vnsra d a b fa fb xm) s =
        narrow false (fun x y => xround m (sval (2 * w) x) (y % (2 * w))))) ∧
    (s.readyRow true d a b →
      exec (.vwaddVs d a b fa fb) s = wide true false .wrap (fun x y _ => x + y) ∧
      exec (.vwsubVs d a b fa fb) s = wide true false .wrap (fun x y _ => x - y) ∧
      exec (.vwmulVs d a b fa fb) s = wide true false .wrap (fun x y _ => x * y) ∧
      exec (.vwmaccVs d a b fa fb xm) s = wide true xm .fit (fun x y z => z + x * y) ∧
      (isSigned e = false → exec (.vnsrlVs d a b fa fb xm) s =
        narrow true (fun x y => xround m x (y % (2 * w)))) ∧
      (isSigned e = true → exec (.vnsraVs d a b fa fb xm) s =
        narrow true (fun x y => xround m (sval (2 * w) x) (y % (2 * w)))))) ∧
  (∀ (s : State) (d a b : BitVec 5) (fa fb : Bool), s.quiet → s.th.vtype.getLsbD 63 = false →
    isInt s.th.etype = true → d.toNat < 16 →
    let e := s.th.etype
    let w := s.th.ew
    let r (sc : Bool) (f : Int → Int → Bool) : Host.Outcome State Fault Refusal :=
      .next (s.maskDone d false false fun i _ =>
        ⟨some (if f (ival e w (elemAt w (s.vbits a) i)) (ival e w (s.opB sc b w i)) then 1 else 0), 0, false, false⟩)
    (s.readyV [a, b] →
      exec (.vmseq d a b fa fb) s = r false (fun x y => x = y) ∧
      exec (.vmsne d a b fa fb) s = r false (fun x y => x ≠ y) ∧
      exec (.vmslt d a b fa fb) s = r false (fun x y => x < y) ∧
      exec (.vmsle d a b fa fb) s = r false (fun x y => x ≤ y) ∧
      exec (.vmsgt d a b fa fb) s = r false (fun x y => y < x)) ∧
    (s.readyV [a] → s.fullX [b] →
      exec (.vmseqVs d a b fa fb) s = r true (fun x y => x = y) ∧
      exec (.vmsneVs d a b fa fb) s = r true (fun x y => x ≠ y) ∧
      exec (.vmsltVs d a b fa fb) s = r true (fun x y => x < y) ∧
      exec (.vmsleVs d a b fa fb) s = r true (fun x y => x ≤ y) ∧
      exec (.vmsgtVs d a b fa fb) s = r true (fun x y => y < x))) ∧
  (∀ (sat sg : Bool) (n : Nat) (x : Int), 0 < n →
    let lo : Int := if sg then -(2 ^ (n - 1)) else 0
    let hi : Int := if sg then 2 ^ (n - 1) - 1 else 2 ^ n - 1
    let c := min hi (max lo x)
    let v (r : ERes) : Int := if sg then sval n (r.val.getD 0) else (r.val.getD 0 : Nat)
    ((writeInt .wrap sat sg n x).val.getD 0 : Int) = x % 2 ^ n ∧
    v (writeInt .sat sat sg n x) = c ∧ ((writeInt .sat sat sg n x).sat = true ↔ c ≠ x) ∧
    writeInt .fit true sg n x = writeInt .sat true sg n x ∧
    writeInt .fit false sg n x = writeInt .wrap false sg n x ∧
    ((writeInt .wrap sat sg n x).x = true ↔ ¬ (lo ≤ x ∧ x ≤ hi)) ∧
    ((writeInt .sat sat sg n x).x = true ↔ ¬ (lo ≤ x ∧ x ≤ hi)))

/-- R323, R316, R318: the floating rows of two sources: with a floating type and no trapping flag raised, each active
element becomes the rounded result, and flags and exception bits are recorded. The operations are the model's own
functions, which `RoundingRules` (O60) ties to 10_numbers.md. R323, R324, R198, R325: the one-source floating rows, the
floating compares, and conversions between element types. -/
def Obligations.VectorFloatingResults : Prop :=
  (∀ (s : State) (d a b : BitVec 5) (fa fb xm : Bool), s.quiet → s.th.vtype.getLsbD 63 = false →
    isFp s.th.etype = true →
    let t := fmtOf s.th.etype
    let w := s.th.ew
    let m := s.th.frm.toNat % 8
    let r (sc : Bool) (o : Host.Outcome State Fault Refusal) (f : Nat → Nat → Nat → Nat × Nat) : Prop :=
      let g : Nat → Nat → ERes := fun i dst =>
        let v := f (elemAt w (s.vbits a) i) (s.opB sc b w i) (elemAt w dst i)
        ⟨some v.1, v.2, false, false⟩
      s.noTrap d w xm g → o = .next (s.loopDone d w xm true g)
    (s.readyRow false d a b →
      r false (exec (.vfadd d a b fa fb xm) s) (fun x y _ => fAdd t m x y) ∧
      r false (exec (.vfsub d a b fa fb xm) s) (fun x y _ => fSub t m x y) ∧
      r false (exec (.vfmul d a b fa fb xm) s) (fun x y _ => fMul t m x y) ∧
      r false (exec (.vfdiv d a b fa fb xm) s) (fun x y _ => fDiv t m x y) ∧
      r false (exec (.vfmin d a b fa fb xm) s) (fun x y _ => fMinMax t false x y) ∧
      r false (exec (.vfmax d a b fa fb xm) s) (fun x y _ => fMinMax t true x y) ∧
      (d ≠ a → d ≠ b → r false (exec (.vfmac d a b fa fb xm) s) (fun x y z => fFma t m false x y z)) ∧
      (d ≠ a → d ≠ b → r false (exec (.vfnmac d a b fa fb xm) s) (fun x y z => fFma t m true x y z))) ∧
    (s.readyRow true d a b →
      r true (exec (.vfaddVs d a b fa fb xm) s) (fun x y _ => fAdd t m x y) ∧
      r true (exec (.vfsubVs d a b fa fb xm) s) (fun x y _ => fSub t m x y) ∧
      r true (exec (.vfmulVs d a b fa fb xm) s) (fun x y _ => fMul t m x y) ∧
      r true (exec (.vfdivVs d a b fa fb xm) s) (fun x y _ => fDiv t m x y) ∧
      r true (exec (.vfminVs d a b fa fb xm) s) (fun x y _ => fMinMax t false x y) ∧
      r true (exec (.vfmaxVs d a b fa fb xm) s) (fun x y _ => fMinMax t true x y) ∧
      (d ≠ a → r true (exec (.vfmacVs d a b fa fb xm) s) (fun x y z => fFma t m false x y z)) ∧
      (d ≠ a → r true (exec (.vfnmacVs d a b fa fb xm) s) (fun x y z => fFma t m true x y z)))) ∧
  (∀ (s : State) (d a b : BitVec 5) (fa fb xm : Bool) (ty : BitVec 4), s.quiet → s.th.vtype.getLsbD 63 = false →
    let t := fmtOf s.th.etype
    let w := s.th.ew
    let m := s.th.frm.toNat % 8
    let r (o : Host.Outcome State Fault Refusal) (f : Nat → Nat × Nat) : Prop :=
      let g : Nat → Nat → ERes := fun i _ =>
        let v := f (elemAt w (s.vbits a) i)
        ⟨some v.1, v.2, false, false⟩
      s.noTrap d w xm g → o = .next (s.loopDone d w xm true g)
    let rk (sc : Bool) (o : Host.Outcome State Fault Refusal) (f : Nat → Nat → Nat × Nat) : Prop :=
      let g : Nat → Nat → ERes := fun i _ =>
        let v := f (elemAt w (s.vbits a) i) (s.opB sc b w i)
        ⟨some v.1, v.2, false, false⟩
      s.noTrapK d xm g → o = .next (s.maskDone d xm true g)
    let wt := 8 <<< ewLog ty.toNat
    let cv : Nat → Nat → ERes := fun i _ => convert m s.th.satOn s.th.etype ty.toNat (elemAt w (s.vbits a) i)
    (isFp s.th.etype = true → s.readyV [d, a] →
      r (exec (.vfsqrt d a fa xm) s) (fun x => fSqrt t m x) ∧
      r (exec (.vfneg d a fa xm) s) (fun x => fNeg t x) ∧
      r (exec (.vfabs d a fa xm) s) (fun x => fAbs t x) ∧
      r (exec (.vfclass d a fa xm) s) (fun x => fClass t x) ∧
      r (exec (.vfrec d a fa xm) s) (fun x => fRec t m x) ∧
      r (exec (.vfrsq d a fa xm) s) (fun x => fRsq t m x) ∧
      r (exec (.vfreca d a fa xm) s) (fun x => shortened t (fRec t m x)) ∧
      r (exec (.vfrsqa d a fa xm) s) (fun x => shortened t (fRsq t m x))) ∧
    (isFp s.th.etype = true → d.toNat < 16 → s.readyV [a, b] →
      rk false (exec (.vmfeq d a b fa fb xm) s) (fun x y => fEq t x y) ∧
      rk false (exec (.vmflt d a b fa fb xm) s) (fun x y => fLess t false x y) ∧
      rk false (exec (.vmfle d a b fa fb xm) s) (fun x y => fLess t true x y)) ∧
    (isFp s.th.etype = true → d.toNat < 16 → s.readyV [a] → s.fullX [b] →
      rk true (exec (.vmfeqVs d a b fa fb xm) s) (fun x y => fEq t x y) ∧
      rk true (exec (.vmfltVs d a b fa fb xm) s) (fun x y => fLess t false x y) ∧
      rk true (exec (.vmfleVs d a b fa fb xm) s) (fun x y => fLess t true x y)) ∧
    (s.readyV [d, a] → (isTb ty.toNat = true → s.feature 8 = true) →
      (wt ≠ w → d ≠ a ∧ s.th.vlN * max wt w ≤ s.th.vlmaxN) → s.noTrap d wt xm cv →
      exec (.vcvt d a fa xm ty) s = .next (s.loopDone d wt xm true cv)))

/-- R316: what an element loop over a vector register does, for any row of which no element raises a trapping flag:
each active element from `vstart` below `vl` becomes its result, every other element keeps its value, no other register
changes, `vstart` becomes 0, the flags are gathered, and VB covers the highest element written (R413). R245 and R211:
where an element raises a trapping flag, the loop traps at the first such element with its number in `telem` and
`vstart`: its own result and flags are written with those before it, and no later element's. What the instruction then
is, shown for `vfadd`: that trap, in the state the loop leaves. `tinfo` is 0 in the trap, which for its STRIDE half is
the model's reading (log 21). -/
def Obligations.ElementLoopRules : Prop :=
  (∀ (t : Thread) (d : BitVec 5) (w : Nat) (xm fp : Bool) (h : Nat → Nat → ERes),
    w ∈ [8, 16, 32, 64] → t.vlN * w ≤ 32768 →
    let g : Nat → Nat → ERes := fun i dst => h i (elemAt w dst i)
    let u := T.state (loopV d w xm fp g) t
    let old := (t.vreg d.toNat).bits.toNat
    let touched (i : Nat) : Prop := t.startN ≤ i ∧ i < t.vlN ∧ t.active i = true
    let flags (j : Nat) : Nat := ((List.range j).filter fun i => t.startN ≤ i && t.active i).foldl
      (fun r i => r ||| (h i (elemAt w old i)).fl) 0
    (fp = true → ∀ i, touched i → (h i (elemAt w old i)).fl &&& (t.ftrap.toNat % 64) = 0) →
    loopV d w xm fp g t = .ok () u ∧
    u.fflags = t.fflags ||| BitVec.ofNat 64 (flags t.vlN) ∧
    (∀ i, w * (i + 1) ≤ 32768 → touched i → ∀ v, (h i (elemAt w old i)).val = some v →
      elemAt w (u.vreg d.toNat).bits.toNat i = v % 2 ^ w) ∧
    (∀ i, w * (i + 1) ≤ 32768 → (¬ touched i ∨ (h i (elemAt w old i)).val = none) →
      elemAt w (u.vreg d.toNat).bits.toNat i = elemAt w old i) ∧
    (∀ i, touched i → (h i (elemAt w old i)).val ≠ none → vbOf w i ≤ (u.vreg d.toNat).vb) ∧
    (∀ k, k ≠ d.toNat → u.vreg k = t.vreg k) ∧
    u = { t with v := u.v, k := u.k, kw := u.kw, fflags := u.fflags, vxsat := u.vxsat, vstart := 0 } ∧
    (xm = false → u.k = t.k ∧ u.kw = t.kw)) ∧
  (∀ (t : Thread) (d : BitVec 5) (w i : Nat) (xm : Bool) (h : Nat → Nat → ERes),
    w ∈ [8, 16, 32, 64] → t.vlN * w ≤ 32768 →
    let g : Nat → Nat → ERes := fun i dst => h i (elemAt w dst i)
    let u := T.state (loopV d w xm true g) t
    let old := (t.vreg d.toNat).bits.toNat
    let touched (i : Nat) : Prop := t.startN ≤ i ∧ i < t.vlN ∧ t.active i = true
    let flags (j : Nat) : Nat := ((List.range j).filter fun i => t.startN ≤ i && t.active i).foldl
      (fun r i => r ||| (h i (elemAt w old i)).fl) 0
    let trapping (j : Nat) : Nat := (h j (elemAt w old j)).fl &&& (t.ftrap.toNat % 64)
    touched i → trapping i ≠ 0 → (∀ j < i, touched j → trapping j = 0) →
    loopV d w xm true g t =
      .error (.trap (if (trapping i).testBit 5 then 0x11 else 0x10) 0 (BitVec.ofNat 64 i) 0) u ∧
    u.fflags = t.fflags ||| BitVec.ofNat 64 (flags (i + 1)) ∧
    (∀ j ≤ i, touched j → ∀ v, (h j (elemAt w old j)).val = some v →
      elemAt w (u.vreg d.toNat).bits.toNat j = v % 2 ^ w) ∧
    (∀ j, w * (j + 1) ≤ 32768 → (i < j ∨ ¬ touched j ∨ (h j (elemAt w old j)).val = none) →
      elemAt w (u.vreg d.toNat).bits.toNat j = elemAt w old j) ∧
    (∀ k, k ≠ d.toNat → u.vreg k = t.vreg k) ∧
    u = { t with v := u.v, k := u.k, kw := u.kw, fflags := u.fflags, vxsat := u.vxsat, vstart := BitVec.ofNat 64 i } ∧
    (xm = false → u.k = t.k ∧ u.kw = t.kw)) ∧
  (∀ (s : State) (d a b : BitVec 5) (fa fb xm : Bool), s.quiet → s.th.vtype.getLsbD 63 = false →
    isFp s.th.etype = true → s.readyRow false d a b →
    let w := s.th.ew
    let g : Nat → Nat → ERes := fun i _ =>
      let v := fAdd (fmtOf s.th.etype) (s.th.frm.toNat % 8) (elemAt w (s.vbits a) i) (elemAt w (s.vbits b) i)
      ⟨some v.1, v.2, false, false⟩
    let l := eloop (s.th.loopCfg w xm true) g (s.th.vlN - s.th.startN) s.th.startN
      { dst := s.vbits d, xk := s.th.mask s.th.xmReg }
    let i := (l.stop.getD (0, 0)).1
    let fl := (l.stop.getD (0, 0)).2
    l.stop ≠ none →
      exec (.vfadd d a b fa fb xm) s =
        .next (takesTrap (if fl.testBit 5 then 0x11 else 0x10) 0 (BitVec.ofNat 64 i) 0
          (s.setTh (T.state (loopV d w xm true g) s.th.begin))) ∧
      (T.state (loopV d w xm true g) s.th.begin).vstart = BitVec.ofNat 64 i)

/-- R326 to R328, R255: dot products into 32-bit accumulators, and block quantisation, on distinct registers, where no
flag traps. That `vfdot` sets its exception bit where
bit j of the mask is active, and how many bits `vbq` sets for an element, are the model's reading (log 23). -/
def Obligations.DotAndQuantiseResults : Prop :=
  ∀ (s : State) (d a b : BitVec 5) (fa fb xm bank : Bool) (src : BitVec 2), s.quiet →
    s.th.vtype.getLsbD 63 = false → s.readyV [d, a, b] → d ≠ a → d ≠ b → s.th.ftrap.toNat % 64 = 0 →
    let t := s.th
    let e := t.etype
    let k := kDepth e
    let x := s.vbits a
    let y := s.vbits b
    let f := if src = 0 then f32 else if src = 1 then bf16 else f16
    (isFp e = true ∨ isTb e = true → exec (.vfdot d a b fa fb xm) s =
      .next (s.done (T.state (dotLoop t d k ⟨32, fun j => t.dotElems k j ≠ [], fun j => xm && t.active j, 0⟩
        (fun j dst =>
          let r := dotRound (t.frm.toNat % 8) ((t.dotElems k j).map (t.dotPair x y)) (elemAt 32 dst j)
          ⟨some r.1, r.2, false, false⟩) xm)))) ∧
    (e = 0 ∨ e = 4 → exec (.vdot d a b fa fb xm) s =
      .next (s.done (T.state (dotLoop t d 4 ⟨32, fun j => t.dotElems 4 j ≠ [], fun _ => xm, 0⟩
        (fun j dst => writeInt .fit t.satOn (isSigned e) 32 ((t.dotElems 4 j).foldl (fun r i =>
          r + ival e 8 (elemAt 8 x i) * ival e 8 (elemAt 8 y i))
          (if e = 0 then sval 32 (elemAt 32 dst j) else (elemAt 32 dst j : Nat)))) xm)))) ∧
    (isTb e = true → t.vlN * f.width ≤ t.vlmaxN → t.startN % t.blenN = 0 →
      exec (.vbq d a fa xm src bank) s = .next (s.done fun u =>
        { T.state (quantGroups d.toNat x f bank xm (t.groups - t.startN / t.blenN) (t.startN / t.blenN)) u with
          vstart := 0 }))

/-- R302 to R305, R127, Table 12.9: the vector loads. Where every touched element's address is aligned and translates
with its A bit set, each touched element of each field register becomes the value held there; every other element and
register, and all of memory, keep their values, and `vstart` becomes 0. An acquire form also writes `k15`. -/
def Obligations.VectorLoadResults : Prop :=
  ∀ (s : State) (d a b : BitVec 5) (fa fb : Bool) (scope : BitVec 3), s.quiet → s.plain → s.fullX [a] →
    s.th.wait = .none → s.th.vtype.getLsbD 63 = false → s.th.etype ≠ 12 → s.th.vlN * s.th.ew ≤ 32768 →
    let w := s.th.ew
    let r (o : Host.Outcome State Fault Refusal) (f : Form) (kind : Nat) (acq : Option Nat) : Prop :=
      let va (i fi : Nat) : Word := s.th.elementAddr f (s.gx a) (s.vbits b) i fi
      s.readyRun d f.fields → s.readyForm f b →
      (∀ i < 4096, s.th.touched i → ∀ fi < f.fields, s.valueAt kind (va i fi) (w / 8) ≠ none) →
      Nexts o fun t =>
        (∀ i < 4096, ∀ fi < f.fields, w * (i + 1) ≤ 32768 →
          elemAt w (t.th.vreg (d.toNat + fi)).bits.toNat i =
            if s.th.touched i then (s.valueAt kind (va i fi) (w / 8)).getD 0 % 2 ^ w
            else elemAt w (s.th.vreg (d.toNat + fi)).bits.toNat i) ∧
        (∀ k < 1024, (k < d.toNat ∨ d.toNat + f.fields ≤ k) → t.th.vreg k = s.th.vreg k) ∧
        t.th = ({ s.th with v := t.th.v, k := t.th.k, kw := t.th.kw, idx := t.th.idx, vstart := 0 } : Thread).progress t.th ∧
        (acq = none → t.th.k = s.th.k ∧ t.th.kw = s.th.kw) ∧ (∀ k < 15, t.th.mask k = s.th.mask k) ∧
        s.sameOthers t ∧ s.memoryFrame t ∧ t.mem = s.mem ∧ t.host = s.host
    r (exec (.vld d a fa) s) .strided 1 none ∧
    r (exec (.vldX8 d a b fa fb) s) (.indexed 8) 2 none ∧
    r (exec (.vldX8O d a b fa fb) s) (.indexed 8) 2 none ∧
    r (exec (.vldX16 d a b fa fb) s) (.indexed 16) 2 none ∧
    r (exec (.vldX16O d a b fa fb) s) (.indexed 16) 2 none ∧
    r (exec (.vldX32 d a b fa fb) s) (.indexed 32) 2 none ∧
    r (exec (.vldX32O d a b fa fb) s) (.indexed 32) 2 none ∧
    r (exec (.vldX d a b fa fb) s) (.indexed 64) 2 none ∧
    r (exec (.vldXO d a b fa fb) s) (.indexed 64) 2 none ∧
    r (exec (.vldX32Acq d a b fa fb scope) s) (.indexed 32) 2 (some scope.toNat) ∧
    r (exec (.vldX32OAcq d a b fa fb scope) s) (.indexed 32) 2 (some scope.toNat) ∧
    r (exec (.vldXAcq d a b fa fb scope) s) (.indexed 64) 2 (some scope.toNat) ∧
    r (exec (.vldXOAcq d a b fa fb scope) s) (.indexed 64) 2 (some scope.toNat) ∧
    r (exec (.vldsN2 d a fa) s) (.segment 2) 1 none ∧
    r (exec (.vldsN3 d a fa) s) (.segment 3) 1 none ∧
    r (exec (.vldsN4 d a fa) s) (.segment 4) 1 none ∧
    r (exec (.vldsN5 d a fa) s) (.segment 5) 1 none ∧
    r (exec (.vldsN6 d a fa) s) (.segment 6) 1 none ∧
    r (exec (.vldsN7 d a fa) s) (.segment 7) 1 none ∧
    r (exec (.vldsN8 d a fa) s) (.segment 8) 1 none

/-- R302 to R305: the vector stores. Where every touched element's address is aligned and translates with its A and D
bits set, the fields of the touched elements are written in element order, each with its own bytes and nothing else,
and no register changes. R106, R292, R45: one store changes the bytes it writes and no other byte of module memory. -/
def Obligations.VectorStoreResults : Prop :=
  (∀ (s u : State) (d a b : BitVec 5) (fa fb : Bool), s.quiet → s.plain → s.fullX [a] →
    s.th.wait = .none → s.th.vtype.getLsbD 63 = false → s.th.etype ≠ 12 →
    let r (o : Host.Outcome State Fault Refusal) (f : Form) (kind : Nat) : Prop :=
      s.readyRun d f.fields → s.readyForm f b →
      s.putList kind (s.storeElems f d (s.gx a) (s.vbits b)) = some u →
      Nexts o fun t =>
        t.mem = u.mem ∧ t.host = u.host ∧ t = { u with threads := t.threads } ∧ s.sameOthers t ∧
        t.th = ({ s.th with vstart := 0, idx := t.th.idx } : Thread).progress t.th
    r (exec (.vst d a fa) s) .strided 4 ∧
    r (exec (.vstX8 d a b fa fb) s) (.indexed 8) 5 ∧
    r (exec (.vstX8O d a b fa fb) s) (.indexed 8) 5 ∧
    r (exec (.vstX16 d a b fa fb) s) (.indexed 16) 5 ∧
    r (exec (.vstX16O d a b fa fb) s) (.indexed 16) 5 ∧
    r (exec (.vstX32 d a b fa fb) s) (.indexed 32) 5 ∧
    r (exec (.vstX32O d a b fa fb) s) (.indexed 32) 5 ∧
    r (exec (.vstX d a b fa fb) s) (.indexed 64) 5 ∧
    r (exec (.vstXO d a b fa fb) s) (.indexed 64) 5 ∧
    r (exec (.vstsN2 d a fa) s) (.segment 2) 4 ∧
    r (exec (.vstsN3 d a fa) s) (.segment 3) 4 ∧
    r (exec (.vstsN4 d a fa) s) (.segment 4) 4 ∧
    r (exec (.vstsN5 d a fa) s) (.segment 5) 4 ∧
    r (exec (.vstsN6 d a fa) s) (.segment 6) 4 ∧
    r (exec (.vstsN7 d a fa) s) (.segment 7) 4 ∧
    r (exec (.vstsN8 d a fa) s) (.segment 8) 4) ∧
  (∀ (s u : State) (kind : Nat) (va : Word) (bs : List Byte) (tg : Target), s.plain →
    s.targetOf (storeAcc kind bs.length) va = some tg → tg.place.isMem = true → bs.length ∈ [1, 2, 4, 8] →
    s.putAt kind va bs = some u →
    u.plain ∧ u.host = s.host ∧ u.threads = s.threads ∧ s.wrote u [(tg, bs)])

/-- R306 and R251: `vld` and `vst` of tb6 elements over the packed 6-bit stream, for one touched element whose bits lie
in one byte or two of module memory; a store changes the element's six bits there and nothing else. R308: `vldsc` fills
the entries of its bank that the strip uses, from `vstart`, and no other entry. -/
def Obligations.StreamAndScaleLoads : Prop :=
  (∀ (s : State) (d a : BitVec 5) (fa : Bool), s.quiet → s.plain → s.fullX [a] → s.readyV [d] →
    s.th.wait = .none → s.th.vtype.getLsbD 63 = false → s.th.etype = 12 → s.th.vstride = 0 →
    s.th.vlN = s.th.startN + 1 → s.th.active s.th.startN = true → s.th.startN < 4096 →
    let i := s.th.startN
    let b0 := s.gx a + BitVec.ofNat 64 (6 * i / 8)
    let b1 := s.gx a + BitVec.ofNat 64 ((6 * i + 5) / 8)
    let x := (s.valueAt 1 b0 1).getD 0 + 256 * (s.valueAt 1 b1 1).getD 0
    (s.valueAt 1 b0 1 ≠ none → s.valueAt 1 b1 1 ≠ none → Nexts (exec (.vld d a fa) s) fun t =>
      elemAt 8 (t.th.vreg d.toNat).bits.toNat i =
        (if b1 = b0 then (s.valueAt 1 b0 1).getD 0 / 2 ^ (6 * i % 8) else x / 2 ^ (6 * i % 8)) % 64 ∧
      t.mem = s.mem) ∧
    (∀ t0 t1 : Target,
      let acc : Acc := ⟨4, false, true, false, false, true, 1⟩
      let lo := 6 * i % 8
      let v := elemAt 8 (s.vbits d) i % 64
      let o0 := natOfBytes (s.heldAt t0 1)
      let o1 := natOfBytes (s.heldAt t1 1)
      s.targetOf acc b0 = some t0 → s.targetOf acc b1 = some t1 →
      Nexts (exec (.vst d a fa) s) fun t =>
        t.th = ({ s.th with vstart := 0 } : Thread).progress t.th ∧ t.host = s.host ∧
        s.wrote t (if b1 = b0 then [(t0, [BitVec.ofNat 8 (o0 % 2 ^ lo + v * 2 ^ lo + o0 / 2 ^ (lo + 6) * 2 ^ (lo + 6))])]
          else [(t0, [BitVec.ofNat 8 (o0 % 2 ^ lo + v % 2 ^ (8 - lo) * 2 ^ lo)]),
            (t1, [BitVec.ofNat 8 (v / 2 ^ (8 - lo) + o1 / 2 ^ (lo - 2) * 2 ^ (lo - 2))])]))) ∧
  (∀ (s : State) (a : BitVec 5) (fa : Bool), s.quiet → s.plain → s.fullX [a] → s.th.vtype.getLsbD 63 = false →
    s.th.groups ≤ 512 →
    let va (g : Nat) : Word := s.gx a + BitVec.ofNat 64 g * (if s.th.vstride ≠ 0 then s.th.vstride else 1)
    (∀ g < 512, s.th.startN ≤ g → g < s.th.groups → s.valueAt 1 (va g) 1 ≠ none) →
    let entry (old new : BitVec 4096) : Prop := ∀ g < 512, elemAt 8 new.toNat g =
      if s.th.startN ≤ g ∧ g < s.th.groups then (s.valueAt 1 (va g) 1).getD 0 % 256 else elemAt 8 old.toNat g
    Nexts (exec (.vldscSca a fa) s) (fun t => entry s.th.sca t.th.sca ∧ t.th.scb = s.th.scb ∧ t.mem = s.mem ∧
      t.th = ({ s.th with sca := t.th.sca, scaw := t.th.scaw, vstart := 0 } : Thread).progress t.th) ∧
    Nexts (exec (.vldscScb a fa) s) (fun t => entry s.th.scb t.th.scb ∧ t.th.sca = s.th.sca ∧ t.mem = s.mem ∧
      t.th = ({ s.th with scb := t.th.scb, scbw := t.th.scbw, vstart := 0 } : Thread).progress t.th))

/-- R309, Table 12.12: `vstbm` writes the header, the bitmask and the packed nonzero elements, in that order, where
the capacity suffices; with too little it traps with cause 0x14 and the bytes needed in `tval`, having written
nothing. R310: `vldbm` expands a compressed form: element i below n is the next packed value where bit i of the
bitmask is set, and zero elsewhere; elements from n up keep their values, and `vl` becomes n. -/
def Obligations.CompressedForms : Prop :=
  (∀ (s u : State) (d a b : BitVec 5) (fa fb : Bool), s.quiet → s.plain → s.fullX [a, b] → s.readyV [d] →
    s.th.wait = .none → s.th.vtype.getLsbD 63 = false → s.th.etype ≠ 12 → s.th.vstart = 0 → (s.gx a).toNat % 8 = 0 →
    let w := s.th.ew / 8
    let n := s.th.vlN
    let c := (n + 63) / 64
    let st := (List.range n).filter fun i => s.th.active i && !isZeroElem s.th.etype (elemAt s.th.ew (s.vbits d) i)
    let need := 8 + 8 * c + st.length * w
    let mask := st.foldl (fun r i => r + 2 ^ i) 0
    let form : List (Nat × List Byte) := (0, bytesOfNat 8 (n + 65536 * st.length)) ::
      (List.range c).map (fun j => (8 + 8 * j, bytesOfNat 8 (mask / 2 ^ (64 * j)))) ++
      st.zipIdx.map fun p => (8 + 8 * c + p.2 * w, bytesOfNat w (elemAt s.th.ew (s.vbits d) p.1))
    (need ≤ (s.gx b).toNat → s.putList 4 (form.map fun p => (s.gx a + BitVec.ofNat 64 p.1, p.2)) = some u →
      Nexts (exec (.vstbm d a b fa fb) s) fun t =>
        t.mem = u.mem ∧ t.host = u.host ∧ t.th = s.th.progress t.th ∧ s.sameOthers t) ∧
    ((s.gx b).toNat < need → exec (.vstbm d a b fa fb) s =
      .next (takesTrap 0x14 (BitVec.ofNat 64 need) 0 0 s.atIssue))) ∧
  (∀ (s : State) (d a : BitVec 5) (fa : Bool), s.quiet → s.plain → s.fullX [a] → s.readyV [d] →
    s.th.wait = .none → s.th.vtype.getLsbD 63 = false → s.th.etype ≠ 12 → s.th.vstart = 0 → (s.gx a).toNat % 8 = 0 →
    let w := s.th.ew
    let base := s.gx a
    let n := (s.valueAt 1 base 2).getD 0
    let z := (s.valueAt 1 (base + 2) 2).getD 0
    let c := (n + 63) / 64
    let bit (i : Nat) : Bool := ((s.valueAt 1 (base + BitVec.ofNat 64 (8 + 8 * (i / 64))) 8).getD 0).testBit (i % 64)
    let ones (i : Nat) : Nat := ((List.range i).filter bit).length
    let val (j : Nat) : Option Nat := s.valueAt 1 (base + BitVec.ofNat 64 (8 + 8 * c + j * (w / 8))) (w / 8)
    s.valueAt 1 base 2 ≠ none → s.valueAt 1 (base + 2) 2 ≠ none → n * w ≤ 32768 → n ≤ s.th.vlmaxN / w →
    (∀ j < c, s.valueAt 1 (base + BitVec.ofNat 64 (8 + 8 * j)) 8 ≠ none) → ones n = z → (∀ j < z, val j ≠ none) →
    Nexts (exec (.vldbm d a fa) s) fun t =>
      (∀ i < 4096, w * (i + 1) ≤ 32768 → elemAt w (t.th.vreg d.toNat).bits.toNat i =
        if i < n then (if bit i then (val (ones i)).getD 0 % 2 ^ w else 0) else elemAt w (s.vbits d) i) ∧
      t.th.vl = BitVec.ofNat 64 n ∧ (∀ k < 1024, k ≠ d.toNat → t.th.vreg k = s.th.vreg k) ∧
      t.th = ({ s.th with v := t.th.v, vl := t.th.vl, vstart := 0 } : Thread).progress t.th ∧
      t.mem = s.mem ∧ t.host = s.host)

/-- R311: a scatter-add of one element adds it to the memory its offset names: integers wrap, f32 rounds to
nearest-even; no register changes but `vstart` (and the flags of a signalling operand). R312 and R313: hash-accumulate
of one element whose first slot holds its key adds to that slot's value; whose first slot is empty, with room in the
table, takes the slot and counts it. No other byte of memory changes. -/
def Obligations.ScatterAndHash : Prop :=
  (∀ (s : State) (tg : Target) (d a b : BitVec 5) (fa fb rel : Bool) (scope : BitVec 3), s.quiet → s.plain →
    s.fullX [a] → s.readyV [d, b] → s.th.wait = .none → s.th.vtype.getLsbD 63 = false →
    s.th.etype ∈ [2, 3, 6, 7, 10] → s.th.vlN = s.th.startN + 1 → s.th.active s.th.startN = true →
    s.th.ftrap.toNat % 64 = 0 →
    let i := s.th.startN
    let w := s.th.ew
    let x := elemAt w (s.vbits d) i
    let old := natOfBytes (s.heldAt tg (w / 8))
    let sum := if s.th.etype = 10 then (fAdd f32 0 old x).1 else (old + x) % 2 ^ w
    let fl := if s.th.etype = 10 then (f32.val x).nanFlags else 0
    let r (xw : Nat) (o : Host.Outcome State Fault Refusal) : Prop :=
      let va := s.gx a + BitVec.ofNat 64 (elemAt xw (s.vbits b) i)
      s.readyForm (.indexed xw) b → va.toNat % (w / 8) = 0 → s.targetOf atomicAcc va = some tg →
      (rel = true → s.mayRelease scope.toNat) → Nexts o fun t => t.host = s.host ∧
        t.th = ({ s.th with vstart := 0, idx := t.th.idx, fflags := s.th.fflags ||| BitVec.ofNat 64 fl } : Thread).progress t.th ∧
        s.wrote t [(tg, bytesOfNat (w / 8) sum)]
    r 32 (exec (.vscaddX32 d a b fa fb rel scope) s) ∧ r 64 (exec (.vscaddX d a b fa fb rel scope) s)) ∧
  (∀ (s : State) (dt st : Target) (d a b : BitVec 5) (fa fb rel : Bool) (scope : BitVec 3), s.quiet → s.plain →
    s.fullX [a] → s.readyV [d, b] → s.th.wait = .none → s.th.vtype.getLsbD 63 = false →
    s.th.etype ∈ [2, 3, 6, 7] → s.th.vlN = s.th.startN + 1 → s.th.active s.th.startN = true →
    lineOf st.pa ≠ lineOf dt.pa → (rel = true → s.mayRelease scope.toNat) →
    (s.gx a).toNat % 32 = 0 → s.targetOf atomicAcc (s.gx a) = some dt →
    let i := s.th.startN
    let w := s.th.ew
    let des (k n : Nat) : Nat := natOfBytes (((s.heldAt dt 32).drop k).take n)
    let lcap := des 8 8 % 32
    let base := des 0 8
    let maxocc := des 24 8
    let occ := des 16 8 % 2 ^ 32
    let x := s.vbits d
    let v : Int := if s.th.etype < 4 then sval w (elemAt w x i) else (elemAt w x i : Nat)
    base % 16 = 0 → des 8 8 < 32 → des 16 8 < 2 ^ 32 → maxocc < 2 ^ 32 → 4 ≤ lcap → lcap ≤ 30 → maxocc < 2 ^ lcap →
    (∀ j < (base % 4096 + 16 * 2 ^ lcap + 4095) / 4096,
      s.targetOf atomicAcc (if j = 0 then BitVec.ofNat 64 base
        else BitVec.ofNat 64 (base - base % 4096) + BitVec.ofNat 64 (4096 * j)) ≠ none) →
    let r (xw : Nat) (o : Host.Outcome State Fault Refusal) : Prop :=
      let key := elemAt xw (s.vbits b) i
      let slot := key * 0x9E3779B97F4A7C15 % 2 ^ 64 / 2 ^ (64 - lcap)
      let held := natOfBytes ((s.heldAt st 16).take 8)
      let value := natOfBytes ((s.heldAt st 16).drop 8)
      let put (ws : List (Target × List Byte)) (t : State) : Prop := t.host = s.host ∧
        t.th = ({ s.th with vstart := 0, idx := t.th.idx } : Thread).progress t.th ∧ s.wrote t ws
      s.readyForm (.indexed xw) b → key ≠ 2 ^ 64 - 1 →
      s.targetOf atomicAcc (BitVec.ofNat 64 (base + 16 * slot)) = some st →
      (held = key → Nexts o (put [({ st with pa := st.pa + 8 }, bytesOfNat 8 ((value + v) % 2 ^ 64).toNat)])) ∧
      (held = 2 ^ 64 - 1 → occ < maxocc →
        Nexts o (put [(st, bytesOfNat 8 key ++ bytesOfNat 8 (v % 2 ^ 64).toNat),
          ({ dt with pa := dt.pa + 16 }, bytesOfNat 8 (occ + 1))]))
    r 32 (exec (.vhaccX32 d a b fa fb rel scope) s) ∧ r 64 (exec (.vhaccX d a b fa fb rel scope) s))

/-- R329 to R331: what each permute writes, with operands ready and distinct where the row asks for it. R329, R330:
`vmerge` chooses for every element below `vl`, active or not; `vcpvl` packs the active elements to the front and sets
`vl` to their number. -/
def Obligations.PermuteResults : Prop :=
  (∀ (s : State) (d a b : BitVec 5) (fa fb : Bool), s.quiet → s.th.vtype.getLsbD 63 = false →
    let w := s.th.ew
    let n := s.th.vlmaxN / w
    let x (i : Nat) : Nat := elemAt w (s.vbits a) i
    let k := (s.gx b).toNat
    let r (f : Nat → Option Nat) : Host.Outcome State Fault Refusal :=
      .next (s.loopDone d w false false fun i _ => ⟨f i, 0, false, false⟩)
    (s.readyV [d, a] → exec (.vmv d a fa) s = r fun i => some (x i)) ∧
    (s.readyV [d] → s.fullX [a] → exec (.vbcast d a fa) s = r fun _ => some ((s.gx a).toNat % 2 ^ w)) ∧
    (s.readyV [d, a] → s.fullX [b] → d ≠ a →
      exec (.vslideup d a b fa fb) s = r (fun i => if k ≤ i then some (x (i - k)) else none) ∧
      exec (.vslidedn d a b fa fb) s = r fun i => some (if i + k < n then x (i + k) else 0)) ∧
    (s.readyV [d, a, b] → d ≠ a → d ≠ b → exec (.vperm d a b fa fb) s =
      r fun i => some (if elemAt w (s.vbits b) i < n then x (elemAt w (s.vbits b) i) else 0)) ∧
    (s.readyV [a] → s.fullX [d, b] → exec (.vext d a b fa fb) s = .next (s.done fun t => t.setX d.toNat
      (if k < n then (if isSigned s.th.etype then BitVec.ofInt 64 (sval w (x k)) else BitVec.ofNat 64 (x k)) else 0))) ∧
    (s.readyV [d] → s.fullX [a, b] → exec (.vins d a b fa fb) s = .next (s.done fun t =>
      if k < n then t.setVreg d.toNat { t.vreg d.toNat with
        bits := BitVec.ofNat 32768 (setElem w (s.vbits d) k (s.gx a).toNat),
        vb := max (t.vreg d.toNat).vb (vbOf w k) } else t)) ∧
    (s.readyV [d] → s.fullX [a] → (s.gx a).toNat < s.th.vx → s.th.vFull (32 + (s.gx a).toNat) = true →
      exec (.vxrd d a fa) s =
        .next (s.done fun t => t.setVreg d.toNat (s.th.vreg (32 + (s.gx a).toNat)))) ∧
    (s.readyV [b] → s.fullX [a] → (s.gx a).toNat < s.th.vx → s.th.vFull (32 + (s.gx a).toNat) = true →
      exec (.vxwr a b fa fb) s =
        .next (s.done fun t => t.setVreg (32 + (s.gx a).toNat) (s.th.vreg b.toNat)))) ∧
  (∀ (s : State) (d a b : BitVec 5) (fa fb : Bool), s.quiet → s.th.vtype.getLsbD 63 = false →
    s.th.vlN * s.th.ew ≤ 32768 →
    let w := s.th.ew
    let act := (List.range s.th.vlN).filter s.th.active
    (s.readyV [d, a, b] → Nexts (exec (.vmerge d a b fa fb) s) fun t =>
      (∀ i < 4096, w * (i + 1) ≤ 32768 → elemAt w (t.th.vreg d.toNat).bits.toNat i =
        if s.th.startN ≤ i ∧ i < s.th.vlN then elemAt w (if s.th.active i then s.vbits a else s.vbits b) i
        else elemAt w (s.vbits d) i) ∧
      (∀ k < 1024, k ≠ d.toNat → t.th.vreg k = s.th.vreg k) ∧
      t.th = ({ s.th with v := t.th.v, vstart := 0 } : Thread).progress t.th) ∧
    (s.readyV [d, a] → d ≠ a → s.th.vstart = 0 → Nexts (exec (.vcpvl d a fa) s) fun t =>
      (∀ j < 4096, w * (j + 1) ≤ 32768 → elemAt w (t.th.vreg d.toNat).bits.toNat j =
        if j < act.length then elemAt w (s.vbits a) (act.getD j 0) else elemAt w (s.vbits d) j) ∧
      (∀ k < 1024, k ≠ d.toNat → t.th.vreg k = s.th.vreg k) ∧ t.th.vl = BitVec.ofNat 64 act.length ∧
      t.th = ({ s.th with v := t.th.v, vl := t.th.vl, vstart := 0 } : Thread).progress t.th))

/-- R332, R260, R261: a reduction of the active elements and the start value in `b`, into `sd`; the start value itself
where no element is active. `vfredsum` adds by the tree of R260, as `treeSum` reads it. R333: mask operations act on
every bit below `vl`, whatever `vmsk` and `vstart`; higher bits and other masks keep their values. -/
def Obligations.ReductionAndMaskResults : Prop :=
  (∀ (s : State) (d a b : BitVec 5) (fa fb : Bool), s.quiet → s.th.vtype.getLsbD 63 = false →
    s.th.vstart = 0 → s.sched.lazy = false → s.readyV [a] → s.fullX [d, b] →
    let e := s.th.etype
    let w := s.th.ew
    let m := s.th.frm.toNat % 8
    let f := fmtOf e
    let b0 := (s.gx b).toNat % 2 ^ w
    let x (i : Nat) : Nat := elemAt w (s.vbits a) i
    let act := (List.range s.th.vlN).filter s.th.active
    let num (v : Nat) : Word := if isSigned e then BitVec.ofInt 64 (sval w v) else BitVec.ofNat 64 v
    let sum := writeInt .fit s.th.satOn (isSigned e) w (act.foldl (fun r i => r + ival e w (x i)) (ival e w b0))
    let ints (v : Nat) (c : Bool) : Host.Outcome State Fault Refusal := .next (s.done fun t =>
      { t.setX d.toNat (num v) with vxsat := if c then t.vxsat ||| 1 else t.vxsat })
    let folded (g : Int → Int → Int) : Host.Outcome State Fault Refusal :=
      ints ((act.foldl (fun r i => g r (ival e w (x i))) (ival e w b0)) % 2 ^ w).toNat false
    let bits (g : Nat → Nat → Nat) : Host.Outcome State Fault Refusal :=
      ints (act.foldl (fun r i => g r (x i)) b0) false
    let flt (g : Nat → Nat → Nat × Nat) : Host.Outcome State Fault Refusal :=
      .next (s.fpDone d (act.foldl (fun r i => ((g r.1 (x i)).1, r.2 ||| (g r.1 (x i)).2)) (b0, 0)))
    let tree := treeSum f m 13 ((List.range s.th.vlN).map fun i => if s.th.active i then some (x i) else none) 0
    (isInt e = true →
      exec (.vredsum d a b fa fb) s = ints (sum.val.getD 0) sum.sat ∧
      exec (.vredmin d a b fa fb) s = folded min ∧ exec (.vredmax d a b fa fb) s = folded max ∧
      exec (.vredand d a b fa fb) s = bits (fun p q => p &&& q) ∧
      exec (.vredor d a b fa fb) s = bits (fun p q => p ||| q) ∧
      exec (.vredxor d a b fa fb) s = bits (fun p q => p ^^^ q)) ∧
    (isFp e = true →
      exec (.vfredo d a b fa fb) s = flt (fAdd f m) ∧
      exec (.vfredmin d a b fa fb) s = flt (fMinMax f false) ∧
      exec (.vfredmax d a b fa fb) s = flt (fMinMax f true) ∧
      exec (.vfredsum d a b fa fb) s = .next (s.fpDone d (match tree.1 with
        | some v => ((fAdd f m b0 v).1, tree.2 ||| (fAdd f m b0 v).2)
        | none => (b0, 0))))) ∧
  (∀ (s : State) (d a b : BitVec 5) (fa : Bool), s.quiet → s.th.vtype.getLsbD 63 = false →
    d.toNat < 16 → a.toNat < 16 → b.toNat < 16 →
    let x (i : Nat) : Bool := (s.th.mask a.toNat).testBit i
    let y (i : Nat) : Bool := (s.th.mask b.toNat).testBit i
    let ones (n : Nat) : Nat := ((List.range n).filter x).length
    let w := s.th.ew
    let r (o : Host.Outcome State Fault Refusal) (f : Nat → Bool) : Prop := Nexts o fun t =>
      (∀ i < 4096, (t.th.mask d.toNat).testBit i =
        if i < s.th.vlN then f i else (s.th.mask d.toNat).testBit i) ∧
      (∀ k < 16, k ≠ d.toNat → t.th.mask k = s.th.mask k) ∧ t = { s with threads := t.threads } ∧ s.sameOthers t ∧
      t.th = ({ s.th with k := t.th.k, kw := s.th.kw ||| (1#16 <<< d.toNat), vstart := 0 } : Thread).progress t.th
    let v (o : Host.Outcome State Fault Refusal) (f : Nat → Nat) : Prop := Nexts o fun t =>
      (∀ i < 4096, w * (i + 1) ≤ 32768 → elemAt w (t.th.vreg d.toNat).bits.toNat i =
        if i < s.th.vlN then f i % 2 ^ w else elemAt w (s.vbits d) i) ∧
      t.th = ({ s.th with v := t.th.v, vstart := 0 } : Thread).progress t.th
    r (exec (.kand d a b) s) (fun i => x i && y i) ∧ r (exec (.kor d a b) s) (fun i => x i || y i) ∧
    r (exec (.kxor d a b) s) (fun i => x i != y i) ∧ r (exec (.kandn d a b) s) (fun i => x i && !y i) ∧
    r (exec (.knot d a) s) (fun i => !x i) ∧ r (exec (.kmov d a) s) x ∧
    r (exec (.kset d) s) (fun _ => true) ∧ r (exec (.kclr d) s) (fun _ => false) ∧
    (s.fullX [d] → exec (.kpop d a) s =
      .next (s.done fun t => { t.setX d.toNat (BitVec.ofNat 64 (ones s.th.vlN)) with vstart := 0 })) ∧
    (s.fullX [d] → exec (.kfirst d a) s = .next (s.done fun t =>
      { t.setX d.toNat (match (List.range s.th.vlN).find? x with
          | some i => BitVec.ofNat 64 i
          | none => BitVec.allOnes 64) with vstart := 0 })) ∧
    (isInt s.th.etype = true → s.readyV [a] →
      r (exec (.kfromv d a fa) s) fun i => elemAt w (s.vbits a) i != 0) ∧
    (isInt s.th.etype = true → s.readyV [d] → s.th.vlN * w ≤ 32768 →
      v (exec (.kiota d a) s) ones ∧ v (exec (.ktov d a) s) fun i => if x i then 1 else 0))

/-- R156, R334: `vsplit` makes w threads that go on at the next word, each with its number in `sd`, the lanes of its
part, the fraction of every mask that is its own, and an illegal vector configuration; every dword of a vector register
stays at its physical lane and depth (R76), where the thread that owns the lane has it. R158: a thread that joins
before the others waits; the last to join makes one thread again, at the word after thread 0's `vjoin`, with thread
0's scalar registers, the flags of all, the masks side by side, and each dword of a vector register where its thread left
it. R162: the lead is forked afresh for each thread. The trap's `tinfo` is 0, which for its STRIDE half is the model's
reading (log 21). R174 to R176, R335, R336: `xrecv` empties a
register; `xsend` to a peer whose register is empty lands there; one that waited lands once the register is empty; to
no peer it traps with cause 0x03, but one that waits already goes on waiting. -/
def Obligations.SplitAndJoinResults : Prop :=
  (∀ (s : State) (d n : BitVec 5), s.quiet → s.sq.split = 1 → s.cur.thr = 0 → n ∈ [2, 4] → s.fullX [d] →
    let w := n.toNat
    let sl := s.sq.slots
    let lanes (i : Nat) : List Nat := lanesIn s.th.lanes (sl.1 + i * sl.2 / w) (sl.2 / w)
    (∀ i < 4, i < w → lanes i ≠ []) → s.th.pend = [] → s.th.lanes.Nodup → s.th.layout.Nodup →
    s.th.lanes.length * s.th.depth ≤ 512 → s.th.layout.length * s.th.depth ≤ 512 →
    Nexts (exec (.vsplit d n) s) fun t =>
      t.sq.split = w ∧ t.mem = s.mem ∧ t.host = s.host ∧
      ∀ i < 4, i < w →
        let p := t.thread s.cur.seq i
        p.pc = (seqNext s.th s.th.pc).1 ∧ p.getX d.toNat = (if d = 0 then 0 else BitVec.ofNat 64 i) ∧
        (∀ q < 32, q ≠ d.toNat → p.getX q = s.th.getX q) ∧ p.lanes = lanes i ∧
        p.vtype = 0x8000000000000000#64 ∧ p.fflags = s.th.fflags ∧ p.wait = .none ∧
        p.forkAt = s.counts ∧ p.doubt = false ∧
        (∀ k < 16, p.mask k = s.th.mask k / 2 ^ (4096 / w * i) % 2 ^ (4096 / w)) ∧
        ∀ k < 1024, ∀ g g0 lane : Nat, ∀ j < s.th.depth, (lanes i)[g]? = some lane → s.th.layout[g0]? = some lane →
          elemAt 64 (p.vreg k).bits.toNat (g + j * (lanes i).length) =
            elemAt 64 (s.th.vreg k).bits.toNat (g0 + j * s.th.layout.length)) ∧
  (∀ (s : State), s.quiet → s.plain → s.sq.split ∈ [2, 4] → s.cur.thr < s.sq.split →
    let w := s.sq.split
    let q := s.cur.seq
    let th (i : Nat) : Thread := s.thread q i
    (∀ i < 4, i < w → (th i).pend = []) →
    let apart : Prop := ∀ i < 4, i < w → (th i).layout.Nodup ∧ (th i).layout.length * (th 0).depth ≤ 512 ∧
      ∀ j < 4, j < w → j ≠ i → ∀ lane ∈ (th i).layout, lane ∉ (th j).layout
    ((∃ i < 4, i < w ∧ i ≠ s.cur.thr ∧ (th i).wait ≠ .join) →
      exec .vjoin s = .next (s.setTh { s.th.begin with wait := .join, ended := .waiting })) ∧
    ((∀ i < 4, i < w → i ≠ s.cur.thr → (th i).wait = .join) → Nexts (exec .vjoin s) fun t =>
      t.sq.split = 1 ∧ t.cur = ⟨q, 0⟩ ∧ t.th.pc = (seqNext (th 0) (th 0).pc).1 ∧
      (∀ r < 32, t.th.getX r = (th 0).getX r) ∧ t.th.vtype = 0x8000000000000000#64 ∧
      t.th.fflags = (List.range w).foldl (fun f i => f ||| (th i).fflags) 0 ∧
      t.th.latch = (List.range w).foldl (fun f i => f ||| (th i).latch) 0 ∧
      (∀ k < 16, ∀ i < 4, i < w →
        t.th.mask k / 2 ^ (4096 / w * i) % 2 ^ (4096 / w) = (th i).mask k % 2 ^ (4096 / w)) ∧
      t.th.layout = liveLanes s.cp s.sq ∧ t.th.forkAt = s.counts ∧ t.th.doubt = false ∧
      (apart → t.th.layout.length * (th 0).depth ≤ 512 → ∀ k < 1024, ∀ i < 4, i < w → ∀ g g0 lane : Nat,
        ∀ j < (th 0).depth, (th i).layout[g]? = some lane → t.th.layout[g0]? = some lane →
          elemAt 64 (t.th.vreg k).bits.toNat (g0 + j * t.th.layout.length) =
            elemAt 64 ((th i).vreg k).bits.toNat (g + j * (th i).layout.length)) ∧
      (∀ i < 4, 0 < i → i < w → t.thread q i = {}) ∧ t.mem = s.mem ∧ t.host = s.host)) ∧
  (∀ (s : State) (q u : Nat) (d a b : BitVec 5) (fa fb : Bool), s.quiet →
    (d.toNat < s.th.vn → exec (.xrecv d) s =
      .next (s.done fun t => t.setVreg d.toNat { t.vreg d.toNat with empty := true })) ∧
    (s.fullX [a] → s.readyV [b] → s.peerOf (s.gx a) = none →
      (s.th.wait ≠ .peer → exec (.xsend d a b fa fb) s = .next (takesTrap 0x03 0 0 0 s.atIssue)) ∧
      (s.th.wait = .peer → exec (.xsend d a b fa fb) s = .next (s.setTh { s.th with ended := .waiting }))) ∧
    (s.fullX [a] → s.readyV [b] → s.peerOf (s.gx a) = some q →
      let p := s.thread q s.cur.thr
      q ≠ s.cur.seq → d.toNat < p.vn → p.vFull d.toNat = false →
      exec (.xsend d a b fa fb) s = .next (retire .seq (s.atIssue.land q d.toNat (s.th.vreg b.toNat))) ∧
      (s.cur = ⟨s.cur.seq, u⟩ → s.th.wait = .peer → fieldD s.th.ir = d → fieldA s.th.ir = a → fieldB s.th.ir = b →
        exec (.xsendLanding s.cur.seq u) s =
          .next (retire .seq (s.atIssue.land q d.toNat (s.th.vreg b.toNat))))))

/-- R289: `exit` unbinds the sequencer once nothing of it is in progress: its registers are discarded. R165, R167,
R168, R288: a claim of up to n entries takes what is there once READY of them (or n) are, or the queue is closed; it
answers end of stream on a closed queue with none, and else rebind where that is asked and another instance remains
(the order of the two is the model's, log 27); otherwise its destination is empty until it can answer, and the thread
goes on. It moves HEAD and no other byte. R165, R166, R337: an append of no active element writes 0 and no byte; of
one, it reserves, writes and publishes its entry: RESV and TAIL rise by one, the entry holds base plus the element's
number, and no other byte changes. The ring is of one page. That `exit` passes over a claim whose header fails, its slice
or channel (R22) or its key slot empty (R43), and waits for the others, is the model's (log 49). -/
def Obligations.QueueInstructionResults : Prop :=
  (∀ (s : State), s.quiet → s.sq.split = 1 → s.plain → s.th.claiming = false → s.engineBusy s.cur.seq = false →
    s.resvs.any (fun r => r.seq = some s.cur.seq) = false →
    (∀ c ∈ s.sq.claims, s.headFails c.header = true ∨ s.countReady (homeDie c.header.pa) 0 c.header = true) →
    Nexts (exec .exit s) fun t => t = s.atIssue.unbind s.cur.seq ∧ (t.seq s.cur.seq).bound = none ∧
      ∀ h < 4, t.thread s.cur.seq h = {}) ∧
  (∀ (s : State) (d a b : BitVec 5) (fa fb : Bool), s.quiet → s.plain → s.fullX [d, a, b] →
    let acc : Acc := ⟨6, true, true, false, false, true, 64⟩
    let va := s.gx a
    let tg := s.goesTo acc va
    let s' := s.walkedTo acc va
    let h := s'.header tg.head
    let n := (s.gx b).toNat
    let need := min n (h.threshold s.th)
    let done (t : State) (w : Word) : Prop := t.th = (s.th.setX d.toNat w).progress t.th ∧ t.host = s'.host
    va.toNat % 64 = 0 → s.reaches acc va → QHeader.ofBytes (s'.heldAt tg 64) = h → s.sq.split = 1 →
    s.th.wait = .none → s.th.claiming = false → d ≠ 0 → h.fault true = none →
    0 < n → n ≤ min (2 ^ h.lcap) (2 ^ 30 - 1) → s.sq.claims = [] → s.sq.rebound = [] → s.freed = [] →
    (need ≤ h.avail ∨ h.closed = true ∧ 0 < h.avail → Nexts (exec (.qnext d a b fa fb) s) fun t =>
      done t (BitVec.ofNat 64 (min n h.avail * 2 ^ 32 + h.head.toNat)) ∧
      t.header tg.head = { h with head := h.head + BitVec.ofNat 32 (min n h.avail) } ∧
      t.sq = { s.sq with
        claims := [⟨tg.head, va, s.sq.dxp, h.head.toNat, min n h.avail⟩], shadow := none } ∧
      ∀ x : Nat, x < tg.pa ∨ tg.pa + 4 ≤ x → memByte t.mem x = memByte s'.mem x) ∧
    (h.avail = 0 → h.closed = true → 0 < h.threshold s.th → Nexts (exec (.qnext d a b fa fb) s) fun t =>
      done t 0x4000000000000000#64 ∧ t.mem = s'.mem) ∧
    (h.avail < need → h.closed = false → s.sq.rebind = true → s.notLast = true →
      Nexts (exec (.qnext d a b fa fb) s) fun t => done t 0x8000000000000000#64 ∧ t.mem = s'.mem) ∧
    (h.avail < need → h.closed = false → (s.sq.rebind && s.notLast) = false →
      Nexts (exec (.qnext d a b fa fb) s) fun t =>
        t.th = ({ s.th.emptyX d.toNat with
          pend := s.th.pend ++ [.claim d.toNat tg.head va n] } : Thread).progress t.th ∧
        t.th.pc = (seqNext s.th s.th.pc).1 ∧ t.mem = s'.mem ∧ t.host = s'.host)) ∧
  (∀ (s : State) (tg et : Target) (d a b : BitVec 5) (fa fb : Bool) (i : Nat), s.quiet → s.plain → s.fullX [d, a, b] →
    let h := s.header tg.head
    let acc : Acc := ⟨4, false, true, false, false, false, 2 ^ h.esz⟩
    let u := M.state (countM tg.head offResv (h.resv + 1) none) s
    (s.gx a).toNat % 64 = 0 → s.targetOf ⟨6, true, true, false, false, true, 64⟩ (s.gx a) = some tg →
    QHeader.ofBytes (s.heldAt tg 64) = h → s.th.wait = .none → s.th.vtype.getLsbD 63 = false → s.th.vstart = 0 →
    h.fault false = none → h.base.toNat % 4096 = 0 → h.lcap + h.esz ≤ 12 → s.targetOf acc h.base ≠ none →
    ((List.range s.th.vlN).filter s.th.active = [] → Nexts (exec (.vcapp d a b fa fb) s) fun t =>
      t.th = (s.th.setX d.toNat 0).progress t.th ∧ t.mem = s.mem ∧ t.host = s.host) ∧
    ((List.range s.th.vlN).filter s.th.active = [i] → h.resv = h.tail → s.resvs = [] →
      (h.resv - h.free).toNat < 2 ^ h.lcap → h.mode = 0 → et.place.isMem = true → lineOf et.pa ≠ lineOf tg.pa →
      u.targetOf acc (h.base + BitVec.ofNat 64 (h.resv.toNat % 2 ^ h.lcap * 2 ^ h.esz)) = some et →
      Nexts (exec (.vcapp d a b fa fb) s) fun t =>
        t.th = ({ s.th.setX d.toNat 1 with latch := t.th.latch } : Thread).progress t.th ∧ t.host = s.host ∧
        t.header tg.head = { h with tail := h.tail + 1, resv := h.resv + 1 } ∧ t.resvs = [] ∧
        natOfBytes (t.heldAt et (2 ^ h.esz)) = (s.gx b + BitVec.ofNat 64 i).toNat % 2 ^ (8 * 2 ^ h.esz) ∧
        (∀ x : Nat, lineOf x = lineOf et.pa → x < et.pa ∨ et.pa + 2 ^ h.esz ≤ x →
          t.seen (s.keyOf et) x = s.seen (s.keyOf et) x) ∧
        ∀ x : Nat, lineOf x ≠ lineOf et.pa → x < tg.pa ∨ tg.pa + 16 ≤ x → memByte t.mem x = memByte s.mem x))

/-- R341, R342, R344: sparse sum and product over ascending coordinates, the dot product of the common ones, expansion
and compaction. The f32 dot product is the model's reading of R342 (`sparseDot`). R343: `sld` reads pairs of
coordinate and value from memory into the two registers, and `sst` writes them. -/
def Obligations.SparseResults : Prop :=
  (∀ (s : State) (d a b : BitVec 5) (fa fb : Bool), s.quiet → s.feature 10 = true → s.th.vn = 32 →
    s.th.vtype.getLsbD 63 = false → s.th.etype ∈ [2, 6, 10] → s.th.vstart = 0 → s.sched.lazy = false →
    s.th.ftrap.toNat % 64 = 0 → s.th.sparseCap ≤ 1024 →
    let e := s.th.etype
    let m := s.th.frm.toNat % 8
    let pairs (t : Thread) (q : BitVec 5) : List (Nat × Nat) := (List.range (t.qlenN q)).map fun j =>
      (elemAt 32 (t.vreg (16 + 2 * q.toNat)).bits.toNat j, elemAt 32 (t.vreg (17 + 2 * q.toNat)).bits.toNat j)
    let full (q : BitVec 5) : Prop := q.toNat < 8 ∧ s.th.vFull (16 + 2 * q.toNat) = true ∧
      s.th.vFull (17 + 2 * q.toNat) = true
    let source (q : BitVec 5) : Prop := full q ∧ s.th.qlenN q ≤ s.th.sparseCap ∧
      ((pairs s.th q).map (·.1)).Pairwise (· < ·)
    let A := pairs s.th a
    let B := pairs s.th b
    let op (ff : Nat → Nat → Nat × Nat) (fi : Int → Int → Int) (x y : Nat) : Nat :=
      if e = 10 then (ff x y).1 else (writeInt .fit s.th.satOn (isSigned e) 32 (fi (ival e 32 x) (ival e 32 y))).val.getD 0
    let both := A.filterMap fun p => (B.lookup p.1).map fun y => (p.2, y)
    let rest (t : Thread) : Thread := { s.th with
      v := t.v, qlen := t.qlen, vstart := 0, fflags := t.fflags, vxsat := t.vxsat }
    (source a → source b → full d → (A.map (·.1) ++ B.map (·.1)).eraseDups.length ≤ s.th.sparseCap →
      Nexts (exec (.sadd d a b fa fb) s) fun t =>
        ((pairs t.th d).map (·.1)).Pairwise (· < ·) ∧
        (pairs t.th d).length = (A.map (·.1) ++ B.map (·.1)).eraseDups.length ∧
        (∀ p ∈ pairs t.th d, ((A.lookup p.1).isSome ∨ (B.lookup p.1).isSome) ∧
          p.2 = match A.lookup p.1, B.lookup p.1 with
            | some x, some y => op (fAdd f32 m) (fun x y => x + y) x y
            | some x, none => x
            | none, y => y.getD 0) ∧ t.th = (rest t.th).progress t.th) ∧
    (source a → source b → full d → both.length ≤ s.th.sparseCap →
      Nexts (exec (.smul d a b fa fb) s) fun t =>
        ((pairs t.th d).map (·.1)).Pairwise (· < ·) ∧ (pairs t.th d).length = both.length ∧
        (∀ p ∈ pairs t.th d, (A.lookup p.1).isSome ∧ (B.lookup p.1).isSome ∧
          p.2 = op (fMul f32 m) (fun x y => x * y) ((A.lookup p.1).getD 0) ((B.lookup p.1).getD 0)) ∧ t.th = (rest t.th).progress t.th) ∧
    (source a → source b → s.fullX [d] → exec (.sdot d a b fa fb) s = .next (s.done fun t =>
      let r := if e = 10 then sparseDot 10 m both
        else (BitVec.ofInt 64 (both.foldl (fun r p => r + ival e 32 p.1 * ival e 32 p.2) 0), 0)
      { t.setX d.toNat r.1 with fflags := t.fflags ||| BitVec.ofNat 64 r.2 })) ∧
    (source a → s.readyV [d] → d.toNat ≠ 16 + 2 * a.toNat → d.toNat ≠ 17 + 2 * a.toNat → s.fullX [b] →
      exec (.sexp d a b fa fb) s = .next (s.loopDone d 32 false false fun i _ =>
        ⟨some ((A.lookup ((s.gx b).toNat % 2 ^ 32 + i)).getD 0), 0, false, false⟩)) ∧
    (full d → s.readyV [a] → a.toNat ≠ 16 + 2 * d.toNat → a.toNat ≠ 17 + 2 * d.toNat → s.fullX [b] →
      let act := (List.range s.th.vlN).filter s.th.active
      (s.gx b).toNat % 2 ^ 32 + s.th.vlN ≤ 2 ^ 32 → act.length ≤ s.th.sparseCap →
      Nexts (exec (.scmp d a b fa fb) s) fun t =>
        pairs t.th d = act.map (fun i => ((s.gx b).toNat % 2 ^ 32 + i, elemAt 32 (s.vbits a) i)) ∧
        t.th = (rest t.th).progress t.th)) ∧
  (∀ (s u : State) (d a b : BitVec 5) (fa fb : Bool), s.quiet → s.plain → s.feature 10 = true → s.th.vn = 32 →
    s.th.vtype.getLsbD 63 = false → s.th.etype ∈ [2, 6, 10] → s.th.sparseCap ≤ 1024 → d.toNat < 8 →
    s.th.vFull (16 + 2 * d.toNat) = true → s.th.vFull (17 + 2 * d.toNat) = true →
    s.fullX [a, b] → s.th.wait = .none → s.th.vstart = 0 → (s.gx a).toNat % 8 = 0 →
    let n := (s.gx b).toNat
    let va (j : Nat) : Word := s.gx a + BitVec.ofNat 64 (8 * j)
    let val (j : Nat) : Nat := (s.valueAt 1 (va j) 8).getD 0
    let pairs (t : Thread) : List (Nat × Nat) := (List.range (t.qlenN d)).map fun j =>
      (elemAt 32 (t.vreg (16 + 2 * d.toNat)).bits.toNat j, elemAt 32 (t.vreg (17 + 2 * d.toNat)).bits.toNat j)
    (n ≤ s.th.sparseCap → (∀ j < n, s.valueAt 1 (va j) 8 ≠ none) →
      ((List.range n).map fun j => val j % 2 ^ 32).Pairwise (· < ·) → Nexts (exec (.sld d a b fa fb) s) fun t =>
        pairs t.th = (List.range n).map (fun j => (val j % 2 ^ 32, val j / 2 ^ 32)) ∧ t.mem = s.mem ∧ t.host = s.host ∧
        t.th = ({ s.th with v := t.th.v, qlen := t.th.qlen, vstart := 0 } : Thread).progress t.th) ∧
    (s.th.qlenN d ≤ s.th.sparseCap → ((pairs s.th).map (·.1)).Pairwise (· < ·) →
      s.putList 4 ((pairs s.th).zipIdx.map fun p => (va p.2, bytesOfNat 8 (p.1.1 + p.1.2 * 2 ^ 32))) = some u →
      Nexts (exec (.sst d a fa) s) fun t =>
        t.mem = u.mem ∧ t.host = u.host ∧ s.sameOthers t ∧ t.th = s.th.progress t.th))

/-- R345 to R352: verdict accumulation, bounds, thresholds and the removal of abandoned elements. The accumulation is
the model's reading of R348 (`verdLoop`). -/
def Obligations.VerdictResults : Prop :=
  ∀ (s : State) (d a b : BitVec 5) (n : BitVec 2) (fa fb : Bool), s.quiet → s.feature 9 = true →
    s.th.vtype.getLsbD 63 = false → s.th.ftrap.toNat % 64 = 0 →
    let e := s.th.etype
    let w := s.th.ew
    let o := s.th.threshold n.toNat
    let v := (s.gx a).toNat % 2 ^ 32
    (s.fullX [a] → exec (.vtraise n a fa) s = .next (s.done fun t =>
      if (f32.val v).isNan then { t with fflags := t.fflags ||| BitVec.ofNat 64 (f32.val v).nanFlags }
      else
        let top := if (f32.val o).isNan then v else (fMinMax f32 true o v).1
        { t with vt := Sparse.set t.vt n.toNat (BitVec.ofNat 64 top) })) ∧
    (s.readyV [d, a] → e ∈ [8, 10] → s.th.vverd.toNat % 4 ≠ 0 → exec (.vfabr d a fa) s =
      .next (s.loopDone d w false false fun i _ =>
        let x := elemAt w (s.vbits a) i
        ⟨some (if isAbn (fmtOf e) x then (if s.th.vverd.toNat % 4 = 1 then 0 else (fmtOf e).inf true) else x),
          0, false, false⟩)) ∧
    (s.readyV [d, a] → s.fullX [b] → d ≠ a → e = 10 → s.th.vstart = 0 → s.th.vlN < s.th.vlmaxN / w →
      s.th.vlmaxN ≤ 32768 → Nexts (exec (.vbound d a b fa fb) s) fun t =>
        let y (g : Nat) : Nat := elemAt 32 (t.th.vreg d.toNat).bits.toNat g
        let x (g : Nat) : Nat := elemAt 32 (s.vbits a) g
        let z := (s.gx b).toNat % 2 ^ 32
        y s.th.vlN = (if (f32.val z).isNan then 0x7FC00000 else z) ∧
        (∀ g < s.th.vlN, y g = (fAdd f32 3 (y (g + 1)) (if (f32.val (x g)).isNan then x g else x g % 2 ^ 31)).1) ∧
        (∀ g < 1024, s.th.vlN < g → y g = elemAt 32 (s.vbits d) g) ∧
        t.th = ({ s.th with v := t.th.v, fflags := t.th.fflags, vstart := 0 } : Thread).progress t.th) ∧
    (let breg := s.th.vverd.toNat / 16 % 32
     let hd := elemAt 32 (s.th.vreg (d.toNat + 1)).bits.toNat 0
     let sd := elemAt 32 (s.vbits d) 0
     let ng := (s.th.vlN + s.th.verdGroup - 1) / s.th.verdGroup
     s.readyV [d, a, b] → d.toNat + 1 < s.th.vn → s.th.vFull (d.toNat + 1) = true → breg < s.th.vn →
     s.th.vFull breg = true → a.toNat ≠ d.toNat → a.toNat ≠ d.toNat + 1 → b.toNat ≠ d.toNat →
     b.toNat ≠ d.toNat + 1 → breg ≠ d.toNat → breg ≠ d.toNat + 1 → (isFp e = true ∨ isTb e = true) → s.th.vstart = 0 →
     (isAbn f32 sd = true → exec (.vfmacv d a b fa fb) s = .next (s.done id)) ∧
     (isAbn f32 sd = false → isAbn f32 hd = false → exec (.vfmacv d a b fa fb) s = .next (s.done fun t =>
       let r := verdLoop (s.th.verdTerms (s.vbits a) (s.vbits b))
         (fun g h => abandons (s.th.vverd.toNat % 4) (s.th.threshold (s.th.vverd.toNat / 4 % 4)) h
           (elemAt 32 (s.th.vreg breg).bits.toNat (g + 1))) ng 0 (sd, hd, 0)
       { (t.putElem d.toNat 32 0 r.1).putElem (d.toNat + 1) 32 0 r.2.1 with
         vstart := 0, fflags := t.fflags ||| BitVec.ofNat 64 r.2.2 })))

/-- R356 to R358, R362 to R364: tile state and the moves between tiles and vectors. The monitored step is the model's
reading of R362 (`Thread.monitored`). R359, R360: a matrix step adds to each element of the rows and columns that take
part the products of its operands, rounded once, and to no other element; `zmopb` takes B from the weight buffer, and
traps with cause 0x14 where a group passes its end. The scaled operands are the model's reading of R359 (`stepVal`). -/
def Obligations.TileResults : Prop :=
  (∀ (s : State) (d a b : BitVec 5) (fa fb : Bool), s.quiet → s.th.vtype.getLsbD 63 = false →
    4096 ≤ s.th.vlmaxN → s.th.startN ≤ 128 → s.sq.follow = [] →
    let q := s.sq
    let z := q.tileAt d.toNat
    let n := (s.gx a).toNat
    let i := (s.gx b).toNat
    let r (q : Seq) : Host.Outcome State Fault Refusal := .next (retire .seq (s.atIssue.setSq q))
    let live (t : Tile) (k : Nat) : Bool := (List.range 128).any fun c => s.th.cactive c && !isAbn f32 (elemAt 32 (t.zrow k) c)
    (q.split = 1 → s.fullX [a] → 1 ≤ n → n ≤ q.tiles → q.zon = false →
      exec (.zon a fa) s = r { q with zon := true, zn := n, tile := [] }) ∧
    (q.split = 1 → q.zon = true → exec .zoff s = r { q with zon := false, zn := 0, tile := [] }) ∧
    (q.zon = true → q.tileOn d.toNat = true →
      exec (.zzero d) s = r (q.setTile d.toNat Tile.zeroed) ∧
      (∀ k < 32, q.tileOn (32 + k) = true → exec (.zswap d (BitVec.ofNat 5 k)) s =
        r ((q.setTile d.toNat (q.tileAt (32 + k))).setTile (32 + k) z)) ∧
      (s.feature 9 = true → s.th.etype = 10 → s.readyV [a] →
        exec (.zbnd d a fa) s = r (q.setTile d.toNat { z with rb := BitVec.ofNat 4096 (s.vbits a) })) ∧
      (s.feature 9 = true → s.fullX [a] → exec (.zabn a d) s = .next (s.done fun t => t.setX a.toNat
        (BitVec.ofNat 64 ((List.range 128).filter fun k => s.th.active k && live z k).length))) ∧
      (s.th.etype = 10 → s.th.vlN ≤ 128 → s.readyV [a] → s.fullX [b] → i < 128 →
        exec (.zrd a d b fb) s = .next (s.loopDone a 32 false false fun c _ => ⟨some (elemAt 32 (z.zrow i) c), 0, false, false⟩) ∧
        exec (.zcd a d b fb) s = .next (s.loopDone a 32 false false fun k _ => ⟨some (elemAt 32 (z.zrow k) i), 0, false, false⟩) ∧
        Nexts (exec (.zwr d a b fa fb) s) fun t =>
          let y := t.sq.tileAt d.toNat
          (∀ k < 128, ∀ c < 128, elemAt 32 (y.zrow k) c =
            if k = i ∧ s.th.touched c then elemAt 32 (s.vbits a) c else elemAt 32 (z.zrow k) c) ∧
          (∀ k < 128, ∀ c < 128, elemAt 32 (y.hrow k) c =
            if k = i ∧ s.th.touched c then elemAt 32 (s.vbits a) c else elemAt 32 (z.hrow k) c) ∧
          (∀ k < 64, k ≠ d.toNat → t.sq.tileAt k = q.tileAt k) ∧ t.sq = { q with tile := t.sq.tile } ∧
          t.th = ({ s.th with vstart := 0 } : Thread).progress t.th))) ∧
  (∀ (s : State) (d a b : BitVec 5) (fa fb : Bool) (l : List Nat) (n : Nat), s.quiet → s.th.vtype.getLsbD 63 = false →
    4096 ≤ s.th.vlmaxN → s.th.startN ≤ 128 → s.sq.follow = [] → s.sq.zon = true → s.sq.tileOn d.toNat = true →
    (isFp s.th.etype = true ∨ isTb s.th.etype = true) → s.th.ftrap.toNat % 64 = 0 → s.readyV [a] →
    let e := s.th.etype
    let w := s.th.ew
    let z := s.sq.tileAt d.toNat
    let A := stepVal e s.th.blenN (some s.th.sca.toNat) (elemAt w (s.vbits a))
    let step (o : Host.Outcome State Fault Refusal) (y : Nat → Nat) : Prop := Nexts o fun t =>
      let B := stepVal e s.th.blenN (some s.th.scb.toNat) y
      let u := t.sq.tileAt d.toNat
      (∀ r < 128, ∀ c < 128, elemAt 32 (u.zrow r) c =
        if s.th.startN ≤ r ∧ s.th.active r = true ∧ s.th.cactive c = true then
          (dotRound (s.th.frm.toNat % 8) ((List.range (kDepth e)).map fun k => (A (r * kDepth e + k), B (c * kDepth e + k)))
            (elemAt 32 (z.zrow r) c)).1
        else elemAt 32 (z.zrow r) c) ∧
      u.vr = (List.range 128).foldl (fun v r => if s.th.startN ≤ r ∧ s.th.active r = true then max v (r + 1) else v) z.vr ∧
      (∀ r < 128, u.hrow r = z.hrow r) ∧ u = { z with z := u.z, h := u.h, vr := u.vr } ∧ (∀ k < 64, k ≠ d.toNat → t.sq.tileAt k = s.sq.tileAt k) ∧
      t.th = ({ s.th with vstart := 0, fflags := t.th.fflags } : Thread).progress t.th
    (s.readyV [b] → step (exec (.zmop d a b fa fb) s) (elemAt w (s.vbits b))) ∧
    (s.fullX [b] → (s.gx b).toNat % 4 = 0 →
      let x := expandStream s.sq.wbuf s.sq.wbufSize (w / 8) (4 * kDepth e) (s.gx b).toNat
      (x = .ok (l, n) → step (exec (.zmopb d a b fa fb) s) fun i => l.getD i 0) ∧
      (x = .error n → exec (.zmopb d a b fa fb) s = .next (takesTrap 0x14 (BitVec.ofNat 64 n) 0 0 s.atIssue))) ∧
    (s.feature 9 = true → s.readyV [b] → s.th.startN < 128 → exec (.zmopv d a b fa fb) s =
      let m := s.th.monitored (s.th.step 0 (s.vbits a) (elemAt w (s.vbits b))) z
      .next (retire .seq ((s.setSq (s.sq.setTile d.toNat m.1)).setTh
        { s.th.begin with vstart := 0, fflags := s.th.fflags ||| BitVec.ofNat 64 m.2 }))))

/-- R365: tile loads and drains, of named tiles and shadow slots: rows from `vstart` below `vl`, active rows and
columns alone, the columns of a row 4 bytes apart. Where every access is aligned and translates, a load leaves what
was held in values and heads, and a drain stores the values in order. -/
def Obligations.TileMemoryResults : Prop :=
  ∀ (s u : State) (d a b : BitVec 5) (fa fb : Bool), s.quiet → s.plain → s.th.vtype.getLsbD 63 = false →
    4096 ≤ s.th.vlmaxN → s.th.startN ≤ 128 → s.th.vlN ≤ 128 → s.th.etype = 10 → s.sq.follow = [] → s.sq.zon = true →
    s.fullX [a] → s.th.wait = .none →
    let va (f : Form) (r c : Nat) : Word := (match f with
      | .indexed xw => s.gx a + BitVec.ofNat 64 (elemAt xw (s.vbits b) r)
      | _ => s.gx a + BitVec.ofNat 64 r * (if s.th.vstride ≠ 0 then s.th.vstride else 512)) + BitVec.ofNat 64 (4 * c)
    let ld (f : Form) (k : Nat) (o : Host.Outcome State Fault Refusal) : Prop :=
      s.sq.tileOn k = true → s.readyForm f b →
      (∀ r < 128, s.th.touched r → ∀ c < 128, s.th.cactive c = true → s.valueAt 8 (va f r c) 4 ≠ none) →
      Nexts o fun t =>
        let y := t.sq.tileAt k
        (∀ r < 128, ∀ c < 128, (elemAt 32 (y.zrow r) c, elemAt 32 (y.hrow r) c) =
          if s.th.touched r ∧ s.th.cactive c = true then
            ((s.valueAt 8 (va f r c) 4).getD 0 % 2 ^ 32, (s.valueAt 8 (va f r c) 4).getD 0 % 2 ^ 32)
          else (elemAt 32 ((s.sq.tileAt k).zrow r) c, elemAt 32 ((s.sq.tileAt k).hrow r) c)) ∧
        (∀ j < 64, j ≠ k → t.sq.tileAt j = s.sq.tileAt j) ∧ t.mem = s.mem ∧ t.host = s.host ∧
        t.th = ({ s.th with vstart := 0, idx := t.th.idx } : Thread).progress t.th
    let st (f : Form) (k : Nat) (o : Host.Outcome State Fault Refusal) : Prop :=
      s.sq.tileOn k = true → s.readyForm f b →
      s.putList 9 (((List.range 128).filter fun r => decide (s.th.touched r)).flatMap fun r =>
        ((List.range 128).filter s.th.cactive).map fun c =>
          (va f r c, bytesOfNat 4 (elemAt 32 ((s.sq.tileAt k).zrow r) c))) = some u →
      Nexts o fun t => t.mem = u.mem ∧ t.host = u.host ∧ t.sq = s.sq ∧ s.sameOthers t ∧
        t.th = ({ s.th with vstart := 0, idx := t.th.idx } : Thread).progress t.th
    ld .strided d.toNat (exec (.zldS d a fa) s) ∧ ld (.indexed 32) d.toNat (exec (.zldX32 d a b fa fb) s) ∧
    ld (.indexed 64) d.toNat (exec (.zldX d a b fa fb) s) ∧ ld .strided (32 + d.toNat) (exec (.zldSShadow d a fa) s) ∧
    ld (.indexed 32) (32 + d.toNat) (exec (.zldX32Shadow d a b fa fb) s) ∧
    ld (.indexed 64) (32 + d.toNat) (exec (.zldXShadow d a b fa fb) s) ∧
    st .strided d.toNat (exec (.zstS d a fa) s) ∧ st (.indexed 32) d.toNat (exec (.zstX32 d a b fa fb) s) ∧
    st (.indexed 64) d.toNat (exec (.zstX d a b fa fb) s) ∧ st .strided (32 + d.toNat) (exec (.zstSShadow d a fa) s) ∧
    st (.indexed 32) (32 + d.toNat) (exec (.zstX32Shadow d a b fa fb) s) ∧
    st (.indexed 64) (32 + d.toNat) (exec (.zstXShadow d a b fa fb) s)

/-- R366, R368, R370, R371, R374, R377: a command instruction reads its descriptor, joins its unit's queue while there
is room, and leaves its ticket register empty until the command completes. -/
def Obligations.CommandIssue : Prop :=
  ∀ (s : State) (d a b : BitVec 5) (fa fb : Bool) (bs : List Byte), s.quiet → s.plain → s.fullX [d, a, b] →
    s.th.wait = .none →
    let va := s.gx a
    let f := s.gx b
    let at_ (n : Nat) : Prop := va.toNat % (64 * n) = 0 ∧ s.descAt va n = some bs
    let issued (u kind : Nat) (fo : Word) (o : Host.Outcome State Fault Refusal) : Prop :=
      (s.unitQueue u).length < unitDepth u → Nexts o fun t =>
        (t.unitQueue u).dropLast = s.unitQueue u ∧
        (t.unitQueue u).getLast?.map (fun c => ((c.id, c.kind, c.desc, c.seq, c.thr), c.ticket, c.pc, c.dxp, c.follow, c.code)) =
          some ((s.fresh.1, kind, bs, some s.cur.seq, s.cur.thr), d.toNat, s.th.pc, s.sq.dxp, fo, none) ∧
        t.th = (s.th.awaitTicket d.toNat s.fresh.1).progress t.th ∧ t.mem = s.mem ∧ t.host = s.host ∧ s.sameOthers t
    (at_ 2 → issued s.coreNo 0 0 (exec (.cpy d a fa) s)) ∧
    (at_ 2 → s.sq.zon = true → s.sq.tileOn (f.toNat / 2 ^ 59) = true →
      issued s.coreNo 1 f (exec (.cpym d a b fa fb) s) ∧
      ((s.unitQueue s.coreNo).length < 64 → Nexts (exec (.cpym d a b fa fb) s) fun t =>
        t.sq = { s.sq with follow := s.sq.follow ++ [f.toNat / 2 ^ 59] })) ∧
    (at_ 1 → s.feature 11 = true → issued (264 + 4 * s.dieNo + (dwordOf bs 0).toNat % 4) 2 0 (exec (.frmDec d a fa) s)) ∧
    (at_ 2 → s.feature 11 = true → issued (264 + 4 * s.dieNo + (dwordOf bs 0).toNat % 4) 3 0 (exec (.frmRsz d a fa) s)) ∧
    (at_ 2 → s.feature 12 = true → issued (296 + s.dieNo) 4 0 (exec (.fcv d a fa) s)) ∧
    (at_ 1 → ((s.die s.dieNo).dlq.filter fun l => l.node.isNone).length < 64 → Nexts (exec (.dlaunch d a fa) s) fun t =>
      (t.die s.dieNo).dlq.dropLast = (s.die s.dieNo).dlq ∧
      (t.die s.dieNo).dlq.getLast?.map (fun l => (l.id, l.packet, l.seq, l.thr, l.ticket, l.ctx)) =
        some (s.fresh.1, bs, some s.cur.seq, s.cur.thr, d.toNat, s.ctxNo) ∧
      t.th = (s.th.awaitTicket d.toNat s.fresh.1).progress t.th ∧ t.mem = s.mem) ∧
    (at_ 4 → s.walkerFull s.dieNo = false → exec (.gsub d a fa) s =
      let s1 := M.state (descriptorM va 256 256) s.atIssue
      let g : Graph := ⟨s1.fresh.1, s.dieNo, va, s.sq.dxp, s.th.level, s.ctxNo, some s.cur.seq, s.cur.thr, d.toNat, s.th.pc,
        none, (dwordOf bs 0).toNat % 2 ^ 16, 0, [], [], [], none, [], [], [], none, false⟩
      .next (retire .seq ((s1.fresh.2.setTh (s1.th.awaitTicket d.toNat s1.fresh.1)).submitGraph g s1.front)))

/-- R368, R369, R366, R370: the copy engine brings the bytes of a copy of one element to their destination and no
other byte; a command that is done leaves its queue and fills its ticket; a follow-on makes its steps once the copy
has landed (the steps are the model's reading of R370, `State.followRun`). -/
def Obligations.CopyEngineResults : Prop :=
  ∀ (s : State) (u r q h : Nat) (c : Command) (l : List Command) (k : CopyDesc) (st dt : Target), s.plain →
    s.unitQueue u = c :: l → u < 264 → c.pagerStage = 0 →
    let n := 2 ^ k.esz
    (c.code = none → c.done = 0 → c.past = [] → CopyDesc.ofBytes c.desc (c.kind = 1 || (c.node.isNone && c.queue.isNone)) = some k →
      k.tuples = 1 → k.dkind = 0 → k.spod = false → k.dpod = false → k.src.toNat % n = 0 → k.dst.toNat % n = 0 →
      s.targetFor (unitCore u) c.dxp c.level ⟨10, true, false, false, false, false, n⟩ k.src = some st →
      s.targetFor (unitCore u) c.dxp c.level ⟨11, false, true, false, false, false, n⟩ k.dst = some dt →
      dt.place.isMem = true → Nexts (exec (.copyRun u) s) fun t =>
        ((t.unitQueue u).map fun c => (c.id, c.code, c.done)) = (c.id, some 0, n) :: l.map (fun c => (c.id, c.code, c.done)) ∧
        t.host = s.host ∧ s.wrote t [(dt, s.heldAt st n)]) ∧
    (c.code ≠ none → c.followDue = false → c.kind = 0 → c.boltBytes = none → c.node = none → c.queue = none →
      c.ticket = r → r ≠ 0 → c.seq = some q → c.thr = h → h < 4 → (s.thread q h).pend = [.ticket r c.id] →
      (∀ e ∈ s.threads, e.1 ≠ 4 * q + h → e.2.pend = []) → s.saved = [] → Nexts (exec (.copyComplete u) s) fun t =>
        t.unitQueue u = l ∧ (t.thread q h).getX r = engineStatus (c.code.getD 0) c.done ∧
        (t.thread q h).xFull r = true ∧ (t.thread q h).pend = [] ∧ t.mem = s.mem) ∧
    (u < 256 → c.followDue = true → c.code = some 0 → exec (.followonRun u) s =
      let p := s.followRun c
      .next (p.1.setUnitQueue u ({ c with followDue := false, code := some p.2.2,
                                          frm := BitVec.ofNat 64 (2 ^ 63 + p.2.1) } :: l)))

/-- R372, R373, R375, R378: a frame engine opens and closes a stream context; an access unit, a resize and a format
conversion that meet no fault end with code 0, the first counted as decoded or as one that could not be. What they
compute is the model's (`decodeUnit`, `resizeData`, `fcvData`; the stream decoding itself is opaque, log 13). R146: a
node whose work is done is completed by its walker; one that failed ends its graph, unless the walker has first to
wait. -/
def Obligations.FrameFormatAndGraph : Prop :=
  (∀ (s : State) (d g : Nat) (c c' : Command) (l : List Command) (e : Eng), d < 8 → g < 4 → c.pagerStage = 0 →
    c.code = none →
    let u := 264 + 4 * d + g
    let op := (dwordOf c.desc 0).toNat / 2 ^ 10 % 4
    let k := (dwordOf c.desc 0).toNat / 2 ^ 4 % 8
    let m := dwordOf c.desc 8
    let w := (dwordOf c.desc 0x28).toNat / 2 ^ 48
    let hh := (dwordOf c.desc 0x28).toNat / 2 ^ 32 % 2 ^ 16
    let up (n : Nat) : Nat := (n + 63) / 64 * 64
    let head (t : State) (u : Nat) : Option (Option Nat) := (t.unitQueue u).head?.map (·.code)
    (s.unitQueue u = c :: l → c.kind = 2 → frameFields c.desc ≠ none → (s.frame d g).live = true →
      (op = 1 → m.toNat % 4096 = 0 → 9 * up w * up hh * 3 ≤ (dwordOf c.desc 0x10).toNat →
        Nexts (exec (.frameOpen d g) s) fun t => head t u = some (some 0) ∧ t.mem = s.mem ∧
          (t.frame d g).ctx k = some ⟨(dwordOf c.desc 0).toNat / 2 ^ 7 % 4, m, dwordOf c.desc 0x10, w, hh, []⟩ ∧
          ∀ j < 8, j ≠ k → (t.frame d g).ctx j = (s.frame d g).ctx j) ∧
      (op = 2 → (s.frame d g).ctx k ≠ none → Nexts (exec (.frameClose d g) s) fun t =>
        head t u = some (some 0) ∧ t.mem = s.mem ∧ (t.frame d g).ctx k = none ∧
        ∀ j < 8, j ≠ k → (t.frame d g).ctx j = (s.frame d g).ctx j) ∧
      (op = 0 → Nexts (exec (.frameDecode d g) s) fun t => ∀ (c' : Command) (e : Eng),
        decodeUnit d g c (c.resume s) = .ok c' e →
        t = e.s.setUnitQueue u ({ c' with front := e.front, done := e.n, wrote := e.wrote, past := [] } :: l) ∧ head t u = some (some 0) ∧
        ((t.frame d g).fecnt, (t.frame d g).feerr) ∈ [((s.frame d g).fecnt + 1, (s.frame d g).feerr),
          ((s.frame d g).fecnt, (s.frame d g).feerr + 1)])) ∧
    (s.unitQueue u = c :: l → c.kind = 3 → resizeData d g c (c.resume s) = .ok c' e →
      Nexts (exec (.resizeRun d g) s) fun t =>
        t = e.s.setUnitQueue u ({ c' with front := e.front, done := e.n, wrote := e.wrote, past := [] } :: l) ∧ head t u = some (some 0)) ∧
    (s.unitQueue (296 + d) = c :: l → fcvData d c (c.resume s) = .ok c' e →
      Nexts (exec (.fcvRun d) s) fun t =>
        t = e.s.setUnitQueue (296 + d) ({ c' with front := e.front, done := e.n, wrote := e.wrote, past := [] } :: l) ∧
        head t (296 + d) = some (some 0))) ∧
  (∀ (s : State) (g : Graph) (n st op : Nat) (bad : Bool), s.graph g.id = some g →
    g.results.find? (fun r => r.1 = n) = some (n, st, bad, op) → s.opDone op = true → g.todo = [] → g.ending = none →
    Nexts (exec (.graphNodeComplete g.id n) s) fun t =>
      t = s.completeNode g n st bad ∧
      (bad = true → ∀ g' ∈ t.graphs, g'.id = g.id → g'.ending ≠ none ∨ .finish n st bad ∈ g'.todo))

/-- R149: a barrier's last member to arrive goes on, with every arrival marked complete and its own taken off; an
earlier one waits at its place. At `.pd` an arrival waits for the sequencer's copy commands (R121), and the other
modules of a pod report first, at a moment that is free (R178, log 15). R150: the test is made again where the
membership changes. -/
def Obligations.BarrierResults : Prop :=
  (∀ (s : State) (b : Binding), s.quiet → s.plain → s.sq.split = 1 → s.sq.bound = some b → s.th.claiming = false →
    let core := s.coreNo
    let r (level : Nat) (o : Host.Outcome State Fault Refusal) : Prop :=
      let n := s.members level (unitOf level core) b.launch
      let held : Prop := level = 5 ∧ s.podctl.getLsbD 63 = true ∧ Config.podReported s.free = false
      let waits (t : State) : Prop := t.th.wait = .barrier level ∧ t.th.pc = s.th.pc ∧ t.mem = s.mem ∧
        t.members level (unitOf level core) b.launch = (n.1, n.2 + 1)
      s.sq.arrivals.find? (fun a => a.level = level) = none →
      (n.2 + 1 = n.1 → Nexts o fun t => (held → waits t) ∧ (¬ held → t.th = s.th.progress t.th ∧ t.mem = s.mem ∧
        (∀ a ∈ t.sq.arrivals, a.level ≠ level) ∧ t.instance? level (unitOf level core) b.launch = none)) ∧
      (n.2 + 1 < n.1 → Nexts o waits)
    r 1 (exec .barCr s) ∧ r 2 (exec .barQd s) ∧ r 3 (exec .barDi s) ∧ r 4 (exec .barPk s) ∧
    (s.feature 18 = true → s.copyBusy s.cur.seq = false → r 5 (exec .barPd s))) ∧
  ∀ (s : State) (level u launch : Nat),
    let o := exec (.barrierComplete level u launch) s
    let pod : Prop := level = 5 ∧ s.podctl.getLsbD 63 = true
    let s' : State := ({ s with free := s.free + 1 } : State).peerTraffic
    (s.barrierReady level u launch = false → o = .next s) ∧
    (s.barrierReady level u launch = true → ¬ pod → o = .next (s.completeBarrier level u launch) ∧
      (s.completeBarrier level u launch).instance? level u launch = none) ∧
    (s.barrierReady level u launch = true → pod →
      o = .next (if Config.podReported s.free then s'.completeBarrier level u launch else s'))

/-- R420 to R422, R417: reads of the strip history and of the trace buffer, and `vtrim`. R422: what a traced
instruction records: a taken jump its target, a mask operation the mask and its population, a memory instruction its
address, a trap its cause, each where EN has its kind; nothing while FROZEN. R423: a trigger that matches records its
number and sets FROZEN, two of them in their order; with ACT it takes the trap 0x22, for the position before any
effect, for an access at that element, with `vstart` and `telem`. Shown for `addi`, `jal`, `brk`, `kand`, `ldd`, `std`
and `vld`; `tinfo` is 0 in the traps, which for its STRIDE half is the model's reading (log 21), and the `cycle` of an
entry is free (log 4). -/
def Obligations.DebugResults : Prop :=
  (∀ (s : State) (d a b : BitVec 5) (fa fb : Bool), s.quiet →
    let i := (s.gx a).toNat
    (s.fullX [d, a, b] → exec (.shist d a b fa fb) s = .next (s.done fun t => t.setX d.toNat (match s.th.hist[i]? with
      | some h => if (s.gx b).toNat % 4 = 0 then h.vpc else if (s.gx b).toNat % 4 = 1 then h.first
          else if (s.gx b).toNat % 4 = 2 then h.last else h.info
      | none => 0))) ∧
    (s.fullX [d] → exec (.shcnt d) s = .next (s.done fun t => t.setX d.toNat s.th.histN)) ∧
    (s.fullX [d, a, b] → s.th.level = .supervisor → exec (.trrd d a b fa fb) s =
      .next (s.done fun t => t.setX d.toNat (match s.cp.trace[i]? with
        | some e => if (s.gx b).getLsbD 0 then e.2 else e.1
        | none => 0))) ∧
    (s.readyV [d] → s.th.vtype.getLsbD 63 = false → s.th.vlN * s.th.ew ≤ 32768 → Nexts (exec (.vtrim d) s) fun t =>
      (t.th.vreg d.toNat).bits.toNat = s.vbits d % 2 ^ (s.th.vlN * s.th.ew) ∧
      (t.th.vreg d.toNat).vb = 8 * ((s.th.vlN * s.th.ew + 63) / 64) ∧
      (∀ k < 1024, k ≠ d.toNat → t.th.vreg k = s.th.vreg k) ∧
      t.th = ({ s.th with v := t.th.v } : Thread).progress t.th)) ∧
  (∀ (s : State) (d a b : BitVec 5) (fa : Bool) (imm : BitVec 14) (off : BitVec 25), s.cp.traced s.slotNo = true →
    s.cp.frozen = false → s.cur.thr < 4 → s.th.wait = .none → s.th.pend = [] →
    let on (k : Nat) (dw : Word) : List (Nat × Word) := if s.cp.trcctl.getLsbD (k - 1) then [(k, dw)] else []
    let five (js : List Nat) : List (Nat × Word) := js.map fun j => (5, BitVec.ofNat 64 j)
    let pcs := s.hits [0] s.th.pc
    let handled : Prop := s.sq.tvec ≠ 0 ∧ s.th.tstat.getLsbD 5 = false
    let enters (cause : Nat) (tval telem : Word) (t : State) : Prop :=
      t.th.tcause = BitVec.ofNat 64 cause ∧ t.th.tval = tval ∧ t.th.telem = telem ∧ t.th.tinfo = 0 ∧
      t.th.tpc = s.th.pc ∧ t.th.pc = s.sq.tvec ∧ (∀ r < 32, t.th.getX r = s.th.getX r) ∧ t.mem = s.mem ∧ t.host = s.host
    let freezes (t : State) (js : List Nat) : Prop := s.recorded t (five js) ∧ t.cp.frozen = true
    (pcs ≠ [] →
      (s.traps pcs = true → handled → ∀ i ∈ [Instr.addi d a fa imm, .jal off, .brk, .kand d a b, .ldd d a fa imm],
        Nexts (exec i s) fun t => enters 0x22 s.th.pc 0 t ∧ freezes t pcs ∧ t.th.vstart = s.th.vstart) ∧
      (s.traps pcs = false → s.fullX [d, a] → Nexts (exec (.addi d a fa imm) s) fun t =>
        t.th.getX d.toNat = (if d = 0 then 0 else s.gx a + BitVec.ofInt 64 imm.toInt) ∧ freezes t pcs)) ∧
    (pcs = [] →
      (s.th.ldepth = 0 → s.th.xFull 31 = true → Nexts (exec (.jal off) s) fun t =>
        t.th.pc = s.th.pc + 4 * BitVec.ofInt 64 off.toInt ∧ s.recorded t (on 1 t.th.pc)) ∧
      (handled → Nexts (exec .brk s) fun t => enters 0x20 0 0 t ∧ s.recorded t (on 4 0x20)) ∧
      (s.th.vtype.getLsbD 63 = false → d.toNat < 16 → a.toNat < 16 → b.toNat < 16 →
        Nexts (exec (.kand d a b) s) fun t => s.recorded t (on 2 (BitVec.ofNat 64 (d.toNat * 2 ^ 60 +
          ((List.range s.th.vlN).filter fun i => (t.th.mask d.toNat).testBit i).length)))) ∧
      (s.plain → s.fullX [d, a] →
        let va := s.gx a + BitVec.ofInt 64 imm.toInt
        let ld := s.hits [1, 3] va
        let st := s.hits [2, 3] va
        let got := natOfBytes ((s.walkedTo (scalarLoadAcc 3) va).heldAt (s.goesTo (scalarLoadAcc 3) va) 8)
        va.toNat % 8 = 0 →
        (s.reaches (scalarLoadAcc 3) va → s.traps ld = false → Nexts (exec (.ldd d a fa imm) s) fun t =>
          t.th.getX d.toNat = (if d = 0 then 0 else BitVec.ofNat 64 got) ∧
          (ld = [] → s.recorded t (on 3 va)) ∧ (ld ≠ [] → freezes t ld)) ∧
        (s.traps ld = true → handled → Nexts (exec (.ldd d a fa imm) s) fun t =>
          enters 0x22 va 0 t ∧ freezes t ld ∧ t.th.vstart = 0) ∧
        (s.traps st = true → handled → Nexts (exec (.std d a fa imm) s) fun t =>
          enters 0x22 va 0 t ∧ freezes t st ∧ t.th.vstart = 0)) ∧
      (s.plain → s.fullX [a] → s.readyV [d] → s.th.vtype.getLsbD 63 = false → s.th.etype ≠ 12 →
        s.th.vlN * s.th.ew ≤ 32768 → handled → s.cp.trcctl.getLsbD 2 = false →
        let va (i : Nat) : Word := s.th.elementAddr .strided (s.gx a) 0 i 0
        ∀ k < 4096, s.th.touched k → s.traps (s.hits [1, 3] (va k)) = true → (va k).toNat % (s.th.ew / 8) = 0 →
          (∀ i < k, s.th.touched i → s.hits [1, 3] (va i) = [] ∧ s.valueAt 1 (va i) (s.th.ew / 8) ≠ none) →
          Nexts (exec (.vld d a fa) s) fun t => enters 0x22 (va k) (BitVec.ofNat 64 k) t ∧
            freezes t (s.hits [1, 3] (va k)) ∧ t.th.vstart = BitVec.ofNat 64 k ∧
            ∀ i < 4096, s.th.ew * (i + 1) ≤ 32768 → elemAt s.th.ew (t.th.vreg d.toNat).bits.toNat i =
              if s.th.touched i ∧ i < k then (s.valueAt 1 (va i) (s.th.ew / 8)).getD 0 % 2 ^ s.th.ew
              else elemAt s.th.ew (s.vbits d) i))) ∧
  ∀ (s : State) (off : BitVec 25), s.cp.frozen = true → s.th.wait = .none → s.hits [0] s.th.pc = [] → s.th.ldepth = 0 →
    s.th.xFull 31 = true → Nexts (exec (.jal off) s) fun t =>
      t.th.pc = s.th.pc + 4 * BitVec.ofInt 64 off.toInt ∧ s.recorded t [] ∧ t.cp.frozen = true

/-- R401, R367, R405: an engine command's error is taken as a trap by a thread that waits at a bolt, at a barrier or
for an event; any other thread takes it as it comes to its boundary (O3). R189: an outstanding result lands in its
register. R143: a bolt's wait past its limit traps with cause 0x16. R168: an outstanding claim completes; where its
header fails, its slice or channel (R22) or its key slot empty (R43), the `qnext` begins again (log 44). R407: a
request of the runtime is posted, withdrawn, or asks for a save; one that a `pollp` has returned stands (R439, log 34).
R419: a machine check traps with its source; the translation engine's does so at a region entry, and `tval` is then the
source (Table 17.6) or the entry's position (Table 9.5): which is free (log 47). A region is translated ahead of its
entry. -/
def Obligations.ThreadEvents : Prop :=
  ∀ (s : State) (q h k r pa n d : Nat) (v st va : Word) (w : VReg) (x y : Bool) (es : List (Word × Word)) (req : BitVec 4)
    (hd : Head), s.cur = ⟨q, h⟩ → s.quiet → h < 4 →
    let stands : Prop := (s.th.wait matches .bolt _ _ _ | .barrier _ | .wfe _) = true
    let p : Thread := s.sq.shadow.getD s.th
    let enters (o : Host.Outcome State Fault Refusal) (cause : Nat) (P : State → Prop) : Prop :=
      s.sq.tvec ≠ 0 → p.tstat.getLsbD 5 = false → Nexts o fun t =>
        t.th.tcause = BitVec.ofNat 64 cause ∧ t.th.tpc = p.pc ∧ t.th.pc = s.sq.tvec ∧ t.th.level = .supervisor ∧
        t.mem = s.mem ∧ P t
    (s.sq.bound ≠ none → s.sq.stopped = false → s.sq.shadow = none → p.level = .program → p.laneNotices = [] → stands →
      p.engineErrors = (v, st) :: es → enters (exec (.engineCommandError q h) s) 0x1A fun t =>
        t.th.tval = v ∧ t.th.telem = st ∧ t.th.engineErrors = es) ∧
    (¬ stands → exec (.engineCommandError q h) s = .next s) ∧
    (s.th.pend[k]? = some (.scalar r v) → r ≠ 0 → r < 32 → Nexts (exec (.loadResultLands q h k) s) fun t =>
      t.th.getX r = v ∧ t.th.xFull r = true ∧ (∀ i < 32, i ≠ r → t.th.getX i = s.th.getX i) ∧
      t.th.pend = s.th.pend.eraseIdx k ∧ t = { s with threads := t.threads }) ∧
    (s.th.pend[k]? = some (.vector r w) → Nexts (exec (.loadResultLands q h k) s) fun t =>
      t.th.vreg r = { w with empty := false } ∧ t.th.pend = s.th.pend.eraseIdx k ∧ t = { s with threads := t.threads }) ∧
    (s.th.wait = .bolt pa va x → s.sq.boltlim.toNat % 2 ^ 32 ≠ 0 →
      exec (.boltStall q h) s = .next (takeTrap 0x16 va 0 0 s)) ∧
    (h = 0 → s.th.pend = [.claim d hd va n] → d ≠ 0 → d < 32 → s.plain → s.sq.rebound = [] → 0 < n → n < 2 ^ 30 →
      hd.pa % 64 = 0 → (s.place hd.pa).isMem = true → s.headReads hd = true →
      let k := s.header hd
      min n (k.threshold s.th) ≤ k.avail → Nexts (exec (.qnextComplete q) s) fun t =>
        t.th = { s.th.fillX d (BitVec.ofNat 64 (min n k.avail * 2 ^ 32 + k.head.toNat)) with pend := [] } ∧
        t.header hd = { k with head := k.head + BitVec.ofNat 32 (min n k.avail) } ∧
        t.sq.claims = s.sq.claims ++ [⟨hd, va, s.sq.dxp, k.head.toNat, min n k.avail⟩]) ∧
    (h = 0 → s.th.pend = [.claim d hd va n] → s.headFails hd = true → exec (.qnextComplete q) s = .next s.rollBack) ∧
    (s.sq.polled = true → exec (.migrationRequestPost q req) s = .next s) ∧
    (s.sq.bound ≠ none → req.toNat % 4 ≠ 0 → s.sq.polled = false → s.sq.split ≤ 4 → Nexts (exec (.migrationRequestPost q req) s) fun t =>
      t.sq = { s.sq with migreq := req.setWidth 64, shadow := t.sq.shadow } ∧ t.mem = s.mem ∧
      ∀ i < 4, t.thread q i = if i < s.sq.split then { s.thread q i with latch := (s.thread q i).latch ||| 2 }
        else s.thread q i) ∧
    (s.sq.bound ≠ none → exec (.migrationRequestWithdraw q) s = .next (s.setSq { s.sq with migreq := 0, polled := false })) ∧
    (s.sq.bound ≠ none → s.sq.stopped = false → s.sq.saving = none → exec (.preemptRequest q) s =
      .next (s.setSq { s.sq with saving := some 0x30 })) ∧
    (s.sq.bound ≠ none → s.sq.stopped = false → h < s.sq.split → k ∈ [1, 2, 3, 4, 6, 7] →
      (k = 1 → s.atEntry = true ∧ s.th.wait.begun = false) →
      p.pend = [] →
      enters (exec (.machineCheck q h k) s) 0x3F fun t =>
        (t.th.tval = BitVec.ofNat 64 k ∨ (k = 1 ∧ t.th.tval = p.pc)) ∧
        t.th.tinfo = (if k = 1 ∨ k = 4 ∨ k = 6 then 1 else 0) ∧ ∀ i < 32, t.th.getX i = p.getX i) ∧
    (s.sq.bound ≠ none → s.th.pc.toNat % 4 = 0 → canonical s.th.pc = true → s.sq.dxp.toNat / 2 ^ 60 ≠ 0 →
      s.plain → s.atEntry = true → s.th.wait.begun = false →
      y = ((s.freshWalk s.dieNo s.sq.dxp s.th.level fetchAcc (s.th.pc.toNat % 2 ^ 57) true).1 matches .ok _) →
      exec (.regionTranslate q h) s = .next (if y then s.setTh { s.th with krxlat := s.th.krxlat + 1 } else s.bump 0x212 1))

/-- R107, R93, R136, R166, R70, R71: writes, invalidations, bolt operations and publications that were in flight are
applied; a replica's holder answers a collapse, or is poisoned. -/
def Obligations.MemoryEvents : Prop :=
  ∀ (s : State) (k die page holder i : Nat) (f : Flight) (v : Inval) (o : BoltOp) (r : Resv) (e : Word × Word),
    (s.flights[k]? = some f → f.op = none → s.flightReady f = true →
      ((s.line (lineOf f.pa)).key = none ∨ (s.line (lineOf f.pa)).key = some f.key ∨ 0x8000000000 ≤ f.pa) →
      Nexts (exec (.writeApply k) s) fun t => t.flights = s.flights.eraseIdx k ∧ t.mem = memPutAll s.mem f.cells ∧
        t.host = s.host ∧ t.threads = s.threads ∧ (t.line (lineOf f.pa)).stamp = f.stamp) ∧
    (die < 8 → (s.die die).invals[k]? = some v → s.canApply die v.origin v.stamp = true →
      Nexts (exec (.invalidationApply die k) s) fun t =>
        (t.die die).invals = (s.die die).invals.filter (· ≠ v) ∧
        (t.die die).copies = (s.die die).copies.filter (fun c => c.1 ≠ v.line) ∧ t.mem = s.mem) ∧
    (s.flights[k]? = some f → f.op = some o → s.flightReady f = true → f.pa % 16 = 0 → o.n < 2 ^ 48 → o.arr < 2 ^ 15 →
      (s.boltAt f.pa f.key).arrArr < 32767 →
      ((s.line (lineOf f.pa)).key = none ∨ (s.line (lineOf f.pa)).key = some f.key ∨ 0x8000000000 ≤ f.pa) →
      Nexts (exec (.boltOperationApply k) s) fun t => t.flights = s.flights.eraseIdx k ∧
        t.boltAt f.pa f.key = ((s.boltAt f.pa f.key).update o.op o.n o.arr).test.2 ∧ t.host = s.host ∧
        ∀ x : Nat, x < f.pa ∨ f.pa + 16 ≤ x → memByte t.mem x = memByte s.mem x) ∧
    (s.resvs[k]? = some r → s.freed = [] → s.canPublish r = true → r.header.pa % 64 = 0 →
      ((s.line (lineOf r.header.pa)).key = none ∨ (s.line (lineOf r.header.pa)).key = some (s.headKey r.header) ∨
        0x8000000000 ≤ r.header.pa) → Nexts (exec (.queuePublish k) s) fun t =>
      (t.header r.header).tail = BitVec.ofNat 32 (r.first + r.count) ∧ (∀ x ∈ t.resvs, x.id ≠ r.id) ∧
      ∀ x : Nat, x < r.header.pa + 4 ∨ r.header.pa + 8 ≤ x → memByte t.mem x = memByte s.mem x) ∧
    (s.awaits page holder = true → s.holderEntry holder page = some (i, e) → holder < 8 → s.flights = [] →
      holder ≠ homeDie (page * 4096) → Nexts (exec (.holderAck page holder) s) fun t =>
        (Sparse.get (0, 0) (t.die holder).rdir i).1.getLsbD 63 = false ∧ t.awaits page holder = false ∧ t.mem = s.mem) ∧
    (s.awaits page holder = true → s.holderEntry holder page = some (i, e) → holder < 8 → s.flights = [] →
      holder ≠ homeDie (page * 4096) →
      Nexts (exec (.replicaPoison page holder) s) fun t =>
        (Sparse.get (0, 0) (t.die holder).rdir i).1.getLsbD 63 = false ∧
        (Sparse.get (0, 0) (t.die holder).rdir i).1.getLsbD 62 = true ∧ t.awaits page holder = false)

/-- R57 to R60: a fault's record is written at the tail of its die's queue and waits for the pager; an answer to retry
lets the access, or the fetch, go on, one to deliver takes the fault as a trap, and the limit of the wait asks for a
save. R429: before READY the pager's answers change nothing. -/
def Obligations.PagerEvents : Prop :=
  ∀ (s : State) (q h u idx : Nat) (f : PageFault) (c : Command) (l : List Command) (r : Record), s.cur = ⟨q, h⟩ →
    s.quiet → h < 4 → q < 1024 →
    let d := s.dieNo
    let n := (s.die d).fqbase.toNat % 16
    let slot := (s.die d).fqbase.toNat / 64 * 64 + 64 * ((s.die d).fqtail.toNat % 2 ^ n)
    let key := lineKeyBits slot s.slot0.key
    let at_ (t : State) (r : Record) : Prop := (t.die d).fqtail = (s.die d).fqtail + 1 ∧
      (t.die d).records = (s.die d).records ++ [r] ∧
      ((s.place slot).isMem = true → t.homeBytes slot 8 key = bytesOfNat 8 f.va.toNat) ∧
      (∀ x : Nat, lineOf x = lineOf slot → x < slot ∨ slot + 64 ≤ x → t.seen key x = s.seen key x) ∧
      ∀ x : Nat, lineOf x ≠ lineOf slot → memByte t.mem x = memByte s.mem x
    (s.th.wait = .record f → s.fqClosed d = true → exec (.faultRecordWrite false q h) s = .next (deliverFault f s)) ∧
    (s.th.wait = .record f → s.fqClosed d = false → s.fqRoom d = true → (s.die d).records = [] →
      Nexts (exec (.faultRecordWrite false q h) s) fun t =>
        t.th = { s.th with wait := .pager d (s.die d).fqtail.toNat f } ∧
        at_ t ⟨(s.die d).fqtail.toNat, some (q, h), 0⟩) ∧
    (u < 256 → unitDie u = d → s.unitQueue u = c :: l → c.pagerStage = 1 → c.fault = some f → s.fqClosed d = false →
      s.fqRoom d = true → Nexts (exec (.faultRecordWrite true u 0) s) fun t =>
        t.unitQueue u = { c with pagerStage := 2, record := (s.die d).fqtail.toNat } :: l ∧
        at_ t ⟨(s.die d).fqtail.toNat, none, u⟩) ∧
    (s.ready = false → exec (.pfreplyRetry d idx) s = .next s ∧ exec (.pfreplyDeliver d idx) s = .next s) ∧
    ((s.die d).records.find? (fun r => r.idx = idx) = some r → r.thread = some (q, h) → s.th.wait = .pager d idx f →
      let again : Wait := if f.kind = 7 then .fetch else .memory
      (s.ready = true → Nexts (exec (.pfreplyRetry d idx) s) fun t => t.th = { s.th with wait := again } ∧
        t.mem = s.mem ∧ ∀ x ∈ (t.die d).records, x.idx ≠ idx) ∧
      (s.ready = true → exec (.pfreplyDeliver d idx) s = .next (deliverFault f (s.setDie d { s.die d with
        records := (s.die d).records.filter fun r => r.idx ≠ idx }))) ∧
      (s.sq.pfwait.toNat % 2 ^ 32 ≠ 0 → s.sq.saving = none → Nexts (exec (.pfwaitExpiry q h) s) fun t =>
        t.th = { s.th with wait := again, vstart := BitVec.ofNat 64 f.resume } ∧
        t.sq = { s.sq with saving := some 0x30 } ∧
        (∀ x ∈ (t.die d).records, x.idx ≠ idx) ∧ t.mem = s.mem)) ∧
    ((s.die d).records.find? (fun r => r.idx = idx) = some r → r.thread = none → r.unit = u → u < 256 →
      s.ready = true → s.unitQueue u = c :: l →
      (Nexts (exec (.pfreplyRetry d idx) s) fun t => t.unitQueue u = { c with pagerStage := 0, fault := none } :: l) ∧
      (Nexts (exec (.pfreplyDeliver d idx) s) fun t => t.unitQueue u = c.deliver :: l))

/-- R391, R392, R75: an instance is bound to a share with its entry, argument, queue and claim in place. R170: an input
queue whose feeders have ended is closed. R393: a launch with nothing bound and its queues drained completes. R396,
R397: a balancer's epoch is counted; with EN = 0 it is none, but what appenders waited for is past all the same (log
30). That a DXP whose MODE Table 2.8 does not list, or whose feature is not committed, is taken at the binding as it
stands is the model's choice (log 42). -/
def Obligations.LaunchEvents : Prop :=
  ∀ (s : State) (l : Launch) (r : StageRun) (id j core groups kind slot die : Nat),
    s.launches.find? (fun l => l.id = id) = some l →
    (l.stages[j]? = some r → s.bindable l j r core groups = true → shareOf groups = some (kind, slot) →
      Nexts (exec (.sequencerBind id j core groups) s) fun t =>
        let q := 4 * core + slot
        (t.seq q).bound = some ⟨l.id, j, l.ctx⟩ ∧ (t.seq q).groups = BitVec.ofNat 4 groups ∧ (t.seq q).split = 1 ∧
        (t.seq q).dxp = (s.context l.ctx).dxp &&& ~~~0x800000000000#64 ∧ (t.thread q 0).pc = r.entry ∧ (t.thread q 0).level = .program ∧
        (t.thread q 0).getX 1 = l.arg ∧ (t.thread q 0).getX 2 = r.queue ∧ (t.thread q 0).getX 3 = BitVec.ofNat 64 r.claim ∧
        (∀ i < 32, (i = 0 ∨ 3 < i) → (t.thread q 0).getX i = 0) ∧ t.mem = s.mem ∧ t.host = s.host) ∧
    (l.stages[j]? = some r → id ≠ 0 → (s.header r.header).closed = false → s.closes l j r = true →
      s.countReady l.die l.front r.header = true → r.header.pa % 64 = 0 →
      ((s.line (lineOf r.header.pa)).key = none ∨ (s.line (lineOf r.header.pa)).key = some (s.headKey r.header) ∨
        0x8000000000 ≤ r.header.pa) → Nexts (exec (.queueClose id j) s) fun t =>
        t.header r.header = { s.header r.header with closed := true } ∧
        ∀ x : Nat, x < r.header.pa + 16 ∨ r.header.pa + 24 ≤ x → memByte t.mem x = memByte s.mem x) ∧
    (l.stages.all (fun r => s.drained r.header) = true → s.boundOf (fun b => b.launch = id) = 0 →
      s.savedOf (fun b => b.launch = id) = 0 → Nexts (exec (.launchComplete id) s) fun t =>
        t.launches = s.launches.filter (fun k => k.id ≠ id) ∧ ∀ q < 1024, (t.seq q).bound = (s.seq q).bound) ∧
    (die < 8 → (s.die die).balEn = true → Nexts (exec (.balancerEpoch die) s) fun t =>
      (t.die die).balepoch = (s.die die).balepoch + 1 ∧ t.mem = s.mem) ∧
    (die < 8 → (s.die die).balEn = false → Nexts (exec (.balancerEpoch die) s) fun t =>
      t = { s with seqs := t.seqs } ∧ ∀ q < 1024, t.seq q = { s.seq q with
        spaceWaited := (s.seq q).spaceWaited && q / 128 != die })

/-- R171, R173, R172: a bypass queue copies the row of its next entry and takes the entry. Shown for rows within a
line, every access translating. The hardware starts again where the runtime says
so. R171: a compaction queue that is closed with one entry left claims it and copies its row to the ring's next slot; one
with at least 128 entries claims 128, or where it is closed those that are left, and copies their rows in order to the
slot; an open one with fewer claims none.
R171, R173: a slot whose rows are performed is appended to OUTQ, its count and number in one entry, and the range it
was made from is freed. -/
def Obligations.QueueHardware : Prop :=
  (∀ (s : State) (n : Nat) (k : HwQueue) (ht et st dt : Target), s.plain → s.hwqs[n]? = some k → k.die < 8 → k.past = [] →
    let h := s.header k.header
    let e := 2 ^ h.esz
    let i := natOfBytes (s.heldAt et e)
    let src := h.src + BitVec.ofNat 64 (i * h.rowb)
    let dst := h.dst + BitVec.ofNat 64 (i * h.rowb)
    (exec (.queueHardwareRestart n) s = .next { s with hwqs := s.hwqs.map fun x =>
      if x.header.pa = k.header.pa then { k with stopped := false } else x }) ∧
    ((∀ x ∈ s.hwqs, x.header.pa = k.header.pa → x = k) → k.stopped = false → k.header.pa % 64 = 0 → k.mayWrite s 64 k.va ht →
      ht.head = k.header → 0 < h.rowb → h.rowb % 4 = 0 →
      k.mayRead s e (h.base + BitVec.ofNat 64 (h.head.toNat % 2 ^ h.lcap * e)) et → k.mayRead s h.rowb src st →
      src.toNat % 128 + h.rowb ≤ 128 → h.mode = 2 → h.avail ≠ 0 → s.freed = [] → h.free = h.head →
      k.mayWrite s h.rowb dst dt → dst.toNat % 128 + h.rowb ≤ 128 → dt.pa / 128 ≠ k.header.pa / 128 →
      Nexts (exec (.bypassCopy n) s) fun t =>
        t.heldAt dt h.rowb = s.heldAt st h.rowb ∧
        t.header k.header = { h with head := h.head + 1, free := h.free + 1 })) ∧
  (∀ (s : State) (n : Nat) (k : HwQueue) (ht et ot st dt : Target), s.plain → s.hwqs[n]? = some k → k.die < 8 → k.past = [] →
    let h := s.header k.header
    let e := 2 ^ h.esz
    let i := natOfBytes (s.heldAt et e)
    let src := h.src + BitVec.ofNat 64 (i * h.rowb)
    let dst := h.dst + BitVec.ofNat 64 (k.slot * 128 * h.rowb)
    (∀ x ∈ s.hwqs, x.header.pa = k.header.pa → x = k) → k.stopped = false → k.header.pa % 64 = 0 → k.mayWrite s 64 k.va ht →
    ht.head = k.header → 0 < h.rowb → h.rowb % 4 = 0 →
    k.mayRead s e (h.base + BitVec.ofNat 64 (h.head.toNat % 2 ^ h.lcap * e)) et → k.mayRead s h.rowb src st →
    src.toNat % 128 + h.rowb ≤ 128 → h.mode = 1 → k.claimed = none → h.avail = 1 → h.closed = true → h.nslot ≠ 0 →
    h.outq.toNat % 64 = 0 → k.mayWrite s 64 h.outq ot → k.mayRead s 64 h.outq ot → ot.pbmt ≠ 2 →
    (QHeader.ofBytes (s.heldAt ot 64)).fault true = none → (QHeader.ofBytes (s.heldAt ot 64)).esz = 3 → k.named = [] →
    k.mayWrite s h.rowb dst dt → dst.toNat % 128 + h.rowb ≤ 128 → dt.pa / 128 ≠ k.header.pa / 128 →
    Nexts (exec (.compactionClaim n) s) fun t =>
      t.heldAt dt h.rowb = s.heldAt st h.rowb ∧ (t.header k.header).head = h.head + 1 ∧
      (t.hwqs[n]?.map (·.claimed)) = some (some (h.head.toNat, 1))) ∧
  (∀ (s u : State) (n : Nat) (k : HwQueue) (ht ot : Target), s.plain → s.hwqs[n]? = some k → k.die < 8 → k.past = [] →
    let h := s.header k.header
    let r := min 128 h.avail
    (∀ x ∈ s.hwqs, x.header.pa = k.header.pa → x = k) → k.stopped = false → k.header.pa % 64 = 0 → k.mayWrite s 64 k.va ht →
    ht.head = k.header → 0 < h.rowb → h.rowb % 4 = 0 → h.mode = 1 → k.claimed = none → h.nslot ≠ 0 →
    h.outq.toNat % 64 = 0 → k.mayWrite s 64 h.outq ot → k.mayRead s 64 h.outq ot → ot.pbmt ≠ 2 →
    (QHeader.ofBytes (s.heldAt ot 64)).fault true = none → (QHeader.ofBytes (s.heldAt ot 64)).esz = 3 → k.named = [] →
    (128 ≤ h.avail ∨ (h.closed = true ∧ 0 < h.avail) → k.copies h 0 r s = some u →
      Nexts (exec (.compactionClaim n) s) fun t =>
        t.mem = (u.physWrite k.header.pa (bytesOfNat 4 (h.head.toNat + r)) (s.keyOf ht)).mem ∧ t.host = s.host ∧
        (t.hwqs[n]?.map (·.claimed)) = some (some (h.head.toNat, r))) ∧
    (h.avail < 128 → h.closed = false → exec (.compactionClaim n) s = .next s)) ∧
  (∀ (s : State) (n first r : Nat) (k : HwQueue) (ht ot dt : Target), s.plain → s.hwqs[n]? = some k → k.die < 8 → k.past = [] →
    let h := s.header k.header
    let o := QHeader.ofBytes (s.heldAt ot 64)
    let u := (s.setCount k.die 0 ot.head offResv (o.resv + 1) none).2
    (∀ x ∈ s.hwqs, x.header.pa = k.header.pa → x = k) → k.stopped = false → k.header.pa % 64 = 0 → h.mode = 1 →
    k.claimed = some (first, r) → h.outq.toNat % 64 = 0 → k.mayWrite s 64 k.va ht → ht.head = k.header →
    k.mayWrite s 64 h.outq ot → k.mayRead s 64 h.outq ot → ot.pbmt ≠ 2 → o.fault true = none → o.esz = 3 →
    s.header ot.head = o → (o.resv - o.free).toNat < 2 ^ o.lcap → o.resv = o.tail → s.resvs = [] → s.freed = [] →
    h.free = BitVec.ofNat 32 first →
    k.mayWrite u 8 (o.base + BitVec.ofNat 64 (o.resv.toNat % 2 ^ o.lcap * 8)) dt → dt.pa / 128 ≠ k.header.pa / 128 →
    dt.pa / 128 ≠ ot.pa / 128 → ot.pa / 128 ≠ k.header.pa / 128 → Nexts (exec (.compactionSlotDone n) s) fun t =>
      natOfBytes (t.heldAt dt 8) = (r * 2 ^ 48 + k.slot) % 2 ^ 64 ∧
      t.header ot.head = { o with tail := o.tail + 1, resv := o.resv + 1 } ∧
      t.header k.header = { h with free := BitVec.ofNat 32 (first + r) } ∧
      (t.hwqs[n]?.map fun x => (x.claimed, x.slot)) = some (none, (k.slot + 1) % h.nslot))

/-- R384 to R390: a packet of a launch queue that begins completes with its status, or is left in progress; LAUNCH,
GRAPH and LOAD before the first feature commit complete with NOFEAT, and a packet of any kind whose reserved fields are
not zero, or whose address or count is not as its kind has it, with BADPKT. What a packet reads and what it loads,
unloads or accepts are the model's readings of R231 to R237 and R389 (`byDispatcher`). -/
def Obligations.PacketEvents : Prop :=
  ∀ (s s1 s2 : State) (q n c pa f : Nat) (bs obj : List Byte) (idx : BitVec 32) (t : Target) (l : Launch),
    let began (p : List Byte → Bool) : Prop := s.beginPacket q p = some (bs, idx, s1)
    let ctx := (s1.queue q).ctx
    let va := dwordOf bs 16
    let die := (dwordOf bs 0).toNat % 8
    let ends (st : Nat) (info : Word) (s : State) : Host.Outcome State Fault Refusal :=
      .next (s.completePacket q idx st info)
    (began (fun bs => pktKind bs = 6) →
      exec (.fencePacket q) s = ends (if packetOk bs false 0 [] then 0 else 11) 0 s1) ∧
    (began (fun bs => pktKind bs = 4) → exec (.unloadPacket q) s =
      if packetOk bs false 0 [16] then ends (s1.unloadObject ctx q va.toNat).1 0 (s1.unloadObject ctx q va.toNat).2
      else ends 11 0 s1) ∧
    (began (fun bs => pktKind bs = 3) →
      (s1.featstat.getLsbD 63 = false → exec (.loadPacket q) s = ends 8 0 s1) ∧
      (s1.featstat.getLsbD 63 = true → packetOk bs false 0 [16, 24] = false → exec (.loadPacket q) s = ends 11 0 s1) ∧
      (s1.featstat.getLsbD 63 = true → packetOk bs false 0 [16, 24] = true →
        s1.byDispatcher 0 (eFault (eReadAll (s1.dispatch 0 ctx) va (dwordOf bs 24).toNat)) = some (.ok obj, s2) →
        exec (.loadPacket q) s =
          let r := s2.loadObject ctx q obj
          ends r.1 r.2.1 r.2.2)) ∧
    (began (fun bs => pktKind bs = 2) →
      (s1.featstat.getLsbD 63 = false → exec (.graphPacket q) s = ends 8 0 s1) ∧
      (s1.featstat.getLsbD 63 = true → packetOk bs false 3 [16] = false ∨ va.toNat % 256 ≠ 0 →
        exec (.graphPacket q) s = ends 11 0 s1) ∧
      (s1.featstat.getLsbD 63 = true → packetOk bs false 3 [16] = true → va.toNat % 256 = 0 →
        s1.byDispatcher 0 (eFault (eReadAll (s1.dispatch 0 ctx) va 256)) = some (.ok obj, s2) →
        exec (.graphPacket q) s = .next (s2.fresh.2.submitGraph
          ⟨s2.fresh.1, die, va, (s2.context ctx).dxp, .supervisor, ctx, none, 0, idx.toNat, 0, some q,
            (dwordOf obj 0).toNat % 2 ^ 16, 0, [], [], [], none, [], [], [], none, false⟩ (s2.fresh.2.die 0).dispatcher))) ∧
    (began (fun bs => pktKind bs = 7) → packetOk bs false 3 [16] = false ∨ va.toNat % 128 ≠ 0 →
      exec (.copyPacket q) s = ends 11 0 s1) ∧
    (began (fun bs => pktKind bs = 7) → packetOk bs false 3 [16] = true → va.toNat % 128 = 0 →
      s1.byDispatcher 0 (eFault (eReadAll (s1.dispatch 0 ctx) va 128)) = some (.ok obj, s2) →
      Nexts (exec (.copyPacket q) s) fun u =>
        (u.unitQueue (256 + die)).map (fun c => (c.id, c.desc, c.queue)) =
          (s2.unitQueue (256 + die)).map (fun c => (c.id, c.desc, c.queue)) ++ [(s2.fresh.1, obj, some q)] ∧
        u.mem = s2.mem) ∧
    ((s.queue q).boltWait = none → began (fun bs => pktKind bs = 5 && boltOp bs = 0) →
      packetOk bs false 2 [16, 24] = false ∨ 2 ^ 48 ≤ (dwordOf bs 24).toNat ∨ va.toNat % 16 ≠ 0 →
      exec (.boltArrivePacket q) s = ends 11 0 s1) ∧
    ((s.queue q).boltWait = none → began (fun bs => pktKind bs = 5 && boltOp bs = 1) →
      packetOk bs false 2 [16] = false ∨ va.toNat % 16 ≠ 0 → exec (.boltWaitPacket q) s = ends 11 0 s1) ∧
    ((s.queue q).boltWait = none → began (fun bs => pktKind bs = 5 && boltOp bs = 0) →
      packetOk bs false 2 [16, 24] = true → (dwordOf bs 24).toNat < 2 ^ 48 → va.toNat % 16 = 0 →
      s1.byDispatcher 0 (eBoltTarget (s1.dispatch 0 ctx) va) = some (.ok t, s2) → s2.plain →
      let f := (s2.die 0).dispatcher
      let r := s2.boltSend 0 f t.pa ⟨2, (dwordOf bs 24).toNat, 0, f⟩ (s2.slot t.slot).key (some 4) none
      exec (.boltArrivePacket q) s =
        ends 0 0 (r.2.2.setDie 0 { r.2.2.die 0 with dispatcher := (r.2.2.die 0).dispatcher.join r.2.1 })) ∧
    ((s.queue q).boltWait = none → began (fun bs => pktKind bs = 5 && boltOp bs = 1) → packetOk bs false 2 [16] = true →
      va.toNat % 16 = 0 → s1.byDispatcher 0 (eBoltTarget (s1.dispatch 0 ctx) va) = some (.ok t, s2) →
      let ph := (s2.boltAt t.pa (s2.slot t.slot).key).ph
      (ph ≠ (dwordOf bs 0).getLsbD 1 → Nexts (exec (.boltWaitPacket q) s) fun u =>
        u = (s2.setDie 0 { s2.die 0 with dispatcher := (s2.die 0).dispatcher.join (s2.boltStamps t.pa).last }).completePacket
          q idx 0 (if ph then 1 else 0)) ∧
      (ph = (dwordOf bs 0).getLsbD 1 → Nexts (exec (.boltWaitPacket q) s) fun u =>
        (u.queue q).boltWait = some (t.pa, (s2.boltStamps t.pa).flips) ∧ u.mem = s2.mem)) ∧
    ((s.queue q).boltPacket 1 = some (idx, c, bs) → (s.queue q).boltWait = some (pa, f) →
      ((s.context c).boltlim ≠ 0 → (s.boltStamps pa).flips = f → exec (.boltPacketStall q) s =
        ends 15 (if (dwordOf bs 0).getLsbD 1 then 1 else 0) (s.setQueue q { s.queue q with boltWait := none })) ∧
      ((s.context c).boltlim = 0 ∨ (s.boltStamps pa).flips ≠ f → exec (.boltPacketStall q) s = .next s)) ∧
    (q < 4096 → began (fun bs => pktKind bs = 1 || pktKind bs = 0 || decide (7 < pktKind bs)) →
      (pktKind bs ≠ 1 → exec (.launchPacket q) s = ends 11 0 s1) ∧
      (pktKind bs = 1 → s1.featstat.getLsbD 63 = false →
        exec (.launchPacket q) s = ends 8 0 (s1.setDie 0 (s1.die 0))) ∧
      (pktKind bs = 1 → s1.featstat.getLsbD 63 = true → packetOk bs false 8 [16, 24, 32] = false ∨ va.toNat % 64 ≠ 0 →
        exec (.launchPacket q) s = ends 11 0 (s1.setDie 0 (s1.die 0))) ∧
      (pktKind bs = 1 → s1.byDispatcher 0 (acceptM 0 ctx (some q) false bs) = some (.error n, s2) →
        exec (.launchPacket q) s = ends n 0 s2) ∧
      (pktKind bs = 1 → s1.byDispatcher 0 (acceptM 0 ctx (some q) false bs) = some (.ok l, s2) →
        Nexts (exec (.launchPacket q) s) fun u =>
          u.launches.map (fun k => (k.id, k.ctx, k.arg, k.stages)) =
            s2.launches.map (fun k => (k.id, k.ctx, k.arg, k.stages)) ++ [(s2.fresh.1, l.ctx, l.arg, l.stages)]))

/-- R407 to R416, R440: a context to be saved is written at `tsave` and its sequencer unbound, with what the runtime
keeps of it: its place, claims, barrier arrivals, generation and the share kind it asks for; and is bound again by a
restore, on a share it may be tried on, where its lead is forked afresh (R162). A page fault of the writing goes to the
pager (R54). Where the area cannot otherwise be written or read nothing happens, and a restore that R414
refuses leaves the context saved for any share (log 34). The bytes written and the state restored are the model's
(`saveArea`, `State.restored`, following R410 to R416); memory is then as that writing, or reading, leaves it. -/
def Obligations.SaveEvents : Prop :=
  ∀ (s : State) (q k core groups kind slot n : Nat) (b : Binding) (e : Eng) (x : EngExit) (sv : Saved) (bs : List Byte)
    (r : Restored),
    let v := s.seq q
    let ts := s.drain.presented q
    let front := s.drain.frontier (q / 4)
    let write := saveWrite ⟨q / 128, q / 4, v.dxp, .supervisor⟩ v.tsave (saveArea v ts n front) (.start s.drain front)
    let read := saveRead ⟨core / 32, core, sv.dxp, .supervisor⟩ sv.area (.start s (s.frontier core))
    (v.saving = some n → v.bound = some b → s.saveReady q n = true → s.drain.flights = [] → v.asked = none →
      (∀ f, write = .error (.page f) e → s.fqClosed (q / 128) = false →
        exec (.contextSave q) s = .next (s.setSeq q { v with asked := some (f, none) })) ∧
      (write = .error x e → ((∀ f, x ≠ .page f) ∨ s.fqClosed (q / 128) = true) → exec (.contextSave q) s = .next s) ∧
      (write = .ok () e → Nexts (exec (.contextSave q) s) fun t =>
        t.seq q = {} ∧ (∀ i < 4, t.thread q i = {}) ∧ t.saved.length = e.s.saved.length + 1 ∧
        t.host = e.s.host ∧ ((∀ o ∈ (e.s.context b.ctx).objects, o.unloadedAt = none) → t.mem = e.s.mem) ∧
        ∃ c : Saved, t.saved.getLast? = some c ∧
          c.binding = b ∧ c.area = v.tsave ∧ c.dxp = v.dxp ∧ c.core = q / 4 ∧ c.claims = v.claims ∧
          c.rebound = v.rebound ∧ c.gen = v.gen ∧ c.splitCounts = v.splitCounts ∧ c.share = v.resumeOn ∧
          c.groups = v.groups ∧ c.notices = ts.map (·.laneNotices) ∧ c.arrivals.length = v.arrivals.length ∧
          ∀ (i : Nat) (a : Arrival), v.arrivals[i]? = some a →
            c.arrivals[i]? = some a ∨ ∃ f, c.arrivals[i]? = some { a with id := 0, front := f })) ∧
    (s.saved[k]? = some sv → shareOf groups = some (kind, slot) →
      (s.shareFree core groups = false ∨ sv.triedOn kind = false → exec (.contextRestore k core groups) s = .next s) ∧
      (s.shareFree core groups = true → sv.triedOn kind = true →
        (read = .error x e → exec (.contextRestore k core groups) s = .next s) ∧
        (read = .ok bs e → e.s.restored sv bs core groups kind = none →
          exec (.contextRestore k core groups) s = .next { s with
            saved := s.saved.map fun c => if c.id = sv.id then { c with share := none } else c }) ∧
        (read = .ok bs e → e.s.restored sv bs core groups kind = some r → sv.tickets = [] →
          (∀ g ∈ e.s.graphs, g.parked = []) → Nexts (exec (.contextRestore k core groups) s) fun t =>
          let u := t.seq (4 * core + slot)
          u = { r.q with arrivals := u.arrivals } ∧ u.bound = some sv.binding ∧
          (∀ i < 4, ∀ th, r.ts[i]? = some th → t.thread (4 * core + slot) i = th.fork e.s.counts) ∧
          (∀ c ∈ t.saved, c.id ≠ sv.id) ∧ t.mem = e.s.mem ∧ t.host = e.s.host)))

/-- R21, R22, R418: a lane that fails is dropped while its group keeps twelve, and each thread that owned it is told at
its next boundary; else its core is retired, and so is a unit that fails, and the driver is told (R427, Table 18.7,
`State.tells`). R419: a resident of a retired core is saved, or reported lost: which is free (log 17). Corrected errors
are counted. R212: a verified expansion table of generation 3 is taken. R94, R436: a lead fetches a line ahead; where
no copies are kept the line is lost at once (log 43). That a record of the event queue whose
place fails, its unit or its key slot, is dropped and counted (`State.tells`) is the model's choice (log 49). -/
def Obligations.ErrorEvents : Prop :=
  ∀ (s : State) (q core lane die unit n : Nat) (v : Bool) (tg : Target) (l : List Nat),
    (core < 256 → lane < 64 → (s.core core).live.getLsbD lane = true →
      (s.die (core / 32)).lcmap.getLsbD (core % 32) = true → (∀ q ∈ s.resident4 core, (s.seq q).split ≤ 4) →
      Nexts (exec (.laneRetire core lane) s) fun t =>
        let n := ((List.range 16).filter fun i => (s.core core).live.getLsbD (lane / 16 * 16 + i)).length
        (13 ≤ n → (t.core core).live = (s.core core).live &&& ~~~(1#64 <<< lane) ∧
          (t.die (core / 32)).lcmap.getLsbD (core % 32) = true ∧
          ∀ q ∈ s.resident4 core, ∀ h < (s.seq q).split, t.thread q h =
            let th := s.thread q h
            if lane ∈ th.lanes then
              { th with lanes := th.lanes.filter (· ≠ lane), laneNotices := th.laneNotices ++ [lane] }
            else th) ∧
        (n < 13 → ∃ u, s.tells u 6 (core / 32) (core % 32) 0 0 (BitVec.ofNat 64 (n - 1)) 0 0 ∧ u.seqs = s.seqs ∧
          u.threads = s.threads ∧ (u.core core).live = (s.core core).live &&& ~~~(1#64 <<< lane) ∧
          (u.die (core / 32)).lcmap = (s.die (core / 32)).lcmap &&& ~~~(1#32 <<< (core % 32)) ∧
          t = (s.resident4 core).foldl State.evacuate u)) ∧
    (q < 1024 → (s.seq q).bound ≠ none → let t := s.evacuate q
      ((t.seq q).saving = some 0x3F ∧ (t.seq q).bound = (s.seq q).bound ∧ t.mem = s.mem) ∨
        ∃ u, s.tells u 8 (q / 128) (q / 4 % 32) (q % 4) 5 0 (s.thread q 0).pc 0 ∧ u.seqs = s.seqs ∧ t = u.unbind q ∧
          t.seq q = {}) ∧
    (die < 8 → unit < 64 → (s.die die).smap.getLsbD unit = true → (s.die die).sfail.getLsbD unit = false →
      Nexts (exec (.unitFail 1 die unit) s) fun t =>
        let u := s.setDie die { s.die die with sfail := (s.die die).sfail ||| (1#64 <<< unit) }
        u.tells t 3 die 0 0 1 (BitVec.ofNat 64 unit) 0 0 ∧ (t.die die).sfail = (u.die die).sfail) ∧
    (die < 8 → unit < 160 → (s.die die).pmap.getLsbD unit = true → (s.die die).pfail.getLsbD unit = false →
      Nexts (exec (.unitFail 2 die unit) s) fun t =>
        let u := s.setDie die { s.die die with pfail := (s.die die).pfail ||| (1#160 <<< unit) }
        u.tells t 3 die 0 0 2 (BitVec.ofNat 64 unit) 0 0 ∧ (t.die die).pfail = (u.die die).pfail) ∧
    (die < 8 → unit < 4 → (s.frame die unit).live = true → Nexts (exec (.unitFail 3 die unit) s) fun t =>
      (t.frame die unit).live = false ∧ (t.frame die unit).ctxs = [] ∧ t.femap.getLsbD (4 * die + unit) = false ∧
        s.tells t 3 die 0 0 3 (BitVec.ofNat 64 unit) 0 0) ∧
    (die < 8 → unit < 3 → (Sparse.get {} (s.die die).port unit).live = true → Nexts (exec (.unitFail 4 die unit) s) fun t =>
      (Sparse.get {} (t.die die).port unit).live = false ∧ t.ppmap.getLsbD (3 * die + unit) = false ∧
        s.tells t 3 die 0 0 4 (BitVec.ofNat 64 unit) 0 0) ∧
    (core < 256 → exec (.softErrorCorrected core) s =
      .next (({ s with free := s.free + 1 } : State).setCore core { s.core core with
        serrcnt := (s.core core).serrcnt + 1, ring := (s.core core).ring.eraseIdx (Config.freeWord s.free).toNat })) ∧
    (Nexts (exec (.expansionTableReplace n v) s) fun t =>
      if v = true ∧ n = 3 then t.xtver = s.xtver + 1 ∧ t.mem = s.mem ∧ ∀ c < 256, (t.core c).ring = [] else t = s) ∧
    (s.resident4 core = q :: l → s.cur = ⟨q, 0⟩ → n < 2 ^ 56 → s.sq.dxp.toNat / 2 ^ 60 ≠ 0 → core < 256 →
      (s.freshWalk (core / 32) s.sq.dxp s.th.level ⟨0, true, false, false, false, false, 1⟩ n true).1 = .ok tg →
      tg.place.isMem = true → tg.pbmt = 0 → s.poisoned (core / 32) tg.pa = false → homeDie tg.pa ≠ core / 32 →
      (s.die (core / 32)).copies = [] → (∀ c ∈ s.cores, c.2.prefetched = [] ∧ c.2.leadOut = []) →
      s.sched.caching = false → s.portFree = true → Nexts (exec (.leadFabricPrefetch core n) s) fun t =>
        let count (k : Nat) (c : CorePair) : Word := Sparse.get 0 c.counters k
        (t.core core).prefetched = (if s.sched.lazy then [lineOf tg.pa] else []) ∧ t.mem = s.mem ∧
        (t.core core).leadOut = (if s.sched.lazy then [(tg.pa, tg.pbmt, tg.slot)] else []) ∧
        count 0x214 (t.core core) = count 0x214 (s.core core) + 1 ∧
        count 0x215 (t.core core) = count 0x215 (s.core core) + (if s.sched.lazy then 0 else 1))

/-- R6, R20, R186, R429: a reset leaves nothing bound, no context, no queue and no feature; a power-on that ends without
error is READY. That a device reset keeps the bytes of HBM and of the host, and that the heat of the module stands over a
reset or a power-on, whose core halves it holds at 800 MHz and which it ends at 115 °C, is the model's choice (log 36),
and so is an empty memory after power-on (log 6). R229, R230: a commit takes the accepted features. R89: the window
changes size. R397, R431 to R434: the balancer, islands, heat and peer ports; that a thermal shutdown clears READY, and
holds the core halves as any heat from 105 °C does, is log 36 too. So is what becomes of the
shutdown's record where its place in the event queue fails: it is dropped and counted (log 49). -/
def Obligations.ResetAndPowerEvents : Prop :=
  ∀ (s : State) (d i n : Nat) (v : Word) (err : BitVec 8), d < 8 → i < 32 →
    let isl := s.island i
    let req := v.toNat / 2 ^ 62
    let fmax := v.toNat / 2 ^ 16 % 2 ^ 16
    let core2 (t : State) : Prop := ∀ j < 32, j % 4 < 2 → 800 ≤ (t.island j).toNat / 2 ^ 16 % 2 ^ 16 →
      (t.island j).toNat % 2 ^ 16 = 800
    let heat := s.thermal.toNat % 65536
    (Nexts (exec .deviceReset s) fun t =>
      (1050 ≤ heat → core2 t) ∧ (1150 ≤ heat → t.ready = false) ∧ t.seqs = [] ∧ t.threads = [] ∧ t.contexts = [] ∧ t.queues = [] ∧ t.launches = [] ∧
      t.graphs = [] ∧ t.flights = [] ∧ t.featuse = 0 ∧ t.host = s.host ∧
      ∀ x : Nat, x < 0x8000000000 → memByte t.mem x = memByte s.mem x) ∧
    (Nexts (exec (.powerOn err) s) fun t => t.mem = [] ∧ t.seqs = [] ∧ t.contexts = [] ∧ t.featuse = 0 ∧
      (1050 ≤ heat → core2 t) ∧ (1150 ≤ heat → t.ready = false ∧ t.bootErr = 0x20) ∧
      (heat < 1150 → err = 0 → t.ready = true ∧ t.slot0.loaded = true ∧ t.featoff = t.offered) ∧
      (heat < 1150 → 0 < err.toNat → err.toNat ≤ 5 → t.ready = false ∧ t.bootErr = err)) ∧
    (s.ready = true → Nexts (exec .featureCommit s) fun t =>
      if (∀ c ∈ s.contexts, c.2.v = false) ∧ s.featacc &&& ~~~0xFFF0F#64 = 0 ∧ s.featacc &&& ~~~s.featoff = 0 ∧
          s.featacc.getLsbD 3 = true then
        t.featuse = s.featacc ∧ t.featstat = 0x8000000000000000#64 ∧ ∀ c < 256, (t.core c).ring = []
      else t.featuse = s.featuse ∧ t.featstat.toNat % 2 ^ 63 ≠ 0 ∧ t.featstat.getLsbD 63 = s.featstat.getLsbD 63) ∧
    (v.toNat % 8 ≤ 6 → (s.die d).newWays = none →
      exec (.swinWrite d v) s = .next (s.setDie d { s.die d with newWays := some (v.toNat % 8) })) ∧
    (s.plain → (s.die d).newWays = some n → Nexts (exec (.swinChangeDone d) s) fun t =>
      let base := 0x10000000000 + d * 0x100000000
      (t.die d).ways = n ∧ (t.die d).newWays = none ∧ ∀ x : Nat, memByte t.mem x =
        if base + (s.die d).sdiv * n * 131072 ≤ x ∧ x < base + 0x100000000 then 0 else memByte s.mem x) ∧
    (Nexts (exec (.balctlWrite d v) s) fun t => (t.die d).balEn = v.getLsbD 0 ∧
      (v.getLsbD 0 = false → ∀ q < 1024, q / 128 = d → (t.seq q).rebind = false) ∧ t.mem = s.mem) ∧
    (s.ready = true → (i % 4 < 2 ∨ req < 2) → (req = 3 → s.halfBusy i = false) →
      Nexts (exec (.pwrislWrite i v) s) fun t => (t.island i).toNat / 2 ^ 62 = req ∧
        (t.island i).toNat / 2 ^ 58 % 4 = req ∧ (t.island i).toNat / 2 ^ 16 % 2 ^ 16 = fmax ∧
        (t.island i).toNat % 2 ^ 16 ≤ fmax ∧ ∀ j < 32, j ≠ i → t.island j = s.island j) ∧
    (isl.toNat / 2 ^ 58 % 4 ∈ [1, 2] → Nexts (exec (.islandWake i) s) fun t =>
      (t.island i).toNat / 2 ^ 58 % 4 = 0 ∧ (t.island i).toNat / 2 ^ 60 = isl.toNat / 2 ^ 60 ∧
      (t.island i).toNat % 2 ^ 58 = isl.toNat % 2 ^ 58) ∧
    (1050 ≤ n → n < 1150 → Nexts (exec (.thermalThrottle n) s) fun t => t.thermal = BitVec.ofNat 64 n ∧ core2 t) ∧
    (n < 1050 → s.hot = true → Nexts (exec (.thermalThrottleEnd n) s) fun t => t.thermal = BitVec.ofNat 64 n ∧
      t.hot = false) ∧
    (1150 ≤ n → n < 65536 → Nexts (exec (.thermalShutdown n) s) fun t => t.ready = false ∧ t.bootErr = 0x20 ∧
      t.thermal = BitVec.ofNat 64 n ∧ core2 t ∧ (∀ q < 1024, (s.seq q).bound ≠ none → (t.seq q).stopped = true) ∧
      ∀ q x, s.seqs.filter (fun v => v.2.bound.isSome) = [(q, x)] →
        s.tells t 8 (q / 128) (q / 4 % 32) (q % 4) 0xFF 0 (s.thread q 0).pc 0) ∧
    (∀ port < 3, (Sparse.get {} (s.die d).port port).live = true →
      let p := Sparse.get {} (s.die d).port port
      let w := min p.width (if 8 ≤ n then 8 else if 4 ≤ n then 4 else if 2 ≤ n then 2 else 0)
      Nexts (exec (.peerLaneFail d port n) s) fun t =>
        Sparse.get {} (t.die d).port port =
          if w = 0 then { p with width := 0, up := false, live := false } else { p with width := w })

/-- R380 to R384, R428, R95, R98: contexts are created and torn down, queues enabled and advanced, a sequencer killed,
apertures enabled and disabled, where the checks pass. -/
def Obligations.ContextEvents : Prop :=
  ∀ (s : State) (c q j : Nat) (v : Word), s.ready = true → c < 64 → q < 1024 → j < 64 →
    let k := s.queue q
    let want : Queue := { k with
      en := false, prio := v.toNat / 2 ^ 61 % 4, lsize := v.toNat / 2 ^ 56 % 32, ctx := v.toNat % 64 }
    let a := s.aperture j
    (s.featstat.getLsbD 63 = true → (v.getLsbD 62 = true → s.feature 15 = true) → (s.context c).v = false →
      exec (.contextCreate c v) s = .next (s.setContext c { s.context c with
        v := true, ord := v.getLsbD 62, disc := 0, killed := 0, gen := 0, objects := [], symbols := [], stages := [] })) ∧
    ((s.context c).v = true → (s.context c).busy = false → Nexts (exec (.contextTeardown c) s) fun t =>
      (if ∃ g ∈ t.graphs, g.ctx = c then (t.context c).v = true ∧ (t.context c).busy = true
        else (t.context c).v = false ∧ (t.context c).objects = []) ∧ (∀ x ∈ t.launches, x.ctx ≠ c) ∧
      (t.context c).killed = BitVec.ofNat 32 (s.seqs.filter fun x => (x.2.bound.map (·.ctx)) = some c).length ∧
      (∀ x ∈ t.seqs, x.2.bound.map (·.ctx) ≠ some c) ∧ ∀ x ∈ t.queues, x.2.ctx = c → x.2.en = false) ∧
    ((k.en = false ∨ k.err = true) → (s.setQueue q want).enableOk want = true → exec (.queueEnable q v) s =
      .next (s.setQueue q { want with en := true, err := false, ecode := 0, cons := 0, prod := 0 })) ∧
    ((k.en = false ∨ k.err = true) → (s.setQueue q want).enableOk want = false → exec (.queueEnable q v) s =
      .next (s.setQueue q { want with err := true, ecode := 1 })) ∧
    (let p := BitVec.ofNat 32 v.toNat
     exec (.prodWrite q v) s = .next (s.setQueue q (if k.en = true ∧ k.err = false ∧ 2 ^ k.lsize < (p - k.cons).toNat then
       { k with prod := p, err := true, ecode := 2 } else { k with prod := p }))) ∧
    (let n := 4 * (32 * (v.toNat / 2 ^ 8 % 8) + v.toNat / 2 ^ 3 % 32) + v.toNat % 4
     v.getLsbD 63 = true → (s.seq n).bound ≠ none → Nexts (exec (.seqkill v) s) fun t =>
       t.seq n = {} ∧ t.thread n 0 = {} ∧ t.seqkill = v &&& 0x7FB#64) ∧
    (a.valid = false → s.apertureOk j (v &&& 0x7F8000FFFFFFFFFF#64, a.2) = true → exec (.apertureEnable j v) s =
      .next (s.setAperture j ((v &&& 0x7F8000FFFFFFFFFF#64) ||| 0x8000000000000000#64, a.2))) ∧
    (Nexts (exec (.apertureDisable j v) s) fun t => (t.aperture j).valid = false ∧ (t.aperture j).2 = a.2 ∧
      ∀ x < 64, x ≠ j → t.aperture x = s.aperture x)

/-- R96, R97, R425: a memory BAR read returns the bytes held, and a write within a line leaves its enabled bytes and no
other; a request to no range is answered with an error. R50, R68, R428, R430, R44: an invalidation, a replication and a
firmware request begin and end as their registers say. R435: a request of the pod is answered where the gateway is open
and the address names this module. R424: a write of a control register does what the register's rule says. That INSTALL
and QUOTE test `fwlen` first and that REPLICATE with feature 14 off ends with ERR are log 38; a copy to or from a
failed unit ends with ERR, and a buffer of INSTALL or QUOTE that cannot be accessed leaves STATUS free (log 49);
requests of the pod enter at die 0, at supervisor level, and the flits a request costs each live port are free (log
15). -/
def Obligations.HostEvents : Prop :=
  (∀ (s : State) (r off n pa slot : Nat) (bs : List (Option Byte)), s.ready = true →
    (s.barTarget off n = some (pa, slot, none) → s.barOk pa n slot = true → off + n ≤ 2 ^ 40 → s.plain →
      (∀ d < 8, (s.die d).newWays = none) →
      let got := s.homeRange (if pa < 0x8000000000 then some (s.slot slot).key else none) n pa n
      exec (.memoryBarRead r off n) s = .next { s with replies := some got :: s.replies }) ∧
    (s.barTarget off bs.length = some (pa, slot, none) → s.barOk pa bs.length slot = true → off + bs.length ≤ 2 ^ 40 →
      s.plain → (∀ d < 8, (s.die d).newWays = none) → pa % 128 + bs.length ≤ 128 →
      ((s.line (lineOf pa)).key = none ∨ (s.line (lineOf pa)).key = some (s.slot slot).key) →
      Nexts (exec (.memoryBarWrite r off bs) s) fun t => t.replies = s.replies ∧ t.host = s.host ∧
        ∀ x : Nat, memByte t.mem x = if pa ≤ x ∧ x < pa + bs.length then (bs.getD (x - pa) none).getD (memByte s.mem x)
          else memByte s.mem x) ∧
    (s.barTarget off n = none → off + n ≤ 2 ^ 40 →
      exec (.memoryBarRead r off n) s = .next { s with replies := none :: s.replies })) ∧
  (∀ (s : State) (slot : Nat) (v : Word), s.ready = true →
    (s.xlinvb.getLsbD 62 = false → v.getLsbD 63 = true → exec (.xlinv v) s =
      .next { s with xlinvb := (v &&& 0x0FFF0000FFFFFFFF#64) ||| 0x4000000000000000#64 }) ∧
    (s.plain → s.xlinvb.getLsbD 62 = true → Nexts (exec .xlinvDone s) fun t =>
      t.xlinvb = s.xlinvb &&& ~~~0x4000000000000000#64 ∧ t.mem = s.mem ∧ ∀ c < 256, (t.core c).tlb = []) ∧
    (s.repcmd.getLsbD 62 = false → v.getLsbD 63 = true → s.feature 14 = false →
      exec (.replicate v) s = .next { s with repcmd := (v &&& 0x77FFFFFFFFFFF#64) ||| 0x2000000000000000#64 }) ∧
    (let page := v.toNat % 2 ^ 40
     let key := v.toNat / 2 ^ 40 % 2 ^ 7
     let holder := v.toNat / 2 ^ 48 % 8
     s.plain → s.repcmd.getLsbD 62 = false → v.getLsbD 63 = true → s.feature 14 = true → s.slotUsable key = true →
     (∀ d < 8, s.place (page * 4096) = .hbm d → homeDie (page * 4096) ≠ holder →
       Nexts (exec (.replicate v) s) fun t => t.repcmd.getLsbD 62 = true ∧
         t.homeEntry (page * 4096) ≠ none ∧ (t.holders (page * 4096)) = 1#8 <<< holder ∧ t.mem = s.mem)) ∧
    (let page := s.repRun.toNat % 2 ^ 40
     let holder := s.repRun.toNat / 2 ^ 48 % 8
     s.repcmd.getLsbD 62 = true → s.homeEntry (page * 4096) ≠ none → entryFor (s.die holder).rdir holder page ≠ none →
     ((∀ d ∈ s.dies, d.2.sfail = 0 ∧ d.2.pfail = 0) → Nexts (exec .replicateDone s) fun t => t.repcmd.getLsbD 62 = false ∧
       ∃ e ∈ (t.die holder).rdir, e.2.1.getLsbD 63 = true ∧ e.2.1.toNat % 2 ^ 40 = page) ∧
     (s.unitFailed (page * 4096) = true → Nexts (exec .replicateDone s) fun t => t.repcmd.getLsbD 62 = false ∧
       t.repcmd.getLsbD 61 = true ∧ t.mem = s.mem)) ∧
    (s.fwcmd.getLsbD 62 = false → v.getLsbD 63 = true →
      (v.toNat % 16 = 1 → Nexts (exec (.quote v) s) fun t =>
        (s.fwlen.toNat < 32 + quoteBytes → t.fwcmd.toNat / 2 ^ 48 % 2 ^ 8 = 5 ∧ t.mem = s.mem) ∧
        (32 + quoteBytes ≤ s.fwlen.toNat → s.busOk s.fwbuf.toNat (32 + quoteBytes) = true →
          t.fwcmd.toNat / 2 ^ 48 % 2 ^ 8 = 0) ∧
        (32 + quoteBytes ≤ s.fwlen.toNat → s.busOk s.fwbuf.toNat (32 + quoteBytes) = false → t.mem = s.mem) ∧
        t.fwcmd.getLsbD 62 = false ∧ t.slots = s.slots) ∧
      (v.toNat % 16 = 2 → Nexts (exec (.install v) s) fun t => t.fwcmd.getLsbD 62 = false ∧ t.mem = s.mem ∧
        let st := t.fwcmd.toNat / 2 ^ 48 % 2 ^ 8
        (s.fwlen.toNat < 1660 → st = 5 ∧ t.slots = s.slots) ∧
        (1660 ≤ s.fwlen.toNat → (s.slot (v.toNat / 2 ^ 8 % 2 ^ 7)).loaded = true → st = 1 ∧ t.slots = s.slots) ∧
        (1660 ≤ s.fwlen.toNat → (s.slot (v.toNat / 2 ^ 8 % 2 ^ 7)).loaded = false →
          s.busOk s.fwbuf.toNat 1660 = false → t.slots = s.slots) ∧
        (1660 ≤ s.fwlen.toNat → (s.slot (v.toNat / 2 ^ 8 % 2 ^ 7)).loaded = false → s.busOk s.fwbuf.toNat 1660 = true →
          (st = 0 ∧ (t.slot (v.toNat / 2 ^ 8 % 2 ^ 7)).loaded = true) ∨ (st = 2 ∧ t.slots = s.slots))) ∧
      (v.toNat % 16 = 3 → v.toNat / 2 ^ 8 % 2 ^ 7 ≠ 0 → (s.slot (v.toNat / 2 ^ 8 % 2 ^ 7)).loaded = true →
        Nexts (exec (.clear v) s) fun t => t.fwcmd.getLsbD 62 = true ∧
          t.slot (v.toNat / 2 ^ 8 % 2 ^ 7) = { s.slot (v.toNat / 2 ^ 8 % 2 ^ 7) with closing := true } ∧ t.mem = s.mem)) ∧
    (s.drain.slotInUse slot = true → exec (.keySlotClearDone slot) s = .next s) ∧
    (s.plain → slot < 128 → (s.slot slot).closing = true → s.drain.slotInUse slot = false → Nexts (exec (.keySlotClearDone slot) s) fun t =>
      t.slot slot = {} ∧ t.fwcmd = s.fwcmd &&& ~~~0x4000000000000000#64 ∧ t.mem = s.mem)) ∧
  (∀ (s : State) (v w : Word) (m : BitVec 7), s.ready = true →
    let u := s.peerTraffic
    u = { s with dies := u.dies, free := u.free } ∧ (∀ d, u.die d = { s.die d with port := (u.die d).port }) ∧
    (s.podctl.getLsbD 63 = false → exec (.podRequestIn true 0 v w []) s = .next { u with replies := none :: s.replies }) ∧
    (u.plain → s.collapses = [] → (∀ d < 8, (s.die d).newWays = none) → s.podctl.getLsbD 63 = true →
      (s.context (s.podctl.toNat % 64)).v = true → v.toNat / 2 ^ 62 = 0 →
      v.getLsbD 56 = false → v.toNat / 2 ^ 57 % 32 = s.podctl.toNat / 2 ^ 8 % 32 → w.toNat ≤ 128 - v.toNat % 128 →
      ∀ d < 8, (u.targetFor 0 (s.context (s.podctl.toNat % 64)).dxp .supervisor
        ⟨10, true, false, false, false, false, w.toNat⟩ (v &&& 0x00FFFFFFFFFFFFFF#64)).map (·.place) = some (.hbm d) →
      0 < w.toNat → Nexts (exec (.podRequestIn true 0 v w []) s) fun t =>
        t.replies.length = s.replies.length + 1 ∧
        (t.replies.headD none).map (·.length) = some w.toNat ∧ t.mem = s.mem) ∧
    (exec (.registerWrite true 0x408 none v) s = .next { s with fwbuf := v }) ∧
    (exec (.registerWrite true 0x950 none v) s = .next { s with podctl := v &&& 0x8000000000001F3F#64 }) ∧
    (exec (.registerWrite true (0x10000 + 64 * m.toNat + 8) none v) s = .next (if m.toNat < 64 ∧ (s.context m.toNat).v = false
      then s.setContext m.toNat { s.context m.toNat with dxp := v &&& ~~~0x800000000000#64 } else s)))

/-- R240 to R245, R247, R248, Tables 10.1 to 10.3 and 10.5: what the operations of Table 11.5 and of the vector rows
(O10, O28) compute, for each format and mode, in exact numbers. A number rounded is the nearest representable one, or
the next on the mode's side, itself where it is representable, and the value of Table 10.2 where it overflows, with NX,
OF and UF as R243 and R244 say (`Fmt.Rounds`). Sums, products, fused ones, quotients, roots and conversions of finite
values are their exact results so rounded; a NaN result is the format's canonical NaN; a conversion to an integer
follows Table 10.5. Where a value is abandoned (R256), other rules hold. -/
def Obligations.RoundingRules : Prop :=
  [f64, f32, f16, bf16].map (fun t => (t.width, t.bias, t.nan)) =
    [(64, 1023, 0x7FF8000000000000), (32, 127, 0x7FC00000), (16, 15, 0x7E00), (16, 127, 0x7FC0)] ∧
  ∀ t ∈ [f64, f32, f16, bf16], ∀ mode < 5,
    let rounds (v : ℚ) (r : Nat × Nat) : Prop := t.Rounds mode (decide (v < 0)) ((|v| : ℚ) : ℝ) r
    let nan (x : Nat) : Prop := t.inf false < x % 2 ^ (t.eb + t.fb)
    let quiet (x : Nat) : Prop := nan x → x.testBit (t.fb - 1) = true
    (∀ (neg : Bool) (m : Nat) (e : Int), 0 < m → t.Rounds mode neg ((m : ℝ) * 2 ^ e) (t.round mode neg m e)) ∧
    (∀ x y z : Nat, t.finite x → t.finite y → t.finite z →
      let v := t.value x
      let w := t.value y
      (v + w ≠ 0 → rounds (v + w) (fAdd t mode x y)) ∧ (v - w ≠ 0 → rounds (v - w) (fSub t mode x y)) ∧
      (v + w = 0 → t.negative x ≠ t.negative y → fAdd t mode x y = (t.zero (mode = 2), 0)) ∧
      (v * w ≠ 0 → rounds (v * w) (fMul t mode x y)) ∧
      (v * w = 0 → fMul t mode x y = (t.zero (t.negative x != t.negative y), 0)) ∧
      (v * w + t.value z ≠ 0 → rounds (v * w + t.value z) (fFma t mode false x y z)) ∧
      (t.value z - v * w ≠ 0 → rounds (t.value z - v * w) (fFma t mode true x y z)) ∧
      (w ≠ 0 → v ≠ 0 → rounds (v / w) (fDiv t mode x y)) ∧
      (w = 0 → v ≠ 0 → fDiv t mode x y = (t.inf (t.negative x != t.negative y), 8)) ∧
      (w = 0 → v = 0 → fDiv t mode x y = (t.nan, 16)) ∧
      (0 < v → t.Rounds mode false (Real.sqrt ((v : ℚ) : ℝ)) (fSqrt t mode x)) ∧
      (v < 0 → fSqrt t mode x = (t.nan, 16)) ∧
      (∀ t' ∈ [f64, f32, f16, bf16], v ≠ 0 → t'.Rounds mode (decide (v < 0)) ((|v| : ℚ) : ℝ) (fCvt t t' mode x))) ∧
    (∀ i : Int, i ≠ 0 → rounds i (fOfInt t mode i)) ∧
    (∀ x y : Nat, x < 2 ^ t.width → y < 2 ^ t.width → isAbn t x = false → isAbn t y = false →
      (nan x ∨ nan y → (fAdd t mode x y).1 = t.nan ∧ (fSub t mode x y).1 = t.nan ∧ (fMul t mode x y).1 = t.nan ∧
        (fDiv t mode x y).1 = t.nan ∧
        ((¬ quiet x ∨ ¬ quiet y) → (fAdd t mode x y).2 = 16 ∧ (fSub t mode x y).2 = 16 ∧ (fMul t mode x y).2 = 16 ∧
          (fDiv t mode x y).2 = 16) ∧
        (quiet x → quiet y → (fAdd t mode x y).2 = 0 ∧ (fSub t mode x y).2 = 0 ∧ (fMul t mode x y).2 = 0 ∧
          (fDiv t mode x y).2 = 0)) ∧
      (nan x → (fSqrt t mode x).1 = t.nan ∧ ∀ t' ∈ [f64, f32, f16, bf16],
        fCvt t t' mode x = (t'.nan, if x.testBit (t.fb - 1) then 0 else 16))) ∧
    (∀ n1 n2 : Bool, fAdd t mode (t.inf n1) (t.inf n2) = if n1 = n2 then (t.inf n1, 0) else (t.nan, 16)) ∧
    (∀ n1 n2 : Bool, fMul t mode (t.zero n1) (t.inf n2) = (t.nan, 16) ∧ fMul t mode (t.inf n1) (t.zero n2) = (t.nan, 16)) ∧
    ∀ (signed : Bool) (n : Nat), 0 < n →
      let hi : Int := if signed then 2 ^ (n - 1) - 1 else 2 ^ n - 1
      let lo : Int := if signed then -(2 ^ (n - 1)) else 0
      (∀ x : Nat, t.finite x → ∃ z : Int, roundsTo mode (t.value x) z ∧ fToInt t mode signed n x =
        if hi < z then (hi, 16) else if z < lo then (lo, 16) else (z, if (z : ℚ) = t.value x then 0 else 1)) ∧
      (∀ x : Nat, x < 2 ^ t.width → nan x → isAbn t x = false → fToInt t mode signed n x = (hi, 16)) ∧
      fToInt t mode signed n (t.inf false) = (hi, 16) ∧ fToInt t mode signed n (t.inf true) = (lo, 16)
end

