-- ==== Sys2Proof/Laws/State.lean ====
section
/-! SUPPORT. What each update of the state, and of a thread, does to each field; reading a map after setting it. -/

namespace Sys2Proof.Machine

/-! ## Maps -/

@[simp] theorem Sparse.get_set_same {α : Type} (d v : α) (m : Sparse α) (k : Nat) :
    Sparse.get d (Sparse.set m k v) k = v := by
  induction m with
  | nil => simp [Sparse.set, Sparse.get]
  | cons p m ih =>
    obtain ⟨k', v'⟩ := p
    simp only [Sparse.set]
    split
    · simp [Sparse.get]
    · split
      · simp [Sparse.get]
      · next h => simp [Sparse.get, h, ih]

theorem Sparse.get_set_ne {α : Type} (d v : α) (m : Sparse α) {j k : Nat} (h : j ≠ k) :
    Sparse.get d (Sparse.set m k v) j = Sparse.get d m j := by
  induction m with
  | nil => simp [Sparse.set, Sparse.get, h]
  | cons p m ih =>
    obtain ⟨k', v'⟩ := p
    simp only [Sparse.set]
    split
    · simp [Sparse.get, h]
    · split
      · next he => subst he; simp [Sparse.get, h]
      · simp only [Sparse.get, ih]

@[simp] theorem Sparse.set_set {α : Type} (v w : α) (m : Sparse α) (k : Nat) :
    Sparse.set (Sparse.set m k v) k w = Sparse.set m k w := by
  induction m with
  | nil => simp [Sparse.set]
  | cons p m ih =>
    obtain ⟨k', v'⟩ := p
    simp only [Sparse.set]
    split
    · simp [Sparse.set]
    · split
      · simp [Sparse.set]
      · next h1 h2 => simp [Sparse.set, h1, h2, ih]

/-! ## One field per update of the state -/

@[simp] theorem State.setTh_agenda (s : State) (t : Thread) : (s.setTh t).agenda = s.agenda := rfl
@[simp] theorem State.setTh_cur (s : State) (t : Thread) : (s.setTh t).cur = s.cur := rfl
@[simp] theorem State.setTh_turn (s : State) (t : Thread) : (s.setTh t).turn = s.turn := rfl
@[simp] theorem State.setTh_sched (s : State) (t : Thread) : (s.setTh t).sched = s.sched := rfl
@[simp] theorem State.setTh_free (s : State) (t : Thread) : (s.setTh t).free = s.free := rfl
@[simp] theorem State.setTh_nextId (s : State) (t : Thread) : (s.setTh t).nextId = s.nextId := rfl
@[simp] theorem State.setTh_seqs (s : State) (t : Thread) : (s.setTh t).seqs = s.seqs := rfl
@[simp] theorem State.setTh_cores (s : State) (t : Thread) : (s.setTh t).cores = s.cores := rfl
@[simp] theorem State.setTh_dies (s : State) (t : Thread) : (s.setTh t).dies = s.dies := rfl
@[simp] theorem State.setTh_mem (s : State) (t : Thread) : (s.setTh t).mem = s.mem := rfl
@[simp] theorem State.setTh_host (s : State) (t : Thread) : (s.setTh t).host = s.host := rfl
@[simp] theorem State.setTh_lines (s : State) (t : Thread) : (s.setTh t).lines = s.lines := rfl
@[simp] theorem State.setTh_flights (s : State) (t : Thread) : (s.setTh t).flights = s.flights := rfl
@[simp] theorem State.setTh_bolts (s : State) (t : Thread) : (s.setTh t).bolts = s.bolts := rfl
@[simp] theorem State.setTh_resvs (s : State) (t : Thread) : (s.setTh t).resvs = s.resvs := rfl
@[simp] theorem State.setTh_freed (s : State) (t : Thread) : (s.setTh t).freed = s.freed := rfl
@[simp] theorem State.setTh_hwqs (s : State) (t : Thread) : (s.setTh t).hwqs = s.hwqs := rfl
@[simp] theorem State.setTh_collapses (s : State) (t : Thread) : (s.setTh t).collapses = s.collapses := rfl
@[simp] theorem State.setTh_slots (s : State) (t : Thread) : (s.setTh t).slots = s.slots := rfl
@[simp] theorem State.setTh_slot0 (s : State) (t : Thread) : (s.setTh t).slot0 = s.slot0 := rfl
@[simp] theorem State.setTh_ready (s : State) (t : Thread) : (s.setTh t).ready = s.ready := rfl
@[simp] theorem State.setTh_bootErr (s : State) (t : Thread) : (s.setTh t).bootErr = s.bootErr := rfl
@[simp] theorem State.setTh_rtimer (s : State) (t : Thread) : (s.setTh t).rtimer = s.rtimer := rfl
@[simp] theorem State.setTh_eqbase (s : State) (t : Thread) : (s.setTh t).eqbase = s.eqbase := rfl
@[simp] theorem State.setTh_eqhead (s : State) (t : Thread) : (s.setTh t).eqhead = s.eqhead := rfl
@[simp] theorem State.setTh_eqtail (s : State) (t : Thread) : (s.setTh t).eqtail = s.eqtail := rfl
@[simp] theorem State.setTh_dropped (s : State) (t : Thread) : (s.setTh t).dropped = s.dropped := rfl
@[simp] theorem State.setTh_xlinva (s : State) (t : Thread) : (s.setTh t).xlinva = s.xlinva := rfl
@[simp] theorem State.setTh_xlinvb (s : State) (t : Thread) : (s.setTh t).xlinvb = s.xlinvb := rfl
@[simp] theorem State.setTh_repcmd (s : State) (t : Thread) : (s.setTh t).repcmd = s.repcmd := rfl
@[simp] theorem State.setTh_repRun (s : State) (t : Thread) : (s.setTh t).repRun = s.repRun := rfl
@[simp] theorem State.setTh_seqkill (s : State) (t : Thread) : (s.setTh t).seqkill = s.seqkill := rfl
@[simp] theorem State.setTh_fwcmd (s : State) (t : Thread) : (s.setTh t).fwcmd = s.fwcmd := rfl
@[simp] theorem State.setTh_fwbuf (s : State) (t : Thread) : (s.setTh t).fwbuf = s.fwbuf := rfl
@[simp] theorem State.setTh_fwlen (s : State) (t : Thread) : (s.setTh t).fwlen = s.fwlen := rfl
@[simp] theorem State.setTh_featoff (s : State) (t : Thread) : (s.setTh t).featoff = s.featoff := rfl
@[simp] theorem State.setTh_featacc (s : State) (t : Thread) : (s.setTh t).featacc = s.featacc := rfl
@[simp] theorem State.setTh_featstat (s : State) (t : Thread) : (s.setTh t).featstat = s.featstat := rfl
@[simp] theorem State.setTh_featuse (s : State) (t : Thread) : (s.setTh t).featuse = s.featuse := rfl
@[simp] theorem State.setTh_xtgen (s : State) (t : Thread) : (s.setTh t).xtgen = s.xtgen := rfl
@[simp] theorem State.setTh_xtver (s : State) (t : Thread) : (s.setTh t).xtver = s.xtver := rfl
@[simp] theorem State.setTh_femap (s : State) (t : Thread) : (s.setTh t).femap = s.femap := rfl
@[simp] theorem State.setTh_ppmap (s : State) (t : Thread) : (s.setTh t).ppmap = s.ppmap := rfl
@[simp] theorem State.setTh_podctl (s : State) (t : Thread) : (s.setTh t).podctl = s.podctl := rfl
@[simp] theorem State.setTh_pwrisl (s : State) (t : Thread) : (s.setTh t).pwrisl = s.pwrisl := rfl
@[simp] theorem State.setTh_pwrlim (s : State) (t : Thread) : (s.setTh t).pwrlim = s.pwrlim := rfl
@[simp] theorem State.setTh_thermal (s : State) (t : Thread) : (s.setTh t).thermal = s.thermal := rfl
@[simp] theorem State.setTh_contexts (s : State) (t : Thread) : (s.setTh t).contexts = s.contexts := rfl
@[simp] theorem State.setTh_queues (s : State) (t : Thread) : (s.setTh t).queues = s.queues := rfl
@[simp] theorem State.setTh_apertures (s : State) (t : Thread) : (s.setTh t).apertures = s.apertures := rfl
@[simp] theorem State.setTh_launches (s : State) (t : Thread) : (s.setTh t).launches = s.launches := rfl
@[simp] theorem State.setTh_completions (s : State) (t : Thread) : (s.setTh t).completions = s.completions := rfl
@[simp] theorem State.setTh_grants (s : State) (t : Thread) : (s.setTh t).grants = s.grants := rfl
@[simp] theorem State.setTh_graphs (s : State) (t : Thread) : (s.setTh t).graphs = s.graphs := rfl
@[simp] theorem State.setTh_saved (s : State) (t : Thread) : (s.setTh t).saved = s.saved := rfl
@[simp] theorem State.setTh_results (s : State) (t : Thread) : (s.setTh t).results = s.results := rfl
@[simp] theorem State.setTh_msix (s : State) (t : Thread) : (s.setTh t).msix = s.msix := rfl
@[simp] theorem State.setTh_replies (s : State) (t : Thread) : (s.setTh t).replies = s.replies := rfl
@[simp] theorem State.setTh_podOut (s : State) (t : Thread) : (s.setTh t).podOut = s.podOut := rfl
@[simp] theorem State.setTh_bootId (s : State) (t : Thread) : (s.setTh t).bootId = s.bootId := rfl
@[simp] theorem State.setTh_barBase (s : State) (t : Thread) : (s.setTh t).barBase = s.barBase := rfl
@[simp] theorem State.setTh_hostAtomics (s : State) (t : Thread) : (s.setTh t).hostAtomics = s.hostAtomics := rfl

@[simp] theorem State.setThread_agenda (s : State) (q r : Nat) (t : Thread) : (s.setThread q r t).agenda = s.agenda := rfl
@[simp] theorem State.setThread_cur (s : State) (q r : Nat) (t : Thread) : (s.setThread q r t).cur = s.cur := rfl
@[simp] theorem State.setThread_turn (s : State) (q r : Nat) (t : Thread) : (s.setThread q r t).turn = s.turn := rfl
@[simp] theorem State.setThread_sched (s : State) (q r : Nat) (t : Thread) : (s.setThread q r t).sched = s.sched := rfl
@[simp] theorem State.setThread_free (s : State) (q r : Nat) (t : Thread) : (s.setThread q r t).free = s.free := rfl
@[simp] theorem State.setThread_nextId (s : State) (q r : Nat) (t : Thread) : (s.setThread q r t).nextId = s.nextId := rfl
@[simp] theorem State.setThread_seqs (s : State) (q r : Nat) (t : Thread) : (s.setThread q r t).seqs = s.seqs := rfl
@[simp] theorem State.setThread_cores (s : State) (q r : Nat) (t : Thread) : (s.setThread q r t).cores = s.cores := rfl
@[simp] theorem State.setThread_dies (s : State) (q r : Nat) (t : Thread) : (s.setThread q r t).dies = s.dies := rfl
@[simp] theorem State.setThread_mem (s : State) (q r : Nat) (t : Thread) : (s.setThread q r t).mem = s.mem := rfl
@[simp] theorem State.setThread_host (s : State) (q r : Nat) (t : Thread) : (s.setThread q r t).host = s.host := rfl
@[simp] theorem State.setThread_lines (s : State) (q r : Nat) (t : Thread) : (s.setThread q r t).lines = s.lines := rfl
@[simp] theorem State.setThread_flights (s : State) (q r : Nat) (t : Thread) : (s.setThread q r t).flights = s.flights := rfl
@[simp] theorem State.setThread_bolts (s : State) (q r : Nat) (t : Thread) : (s.setThread q r t).bolts = s.bolts := rfl
@[simp] theorem State.setThread_resvs (s : State) (q r : Nat) (t : Thread) : (s.setThread q r t).resvs = s.resvs := rfl
@[simp] theorem State.setThread_freed (s : State) (q r : Nat) (t : Thread) : (s.setThread q r t).freed = s.freed := rfl
@[simp] theorem State.setThread_hwqs (s : State) (q r : Nat) (t : Thread) : (s.setThread q r t).hwqs = s.hwqs := rfl
@[simp] theorem State.setThread_collapses (s : State) (q r : Nat) (t : Thread) : (s.setThread q r t).collapses = s.collapses := rfl
@[simp] theorem State.setThread_slots (s : State) (q r : Nat) (t : Thread) : (s.setThread q r t).slots = s.slots := rfl
@[simp] theorem State.setThread_slot0 (s : State) (q r : Nat) (t : Thread) : (s.setThread q r t).slot0 = s.slot0 := rfl
@[simp] theorem State.setThread_ready (s : State) (q r : Nat) (t : Thread) : (s.setThread q r t).ready = s.ready := rfl
@[simp] theorem State.setThread_bootErr (s : State) (q r : Nat) (t : Thread) : (s.setThread q r t).bootErr = s.bootErr := rfl
@[simp] theorem State.setThread_rtimer (s : State) (q r : Nat) (t : Thread) : (s.setThread q r t).rtimer = s.rtimer := rfl
@[simp] theorem State.setThread_eqbase (s : State) (q r : Nat) (t : Thread) : (s.setThread q r t).eqbase = s.eqbase := rfl
@[simp] theorem State.setThread_eqhead (s : State) (q r : Nat) (t : Thread) : (s.setThread q r t).eqhead = s.eqhead := rfl
@[simp] theorem State.setThread_eqtail (s : State) (q r : Nat) (t : Thread) : (s.setThread q r t).eqtail = s.eqtail := rfl
@[simp] theorem State.setThread_dropped (s : State) (q r : Nat) (t : Thread) : (s.setThread q r t).dropped = s.dropped := rfl
@[simp] theorem State.setThread_xlinva (s : State) (q r : Nat) (t : Thread) : (s.setThread q r t).xlinva = s.xlinva := rfl
@[simp] theorem State.setThread_xlinvb (s : State) (q r : Nat) (t : Thread) : (s.setThread q r t).xlinvb = s.xlinvb := rfl
@[simp] theorem State.setThread_repcmd (s : State) (q r : Nat) (t : Thread) : (s.setThread q r t).repcmd = s.repcmd := rfl
@[simp] theorem State.setThread_repRun (s : State) (q r : Nat) (t : Thread) : (s.setThread q r t).repRun = s.repRun := rfl
@[simp] theorem State.setThread_seqkill (s : State) (q r : Nat) (t : Thread) : (s.setThread q r t).seqkill = s.seqkill := rfl
@[simp] theorem State.setThread_fwcmd (s : State) (q r : Nat) (t : Thread) : (s.setThread q r t).fwcmd = s.fwcmd := rfl
@[simp] theorem State.setThread_fwbuf (s : State) (q r : Nat) (t : Thread) : (s.setThread q r t).fwbuf = s.fwbuf := rfl
@[simp] theorem State.setThread_fwlen (s : State) (q r : Nat) (t : Thread) : (s.setThread q r t).fwlen = s.fwlen := rfl
@[simp] theorem State.setThread_featoff (s : State) (q r : Nat) (t : Thread) : (s.setThread q r t).featoff = s.featoff := rfl
@[simp] theorem State.setThread_featacc (s : State) (q r : Nat) (t : Thread) : (s.setThread q r t).featacc = s.featacc := rfl
@[simp] theorem State.setThread_featstat (s : State) (q r : Nat) (t : Thread) : (s.setThread q r t).featstat = s.featstat := rfl
@[simp] theorem State.setThread_featuse (s : State) (q r : Nat) (t : Thread) : (s.setThread q r t).featuse = s.featuse := rfl
@[simp] theorem State.setThread_xtgen (s : State) (q r : Nat) (t : Thread) : (s.setThread q r t).xtgen = s.xtgen := rfl
@[simp] theorem State.setThread_xtver (s : State) (q r : Nat) (t : Thread) : (s.setThread q r t).xtver = s.xtver := rfl
@[simp] theorem State.setThread_femap (s : State) (q r : Nat) (t : Thread) : (s.setThread q r t).femap = s.femap := rfl
@[simp] theorem State.setThread_ppmap (s : State) (q r : Nat) (t : Thread) : (s.setThread q r t).ppmap = s.ppmap := rfl
@[simp] theorem State.setThread_podctl (s : State) (q r : Nat) (t : Thread) : (s.setThread q r t).podctl = s.podctl := rfl
@[simp] theorem State.setThread_pwrisl (s : State) (q r : Nat) (t : Thread) : (s.setThread q r t).pwrisl = s.pwrisl := rfl
@[simp] theorem State.setThread_pwrlim (s : State) (q r : Nat) (t : Thread) : (s.setThread q r t).pwrlim = s.pwrlim := rfl
@[simp] theorem State.setThread_thermal (s : State) (q r : Nat) (t : Thread) : (s.setThread q r t).thermal = s.thermal := rfl
@[simp] theorem State.setThread_contexts (s : State) (q r : Nat) (t : Thread) : (s.setThread q r t).contexts = s.contexts := rfl
@[simp] theorem State.setThread_queues (s : State) (q r : Nat) (t : Thread) : (s.setThread q r t).queues = s.queues := rfl
@[simp] theorem State.setThread_apertures (s : State) (q r : Nat) (t : Thread) : (s.setThread q r t).apertures = s.apertures := rfl
@[simp] theorem State.setThread_launches (s : State) (q r : Nat) (t : Thread) : (s.setThread q r t).launches = s.launches := rfl
@[simp] theorem State.setThread_completions (s : State) (q r : Nat) (t : Thread) : (s.setThread q r t).completions = s.completions := rfl
@[simp] theorem State.setThread_grants (s : State) (q r : Nat) (t : Thread) : (s.setThread q r t).grants = s.grants := rfl
@[simp] theorem State.setThread_graphs (s : State) (q r : Nat) (t : Thread) : (s.setThread q r t).graphs = s.graphs := rfl
@[simp] theorem State.setThread_saved (s : State) (q r : Nat) (t : Thread) : (s.setThread q r t).saved = s.saved := rfl
@[simp] theorem State.setThread_results (s : State) (q r : Nat) (t : Thread) : (s.setThread q r t).results = s.results := rfl
@[simp] theorem State.setThread_msix (s : State) (q r : Nat) (t : Thread) : (s.setThread q r t).msix = s.msix := rfl
@[simp] theorem State.setThread_replies (s : State) (q r : Nat) (t : Thread) : (s.setThread q r t).replies = s.replies := rfl
@[simp] theorem State.setThread_podOut (s : State) (q r : Nat) (t : Thread) : (s.setThread q r t).podOut = s.podOut := rfl
@[simp] theorem State.setThread_bootId (s : State) (q r : Nat) (t : Thread) : (s.setThread q r t).bootId = s.bootId := rfl
@[simp] theorem State.setThread_barBase (s : State) (q r : Nat) (t : Thread) : (s.setThread q r t).barBase = s.barBase := rfl
@[simp] theorem State.setThread_hostAtomics (s : State) (q r : Nat) (t : Thread) : (s.setThread q r t).hostAtomics = s.hostAtomics := rfl

@[simp] theorem State.setSeq_agenda (s : State) (q : Nat) (v : Seq) : (s.setSeq q v).agenda = s.agenda := rfl
@[simp] theorem State.setSeq_cur (s : State) (q : Nat) (v : Seq) : (s.setSeq q v).cur = s.cur := rfl
@[simp] theorem State.setSeq_turn (s : State) (q : Nat) (v : Seq) : (s.setSeq q v).turn = s.turn := rfl
@[simp] theorem State.setSeq_sched (s : State) (q : Nat) (v : Seq) : (s.setSeq q v).sched = s.sched := rfl
@[simp] theorem State.setSeq_free (s : State) (q : Nat) (v : Seq) : (s.setSeq q v).free = s.free := rfl
@[simp] theorem State.setSeq_nextId (s : State) (q : Nat) (v : Seq) : (s.setSeq q v).nextId = s.nextId := rfl
@[simp] theorem State.setSeq_threads (s : State) (q : Nat) (v : Seq) : (s.setSeq q v).threads = s.threads := rfl
@[simp] theorem State.setSeq_cores (s : State) (q : Nat) (v : Seq) : (s.setSeq q v).cores = s.cores := rfl
@[simp] theorem State.setSeq_dies (s : State) (q : Nat) (v : Seq) : (s.setSeq q v).dies = s.dies := rfl
@[simp] theorem State.setSeq_mem (s : State) (q : Nat) (v : Seq) : (s.setSeq q v).mem = s.mem := rfl
@[simp] theorem State.setSeq_host (s : State) (q : Nat) (v : Seq) : (s.setSeq q v).host = s.host := rfl
@[simp] theorem State.setSeq_lines (s : State) (q : Nat) (v : Seq) : (s.setSeq q v).lines = s.lines := rfl
@[simp] theorem State.setSeq_flights (s : State) (q : Nat) (v : Seq) : (s.setSeq q v).flights = s.flights := rfl
@[simp] theorem State.setSeq_bolts (s : State) (q : Nat) (v : Seq) : (s.setSeq q v).bolts = s.bolts := rfl
@[simp] theorem State.setSeq_resvs (s : State) (q : Nat) (v : Seq) : (s.setSeq q v).resvs = s.resvs := rfl
@[simp] theorem State.setSeq_freed (s : State) (q : Nat) (v : Seq) : (s.setSeq q v).freed = s.freed := rfl
@[simp] theorem State.setSeq_hwqs (s : State) (q : Nat) (v : Seq) : (s.setSeq q v).hwqs = s.hwqs := rfl
@[simp] theorem State.setSeq_collapses (s : State) (q : Nat) (v : Seq) : (s.setSeq q v).collapses = s.collapses := rfl
@[simp] theorem State.setSeq_slots (s : State) (q : Nat) (v : Seq) : (s.setSeq q v).slots = s.slots := rfl
@[simp] theorem State.setSeq_slot0 (s : State) (q : Nat) (v : Seq) : (s.setSeq q v).slot0 = s.slot0 := rfl
@[simp] theorem State.setSeq_ready (s : State) (q : Nat) (v : Seq) : (s.setSeq q v).ready = s.ready := rfl
@[simp] theorem State.setSeq_bootErr (s : State) (q : Nat) (v : Seq) : (s.setSeq q v).bootErr = s.bootErr := rfl
@[simp] theorem State.setSeq_rtimer (s : State) (q : Nat) (v : Seq) : (s.setSeq q v).rtimer = s.rtimer := rfl
@[simp] theorem State.setSeq_eqbase (s : State) (q : Nat) (v : Seq) : (s.setSeq q v).eqbase = s.eqbase := rfl
@[simp] theorem State.setSeq_eqhead (s : State) (q : Nat) (v : Seq) : (s.setSeq q v).eqhead = s.eqhead := rfl
@[simp] theorem State.setSeq_eqtail (s : State) (q : Nat) (v : Seq) : (s.setSeq q v).eqtail = s.eqtail := rfl
@[simp] theorem State.setSeq_dropped (s : State) (q : Nat) (v : Seq) : (s.setSeq q v).dropped = s.dropped := rfl
@[simp] theorem State.setSeq_xlinva (s : State) (q : Nat) (v : Seq) : (s.setSeq q v).xlinva = s.xlinva := rfl
@[simp] theorem State.setSeq_xlinvb (s : State) (q : Nat) (v : Seq) : (s.setSeq q v).xlinvb = s.xlinvb := rfl
@[simp] theorem State.setSeq_repcmd (s : State) (q : Nat) (v : Seq) : (s.setSeq q v).repcmd = s.repcmd := rfl
@[simp] theorem State.setSeq_repRun (s : State) (q : Nat) (v : Seq) : (s.setSeq q v).repRun = s.repRun := rfl
@[simp] theorem State.setSeq_seqkill (s : State) (q : Nat) (v : Seq) : (s.setSeq q v).seqkill = s.seqkill := rfl
@[simp] theorem State.setSeq_fwcmd (s : State) (q : Nat) (v : Seq) : (s.setSeq q v).fwcmd = s.fwcmd := rfl
@[simp] theorem State.setSeq_fwbuf (s : State) (q : Nat) (v : Seq) : (s.setSeq q v).fwbuf = s.fwbuf := rfl
@[simp] theorem State.setSeq_fwlen (s : State) (q : Nat) (v : Seq) : (s.setSeq q v).fwlen = s.fwlen := rfl
@[simp] theorem State.setSeq_featoff (s : State) (q : Nat) (v : Seq) : (s.setSeq q v).featoff = s.featoff := rfl
@[simp] theorem State.setSeq_featacc (s : State) (q : Nat) (v : Seq) : (s.setSeq q v).featacc = s.featacc := rfl
@[simp] theorem State.setSeq_featstat (s : State) (q : Nat) (v : Seq) : (s.setSeq q v).featstat = s.featstat := rfl
@[simp] theorem State.setSeq_featuse (s : State) (q : Nat) (v : Seq) : (s.setSeq q v).featuse = s.featuse := rfl
@[simp] theorem State.setSeq_xtgen (s : State) (q : Nat) (v : Seq) : (s.setSeq q v).xtgen = s.xtgen := rfl
@[simp] theorem State.setSeq_xtver (s : State) (q : Nat) (v : Seq) : (s.setSeq q v).xtver = s.xtver := rfl
@[simp] theorem State.setSeq_femap (s : State) (q : Nat) (v : Seq) : (s.setSeq q v).femap = s.femap := rfl
@[simp] theorem State.setSeq_ppmap (s : State) (q : Nat) (v : Seq) : (s.setSeq q v).ppmap = s.ppmap := rfl
@[simp] theorem State.setSeq_podctl (s : State) (q : Nat) (v : Seq) : (s.setSeq q v).podctl = s.podctl := rfl
@[simp] theorem State.setSeq_pwrisl (s : State) (q : Nat) (v : Seq) : (s.setSeq q v).pwrisl = s.pwrisl := rfl
@[simp] theorem State.setSeq_pwrlim (s : State) (q : Nat) (v : Seq) : (s.setSeq q v).pwrlim = s.pwrlim := rfl
@[simp] theorem State.setSeq_thermal (s : State) (q : Nat) (v : Seq) : (s.setSeq q v).thermal = s.thermal := rfl
@[simp] theorem State.setSeq_contexts (s : State) (q : Nat) (v : Seq) : (s.setSeq q v).contexts = s.contexts := rfl
@[simp] theorem State.setSeq_queues (s : State) (q : Nat) (v : Seq) : (s.setSeq q v).queues = s.queues := rfl
@[simp] theorem State.setSeq_apertures (s : State) (q : Nat) (v : Seq) : (s.setSeq q v).apertures = s.apertures := rfl
@[simp] theorem State.setSeq_launches (s : State) (q : Nat) (v : Seq) : (s.setSeq q v).launches = s.launches := rfl
@[simp] theorem State.setSeq_completions (s : State) (q : Nat) (v : Seq) : (s.setSeq q v).completions = s.completions := rfl
@[simp] theorem State.setSeq_grants (s : State) (q : Nat) (v : Seq) : (s.setSeq q v).grants = s.grants := rfl
@[simp] theorem State.setSeq_graphs (s : State) (q : Nat) (v : Seq) : (s.setSeq q v).graphs = s.graphs := rfl
@[simp] theorem State.setSeq_saved (s : State) (q : Nat) (v : Seq) : (s.setSeq q v).saved = s.saved := rfl
@[simp] theorem State.setSeq_results (s : State) (q : Nat) (v : Seq) : (s.setSeq q v).results = s.results := rfl
@[simp] theorem State.setSeq_msix (s : State) (q : Nat) (v : Seq) : (s.setSeq q v).msix = s.msix := rfl
@[simp] theorem State.setSeq_replies (s : State) (q : Nat) (v : Seq) : (s.setSeq q v).replies = s.replies := rfl
@[simp] theorem State.setSeq_podOut (s : State) (q : Nat) (v : Seq) : (s.setSeq q v).podOut = s.podOut := rfl
@[simp] theorem State.setSeq_bootId (s : State) (q : Nat) (v : Seq) : (s.setSeq q v).bootId = s.bootId := rfl
@[simp] theorem State.setSeq_barBase (s : State) (q : Nat) (v : Seq) : (s.setSeq q v).barBase = s.barBase := rfl
@[simp] theorem State.setSeq_hostAtomics (s : State) (q : Nat) (v : Seq) : (s.setSeq q v).hostAtomics = s.hostAtomics := rfl

@[simp] theorem State.setSq_agenda (s : State) (v : Seq) : (s.setSq v).agenda = s.agenda := rfl
@[simp] theorem State.setSq_cur (s : State) (v : Seq) : (s.setSq v).cur = s.cur := rfl
@[simp] theorem State.setSq_turn (s : State) (v : Seq) : (s.setSq v).turn = s.turn := rfl
@[simp] theorem State.setSq_sched (s : State) (v : Seq) : (s.setSq v).sched = s.sched := rfl
@[simp] theorem State.setSq_free (s : State) (v : Seq) : (s.setSq v).free = s.free := rfl
@[simp] theorem State.setSq_nextId (s : State) (v : Seq) : (s.setSq v).nextId = s.nextId := rfl
@[simp] theorem State.setSq_threads (s : State) (v : Seq) : (s.setSq v).threads = s.threads := rfl
@[simp] theorem State.setSq_cores (s : State) (v : Seq) : (s.setSq v).cores = s.cores := rfl
@[simp] theorem State.setSq_dies (s : State) (v : Seq) : (s.setSq v).dies = s.dies := rfl
@[simp] theorem State.setSq_mem (s : State) (v : Seq) : (s.setSq v).mem = s.mem := rfl
@[simp] theorem State.setSq_host (s : State) (v : Seq) : (s.setSq v).host = s.host := rfl
@[simp] theorem State.setSq_lines (s : State) (v : Seq) : (s.setSq v).lines = s.lines := rfl
@[simp] theorem State.setSq_flights (s : State) (v : Seq) : (s.setSq v).flights = s.flights := rfl
@[simp] theorem State.setSq_bolts (s : State) (v : Seq) : (s.setSq v).bolts = s.bolts := rfl
@[simp] theorem State.setSq_resvs (s : State) (v : Seq) : (s.setSq v).resvs = s.resvs := rfl
@[simp] theorem State.setSq_freed (s : State) (v : Seq) : (s.setSq v).freed = s.freed := rfl
@[simp] theorem State.setSq_hwqs (s : State) (v : Seq) : (s.setSq v).hwqs = s.hwqs := rfl
@[simp] theorem State.setSq_collapses (s : State) (v : Seq) : (s.setSq v).collapses = s.collapses := rfl
@[simp] theorem State.setSq_slots (s : State) (v : Seq) : (s.setSq v).slots = s.slots := rfl
@[simp] theorem State.setSq_slot0 (s : State) (v : Seq) : (s.setSq v).slot0 = s.slot0 := rfl
@[simp] theorem State.setSq_ready (s : State) (v : Seq) : (s.setSq v).ready = s.ready := rfl
@[simp] theorem State.setSq_bootErr (s : State) (v : Seq) : (s.setSq v).bootErr = s.bootErr := rfl
@[simp] theorem State.setSq_rtimer (s : State) (v : Seq) : (s.setSq v).rtimer = s.rtimer := rfl
@[simp] theorem State.setSq_eqbase (s : State) (v : Seq) : (s.setSq v).eqbase = s.eqbase := rfl
@[simp] theorem State.setSq_eqhead (s : State) (v : Seq) : (s.setSq v).eqhead = s.eqhead := rfl
@[simp] theorem State.setSq_eqtail (s : State) (v : Seq) : (s.setSq v).eqtail = s.eqtail := rfl
@[simp] theorem State.setSq_dropped (s : State) (v : Seq) : (s.setSq v).dropped = s.dropped := rfl
@[simp] theorem State.setSq_xlinva (s : State) (v : Seq) : (s.setSq v).xlinva = s.xlinva := rfl
@[simp] theorem State.setSq_xlinvb (s : State) (v : Seq) : (s.setSq v).xlinvb = s.xlinvb := rfl
@[simp] theorem State.setSq_repcmd (s : State) (v : Seq) : (s.setSq v).repcmd = s.repcmd := rfl
@[simp] theorem State.setSq_repRun (s : State) (v : Seq) : (s.setSq v).repRun = s.repRun := rfl
@[simp] theorem State.setSq_seqkill (s : State) (v : Seq) : (s.setSq v).seqkill = s.seqkill := rfl
@[simp] theorem State.setSq_fwcmd (s : State) (v : Seq) : (s.setSq v).fwcmd = s.fwcmd := rfl
@[simp] theorem State.setSq_fwbuf (s : State) (v : Seq) : (s.setSq v).fwbuf = s.fwbuf := rfl
@[simp] theorem State.setSq_fwlen (s : State) (v : Seq) : (s.setSq v).fwlen = s.fwlen := rfl
@[simp] theorem State.setSq_featoff (s : State) (v : Seq) : (s.setSq v).featoff = s.featoff := rfl
@[simp] theorem State.setSq_featacc (s : State) (v : Seq) : (s.setSq v).featacc = s.featacc := rfl
@[simp] theorem State.setSq_featstat (s : State) (v : Seq) : (s.setSq v).featstat = s.featstat := rfl
@[simp] theorem State.setSq_featuse (s : State) (v : Seq) : (s.setSq v).featuse = s.featuse := rfl
@[simp] theorem State.setSq_xtgen (s : State) (v : Seq) : (s.setSq v).xtgen = s.xtgen := rfl
@[simp] theorem State.setSq_xtver (s : State) (v : Seq) : (s.setSq v).xtver = s.xtver := rfl
@[simp] theorem State.setSq_femap (s : State) (v : Seq) : (s.setSq v).femap = s.femap := rfl
@[simp] theorem State.setSq_ppmap (s : State) (v : Seq) : (s.setSq v).ppmap = s.ppmap := rfl
@[simp] theorem State.setSq_podctl (s : State) (v : Seq) : (s.setSq v).podctl = s.podctl := rfl
@[simp] theorem State.setSq_pwrisl (s : State) (v : Seq) : (s.setSq v).pwrisl = s.pwrisl := rfl
@[simp] theorem State.setSq_pwrlim (s : State) (v : Seq) : (s.setSq v).pwrlim = s.pwrlim := rfl
@[simp] theorem State.setSq_thermal (s : State) (v : Seq) : (s.setSq v).thermal = s.thermal := rfl
@[simp] theorem State.setSq_contexts (s : State) (v : Seq) : (s.setSq v).contexts = s.contexts := rfl
@[simp] theorem State.setSq_queues (s : State) (v : Seq) : (s.setSq v).queues = s.queues := rfl
@[simp] theorem State.setSq_apertures (s : State) (v : Seq) : (s.setSq v).apertures = s.apertures := rfl
@[simp] theorem State.setSq_launches (s : State) (v : Seq) : (s.setSq v).launches = s.launches := rfl
@[simp] theorem State.setSq_completions (s : State) (v : Seq) : (s.setSq v).completions = s.completions := rfl
@[simp] theorem State.setSq_grants (s : State) (v : Seq) : (s.setSq v).grants = s.grants := rfl
@[simp] theorem State.setSq_graphs (s : State) (v : Seq) : (s.setSq v).graphs = s.graphs := rfl
@[simp] theorem State.setSq_saved (s : State) (v : Seq) : (s.setSq v).saved = s.saved := rfl
@[simp] theorem State.setSq_results (s : State) (v : Seq) : (s.setSq v).results = s.results := rfl
@[simp] theorem State.setSq_msix (s : State) (v : Seq) : (s.setSq v).msix = s.msix := rfl
@[simp] theorem State.setSq_replies (s : State) (v : Seq) : (s.setSq v).replies = s.replies := rfl
@[simp] theorem State.setSq_podOut (s : State) (v : Seq) : (s.setSq v).podOut = s.podOut := rfl
@[simp] theorem State.setSq_bootId (s : State) (v : Seq) : (s.setSq v).bootId = s.bootId := rfl
@[simp] theorem State.setSq_barBase (s : State) (v : Seq) : (s.setSq v).barBase = s.barBase := rfl
@[simp] theorem State.setSq_hostAtomics (s : State) (v : Seq) : (s.setSq v).hostAtomics = s.hostAtomics := rfl

@[simp] theorem State.setCore_agenda (s : State) (c : Nat) (v : CorePair) : (s.setCore c v).agenda = s.agenda := rfl
@[simp] theorem State.setCore_cur (s : State) (c : Nat) (v : CorePair) : (s.setCore c v).cur = s.cur := rfl
@[simp] theorem State.setCore_turn (s : State) (c : Nat) (v : CorePair) : (s.setCore c v).turn = s.turn := rfl
@[simp] theorem State.setCore_sched (s : State) (c : Nat) (v : CorePair) : (s.setCore c v).sched = s.sched := rfl
@[simp] theorem State.setCore_free (s : State) (c : Nat) (v : CorePair) : (s.setCore c v).free = s.free := rfl
@[simp] theorem State.setCore_nextId (s : State) (c : Nat) (v : CorePair) : (s.setCore c v).nextId = s.nextId := rfl
@[simp] theorem State.setCore_threads (s : State) (c : Nat) (v : CorePair) : (s.setCore c v).threads = s.threads := rfl
@[simp] theorem State.setCore_seqs (s : State) (c : Nat) (v : CorePair) : (s.setCore c v).seqs = s.seqs := rfl
@[simp] theorem State.setCore_dies (s : State) (c : Nat) (v : CorePair) : (s.setCore c v).dies = s.dies := rfl
@[simp] theorem State.setCore_mem (s : State) (c : Nat) (v : CorePair) : (s.setCore c v).mem = s.mem := rfl
@[simp] theorem State.setCore_host (s : State) (c : Nat) (v : CorePair) : (s.setCore c v).host = s.host := rfl
@[simp] theorem State.setCore_lines (s : State) (c : Nat) (v : CorePair) : (s.setCore c v).lines = s.lines := rfl
@[simp] theorem State.setCore_flights (s : State) (c : Nat) (v : CorePair) : (s.setCore c v).flights = s.flights := rfl
@[simp] theorem State.setCore_bolts (s : State) (c : Nat) (v : CorePair) : (s.setCore c v).bolts = s.bolts := rfl
@[simp] theorem State.setCore_resvs (s : State) (c : Nat) (v : CorePair) : (s.setCore c v).resvs = s.resvs := rfl
@[simp] theorem State.setCore_freed (s : State) (c : Nat) (v : CorePair) : (s.setCore c v).freed = s.freed := rfl
@[simp] theorem State.setCore_hwqs (s : State) (c : Nat) (v : CorePair) : (s.setCore c v).hwqs = s.hwqs := rfl
@[simp] theorem State.setCore_collapses (s : State) (c : Nat) (v : CorePair) : (s.setCore c v).collapses = s.collapses := rfl
@[simp] theorem State.setCore_slots (s : State) (c : Nat) (v : CorePair) : (s.setCore c v).slots = s.slots := rfl
@[simp] theorem State.setCore_slot0 (s : State) (c : Nat) (v : CorePair) : (s.setCore c v).slot0 = s.slot0 := rfl
@[simp] theorem State.setCore_ready (s : State) (c : Nat) (v : CorePair) : (s.setCore c v).ready = s.ready := rfl
@[simp] theorem State.setCore_bootErr (s : State) (c : Nat) (v : CorePair) : (s.setCore c v).bootErr = s.bootErr := rfl
@[simp] theorem State.setCore_rtimer (s : State) (c : Nat) (v : CorePair) : (s.setCore c v).rtimer = s.rtimer := rfl
@[simp] theorem State.setCore_eqbase (s : State) (c : Nat) (v : CorePair) : (s.setCore c v).eqbase = s.eqbase := rfl
@[simp] theorem State.setCore_eqhead (s : State) (c : Nat) (v : CorePair) : (s.setCore c v).eqhead = s.eqhead := rfl
@[simp] theorem State.setCore_eqtail (s : State) (c : Nat) (v : CorePair) : (s.setCore c v).eqtail = s.eqtail := rfl
@[simp] theorem State.setCore_dropped (s : State) (c : Nat) (v : CorePair) : (s.setCore c v).dropped = s.dropped := rfl
@[simp] theorem State.setCore_xlinva (s : State) (c : Nat) (v : CorePair) : (s.setCore c v).xlinva = s.xlinva := rfl
@[simp] theorem State.setCore_xlinvb (s : State) (c : Nat) (v : CorePair) : (s.setCore c v).xlinvb = s.xlinvb := rfl
@[simp] theorem State.setCore_repcmd (s : State) (c : Nat) (v : CorePair) : (s.setCore c v).repcmd = s.repcmd := rfl
@[simp] theorem State.setCore_repRun (s : State) (c : Nat) (v : CorePair) : (s.setCore c v).repRun = s.repRun := rfl
@[simp] theorem State.setCore_seqkill (s : State) (c : Nat) (v : CorePair) : (s.setCore c v).seqkill = s.seqkill := rfl
@[simp] theorem State.setCore_fwcmd (s : State) (c : Nat) (v : CorePair) : (s.setCore c v).fwcmd = s.fwcmd := rfl
@[simp] theorem State.setCore_fwbuf (s : State) (c : Nat) (v : CorePair) : (s.setCore c v).fwbuf = s.fwbuf := rfl
@[simp] theorem State.setCore_fwlen (s : State) (c : Nat) (v : CorePair) : (s.setCore c v).fwlen = s.fwlen := rfl
@[simp] theorem State.setCore_featoff (s : State) (c : Nat) (v : CorePair) : (s.setCore c v).featoff = s.featoff := rfl
@[simp] theorem State.setCore_featacc (s : State) (c : Nat) (v : CorePair) : (s.setCore c v).featacc = s.featacc := rfl
@[simp] theorem State.setCore_featstat (s : State) (c : Nat) (v : CorePair) : (s.setCore c v).featstat = s.featstat := rfl
@[simp] theorem State.setCore_featuse (s : State) (c : Nat) (v : CorePair) : (s.setCore c v).featuse = s.featuse := rfl
@[simp] theorem State.setCore_xtgen (s : State) (c : Nat) (v : CorePair) : (s.setCore c v).xtgen = s.xtgen := rfl
@[simp] theorem State.setCore_xtver (s : State) (c : Nat) (v : CorePair) : (s.setCore c v).xtver = s.xtver := rfl
@[simp] theorem State.setCore_femap (s : State) (c : Nat) (v : CorePair) : (s.setCore c v).femap = s.femap := rfl
@[simp] theorem State.setCore_ppmap (s : State) (c : Nat) (v : CorePair) : (s.setCore c v).ppmap = s.ppmap := rfl
@[simp] theorem State.setCore_podctl (s : State) (c : Nat) (v : CorePair) : (s.setCore c v).podctl = s.podctl := rfl
@[simp] theorem State.setCore_pwrisl (s : State) (c : Nat) (v : CorePair) : (s.setCore c v).pwrisl = s.pwrisl := rfl
@[simp] theorem State.setCore_pwrlim (s : State) (c : Nat) (v : CorePair) : (s.setCore c v).pwrlim = s.pwrlim := rfl
@[simp] theorem State.setCore_thermal (s : State) (c : Nat) (v : CorePair) : (s.setCore c v).thermal = s.thermal := rfl
@[simp] theorem State.setCore_contexts (s : State) (c : Nat) (v : CorePair) : (s.setCore c v).contexts = s.contexts := rfl
@[simp] theorem State.setCore_queues (s : State) (c : Nat) (v : CorePair) : (s.setCore c v).queues = s.queues := rfl
@[simp] theorem State.setCore_apertures (s : State) (c : Nat) (v : CorePair) : (s.setCore c v).apertures = s.apertures := rfl
@[simp] theorem State.setCore_launches (s : State) (c : Nat) (v : CorePair) : (s.setCore c v).launches = s.launches := rfl
@[simp] theorem State.setCore_completions (s : State) (c : Nat) (v : CorePair) : (s.setCore c v).completions = s.completions := rfl
@[simp] theorem State.setCore_grants (s : State) (c : Nat) (v : CorePair) : (s.setCore c v).grants = s.grants := rfl
@[simp] theorem State.setCore_graphs (s : State) (c : Nat) (v : CorePair) : (s.setCore c v).graphs = s.graphs := rfl
@[simp] theorem State.setCore_saved (s : State) (c : Nat) (v : CorePair) : (s.setCore c v).saved = s.saved := rfl
@[simp] theorem State.setCore_results (s : State) (c : Nat) (v : CorePair) : (s.setCore c v).results = s.results := rfl
@[simp] theorem State.setCore_msix (s : State) (c : Nat) (v : CorePair) : (s.setCore c v).msix = s.msix := rfl
@[simp] theorem State.setCore_replies (s : State) (c : Nat) (v : CorePair) : (s.setCore c v).replies = s.replies := rfl
@[simp] theorem State.setCore_podOut (s : State) (c : Nat) (v : CorePair) : (s.setCore c v).podOut = s.podOut := rfl
@[simp] theorem State.setCore_bootId (s : State) (c : Nat) (v : CorePair) : (s.setCore c v).bootId = s.bootId := rfl
@[simp] theorem State.setCore_barBase (s : State) (c : Nat) (v : CorePair) : (s.setCore c v).barBase = s.barBase := rfl
@[simp] theorem State.setCore_hostAtomics (s : State) (c : Nat) (v : CorePair) : (s.setCore c v).hostAtomics = s.hostAtomics := rfl

@[simp] theorem State.setCp_agenda (s : State) (v : CorePair) : (s.setCp v).agenda = s.agenda := rfl
@[simp] theorem State.setCp_cur (s : State) (v : CorePair) : (s.setCp v).cur = s.cur := rfl
@[simp] theorem State.setCp_turn (s : State) (v : CorePair) : (s.setCp v).turn = s.turn := rfl
@[simp] theorem State.setCp_sched (s : State) (v : CorePair) : (s.setCp v).sched = s.sched := rfl
@[simp] theorem State.setCp_free (s : State) (v : CorePair) : (s.setCp v).free = s.free := rfl
@[simp] theorem State.setCp_nextId (s : State) (v : CorePair) : (s.setCp v).nextId = s.nextId := rfl
@[simp] theorem State.setCp_threads (s : State) (v : CorePair) : (s.setCp v).threads = s.threads := rfl
@[simp] theorem State.setCp_seqs (s : State) (v : CorePair) : (s.setCp v).seqs = s.seqs := rfl
@[simp] theorem State.setCp_dies (s : State) (v : CorePair) : (s.setCp v).dies = s.dies := rfl
@[simp] theorem State.setCp_mem (s : State) (v : CorePair) : (s.setCp v).mem = s.mem := rfl
@[simp] theorem State.setCp_host (s : State) (v : CorePair) : (s.setCp v).host = s.host := rfl
@[simp] theorem State.setCp_lines (s : State) (v : CorePair) : (s.setCp v).lines = s.lines := rfl
@[simp] theorem State.setCp_flights (s : State) (v : CorePair) : (s.setCp v).flights = s.flights := rfl
@[simp] theorem State.setCp_bolts (s : State) (v : CorePair) : (s.setCp v).bolts = s.bolts := rfl
@[simp] theorem State.setCp_resvs (s : State) (v : CorePair) : (s.setCp v).resvs = s.resvs := rfl
@[simp] theorem State.setCp_freed (s : State) (v : CorePair) : (s.setCp v).freed = s.freed := rfl
@[simp] theorem State.setCp_hwqs (s : State) (v : CorePair) : (s.setCp v).hwqs = s.hwqs := rfl
@[simp] theorem State.setCp_collapses (s : State) (v : CorePair) : (s.setCp v).collapses = s.collapses := rfl
@[simp] theorem State.setCp_slots (s : State) (v : CorePair) : (s.setCp v).slots = s.slots := rfl
@[simp] theorem State.setCp_slot0 (s : State) (v : CorePair) : (s.setCp v).slot0 = s.slot0 := rfl
@[simp] theorem State.setCp_ready (s : State) (v : CorePair) : (s.setCp v).ready = s.ready := rfl
@[simp] theorem State.setCp_bootErr (s : State) (v : CorePair) : (s.setCp v).bootErr = s.bootErr := rfl
@[simp] theorem State.setCp_rtimer (s : State) (v : CorePair) : (s.setCp v).rtimer = s.rtimer := rfl
@[simp] theorem State.setCp_eqbase (s : State) (v : CorePair) : (s.setCp v).eqbase = s.eqbase := rfl
@[simp] theorem State.setCp_eqhead (s : State) (v : CorePair) : (s.setCp v).eqhead = s.eqhead := rfl
@[simp] theorem State.setCp_eqtail (s : State) (v : CorePair) : (s.setCp v).eqtail = s.eqtail := rfl
@[simp] theorem State.setCp_dropped (s : State) (v : CorePair) : (s.setCp v).dropped = s.dropped := rfl
@[simp] theorem State.setCp_xlinva (s : State) (v : CorePair) : (s.setCp v).xlinva = s.xlinva := rfl
@[simp] theorem State.setCp_xlinvb (s : State) (v : CorePair) : (s.setCp v).xlinvb = s.xlinvb := rfl
@[simp] theorem State.setCp_repcmd (s : State) (v : CorePair) : (s.setCp v).repcmd = s.repcmd := rfl
@[simp] theorem State.setCp_repRun (s : State) (v : CorePair) : (s.setCp v).repRun = s.repRun := rfl
@[simp] theorem State.setCp_seqkill (s : State) (v : CorePair) : (s.setCp v).seqkill = s.seqkill := rfl
@[simp] theorem State.setCp_fwcmd (s : State) (v : CorePair) : (s.setCp v).fwcmd = s.fwcmd := rfl
@[simp] theorem State.setCp_fwbuf (s : State) (v : CorePair) : (s.setCp v).fwbuf = s.fwbuf := rfl
@[simp] theorem State.setCp_fwlen (s : State) (v : CorePair) : (s.setCp v).fwlen = s.fwlen := rfl
@[simp] theorem State.setCp_featoff (s : State) (v : CorePair) : (s.setCp v).featoff = s.featoff := rfl
@[simp] theorem State.setCp_featacc (s : State) (v : CorePair) : (s.setCp v).featacc = s.featacc := rfl
@[simp] theorem State.setCp_featstat (s : State) (v : CorePair) : (s.setCp v).featstat = s.featstat := rfl
@[simp] theorem State.setCp_featuse (s : State) (v : CorePair) : (s.setCp v).featuse = s.featuse := rfl
@[simp] theorem State.setCp_xtgen (s : State) (v : CorePair) : (s.setCp v).xtgen = s.xtgen := rfl
@[simp] theorem State.setCp_xtver (s : State) (v : CorePair) : (s.setCp v).xtver = s.xtver := rfl
@[simp] theorem State.setCp_femap (s : State) (v : CorePair) : (s.setCp v).femap = s.femap := rfl
@[simp] theorem State.setCp_ppmap (s : State) (v : CorePair) : (s.setCp v).ppmap = s.ppmap := rfl
@[simp] theorem State.setCp_podctl (s : State) (v : CorePair) : (s.setCp v).podctl = s.podctl := rfl
@[simp] theorem State.setCp_pwrisl (s : State) (v : CorePair) : (s.setCp v).pwrisl = s.pwrisl := rfl
@[simp] theorem State.setCp_pwrlim (s : State) (v : CorePair) : (s.setCp v).pwrlim = s.pwrlim := rfl
@[simp] theorem State.setCp_thermal (s : State) (v : CorePair) : (s.setCp v).thermal = s.thermal := rfl
@[simp] theorem State.setCp_contexts (s : State) (v : CorePair) : (s.setCp v).contexts = s.contexts := rfl
@[simp] theorem State.setCp_queues (s : State) (v : CorePair) : (s.setCp v).queues = s.queues := rfl
@[simp] theorem State.setCp_apertures (s : State) (v : CorePair) : (s.setCp v).apertures = s.apertures := rfl
@[simp] theorem State.setCp_launches (s : State) (v : CorePair) : (s.setCp v).launches = s.launches := rfl
@[simp] theorem State.setCp_completions (s : State) (v : CorePair) : (s.setCp v).completions = s.completions := rfl
@[simp] theorem State.setCp_grants (s : State) (v : CorePair) : (s.setCp v).grants = s.grants := rfl
@[simp] theorem State.setCp_graphs (s : State) (v : CorePair) : (s.setCp v).graphs = s.graphs := rfl
@[simp] theorem State.setCp_saved (s : State) (v : CorePair) : (s.setCp v).saved = s.saved := rfl
@[simp] theorem State.setCp_results (s : State) (v : CorePair) : (s.setCp v).results = s.results := rfl
@[simp] theorem State.setCp_msix (s : State) (v : CorePair) : (s.setCp v).msix = s.msix := rfl
@[simp] theorem State.setCp_replies (s : State) (v : CorePair) : (s.setCp v).replies = s.replies := rfl
@[simp] theorem State.setCp_podOut (s : State) (v : CorePair) : (s.setCp v).podOut = s.podOut := rfl
@[simp] theorem State.setCp_bootId (s : State) (v : CorePair) : (s.setCp v).bootId = s.bootId := rfl
@[simp] theorem State.setCp_barBase (s : State) (v : CorePair) : (s.setCp v).barBase = s.barBase := rfl
@[simp] theorem State.setCp_hostAtomics (s : State) (v : CorePair) : (s.setCp v).hostAtomics = s.hostAtomics := rfl

@[simp] theorem State.setDie_agenda (s : State) (d : Nat) (v : Die) : (s.setDie d v).agenda = s.agenda := rfl
@[simp] theorem State.setDie_cur (s : State) (d : Nat) (v : Die) : (s.setDie d v).cur = s.cur := rfl
@[simp] theorem State.setDie_turn (s : State) (d : Nat) (v : Die) : (s.setDie d v).turn = s.turn := rfl
@[simp] theorem State.setDie_sched (s : State) (d : Nat) (v : Die) : (s.setDie d v).sched = s.sched := rfl
@[simp] theorem State.setDie_free (s : State) (d : Nat) (v : Die) : (s.setDie d v).free = s.free := rfl
@[simp] theorem State.setDie_nextId (s : State) (d : Nat) (v : Die) : (s.setDie d v).nextId = s.nextId := rfl
@[simp] theorem State.setDie_threads (s : State) (d : Nat) (v : Die) : (s.setDie d v).threads = s.threads := rfl
@[simp] theorem State.setDie_seqs (s : State) (d : Nat) (v : Die) : (s.setDie d v).seqs = s.seqs := rfl
@[simp] theorem State.setDie_cores (s : State) (d : Nat) (v : Die) : (s.setDie d v).cores = s.cores := rfl
@[simp] theorem State.setDie_mem (s : State) (d : Nat) (v : Die) : (s.setDie d v).mem = s.mem := rfl
@[simp] theorem State.setDie_host (s : State) (d : Nat) (v : Die) : (s.setDie d v).host = s.host := rfl
@[simp] theorem State.setDie_lines (s : State) (d : Nat) (v : Die) : (s.setDie d v).lines = s.lines := rfl
@[simp] theorem State.setDie_flights (s : State) (d : Nat) (v : Die) : (s.setDie d v).flights = s.flights := rfl
@[simp] theorem State.setDie_bolts (s : State) (d : Nat) (v : Die) : (s.setDie d v).bolts = s.bolts := rfl
@[simp] theorem State.setDie_resvs (s : State) (d : Nat) (v : Die) : (s.setDie d v).resvs = s.resvs := rfl
@[simp] theorem State.setDie_freed (s : State) (d : Nat) (v : Die) : (s.setDie d v).freed = s.freed := rfl
@[simp] theorem State.setDie_hwqs (s : State) (d : Nat) (v : Die) : (s.setDie d v).hwqs = s.hwqs := rfl
@[simp] theorem State.setDie_collapses (s : State) (d : Nat) (v : Die) : (s.setDie d v).collapses = s.collapses := rfl
@[simp] theorem State.setDie_slots (s : State) (d : Nat) (v : Die) : (s.setDie d v).slots = s.slots := rfl
@[simp] theorem State.setDie_slot0 (s : State) (d : Nat) (v : Die) : (s.setDie d v).slot0 = s.slot0 := rfl
@[simp] theorem State.setDie_ready (s : State) (d : Nat) (v : Die) : (s.setDie d v).ready = s.ready := rfl
@[simp] theorem State.setDie_bootErr (s : State) (d : Nat) (v : Die) : (s.setDie d v).bootErr = s.bootErr := rfl
@[simp] theorem State.setDie_rtimer (s : State) (d : Nat) (v : Die) : (s.setDie d v).rtimer = s.rtimer := rfl
@[simp] theorem State.setDie_eqbase (s : State) (d : Nat) (v : Die) : (s.setDie d v).eqbase = s.eqbase := rfl
@[simp] theorem State.setDie_eqhead (s : State) (d : Nat) (v : Die) : (s.setDie d v).eqhead = s.eqhead := rfl
@[simp] theorem State.setDie_eqtail (s : State) (d : Nat) (v : Die) : (s.setDie d v).eqtail = s.eqtail := rfl
@[simp] theorem State.setDie_dropped (s : State) (d : Nat) (v : Die) : (s.setDie d v).dropped = s.dropped := rfl
@[simp] theorem State.setDie_xlinva (s : State) (d : Nat) (v : Die) : (s.setDie d v).xlinva = s.xlinva := rfl
@[simp] theorem State.setDie_xlinvb (s : State) (d : Nat) (v : Die) : (s.setDie d v).xlinvb = s.xlinvb := rfl
@[simp] theorem State.setDie_repcmd (s : State) (d : Nat) (v : Die) : (s.setDie d v).repcmd = s.repcmd := rfl
@[simp] theorem State.setDie_repRun (s : State) (d : Nat) (v : Die) : (s.setDie d v).repRun = s.repRun := rfl
@[simp] theorem State.setDie_seqkill (s : State) (d : Nat) (v : Die) : (s.setDie d v).seqkill = s.seqkill := rfl
@[simp] theorem State.setDie_fwcmd (s : State) (d : Nat) (v : Die) : (s.setDie d v).fwcmd = s.fwcmd := rfl
@[simp] theorem State.setDie_fwbuf (s : State) (d : Nat) (v : Die) : (s.setDie d v).fwbuf = s.fwbuf := rfl
@[simp] theorem State.setDie_fwlen (s : State) (d : Nat) (v : Die) : (s.setDie d v).fwlen = s.fwlen := rfl
@[simp] theorem State.setDie_featoff (s : State) (d : Nat) (v : Die) : (s.setDie d v).featoff = s.featoff := rfl
@[simp] theorem State.setDie_featacc (s : State) (d : Nat) (v : Die) : (s.setDie d v).featacc = s.featacc := rfl
@[simp] theorem State.setDie_featstat (s : State) (d : Nat) (v : Die) : (s.setDie d v).featstat = s.featstat := rfl
@[simp] theorem State.setDie_featuse (s : State) (d : Nat) (v : Die) : (s.setDie d v).featuse = s.featuse := rfl
@[simp] theorem State.setDie_xtgen (s : State) (d : Nat) (v : Die) : (s.setDie d v).xtgen = s.xtgen := rfl
@[simp] theorem State.setDie_xtver (s : State) (d : Nat) (v : Die) : (s.setDie d v).xtver = s.xtver := rfl
@[simp] theorem State.setDie_femap (s : State) (d : Nat) (v : Die) : (s.setDie d v).femap = s.femap := rfl
@[simp] theorem State.setDie_ppmap (s : State) (d : Nat) (v : Die) : (s.setDie d v).ppmap = s.ppmap := rfl
@[simp] theorem State.setDie_podctl (s : State) (d : Nat) (v : Die) : (s.setDie d v).podctl = s.podctl := rfl
@[simp] theorem State.setDie_pwrisl (s : State) (d : Nat) (v : Die) : (s.setDie d v).pwrisl = s.pwrisl := rfl
@[simp] theorem State.setDie_pwrlim (s : State) (d : Nat) (v : Die) : (s.setDie d v).pwrlim = s.pwrlim := rfl
@[simp] theorem State.setDie_thermal (s : State) (d : Nat) (v : Die) : (s.setDie d v).thermal = s.thermal := rfl
@[simp] theorem State.setDie_contexts (s : State) (d : Nat) (v : Die) : (s.setDie d v).contexts = s.contexts := rfl
@[simp] theorem State.setDie_queues (s : State) (d : Nat) (v : Die) : (s.setDie d v).queues = s.queues := rfl
@[simp] theorem State.setDie_apertures (s : State) (d : Nat) (v : Die) : (s.setDie d v).apertures = s.apertures := rfl
@[simp] theorem State.setDie_launches (s : State) (d : Nat) (v : Die) : (s.setDie d v).launches = s.launches := rfl
@[simp] theorem State.setDie_completions (s : State) (d : Nat) (v : Die) : (s.setDie d v).completions = s.completions := rfl
@[simp] theorem State.setDie_grants (s : State) (d : Nat) (v : Die) : (s.setDie d v).grants = s.grants := rfl
@[simp] theorem State.setDie_graphs (s : State) (d : Nat) (v : Die) : (s.setDie d v).graphs = s.graphs := rfl
@[simp] theorem State.setDie_saved (s : State) (d : Nat) (v : Die) : (s.setDie d v).saved = s.saved := rfl
@[simp] theorem State.setDie_results (s : State) (d : Nat) (v : Die) : (s.setDie d v).results = s.results := rfl
@[simp] theorem State.setDie_msix (s : State) (d : Nat) (v : Die) : (s.setDie d v).msix = s.msix := rfl
@[simp] theorem State.setDie_replies (s : State) (d : Nat) (v : Die) : (s.setDie d v).replies = s.replies := rfl
@[simp] theorem State.setDie_podOut (s : State) (d : Nat) (v : Die) : (s.setDie d v).podOut = s.podOut := rfl
@[simp] theorem State.setDie_bootId (s : State) (d : Nat) (v : Die) : (s.setDie d v).bootId = s.bootId := rfl
@[simp] theorem State.setDie_barBase (s : State) (d : Nat) (v : Die) : (s.setDie d v).barBase = s.barBase := rfl
@[simp] theorem State.setDie_hostAtomics (s : State) (d : Nat) (v : Die) : (s.setDie d v).hostAtomics = s.hostAtomics := rfl

@[simp] theorem State.setContext_agenda (s : State) (c : Nat) (v : Context) : (s.setContext c v).agenda = s.agenda := rfl
@[simp] theorem State.setContext_cur (s : State) (c : Nat) (v : Context) : (s.setContext c v).cur = s.cur := rfl
@[simp] theorem State.setContext_turn (s : State) (c : Nat) (v : Context) : (s.setContext c v).turn = s.turn := rfl
@[simp] theorem State.setContext_sched (s : State) (c : Nat) (v : Context) : (s.setContext c v).sched = s.sched := rfl
@[simp] theorem State.setContext_free (s : State) (c : Nat) (v : Context) : (s.setContext c v).free = s.free := rfl
@[simp] theorem State.setContext_nextId (s : State) (c : Nat) (v : Context) : (s.setContext c v).nextId = s.nextId := rfl
@[simp] theorem State.setContext_threads (s : State) (c : Nat) (v : Context) : (s.setContext c v).threads = s.threads := rfl
@[simp] theorem State.setContext_seqs (s : State) (c : Nat) (v : Context) : (s.setContext c v).seqs = s.seqs := rfl
@[simp] theorem State.setContext_cores (s : State) (c : Nat) (v : Context) : (s.setContext c v).cores = s.cores := rfl
@[simp] theorem State.setContext_dies (s : State) (c : Nat) (v : Context) : (s.setContext c v).dies = s.dies := rfl
@[simp] theorem State.setContext_mem (s : State) (c : Nat) (v : Context) : (s.setContext c v).mem = s.mem := rfl
@[simp] theorem State.setContext_host (s : State) (c : Nat) (v : Context) : (s.setContext c v).host = s.host := rfl
@[simp] theorem State.setContext_lines (s : State) (c : Nat) (v : Context) : (s.setContext c v).lines = s.lines := rfl
@[simp] theorem State.setContext_flights (s : State) (c : Nat) (v : Context) : (s.setContext c v).flights = s.flights := rfl
@[simp] theorem State.setContext_bolts (s : State) (c : Nat) (v : Context) : (s.setContext c v).bolts = s.bolts := rfl
@[simp] theorem State.setContext_resvs (s : State) (c : Nat) (v : Context) : (s.setContext c v).resvs = s.resvs := rfl
@[simp] theorem State.setContext_freed (s : State) (c : Nat) (v : Context) : (s.setContext c v).freed = s.freed := rfl
@[simp] theorem State.setContext_hwqs (s : State) (c : Nat) (v : Context) : (s.setContext c v).hwqs = s.hwqs := rfl
@[simp] theorem State.setContext_collapses (s : State) (c : Nat) (v : Context) : (s.setContext c v).collapses = s.collapses := rfl
@[simp] theorem State.setContext_slots (s : State) (c : Nat) (v : Context) : (s.setContext c v).slots = s.slots := rfl
@[simp] theorem State.setContext_slot0 (s : State) (c : Nat) (v : Context) : (s.setContext c v).slot0 = s.slot0 := rfl
@[simp] theorem State.setContext_ready (s : State) (c : Nat) (v : Context) : (s.setContext c v).ready = s.ready := rfl
@[simp] theorem State.setContext_bootErr (s : State) (c : Nat) (v : Context) : (s.setContext c v).bootErr = s.bootErr := rfl
@[simp] theorem State.setContext_rtimer (s : State) (c : Nat) (v : Context) : (s.setContext c v).rtimer = s.rtimer := rfl
@[simp] theorem State.setContext_eqbase (s : State) (c : Nat) (v : Context) : (s.setContext c v).eqbase = s.eqbase := rfl
@[simp] theorem State.setContext_eqhead (s : State) (c : Nat) (v : Context) : (s.setContext c v).eqhead = s.eqhead := rfl
@[simp] theorem State.setContext_eqtail (s : State) (c : Nat) (v : Context) : (s.setContext c v).eqtail = s.eqtail := rfl
@[simp] theorem State.setContext_dropped (s : State) (c : Nat) (v : Context) : (s.setContext c v).dropped = s.dropped := rfl
@[simp] theorem State.setContext_xlinva (s : State) (c : Nat) (v : Context) : (s.setContext c v).xlinva = s.xlinva := rfl
@[simp] theorem State.setContext_xlinvb (s : State) (c : Nat) (v : Context) : (s.setContext c v).xlinvb = s.xlinvb := rfl
@[simp] theorem State.setContext_repcmd (s : State) (c : Nat) (v : Context) : (s.setContext c v).repcmd = s.repcmd := rfl
@[simp] theorem State.setContext_repRun (s : State) (c : Nat) (v : Context) : (s.setContext c v).repRun = s.repRun := rfl
@[simp] theorem State.setContext_seqkill (s : State) (c : Nat) (v : Context) : (s.setContext c v).seqkill = s.seqkill := rfl
@[simp] theorem State.setContext_fwcmd (s : State) (c : Nat) (v : Context) : (s.setContext c v).fwcmd = s.fwcmd := rfl
@[simp] theorem State.setContext_fwbuf (s : State) (c : Nat) (v : Context) : (s.setContext c v).fwbuf = s.fwbuf := rfl
@[simp] theorem State.setContext_fwlen (s : State) (c : Nat) (v : Context) : (s.setContext c v).fwlen = s.fwlen := rfl
@[simp] theorem State.setContext_featoff (s : State) (c : Nat) (v : Context) : (s.setContext c v).featoff = s.featoff := rfl
@[simp] theorem State.setContext_featacc (s : State) (c : Nat) (v : Context) : (s.setContext c v).featacc = s.featacc := rfl
@[simp] theorem State.setContext_featstat (s : State) (c : Nat) (v : Context) : (s.setContext c v).featstat = s.featstat := rfl
@[simp] theorem State.setContext_featuse (s : State) (c : Nat) (v : Context) : (s.setContext c v).featuse = s.featuse := rfl
@[simp] theorem State.setContext_xtgen (s : State) (c : Nat) (v : Context) : (s.setContext c v).xtgen = s.xtgen := rfl
@[simp] theorem State.setContext_xtver (s : State) (c : Nat) (v : Context) : (s.setContext c v).xtver = s.xtver := rfl
@[simp] theorem State.setContext_femap (s : State) (c : Nat) (v : Context) : (s.setContext c v).femap = s.femap := rfl
@[simp] theorem State.setContext_ppmap (s : State) (c : Nat) (v : Context) : (s.setContext c v).ppmap = s.ppmap := rfl
@[simp] theorem State.setContext_podctl (s : State) (c : Nat) (v : Context) : (s.setContext c v).podctl = s.podctl := rfl
@[simp] theorem State.setContext_pwrisl (s : State) (c : Nat) (v : Context) : (s.setContext c v).pwrisl = s.pwrisl := rfl
@[simp] theorem State.setContext_pwrlim (s : State) (c : Nat) (v : Context) : (s.setContext c v).pwrlim = s.pwrlim := rfl
@[simp] theorem State.setContext_thermal (s : State) (c : Nat) (v : Context) : (s.setContext c v).thermal = s.thermal := rfl
@[simp] theorem State.setContext_queues (s : State) (c : Nat) (v : Context) : (s.setContext c v).queues = s.queues := rfl
@[simp] theorem State.setContext_apertures (s : State) (c : Nat) (v : Context) : (s.setContext c v).apertures = s.apertures := rfl
@[simp] theorem State.setContext_launches (s : State) (c : Nat) (v : Context) : (s.setContext c v).launches = s.launches := rfl
@[simp] theorem State.setContext_completions (s : State) (c : Nat) (v : Context) : (s.setContext c v).completions = s.completions := rfl
@[simp] theorem State.setContext_grants (s : State) (c : Nat) (v : Context) : (s.setContext c v).grants = s.grants := rfl
@[simp] theorem State.setContext_graphs (s : State) (c : Nat) (v : Context) : (s.setContext c v).graphs = s.graphs := rfl
@[simp] theorem State.setContext_saved (s : State) (c : Nat) (v : Context) : (s.setContext c v).saved = s.saved := rfl
@[simp] theorem State.setContext_results (s : State) (c : Nat) (v : Context) : (s.setContext c v).results = s.results := rfl
@[simp] theorem State.setContext_msix (s : State) (c : Nat) (v : Context) : (s.setContext c v).msix = s.msix := rfl
@[simp] theorem State.setContext_replies (s : State) (c : Nat) (v : Context) : (s.setContext c v).replies = s.replies := rfl
@[simp] theorem State.setContext_podOut (s : State) (c : Nat) (v : Context) : (s.setContext c v).podOut = s.podOut := rfl
@[simp] theorem State.setContext_bootId (s : State) (c : Nat) (v : Context) : (s.setContext c v).bootId = s.bootId := rfl
@[simp] theorem State.setContext_barBase (s : State) (c : Nat) (v : Context) : (s.setContext c v).barBase = s.barBase := rfl
@[simp] theorem State.setContext_hostAtomics (s : State) (c : Nat) (v : Context) : (s.setContext c v).hostAtomics = s.hostAtomics := rfl

@[simp] theorem State.setQueue_agenda (s : State) (q : Nat) (v : Queue) : (s.setQueue q v).agenda = s.agenda := rfl
@[simp] theorem State.setQueue_cur (s : State) (q : Nat) (v : Queue) : (s.setQueue q v).cur = s.cur := rfl
@[simp] theorem State.setQueue_turn (s : State) (q : Nat) (v : Queue) : (s.setQueue q v).turn = s.turn := rfl
@[simp] theorem State.setQueue_sched (s : State) (q : Nat) (v : Queue) : (s.setQueue q v).sched = s.sched := rfl
@[simp] theorem State.setQueue_free (s : State) (q : Nat) (v : Queue) : (s.setQueue q v).free = s.free := rfl
@[simp] theorem State.setQueue_nextId (s : State) (q : Nat) (v : Queue) : (s.setQueue q v).nextId = s.nextId := rfl
@[simp] theorem State.setQueue_threads (s : State) (q : Nat) (v : Queue) : (s.setQueue q v).threads = s.threads := rfl
@[simp] theorem State.setQueue_seqs (s : State) (q : Nat) (v : Queue) : (s.setQueue q v).seqs = s.seqs := rfl
@[simp] theorem State.setQueue_cores (s : State) (q : Nat) (v : Queue) : (s.setQueue q v).cores = s.cores := rfl
@[simp] theorem State.setQueue_dies (s : State) (q : Nat) (v : Queue) : (s.setQueue q v).dies = s.dies := rfl
@[simp] theorem State.setQueue_mem (s : State) (q : Nat) (v : Queue) : (s.setQueue q v).mem = s.mem := rfl
@[simp] theorem State.setQueue_host (s : State) (q : Nat) (v : Queue) : (s.setQueue q v).host = s.host := rfl
@[simp] theorem State.setQueue_lines (s : State) (q : Nat) (v : Queue) : (s.setQueue q v).lines = s.lines := rfl
@[simp] theorem State.setQueue_flights (s : State) (q : Nat) (v : Queue) : (s.setQueue q v).flights = s.flights := rfl
@[simp] theorem State.setQueue_bolts (s : State) (q : Nat) (v : Queue) : (s.setQueue q v).bolts = s.bolts := rfl
@[simp] theorem State.setQueue_resvs (s : State) (q : Nat) (v : Queue) : (s.setQueue q v).resvs = s.resvs := rfl
@[simp] theorem State.setQueue_freed (s : State) (q : Nat) (v : Queue) : (s.setQueue q v).freed = s.freed := rfl
@[simp] theorem State.setQueue_hwqs (s : State) (q : Nat) (v : Queue) : (s.setQueue q v).hwqs = s.hwqs := rfl
@[simp] theorem State.setQueue_collapses (s : State) (q : Nat) (v : Queue) : (s.setQueue q v).collapses = s.collapses := rfl
@[simp] theorem State.setQueue_slots (s : State) (q : Nat) (v : Queue) : (s.setQueue q v).slots = s.slots := rfl
@[simp] theorem State.setQueue_slot0 (s : State) (q : Nat) (v : Queue) : (s.setQueue q v).slot0 = s.slot0 := rfl
@[simp] theorem State.setQueue_ready (s : State) (q : Nat) (v : Queue) : (s.setQueue q v).ready = s.ready := rfl
@[simp] theorem State.setQueue_bootErr (s : State) (q : Nat) (v : Queue) : (s.setQueue q v).bootErr = s.bootErr := rfl
@[simp] theorem State.setQueue_rtimer (s : State) (q : Nat) (v : Queue) : (s.setQueue q v).rtimer = s.rtimer := rfl
@[simp] theorem State.setQueue_eqbase (s : State) (q : Nat) (v : Queue) : (s.setQueue q v).eqbase = s.eqbase := rfl
@[simp] theorem State.setQueue_eqhead (s : State) (q : Nat) (v : Queue) : (s.setQueue q v).eqhead = s.eqhead := rfl
@[simp] theorem State.setQueue_eqtail (s : State) (q : Nat) (v : Queue) : (s.setQueue q v).eqtail = s.eqtail := rfl
@[simp] theorem State.setQueue_dropped (s : State) (q : Nat) (v : Queue) : (s.setQueue q v).dropped = s.dropped := rfl
@[simp] theorem State.setQueue_xlinva (s : State) (q : Nat) (v : Queue) : (s.setQueue q v).xlinva = s.xlinva := rfl
@[simp] theorem State.setQueue_xlinvb (s : State) (q : Nat) (v : Queue) : (s.setQueue q v).xlinvb = s.xlinvb := rfl
@[simp] theorem State.setQueue_repcmd (s : State) (q : Nat) (v : Queue) : (s.setQueue q v).repcmd = s.repcmd := rfl
@[simp] theorem State.setQueue_repRun (s : State) (q : Nat) (v : Queue) : (s.setQueue q v).repRun = s.repRun := rfl
@[simp] theorem State.setQueue_seqkill (s : State) (q : Nat) (v : Queue) : (s.setQueue q v).seqkill = s.seqkill := rfl
@[simp] theorem State.setQueue_fwcmd (s : State) (q : Nat) (v : Queue) : (s.setQueue q v).fwcmd = s.fwcmd := rfl
@[simp] theorem State.setQueue_fwbuf (s : State) (q : Nat) (v : Queue) : (s.setQueue q v).fwbuf = s.fwbuf := rfl
@[simp] theorem State.setQueue_fwlen (s : State) (q : Nat) (v : Queue) : (s.setQueue q v).fwlen = s.fwlen := rfl
@[simp] theorem State.setQueue_featoff (s : State) (q : Nat) (v : Queue) : (s.setQueue q v).featoff = s.featoff := rfl
@[simp] theorem State.setQueue_featacc (s : State) (q : Nat) (v : Queue) : (s.setQueue q v).featacc = s.featacc := rfl
@[simp] theorem State.setQueue_featstat (s : State) (q : Nat) (v : Queue) : (s.setQueue q v).featstat = s.featstat := rfl
@[simp] theorem State.setQueue_featuse (s : State) (q : Nat) (v : Queue) : (s.setQueue q v).featuse = s.featuse := rfl
@[simp] theorem State.setQueue_xtgen (s : State) (q : Nat) (v : Queue) : (s.setQueue q v).xtgen = s.xtgen := rfl
@[simp] theorem State.setQueue_xtver (s : State) (q : Nat) (v : Queue) : (s.setQueue q v).xtver = s.xtver := rfl
@[simp] theorem State.setQueue_femap (s : State) (q : Nat) (v : Queue) : (s.setQueue q v).femap = s.femap := rfl
@[simp] theorem State.setQueue_ppmap (s : State) (q : Nat) (v : Queue) : (s.setQueue q v).ppmap = s.ppmap := rfl
@[simp] theorem State.setQueue_podctl (s : State) (q : Nat) (v : Queue) : (s.setQueue q v).podctl = s.podctl := rfl
@[simp] theorem State.setQueue_pwrisl (s : State) (q : Nat) (v : Queue) : (s.setQueue q v).pwrisl = s.pwrisl := rfl
@[simp] theorem State.setQueue_pwrlim (s : State) (q : Nat) (v : Queue) : (s.setQueue q v).pwrlim = s.pwrlim := rfl
@[simp] theorem State.setQueue_thermal (s : State) (q : Nat) (v : Queue) : (s.setQueue q v).thermal = s.thermal := rfl
@[simp] theorem State.setQueue_contexts (s : State) (q : Nat) (v : Queue) : (s.setQueue q v).contexts = s.contexts := rfl
@[simp] theorem State.setQueue_apertures (s : State) (q : Nat) (v : Queue) : (s.setQueue q v).apertures = s.apertures := rfl
@[simp] theorem State.setQueue_launches (s : State) (q : Nat) (v : Queue) : (s.setQueue q v).launches = s.launches := rfl
@[simp] theorem State.setQueue_completions (s : State) (q : Nat) (v : Queue) : (s.setQueue q v).completions = s.completions := rfl
@[simp] theorem State.setQueue_grants (s : State) (q : Nat) (v : Queue) : (s.setQueue q v).grants = s.grants := rfl
@[simp] theorem State.setQueue_graphs (s : State) (q : Nat) (v : Queue) : (s.setQueue q v).graphs = s.graphs := rfl
@[simp] theorem State.setQueue_saved (s : State) (q : Nat) (v : Queue) : (s.setQueue q v).saved = s.saved := rfl
@[simp] theorem State.setQueue_results (s : State) (q : Nat) (v : Queue) : (s.setQueue q v).results = s.results := rfl
@[simp] theorem State.setQueue_msix (s : State) (q : Nat) (v : Queue) : (s.setQueue q v).msix = s.msix := rfl
@[simp] theorem State.setQueue_replies (s : State) (q : Nat) (v : Queue) : (s.setQueue q v).replies = s.replies := rfl
@[simp] theorem State.setQueue_podOut (s : State) (q : Nat) (v : Queue) : (s.setQueue q v).podOut = s.podOut := rfl
@[simp] theorem State.setQueue_bootId (s : State) (q : Nat) (v : Queue) : (s.setQueue q v).bootId = s.bootId := rfl
@[simp] theorem State.setQueue_barBase (s : State) (q : Nat) (v : Queue) : (s.setQueue q v).barBase = s.barBase := rfl
@[simp] theorem State.setQueue_hostAtomics (s : State) (q : Nat) (v : Queue) : (s.setQueue q v).hostAtomics = s.hostAtomics := rfl

/-! ## One field per update of a thread -/

@[simp] theorem Thread.setX_pc (t : Thread) (r : Nat) (v : Word) : (t.setX r v).pc = t.pc := by unfold Thread.setX; split <;> rfl
@[simp] theorem Thread.setX_level (t : Thread) (r : Nat) (v : Word) : (t.setX r v).level = t.level := by unfold Thread.setX; split <;> rfl
@[simp] theorem Thread.setX_ir (t : Thread) (r : Nat) (v : Word) : (t.setX r v).ir = t.ir := by unfold Thread.setX; split <;> rfl
@[simp] theorem Thread.setX_xempty (t : Thread) (r : Nat) (v : Word) : (t.setX r v).xempty = t.xempty := by unfold Thread.setX; split <;> rfl
@[simp] theorem Thread.setX_v (t : Thread) (r : Nat) (v : Word) : (t.setX r v).v = t.v := by unfold Thread.setX; split <;> rfl
@[simp] theorem Thread.setX_k (t : Thread) (r : Nat) (v : Word) : (t.setX r v).k = t.k := by unfold Thread.setX; split <;> rfl
@[simp] theorem Thread.setX_kw (t : Thread) (r : Nat) (v : Word) : (t.setX r v).kw = t.kw := by unfold Thread.setX; split <;> rfl
@[simp] theorem Thread.setX_sca (t : Thread) (r : Nat) (v : Word) : (t.setX r v).sca = t.sca := by unfold Thread.setX; split <;> rfl
@[simp] theorem Thread.setX_scb (t : Thread) (r : Nat) (v : Word) : (t.setX r v).scb = t.scb := by unfold Thread.setX; split <;> rfl
@[simp] theorem Thread.setX_scaw (t : Thread) (r : Nat) (v : Word) : (t.setX r v).scaw = t.scaw := by unfold Thread.setX; split <;> rfl
@[simp] theorem Thread.setX_scbw (t : Thread) (r : Nat) (v : Word) : (t.setX r v).scbw = t.scbw := by unfold Thread.setX; split <;> rfl
@[simp] theorem Thread.setX_vl (t : Thread) (r : Nat) (v : Word) : (t.setX r v).vl = t.vl := by unfold Thread.setX; split <;> rfl
@[simp] theorem Thread.setX_vtype (t : Thread) (r : Nat) (v : Word) : (t.setX r v).vtype = t.vtype := by unfold Thread.setX; split <;> rfl
@[simp] theorem Thread.setX_vstride (t : Thread) (r : Nat) (v : Word) : (t.setX r v).vstride = t.vstride := by unfold Thread.setX; split <;> rfl
@[simp] theorem Thread.setX_vmsk (t : Thread) (r : Nat) (v : Word) : (t.setX r v).vmsk = t.vmsk := by unfold Thread.setX; split <;> rfl
@[simp] theorem Thread.setX_vstart (t : Thread) (r : Nat) (v : Word) : (t.setX r v).vstart = t.vstart := by unfold Thread.setX; split <;> rfl
@[simp] theorem Thread.setX_xrm (t : Thread) (r : Nat) (v : Word) : (t.setX r v).xrm = t.xrm := by unfold Thread.setX; split <;> rfl
@[simp] theorem Thread.setX_frm (t : Thread) (r : Nat) (v : Word) : (t.setX r v).frm = t.frm := by unfold Thread.setX; split <;> rfl
@[simp] theorem Thread.setX_fflags (t : Thread) (r : Nat) (v : Word) : (t.setX r v).fflags = t.fflags := by unfold Thread.setX; split <;> rfl
@[simp] theorem Thread.setX_vxsat (t : Thread) (r : Nat) (v : Word) : (t.setX r v).vxsat = t.vxsat := by unfold Thread.setX; split <;> rfl
@[simp] theorem Thread.setX_ftrap (t : Thread) (r : Nat) (v : Word) : (t.setX r v).ftrap = t.ftrap := by unfold Thread.setX; split <;> rfl
@[simp] theorem Thread.setX_vverd (t : Thread) (r : Nat) (v : Word) : (t.setX r v).vverd = t.vverd := by unfold Thread.setX; split <;> rfl
@[simp] theorem Thread.setX_vt (t : Thread) (r : Nat) (v : Word) : (t.setX r v).vt = t.vt := by unfold Thread.setX; split <;> rfl
@[simp] theorem Thread.setX_qlen (t : Thread) (r : Nat) (v : Word) : (t.setX r v).qlen = t.qlen := by unfold Thread.setX; split <;> rfl
@[simp] theorem Thread.setX_vlmaxb (t : Thread) (r : Nat) (v : Word) : (t.setX r v).vlmaxb = t.vlmaxb := by unfold Thread.setX; split <;> rfl
@[simp] theorem Thread.setX_vdecl (t : Thread) (r : Nat) (v : Word) : (t.setX r v).vdecl = t.vdecl := by unfold Thread.setX; split <;> rfl
@[simp] theorem Thread.setX_lanes (t : Thread) (r : Nat) (v : Word) : (t.setX r v).lanes = t.lanes := by unfold Thread.setX; split <;> rfl
@[simp] theorem Thread.setX_layout (t : Thread) (r : Nat) (v : Word) : (t.setX r v).layout = t.layout := by unfold Thread.setX; split <;> rfl
@[simp] theorem Thread.setX_lecnt (t : Thread) (r : Nat) (v : Word) : (t.setX r v).lecnt = t.lecnt := by unfold Thread.setX; split <;> rfl
@[simp] theorem Thread.setX_leidx (t : Thread) (r : Nat) (v : Word) : (t.setX r v).leidx = t.leidx := by unfold Thread.setX; split <;> rfl
@[simp] theorem Thread.setX_lebeg (t : Thread) (r : Nat) (v : Word) : (t.setX r v).lebeg = t.lebeg := by unfold Thread.setX; split <;> rfl
@[simp] theorem Thread.setX_leend (t : Thread) (r : Nat) (v : Word) : (t.setX r v).leend = t.leend := by unfold Thread.setX; split <;> rfl
@[simp] theorem Thread.setX_ldepth (t : Thread) (r : Nat) (v : Word) : (t.setX r v).ldepth = t.ldepth := by unfold Thread.setX; split <;> rfl
@[simp] theorem Thread.setX_tpc (t : Thread) (r : Nat) (v : Word) : (t.setX r v).tpc = t.tpc := by unfold Thread.setX; split <;> rfl
@[simp] theorem Thread.setX_tcause (t : Thread) (r : Nat) (v : Word) : (t.setX r v).tcause = t.tcause := by unfold Thread.setX; split <;> rfl
@[simp] theorem Thread.setX_tval (t : Thread) (r : Nat) (v : Word) : (t.setX r v).tval = t.tval := by unfold Thread.setX; split <;> rfl
@[simp] theorem Thread.setX_telem (t : Thread) (r : Nat) (v : Word) : (t.setX r v).telem = t.telem := by unfold Thread.setX; split <;> rfl
@[simp] theorem Thread.setX_tinfo (t : Thread) (r : Nat) (v : Word) : (t.setX r v).tinfo = t.tinfo := by unfold Thread.setX; split <;> rfl
@[simp] theorem Thread.setX_tloop (t : Thread) (r : Nat) (v : Word) : (t.setX r v).tloop = t.tloop := by unfold Thread.setX; split <;> rfl
@[simp] theorem Thread.setX_tstat (t : Thread) (r : Nat) (v : Word) : (t.setX r v).tstat = t.tstat := by unfold Thread.setX; split <;> rfl
@[simp] theorem Thread.setX_tscratch (t : Thread) (r : Nat) (v : Word) : (t.setX r v).tscratch = t.tscratch := by unfold Thread.setX; split <;> rfl
@[simp] theorem Thread.setX_instret (t : Thread) (r : Nat) (v : Word) : (t.setX r v).instret = t.instret := by unfold Thread.setX; split <;> rfl
@[simp] theorem Thread.setX_emucount (t : Thread) (r : Nat) (v : Word) : (t.setX r v).emucount = t.emucount := by unfold Thread.setX; split <;> rfl
@[simp] theorem Thread.setX_krmiss (t : Thread) (r : Nat) (v : Word) : (t.setX r v).krmiss = t.krmiss := by unfold Thread.setX; split <;> rfl
@[simp] theorem Thread.setX_krxlat (t : Thread) (r : Nat) (v : Word) : (t.setX r v).krxlat = t.krxlat := by unfold Thread.setX; split <;> rfl
@[simp] theorem Thread.setX_latch (t : Thread) (r : Nat) (v : Word) : (t.setX r v).latch = t.latch := by unfold Thread.setX; split <;> rfl
@[simp] theorem Thread.setX_past (t : Thread) (r : Nat) (v : Word) : (t.setX r v).past = t.past := by unfold Thread.setX; split <;> rfl
@[simp] theorem Thread.setX_idx (t : Thread) (r : Nat) (v : Word) : (t.setX r v).idx = t.idx := by unfold Thread.setX; split <;> rfl
@[simp] theorem Thread.setX_missed (t : Thread) (r : Nat) (v : Word) : (t.setX r v).missed = t.missed := by unfold Thread.setX; split <;> rfl
@[simp] theorem Thread.setX_forkAt (t : Thread) (r : Nat) (v : Word) : (t.setX r v).forkAt = t.forkAt := by unfold Thread.setX; split <;> rfl
@[simp] theorem Thread.setX_doubt (t : Thread) (r : Nat) (v : Word) : (t.setX r v).doubt = t.doubt := by unfold Thread.setX; split <;> rfl
@[simp] theorem Thread.setX_wait (t : Thread) (r : Nat) (v : Word) : (t.setX r v).wait = t.wait := by unfold Thread.setX; split <;> rfl
@[simp] theorem Thread.setX_ended (t : Thread) (r : Nat) (v : Word) : (t.setX r v).ended = t.ended := by unfold Thread.setX; split <;> rfl
@[simp] theorem Thread.setX_pend (t : Thread) (r : Nat) (v : Word) : (t.setX r v).pend = t.pend := by unfold Thread.setX; split <;> rfl
@[simp] theorem Thread.setX_hist (t : Thread) (r : Nat) (v : Word) : (t.setX r v).hist = t.hist := by unfold Thread.setX; split <;> rfl
@[simp] theorem Thread.setX_histN (t : Thread) (r : Nat) (v : Word) : (t.setX r v).histN = t.histN := by unfold Thread.setX; split <;> rfl
@[simp] theorem Thread.setX_opStart (t : Thread) (r : Nat) (v : Word) : (t.setX r v).opStart = t.opStart := by unfold Thread.setX; split <;> rfl
@[simp] theorem Thread.setX_opFirst (t : Thread) (r : Nat) (v : Word) : (t.setX r v).opFirst = t.opFirst := by unfold Thread.setX; split <;> rfl
@[simp] theorem Thread.setX_opLast (t : Thread) (r : Nat) (v : Word) : (t.setX r v).opLast = t.opLast := by unfold Thread.setX; split <;> rfl
@[simp] theorem Thread.setX_opVl (t : Thread) (r : Nat) (v : Word) : (t.setX r v).opVl = t.opVl := by unfold Thread.setX; split <;> rfl
@[simp] theorem Thread.setX_opMask (t : Thread) (r : Nat) (v : Word) : (t.setX r v).opMask = t.opMask := by unfold Thread.setX; split <;> rfl
@[simp] theorem Thread.setX_region (t : Thread) (r : Nat) (v : Word) : (t.setX r v).region = t.region := by unfold Thread.setX; split <;> rfl
@[simp] theorem Thread.setX_laneNotices (t : Thread) (r : Nat) (v : Word) : (t.setX r v).laneNotices = t.laneNotices := by unfold Thread.setX; split <;> rfl
@[simp] theorem Thread.setX_engineErrors (t : Thread) (r : Nat) (v : Word) : (t.setX r v).engineErrors = t.engineErrors := by unfold Thread.setX; split <;> rfl

@[simp] theorem Thread.setVreg_pc (t : Thread) (k : Nat) (r : VReg) : (t.setVreg k r).pc = t.pc := rfl
@[simp] theorem Thread.setVreg_level (t : Thread) (k : Nat) (r : VReg) : (t.setVreg k r).level = t.level := rfl
@[simp] theorem Thread.setVreg_ir (t : Thread) (k : Nat) (r : VReg) : (t.setVreg k r).ir = t.ir := rfl
@[simp] theorem Thread.setVreg_x (t : Thread) (k : Nat) (r : VReg) : (t.setVreg k r).x = t.x := rfl
@[simp] theorem Thread.setVreg_xempty (t : Thread) (k : Nat) (r : VReg) : (t.setVreg k r).xempty = t.xempty := rfl
@[simp] theorem Thread.setVreg_k (t : Thread) (k : Nat) (r : VReg) : (t.setVreg k r).k = t.k := rfl
@[simp] theorem Thread.setVreg_kw (t : Thread) (k : Nat) (r : VReg) : (t.setVreg k r).kw = t.kw := rfl
@[simp] theorem Thread.setVreg_sca (t : Thread) (k : Nat) (r : VReg) : (t.setVreg k r).sca = t.sca := rfl
@[simp] theorem Thread.setVreg_scb (t : Thread) (k : Nat) (r : VReg) : (t.setVreg k r).scb = t.scb := rfl
@[simp] theorem Thread.setVreg_scaw (t : Thread) (k : Nat) (r : VReg) : (t.setVreg k r).scaw = t.scaw := rfl
@[simp] theorem Thread.setVreg_scbw (t : Thread) (k : Nat) (r : VReg) : (t.setVreg k r).scbw = t.scbw := rfl
@[simp] theorem Thread.setVreg_vl (t : Thread) (k : Nat) (r : VReg) : (t.setVreg k r).vl = t.vl := rfl
@[simp] theorem Thread.setVreg_vtype (t : Thread) (k : Nat) (r : VReg) : (t.setVreg k r).vtype = t.vtype := rfl
@[simp] theorem Thread.setVreg_vstride (t : Thread) (k : Nat) (r : VReg) : (t.setVreg k r).vstride = t.vstride := rfl
@[simp] theorem Thread.setVreg_vmsk (t : Thread) (k : Nat) (r : VReg) : (t.setVreg k r).vmsk = t.vmsk := rfl
@[simp] theorem Thread.setVreg_vstart (t : Thread) (k : Nat) (r : VReg) : (t.setVreg k r).vstart = t.vstart := rfl
@[simp] theorem Thread.setVreg_xrm (t : Thread) (k : Nat) (r : VReg) : (t.setVreg k r).xrm = t.xrm := rfl
@[simp] theorem Thread.setVreg_frm (t : Thread) (k : Nat) (r : VReg) : (t.setVreg k r).frm = t.frm := rfl
@[simp] theorem Thread.setVreg_fflags (t : Thread) (k : Nat) (r : VReg) : (t.setVreg k r).fflags = t.fflags := rfl
@[simp] theorem Thread.setVreg_vxsat (t : Thread) (k : Nat) (r : VReg) : (t.setVreg k r).vxsat = t.vxsat := rfl
@[simp] theorem Thread.setVreg_ftrap (t : Thread) (k : Nat) (r : VReg) : (t.setVreg k r).ftrap = t.ftrap := rfl
@[simp] theorem Thread.setVreg_vverd (t : Thread) (k : Nat) (r : VReg) : (t.setVreg k r).vverd = t.vverd := rfl
@[simp] theorem Thread.setVreg_vt (t : Thread) (k : Nat) (r : VReg) : (t.setVreg k r).vt = t.vt := rfl
@[simp] theorem Thread.setVreg_qlen (t : Thread) (k : Nat) (r : VReg) : (t.setVreg k r).qlen = t.qlen := rfl
@[simp] theorem Thread.setVreg_vlmaxb (t : Thread) (k : Nat) (r : VReg) : (t.setVreg k r).vlmaxb = t.vlmaxb := rfl
@[simp] theorem Thread.setVreg_vdecl (t : Thread) (k : Nat) (r : VReg) : (t.setVreg k r).vdecl = t.vdecl := rfl
@[simp] theorem Thread.setVreg_lanes (t : Thread) (k : Nat) (r : VReg) : (t.setVreg k r).lanes = t.lanes := rfl
@[simp] theorem Thread.setVreg_layout (t : Thread) (k : Nat) (r : VReg) : (t.setVreg k r).layout = t.layout := rfl
@[simp] theorem Thread.setVreg_lecnt (t : Thread) (k : Nat) (r : VReg) : (t.setVreg k r).lecnt = t.lecnt := rfl
@[simp] theorem Thread.setVreg_leidx (t : Thread) (k : Nat) (r : VReg) : (t.setVreg k r).leidx = t.leidx := rfl
@[simp] theorem Thread.setVreg_lebeg (t : Thread) (k : Nat) (r : VReg) : (t.setVreg k r).lebeg = t.lebeg := rfl
@[simp] theorem Thread.setVreg_leend (t : Thread) (k : Nat) (r : VReg) : (t.setVreg k r).leend = t.leend := rfl
@[simp] theorem Thread.setVreg_ldepth (t : Thread) (k : Nat) (r : VReg) : (t.setVreg k r).ldepth = t.ldepth := rfl
@[simp] theorem Thread.setVreg_tpc (t : Thread) (k : Nat) (r : VReg) : (t.setVreg k r).tpc = t.tpc := rfl
@[simp] theorem Thread.setVreg_tcause (t : Thread) (k : Nat) (r : VReg) : (t.setVreg k r).tcause = t.tcause := rfl
@[simp] theorem Thread.setVreg_tval (t : Thread) (k : Nat) (r : VReg) : (t.setVreg k r).tval = t.tval := rfl
@[simp] theorem Thread.setVreg_telem (t : Thread) (k : Nat) (r : VReg) : (t.setVreg k r).telem = t.telem := rfl
@[simp] theorem Thread.setVreg_tinfo (t : Thread) (k : Nat) (r : VReg) : (t.setVreg k r).tinfo = t.tinfo := rfl
@[simp] theorem Thread.setVreg_tloop (t : Thread) (k : Nat) (r : VReg) : (t.setVreg k r).tloop = t.tloop := rfl
@[simp] theorem Thread.setVreg_tstat (t : Thread) (k : Nat) (r : VReg) : (t.setVreg k r).tstat = t.tstat := rfl
@[simp] theorem Thread.setVreg_tscratch (t : Thread) (k : Nat) (r : VReg) : (t.setVreg k r).tscratch = t.tscratch := rfl
@[simp] theorem Thread.setVreg_instret (t : Thread) (k : Nat) (r : VReg) : (t.setVreg k r).instret = t.instret := rfl
@[simp] theorem Thread.setVreg_emucount (t : Thread) (k : Nat) (r : VReg) : (t.setVreg k r).emucount = t.emucount := rfl
@[simp] theorem Thread.setVreg_krmiss (t : Thread) (k : Nat) (r : VReg) : (t.setVreg k r).krmiss = t.krmiss := rfl
@[simp] theorem Thread.setVreg_krxlat (t : Thread) (k : Nat) (r : VReg) : (t.setVreg k r).krxlat = t.krxlat := rfl
@[simp] theorem Thread.setVreg_latch (t : Thread) (k : Nat) (r : VReg) : (t.setVreg k r).latch = t.latch := rfl
@[simp] theorem Thread.setVreg_past (t : Thread) (k : Nat) (r : VReg) : (t.setVreg k r).past = t.past := rfl
@[simp] theorem Thread.setVreg_idx (t : Thread) (k : Nat) (r : VReg) : (t.setVreg k r).idx = t.idx := rfl
@[simp] theorem Thread.setVreg_missed (t : Thread) (k : Nat) (r : VReg) : (t.setVreg k r).missed = t.missed := rfl
@[simp] theorem Thread.setVreg_forkAt (t : Thread) (k : Nat) (r : VReg) : (t.setVreg k r).forkAt = t.forkAt := rfl
@[simp] theorem Thread.setVreg_doubt (t : Thread) (k : Nat) (r : VReg) : (t.setVreg k r).doubt = t.doubt := rfl
@[simp] theorem Thread.setVreg_wait (t : Thread) (k : Nat) (r : VReg) : (t.setVreg k r).wait = t.wait := rfl
@[simp] theorem Thread.setVreg_ended (t : Thread) (k : Nat) (r : VReg) : (t.setVreg k r).ended = t.ended := rfl
@[simp] theorem Thread.setVreg_pend (t : Thread) (k : Nat) (r : VReg) : (t.setVreg k r).pend = t.pend := rfl
@[simp] theorem Thread.setVreg_hist (t : Thread) (k : Nat) (r : VReg) : (t.setVreg k r).hist = t.hist := rfl
@[simp] theorem Thread.setVreg_histN (t : Thread) (k : Nat) (r : VReg) : (t.setVreg k r).histN = t.histN := rfl
@[simp] theorem Thread.setVreg_opStart (t : Thread) (k : Nat) (r : VReg) : (t.setVreg k r).opStart = t.opStart := rfl
@[simp] theorem Thread.setVreg_opFirst (t : Thread) (k : Nat) (r : VReg) : (t.setVreg k r).opFirst = t.opFirst := rfl
@[simp] theorem Thread.setVreg_opLast (t : Thread) (k : Nat) (r : VReg) : (t.setVreg k r).opLast = t.opLast := rfl
@[simp] theorem Thread.setVreg_opVl (t : Thread) (k : Nat) (r : VReg) : (t.setVreg k r).opVl = t.opVl := rfl
@[simp] theorem Thread.setVreg_opMask (t : Thread) (k : Nat) (r : VReg) : (t.setVreg k r).opMask = t.opMask := rfl
@[simp] theorem Thread.setVreg_region (t : Thread) (k : Nat) (r : VReg) : (t.setVreg k r).region = t.region := rfl
@[simp] theorem Thread.setVreg_laneNotices (t : Thread) (k : Nat) (r : VReg) : (t.setVreg k r).laneNotices = t.laneNotices := rfl
@[simp] theorem Thread.setVreg_engineErrors (t : Thread) (k : Nat) (r : VReg) : (t.setVreg k r).engineErrors = t.engineErrors := rfl

@[simp] theorem Thread.setMask_pc (t : Thread) (k m : Nat) : (t.setMask k m).pc = t.pc := rfl
@[simp] theorem Thread.setMask_level (t : Thread) (k m : Nat) : (t.setMask k m).level = t.level := rfl
@[simp] theorem Thread.setMask_ir (t : Thread) (k m : Nat) : (t.setMask k m).ir = t.ir := rfl
@[simp] theorem Thread.setMask_x (t : Thread) (k m : Nat) : (t.setMask k m).x = t.x := rfl
@[simp] theorem Thread.setMask_xempty (t : Thread) (k m : Nat) : (t.setMask k m).xempty = t.xempty := rfl
@[simp] theorem Thread.setMask_v (t : Thread) (k m : Nat) : (t.setMask k m).v = t.v := rfl
@[simp] theorem Thread.setMask_sca (t : Thread) (k m : Nat) : (t.setMask k m).sca = t.sca := rfl
@[simp] theorem Thread.setMask_scb (t : Thread) (k m : Nat) : (t.setMask k m).scb = t.scb := rfl
@[simp] theorem Thread.setMask_scaw (t : Thread) (k m : Nat) : (t.setMask k m).scaw = t.scaw := rfl
@[simp] theorem Thread.setMask_scbw (t : Thread) (k m : Nat) : (t.setMask k m).scbw = t.scbw := rfl
@[simp] theorem Thread.setMask_vl (t : Thread) (k m : Nat) : (t.setMask k m).vl = t.vl := rfl
@[simp] theorem Thread.setMask_vtype (t : Thread) (k m : Nat) : (t.setMask k m).vtype = t.vtype := rfl
@[simp] theorem Thread.setMask_vstride (t : Thread) (k m : Nat) : (t.setMask k m).vstride = t.vstride := rfl
@[simp] theorem Thread.setMask_vmsk (t : Thread) (k m : Nat) : (t.setMask k m).vmsk = t.vmsk := rfl
@[simp] theorem Thread.setMask_vstart (t : Thread) (k m : Nat) : (t.setMask k m).vstart = t.vstart := rfl
@[simp] theorem Thread.setMask_xrm (t : Thread) (k m : Nat) : (t.setMask k m).xrm = t.xrm := rfl
@[simp] theorem Thread.setMask_frm (t : Thread) (k m : Nat) : (t.setMask k m).frm = t.frm := rfl
@[simp] theorem Thread.setMask_fflags (t : Thread) (k m : Nat) : (t.setMask k m).fflags = t.fflags := rfl
@[simp] theorem Thread.setMask_vxsat (t : Thread) (k m : Nat) : (t.setMask k m).vxsat = t.vxsat := rfl
@[simp] theorem Thread.setMask_ftrap (t : Thread) (k m : Nat) : (t.setMask k m).ftrap = t.ftrap := rfl
@[simp] theorem Thread.setMask_vverd (t : Thread) (k m : Nat) : (t.setMask k m).vverd = t.vverd := rfl
@[simp] theorem Thread.setMask_vt (t : Thread) (k m : Nat) : (t.setMask k m).vt = t.vt := rfl
@[simp] theorem Thread.setMask_qlen (t : Thread) (k m : Nat) : (t.setMask k m).qlen = t.qlen := rfl
@[simp] theorem Thread.setMask_vlmaxb (t : Thread) (k m : Nat) : (t.setMask k m).vlmaxb = t.vlmaxb := rfl
@[simp] theorem Thread.setMask_vdecl (t : Thread) (k m : Nat) : (t.setMask k m).vdecl = t.vdecl := rfl
@[simp] theorem Thread.setMask_lanes (t : Thread) (k m : Nat) : (t.setMask k m).lanes = t.lanes := rfl
@[simp] theorem Thread.setMask_layout (t : Thread) (k m : Nat) : (t.setMask k m).layout = t.layout := rfl
@[simp] theorem Thread.setMask_lecnt (t : Thread) (k m : Nat) : (t.setMask k m).lecnt = t.lecnt := rfl
@[simp] theorem Thread.setMask_leidx (t : Thread) (k m : Nat) : (t.setMask k m).leidx = t.leidx := rfl
@[simp] theorem Thread.setMask_lebeg (t : Thread) (k m : Nat) : (t.setMask k m).lebeg = t.lebeg := rfl
@[simp] theorem Thread.setMask_leend (t : Thread) (k m : Nat) : (t.setMask k m).leend = t.leend := rfl
@[simp] theorem Thread.setMask_ldepth (t : Thread) (k m : Nat) : (t.setMask k m).ldepth = t.ldepth := rfl
@[simp] theorem Thread.setMask_tpc (t : Thread) (k m : Nat) : (t.setMask k m).tpc = t.tpc := rfl
@[simp] theorem Thread.setMask_tcause (t : Thread) (k m : Nat) : (t.setMask k m).tcause = t.tcause := rfl
@[simp] theorem Thread.setMask_tval (t : Thread) (k m : Nat) : (t.setMask k m).tval = t.tval := rfl
@[simp] theorem Thread.setMask_telem (t : Thread) (k m : Nat) : (t.setMask k m).telem = t.telem := rfl
@[simp] theorem Thread.setMask_tinfo (t : Thread) (k m : Nat) : (t.setMask k m).tinfo = t.tinfo := rfl
@[simp] theorem Thread.setMask_tloop (t : Thread) (k m : Nat) : (t.setMask k m).tloop = t.tloop := rfl
@[simp] theorem Thread.setMask_tstat (t : Thread) (k m : Nat) : (t.setMask k m).tstat = t.tstat := rfl
@[simp] theorem Thread.setMask_tscratch (t : Thread) (k m : Nat) : (t.setMask k m).tscratch = t.tscratch := rfl
@[simp] theorem Thread.setMask_instret (t : Thread) (k m : Nat) : (t.setMask k m).instret = t.instret := rfl
@[simp] theorem Thread.setMask_emucount (t : Thread) (k m : Nat) : (t.setMask k m).emucount = t.emucount := rfl
@[simp] theorem Thread.setMask_krmiss (t : Thread) (k m : Nat) : (t.setMask k m).krmiss = t.krmiss := rfl
@[simp] theorem Thread.setMask_krxlat (t : Thread) (k m : Nat) : (t.setMask k m).krxlat = t.krxlat := rfl
@[simp] theorem Thread.setMask_latch (t : Thread) (k m : Nat) : (t.setMask k m).latch = t.latch := rfl
@[simp] theorem Thread.setMask_past (t : Thread) (k m : Nat) : (t.setMask k m).past = t.past := rfl
@[simp] theorem Thread.setMask_idx (t : Thread) (k m : Nat) : (t.setMask k m).idx = t.idx := rfl
@[simp] theorem Thread.setMask_missed (t : Thread) (k m : Nat) : (t.setMask k m).missed = t.missed := rfl
@[simp] theorem Thread.setMask_forkAt (t : Thread) (k m : Nat) : (t.setMask k m).forkAt = t.forkAt := rfl
@[simp] theorem Thread.setMask_doubt (t : Thread) (k m : Nat) : (t.setMask k m).doubt = t.doubt := rfl
@[simp] theorem Thread.setMask_wait (t : Thread) (k m : Nat) : (t.setMask k m).wait = t.wait := rfl
@[simp] theorem Thread.setMask_ended (t : Thread) (k m : Nat) : (t.setMask k m).ended = t.ended := rfl
@[simp] theorem Thread.setMask_pend (t : Thread) (k m : Nat) : (t.setMask k m).pend = t.pend := rfl
@[simp] theorem Thread.setMask_hist (t : Thread) (k m : Nat) : (t.setMask k m).hist = t.hist := rfl
@[simp] theorem Thread.setMask_histN (t : Thread) (k m : Nat) : (t.setMask k m).histN = t.histN := rfl
@[simp] theorem Thread.setMask_opStart (t : Thread) (k m : Nat) : (t.setMask k m).opStart = t.opStart := rfl
@[simp] theorem Thread.setMask_opFirst (t : Thread) (k m : Nat) : (t.setMask k m).opFirst = t.opFirst := rfl
@[simp] theorem Thread.setMask_opLast (t : Thread) (k m : Nat) : (t.setMask k m).opLast = t.opLast := rfl
@[simp] theorem Thread.setMask_opVl (t : Thread) (k m : Nat) : (t.setMask k m).opVl = t.opVl := rfl
@[simp] theorem Thread.setMask_opMask (t : Thread) (k m : Nat) : (t.setMask k m).opMask = t.opMask := rfl
@[simp] theorem Thread.setMask_region (t : Thread) (k m : Nat) : (t.setMask k m).region = t.region := rfl
@[simp] theorem Thread.setMask_laneNotices (t : Thread) (k m : Nat) : (t.setMask k m).laneNotices = t.laneNotices := rfl
@[simp] theorem Thread.setMask_engineErrors (t : Thread) (k m : Nat) : (t.setMask k m).engineErrors = t.engineErrors := rfl

@[simp] theorem Thread.begin_pc (t : Thread)  : (t.begin ).pc = t.pc := by unfold Thread.begin; split <;> rfl
@[simp] theorem Thread.begin_level (t : Thread)  : (t.begin ).level = t.level := by unfold Thread.begin; split <;> rfl
@[simp] theorem Thread.begin_ir (t : Thread)  : (t.begin ).ir = t.ir := by unfold Thread.begin; split <;> rfl
@[simp] theorem Thread.begin_x (t : Thread)  : (t.begin ).x = t.x := by unfold Thread.begin; split <;> rfl
@[simp] theorem Thread.begin_xempty (t : Thread)  : (t.begin ).xempty = t.xempty := by unfold Thread.begin; split <;> rfl
@[simp] theorem Thread.begin_v (t : Thread)  : (t.begin ).v = t.v := by unfold Thread.begin; split <;> rfl
@[simp] theorem Thread.begin_k (t : Thread)  : (t.begin ).k = t.k := by unfold Thread.begin; split <;> rfl
@[simp] theorem Thread.begin_kw (t : Thread)  : (t.begin ).kw = t.kw := by unfold Thread.begin; split <;> rfl
@[simp] theorem Thread.begin_sca (t : Thread)  : (t.begin ).sca = t.sca := by unfold Thread.begin; split <;> rfl
@[simp] theorem Thread.begin_scb (t : Thread)  : (t.begin ).scb = t.scb := by unfold Thread.begin; split <;> rfl
@[simp] theorem Thread.begin_scaw (t : Thread)  : (t.begin ).scaw = t.scaw := by unfold Thread.begin; split <;> rfl
@[simp] theorem Thread.begin_scbw (t : Thread)  : (t.begin ).scbw = t.scbw := by unfold Thread.begin; split <;> rfl
@[simp] theorem Thread.begin_vl (t : Thread)  : (t.begin ).vl = t.vl := by unfold Thread.begin; split <;> rfl
@[simp] theorem Thread.begin_vtype (t : Thread)  : (t.begin ).vtype = t.vtype := by unfold Thread.begin; split <;> rfl
@[simp] theorem Thread.begin_vstride (t : Thread)  : (t.begin ).vstride = t.vstride := by unfold Thread.begin; split <;> rfl
@[simp] theorem Thread.begin_vmsk (t : Thread)  : (t.begin ).vmsk = t.vmsk := by unfold Thread.begin; split <;> rfl
@[simp] theorem Thread.begin_vstart (t : Thread)  : (t.begin ).vstart = t.vstart := by unfold Thread.begin; split <;> rfl
@[simp] theorem Thread.begin_xrm (t : Thread)  : (t.begin ).xrm = t.xrm := by unfold Thread.begin; split <;> rfl
@[simp] theorem Thread.begin_frm (t : Thread)  : (t.begin ).frm = t.frm := by unfold Thread.begin; split <;> rfl
@[simp] theorem Thread.begin_fflags (t : Thread)  : (t.begin ).fflags = t.fflags := by unfold Thread.begin; split <;> rfl
@[simp] theorem Thread.begin_vxsat (t : Thread)  : (t.begin ).vxsat = t.vxsat := by unfold Thread.begin; split <;> rfl
@[simp] theorem Thread.begin_ftrap (t : Thread)  : (t.begin ).ftrap = t.ftrap := by unfold Thread.begin; split <;> rfl
@[simp] theorem Thread.begin_vverd (t : Thread)  : (t.begin ).vverd = t.vverd := by unfold Thread.begin; split <;> rfl
@[simp] theorem Thread.begin_vt (t : Thread)  : (t.begin ).vt = t.vt := by unfold Thread.begin; split <;> rfl
@[simp] theorem Thread.begin_qlen (t : Thread)  : (t.begin ).qlen = t.qlen := by unfold Thread.begin; split <;> rfl
@[simp] theorem Thread.begin_vlmaxb (t : Thread)  : (t.begin ).vlmaxb = t.vlmaxb := by unfold Thread.begin; split <;> rfl
@[simp] theorem Thread.begin_vdecl (t : Thread)  : (t.begin ).vdecl = t.vdecl := by unfold Thread.begin; split <;> rfl
@[simp] theorem Thread.begin_lanes (t : Thread)  : (t.begin ).lanes = t.lanes := by unfold Thread.begin; split <;> rfl
@[simp] theorem Thread.begin_layout (t : Thread)  : (t.begin ).layout = t.layout := by unfold Thread.begin; split <;> rfl
@[simp] theorem Thread.begin_lecnt (t : Thread)  : (t.begin ).lecnt = t.lecnt := by unfold Thread.begin; split <;> rfl
@[simp] theorem Thread.begin_leidx (t : Thread)  : (t.begin ).leidx = t.leidx := by unfold Thread.begin; split <;> rfl
@[simp] theorem Thread.begin_lebeg (t : Thread)  : (t.begin ).lebeg = t.lebeg := by unfold Thread.begin; split <;> rfl
@[simp] theorem Thread.begin_leend (t : Thread)  : (t.begin ).leend = t.leend := by unfold Thread.begin; split <;> rfl
@[simp] theorem Thread.begin_ldepth (t : Thread)  : (t.begin ).ldepth = t.ldepth := by unfold Thread.begin; split <;> rfl
@[simp] theorem Thread.begin_tpc (t : Thread)  : (t.begin ).tpc = t.tpc := by unfold Thread.begin; split <;> rfl
@[simp] theorem Thread.begin_tcause (t : Thread)  : (t.begin ).tcause = t.tcause := by unfold Thread.begin; split <;> rfl
@[simp] theorem Thread.begin_tval (t : Thread)  : (t.begin ).tval = t.tval := by unfold Thread.begin; split <;> rfl
@[simp] theorem Thread.begin_telem (t : Thread)  : (t.begin ).telem = t.telem := by unfold Thread.begin; split <;> rfl
@[simp] theorem Thread.begin_tinfo (t : Thread)  : (t.begin ).tinfo = t.tinfo := by unfold Thread.begin; split <;> rfl
@[simp] theorem Thread.begin_tloop (t : Thread)  : (t.begin ).tloop = t.tloop := by unfold Thread.begin; split <;> rfl
@[simp] theorem Thread.begin_tstat (t : Thread)  : (t.begin ).tstat = t.tstat := by unfold Thread.begin; split <;> rfl
@[simp] theorem Thread.begin_tscratch (t : Thread)  : (t.begin ).tscratch = t.tscratch := by unfold Thread.begin; split <;> rfl
@[simp] theorem Thread.begin_instret (t : Thread)  : (t.begin ).instret = t.instret := by unfold Thread.begin; split <;> rfl
@[simp] theorem Thread.begin_emucount (t : Thread)  : (t.begin ).emucount = t.emucount := by unfold Thread.begin; split <;> rfl
@[simp] theorem Thread.begin_krmiss (t : Thread)  : (t.begin ).krmiss = t.krmiss := by unfold Thread.begin; split <;> rfl
@[simp] theorem Thread.begin_krxlat (t : Thread)  : (t.begin ).krxlat = t.krxlat := by unfold Thread.begin; split <;> rfl
@[simp] theorem Thread.begin_latch (t : Thread)  : (t.begin ).latch = t.latch := by unfold Thread.begin; split <;> rfl
@[simp] theorem Thread.begin_idx (t : Thread)  : (t.begin ).idx = t.idx := by unfold Thread.begin; split <;> rfl
@[simp] theorem Thread.begin_forkAt (t : Thread)  : (t.begin ).forkAt = t.forkAt := by unfold Thread.begin; split <;> rfl
@[simp] theorem Thread.begin_doubt (t : Thread)  : (t.begin ).doubt = t.doubt := by unfold Thread.begin; split <;> rfl
@[simp] theorem Thread.begin_wait (t : Thread)  : (t.begin ).wait = t.wait := by unfold Thread.begin; split <;> rfl
@[simp] theorem Thread.begin_ended (t : Thread)  : (t.begin ).ended = t.ended := by unfold Thread.begin; split <;> rfl
@[simp] theorem Thread.begin_pend (t : Thread)  : (t.begin ).pend = t.pend := by unfold Thread.begin; split <;> rfl
@[simp] theorem Thread.begin_hist (t : Thread)  : (t.begin ).hist = t.hist := by unfold Thread.begin; split <;> rfl
@[simp] theorem Thread.begin_histN (t : Thread)  : (t.begin ).histN = t.histN := by unfold Thread.begin; split <;> rfl
@[simp] theorem Thread.begin_region (t : Thread)  : (t.begin ).region = t.region := by unfold Thread.begin; split <;> rfl
@[simp] theorem Thread.begin_laneNotices (t : Thread)  : (t.begin ).laneNotices = t.laneNotices := by unfold Thread.begin; split <;> rfl
@[simp] theorem Thread.begin_engineErrors (t : Thread)  : (t.begin ).engineErrors = t.engineErrors := by unfold Thread.begin; split <;> rfl

end Sys2Proof.Machine
end

