-- ==== Sys2Proof/Laws/Ops.lean ====
section
/-! SUPPORT. What the shared operations do: running a meaning, reading and writing scalar registers, retirement. -/

namespace Sys2Proof.Machine

/-! ## The current thread -/

@[simp] theorem State.setTh_th (s : State) (t : Thread) : (s.setTh t).th = t := by
  simp [State.setTh, State.th]
@[simp] theorem State.setTh_setTh (s : State) (t u : Thread) : (s.setTh t).setTh u = s.setTh u := by
  simp [State.setTh]
@[simp] theorem State.setTh_cp (s : State) (t : Thread) : (s.setTh t).cp = s.cp := rfl
@[simp] theorem State.setTh_sq (s : State) (t : Thread) : (s.setTh t).sq = s.sq := rfl
@[simp] theorem State.setTh_slotNo (s : State) (t : Thread) : (s.setTh t).slotNo = s.slotNo := rfl
@[simp] theorem State.setTh_coreNo (s : State) (t : Thread) : (s.setTh t).coreNo = s.coreNo := rfl
@[simp] theorem State.setTh_dieNo (s : State) (t : Thread) : (s.setTh t).dieNo = s.dieNo := rfl
@[simp] theorem State.setTh_ctxNo (s : State) (t : Thread) : (s.setTh t).ctxNo = s.ctxNo := rfl
@[simp] theorem State.setTh_feature (s : State) (t : Thread) (i : Nat) : (s.setTh t).feature i = s.feature i := rfl
@[simp] theorem State.setTh_die (s : State) (t : Thread) (d : Nat) : (s.setTh t).die d = s.die d := rfl
@[simp] theorem State.setTh_seq (s : State) (t : Thread) (q : Nat) : (s.setTh t).seq q = s.seq q := rfl
@[simp] theorem State.setTh_core (s : State) (t : Thread) (c : Nat) : (s.setTh t).core c = s.core c := rfl
@[simp] theorem State.setTh_quiet (s : State) (t : Thread) : (s.setTh t).quiet ↔ s.quiet := Iff.rfl

/-! ## Scalar registers -/

@[simp] theorem Thread.setX_zero (t : Thread) (v : Word) : t.setX 0 v = t := by simp [Thread.setX]
@[simp] theorem Thread.getX_zero (t : Thread) : t.getX 0 = 0 := by simp [Thread.getX]
theorem Thread.getX_setX_same (t : Thread) {r : Nat} (v : Word) (h : r ≠ 0) : (t.setX r v).getX r = v := by
  simp [Thread.setX, Thread.getX, h]
theorem Thread.getX_setX_ne (t : Thread) {r q : Nat} (v : Word) (h : q ≠ r) : (t.setX r v).getX q = t.getX q := by
  unfold Thread.setX Thread.getX
  split
  · rfl
  · split
    · rfl
    · exact Sparse.get_set_ne _ _ _ h
@[simp] theorem Thread.xFull_setX (t : Thread) (r q : Nat) (v : Word) : (t.setX r v).xFull q = t.xFull q := by
  simp [Thread.xFull]
@[simp] theorem Thread.begin_getX (t : Thread) (r : Nat) : t.begin.getX r = t.getX r := by simp [Thread.getX]
@[simp] theorem Thread.begin_xFull (t : Thread) (r : Nat) : t.begin.xFull r = t.xFull r := by simp [Thread.xFull]

theorem rx_full {r : BitVec 5} {t : Thread} (p : Bool) (h : t.xFull r.toNat = true) :
    rx r p t = .ok (t.getX r.toNat) t := by simp [rx, h]
theorem wx_full {r : BitVec 5} {t : Thread} (v : Word) (h : t.xFull r.toNat = true) :
    wx r v t = .ok () (t.setX r.toNat v) := by simp [wx, h]
theorem destX_full {r : BitVec 5} {t : Thread} (h : t.xFull r.toNat = true) : destX r t = .ok () t := by
  simp [destX, h]

/-- An empty source (R189): policy 1 traps with cause 0x0D and the register in `tval`; policy 0 waits. -/
theorem rx_empty {r : BitVec 5} {t : Thread} (p : Bool) (h : t.xFull r.toNat = false) :
    rx r p t = .error (if p then .trap 0x0D (w64 r.toNat) 0 0 else .wait .regs) t := by
  cases p <;> simp [rx, h]

/-! ## Sequencing -/

theorem bind_apply {σ α β : Type} (a : EStateM Exit σ α) (f : α → EStateM Exit σ β) (s : σ) :
    (a >>= f) s = match a s with
      | .ok x s' => f x s'
      | .error e s' => .error e s' := by
  simp only [bind, EStateM.bind]
  cases a s <;> rfl
theorem pure_apply {σ α : Type} (x : α) (s : σ) : (pure x : EStateM Exit σ α) s = .ok x s := rfl
theorem throw_apply {σ α : Type} (e : Exit) (s : σ) : (throw e : EStateM Exit σ α) s = .error e s := rfl
@[simp] theorem getT_apply (t : Thread) : getT t = .ok t t := rfl
@[simp] theorem modT_apply (f : Thread → Thread) (t : Thread) : modT f t = .ok () (f t) := rfl
@[simp] theorem getS_apply (s : State) : getS s = .ok s s := rfl
@[simp] theorem modS_apply (f : State → State) (s : State) : modS f s = .ok () (f s) := rfl
@[simp] theorem trapT_apply {α : Type} (c : Nat) (v e i : Word) (t : Thread) :
    (trapT c v e i : T α) t = .error (.trap c v e i) t := rfl
@[simp] theorem trapM_apply {α : Type} (c : Nat) (v e i : Word) (s : State) :
    (trapM c v e i : M α) s = .error (.trap c v e i) s := rfl
@[simp] theorem waitM_apply {α : Type} (w : Wait) (s : State) : (waitM w : M α) s = .error (.wait w) s := rfl
theorem liftT_apply {α : Type} (a : T α) (s : State) : liftT a s = match a s.th with
      | .ok r t => .ok r (s.setTh t)
      | .error e t => .error e (s.setTh t) := rfl

theorem T.bind_ok {α β : Type} {a : T α} {f : α → T β} {t t' : Thread} {x : α} (h : a t = .ok x t') :
    (a >>= f) t = f x t' := by simp only [bind, EStateM.bind, h]
theorem T.bind_error {α β : Type} {a : T α} {f : α → T β} {t t' : Thread} {e : Exit} (h : a t = .error e t') :
    (a >>= f) t = .error e t' := by simp only [bind, EStateM.bind, h]
theorem M.bind_ok {α β : Type} {a : M α} {f : α → M β} {s s' : State} {x : α} (h : a s = .ok x s') :
    (a >>= f) s = f x s' := by simp only [bind, EStateM.bind, h]
theorem M.bind_error {α β : Type} {a : M α} {f : α → M β} {s s' : State} {e : Exit} (h : a s = .error e s') :
    (a >>= f) s = .error e s' := by simp only [bind, EStateM.bind, h]
theorem liftT_ok {α : Type} {a : T α} {s : State} {x : α} {t : Thread} (h : a s.th = .ok x t) :
    liftT a s = .ok x (s.setTh t) := by simp only [liftT, h]
theorem liftT_error {α : Type} {a : T α} {s : State} {e : Exit} {t : Thread} (h : a s.th = .error e t) :
    liftT a s = .error e (s.setTh t) := by simp only [liftT, h]

/-! ## Running a meaning -/

theorem pcTrigger_quiet {s : State} (h : s.quiet) : pcTrigger s = .ok () s := by
  have h' : s.cp.traced s.slotNo = false := h
  simp [pcTrigger, trigger, h']

theorem run_quiet {s : State} (act : M Flow) (h : s.quiet) :
    run act s = match act s.atIssue with
      | .ok f s' => .next (retire f s')
      | .error e s' => finish e s' := by
  have h' : s.atIssue.quiet := h
  unfold run
  rw [show s.setTh s.th.begin = s.atIssue from rfl, pcTrigger_quiet h']
  all_goals (dsimp only; cases act s.atIssue <;> rfl)

theorem run_ok {s s' : State} {act : M Flow} {f : Flow} (h : s.quiet) (ha : act s.atIssue = .ok f s') :
    run act s = .next (retire f s') := by rw [run_quiet act h, ha]

theorem run_error {s s' : State} {act : M Flow} {e : Exit} (h : s.quiet) (ha : act s.atIssue = .error e s') :
    run act s = finish e s' := by rw [run_quiet act h, ha]

theorem atIssue_th (s : State) : s.atIssue.th = s.th.begin := by simp [State.atIssue]

theorem runT_ok {s : State} {act : T Flow} {f : Flow} {t : Thread} (h : s.quiet) (ha : act s.th.begin = .ok f t) :
    runT act s = .next (retire f (s.setTh t)) := by
  refine (run_ok h (liftT_ok (s := s.atIssue) (by rw [atIssue_th]; exact ha))).trans ?_
  simp [State.atIssue]

theorem runS_ok {s : State} {act : T Unit} {t : Thread} (h : s.quiet) (ha : act s.th.begin = .ok () t) :
    runS act s = .next (retire .seq (s.setTh t)) := by
  refine runT_ok h ?_
  simp only [SeqRight.seqRight, EStateM.seqRight, pure, EStateM.pure, ha]

theorem runS_error {s : State} {act : T Unit} {t : Thread} {e : Exit} (h : s.quiet)
    (ha : act s.th.begin = .error e t) : runS act s = finish e (s.setTh t) := by
  refine (run_error h (liftT_error (s := s.atIssue) (e := e) (t := t) ?_)).trans ?_
  · rw [atIssue_th]
    simp only [SeqRight.seqRight, EStateM.seqRight, ha]
  · simp [State.atIssue]

/-- A thread computation that completes takes the machine to `State.done`. -/
theorem runS_done {s : State} {act : T Unit} (f : Thread → Thread) (h : s.quiet)
    (ha : act s.th.begin = .ok () (f s.th.begin)) : runS act s = .next (s.done f) := runS_ok h ha

/-! ## Retirement -/

/-- What a retirement records in the strip history and the trace changes the current thread and its core only. -/
theorem history_eq (s : State) (pc : Word) (b : Bool) :
    s.history pc b = if histMajor s.th.ir then s.setTh (s.th.pushHist s.sq.histCap pc b) else s := rfl

theorem traceEntry_quiet {s : State} (k : Nat) (w : Word) (h : s.quiet) : s.traceEntry k w = s := by
  have h' : s.cp.traced s.slotNo = false := h
  simp [State.traceEntry, h']

/-- The thread after retirement, with what the strip history keeps. -/
def Thread.retired (t : Thread) (cap : Nat) (f : Flow) : Thread :=
  let u := { t.advance f with instret := t.instret + 1, wait := .none, ended := .retired }
  if histMajor u.ir then u.pushHist cap t.pc false else u

theorem retire_quiet {s : State} (f : Flow) (h : s.quiet) (hf : f ≠ .stay) :
    retire f s = s.setTh (s.th.retired s.sq.histCap f) := by
  have e : ∀ (u : Thread) pc b, ((s.setTh u).history pc b) =
      s.setTh (if histMajor u.ir then u.pushHist s.sq.histCap pc b else u) := by
    intro u pc b
    rw [history_eq]
    simp only [State.setTh_th, State.setTh_sq, State.setTh_setTh]
    split <;> rfl
  cases f with
  | stay => exact absurd rfl hf
  | seq => exact e _ _ _
  | raw t => exact e _ _ _
  | goto t =>
    simp only [retire, e]
    rw [traceEntry_quiet]
    · rfl
    · exact h

/-! ## Two sources and one destination -/

theorem alu2_full {t : Thread} {d a b : BitVec 5} (fa fb : Bool) (f : Word → Word → Word)
    (ha : t.xFull a.toNat = true) (hb : t.xFull b.toNat = true) (hd : t.xFull d.toNat = true) :
    alu2 d a b fa fb f t = .ok () (t.setX d.toNat (f (t.getX a.toNat) (t.getX b.toNat))) := by
  unfold alu2
  rw [T.bind_ok (rx_full fa ha), T.bind_ok (rx_full fb hb), wx_full _ hd]

theorem alu1_full {t : Thread} {d a : BitVec 5} (fa : Bool) (f : Word → Word)
    (ha : t.xFull a.toNat = true) (hd : t.xFull d.toNat = true) :
    alu1 d a fa f t = .ok () (t.setX d.toNat (f (t.getX a.toNat))) := by
  unfold alu1
  rw [T.bind_ok (rx_full fa ha), wx_full _ hd]

theorem runS_alu2 {s : State} {d a b : BitVec 5} (fa fb : Bool) (f : Word → Word → Word) (hq : s.quiet)
    (h : s.fullX [d, a, b]) :
    runS (alu2 d a b fa fb f) s = .next (s.done fun t => t.setX d.toNat (f (s.gx a) (s.gx b))) := by
  refine (runS_ok hq (alu2_full fa fb f ?_ ?_ ?_)).trans ?_
  all_goals simp_all [State.fullX, State.gx, State.done]

theorem runS_alu1 {s : State} {d a : BitVec 5} (fa : Bool) (f : Word → Word) (hq : s.quiet)
    (h : s.fullX [d, a]) :
    runS (alu1 d a fa f) s = .next (s.done fun t => t.setX d.toNat (f (s.gx a))) := by
  refine (runS_ok hq (alu1_full fa f ?_ ?_)).trans ?_
  all_goals simp_all [State.fullX, State.gx, State.done]

end Sys2Proof.Machine
end

