-- ==== Sys2Proof/Laws/MemoryForm.lean ====
section
/-! SUPPORT. Memory as a list: reading after writing, equality of equal memories, and the canonical form kept by every
operation of the model that changes memory. -/

namespace Sys2Proof.Machine

/-! ## The list -/

theorem Memory.wfFrom_mono {m : List Host.Cell} {lo lo' : Nat} (h : lo' ≤ lo) (hw : Memory.wfFrom lo m = true) :
    Memory.wfFrom lo' m = true := by
  cases m with
  | nil => rfl
  | cons c m =>
    simp only [Memory.wfFrom, Bool.and_eq_true, decide_eq_true_eq] at hw ⊢
    exact ⟨⟨h.trans hw.1.1, hw.1.2⟩, hw.2⟩

theorem memByte_below {m : List Host.Cell} {lo a : Nat} (hw : Memory.wfFrom lo m = true) (h : a < lo) :
    memByte m a = 0 := by
  induction m generalizing lo with
  | nil => rfl
  | cons c m ih =>
    obtain ⟨a', b⟩ := c
    simp only [Memory.wfFrom, Bool.and_eq_true, decide_eq_true_eq] at hw
    simp only [memByte, if_neg (show a ≠ a' by omega)]
    exact ih hw.2 (by omega)

theorem memByte_memDel (m : List Host.Cell) (a x : Nat) :
    memByte (memDel m a) x = if x = a then 0 else memByte m x := by
  induction m with
  | nil => simp [memDel, memByte]
  | cons c m ih => simp only [memDel]; split <;> simp only [memByte, ih] <;> grind

theorem memByte_memIns (m : List Host.Cell) (a x : Nat) (b : Byte) :
    memByte (memIns m a b) x = if x = a then b else memByte m x := by
  induction m with
  | nil => simp [memIns, memByte]
  | cons c m ih =>
    simp only [memIns]
    split
    · simp only [memByte]
    · split <;> simp only [memByte, ih] <;> grind

/-- Reading one byte after writing one. -/
theorem memByte_memPut (m : List Host.Cell) (a x : Nat) (b : Byte) :
    memByte (memPut m a b) x = if x = a then b else memByte m x := by
  unfold memPut
  split
  · next h => rw [memByte_memDel, h]
  · exact memByte_memIns m a x b

theorem memDel_wfFrom {m : List Host.Cell} {lo : Nat} (hw : Memory.wfFrom lo m = true) (a : Nat) :
    Memory.wfFrom lo (memDel m a) = true := by
  induction m generalizing lo with
  | nil => rfl
  | cons c m ih =>
    obtain ⟨a', b'⟩ := c
    simp only [Memory.wfFrom, Bool.and_eq_true, decide_eq_true_eq] at hw
    simp only [memDel]
    split
    · exact Memory.wfFrom_mono (by omega) (ih hw.2)
    · simp only [Memory.wfFrom, Bool.and_eq_true, decide_eq_true_eq]
      exact ⟨hw.1, ih hw.2⟩

theorem memIns_wfFrom {m : List Host.Cell} {lo : Nat} (hw : Memory.wfFrom lo m = true) {a : Nat} (ha : lo ≤ a)
    {b : Byte} (hb : b ≠ 0) : Memory.wfFrom lo (memIns m a b) = true := by
  induction m generalizing lo with
  | nil => simp_all [memIns, Memory.wfFrom]
  | cons c m ih =>
    obtain ⟨a', b'⟩ := c
    simp only [Memory.wfFrom, Bool.and_eq_true, decide_eq_true_eq] at hw
    simp only [memIns]
    split
    · simp only [Memory.wfFrom, Bool.and_eq_true, decide_eq_true_eq]
      exact ⟨⟨ha, by simpa using hb⟩, ⟨by omega, hw.1.2⟩, hw.2⟩
    · split
      · next h =>
        subst h
        simp only [Memory.wfFrom, Bool.and_eq_true, decide_eq_true_eq]
        exact ⟨⟨ha, by simpa using hb⟩, hw.2⟩
      · simp only [Memory.wfFrom, Bool.and_eq_true, decide_eq_true_eq]
        exact ⟨hw.1, ih hw.2 (by omega)⟩

theorem memPut_wfFrom {m : List Host.Cell} {lo : Nat} (hw : Memory.wfFrom lo m = true) {a : Nat} (ha : lo ≤ a)
    (b : Byte) : Memory.wfFrom lo (memPut m a b) = true := by
  unfold memPut
  split
  · exact memDel_wfFrom hw a
  · next hb => exact memIns_wfFrom hw ha hb

theorem memPut_wf {m : List Host.Cell} (hw : Memory.wf m = true) (a : Nat) (b : Byte) :
    Memory.wf (memPut m a b) = true := memPut_wfFrom hw (Nat.zero_le a) b

theorem memPutAll_wf {m : List Host.Cell} (hw : Memory.wf m = true) (cs : List Host.Cell) :
    Memory.wf (memPutAll m cs) = true := by
  induction cs generalizing m with
  | nil => exact hw
  | cons c cs ih => exact ih (memPut_wf hw c.1 c.2)

theorem Memory.wfFrom_filter {m : List Host.Cell} {lo : Nat} (hw : Memory.wfFrom lo m = true)
    (p : Host.Cell → Bool) : Memory.wfFrom lo (m.filter p) = true := by
  induction m generalizing lo with
  | nil => rfl
  | cons c m ih =>
    obtain ⟨a, b⟩ := c
    simp only [Memory.wfFrom, Bool.and_eq_true, decide_eq_true_eq] at hw
    simp only [List.filter]
    split
    · simp only [Memory.wfFrom, Bool.and_eq_true, decide_eq_true_eq]
      exact ⟨hw.1, ih hw.2⟩
    · exact Memory.wfFrom_mono (by omega) (ih hw.2)

/-- A part of a memory in canonical form is in canonical form. -/
theorem Memory.wf_filter {m : List Host.Cell} (hw : Memory.wf m = true) (p : Host.Cell → Bool) :
    Memory.wf (m.filter p) = true := Memory.wfFrom_filter hw p

/-- Memories in canonical form that read the same are the same. -/
theorem Memory.wf_ext {m n : List Host.Cell} {lo : Nat} (hm : Memory.wfFrom lo m = true)
    (hn : Memory.wfFrom lo n = true) (h : ∀ a, memByte m a = memByte n a) : m = n := by
  induction m generalizing n lo with
  | nil =>
    cases n with
    | nil => rfl
    | cons c n =>
      obtain ⟨a, b⟩ := c
      simp only [Memory.wfFrom, Bool.and_eq_true, bne_iff_ne, ne_eq] at hn
      exact absurd (by simpa [memByte] using (h a).symm) hn.1.2
  | cons c m ih =>
    obtain ⟨a, b⟩ := c
    simp only [Memory.wfFrom, Bool.and_eq_true, decide_eq_true_eq, bne_iff_ne, ne_eq] at hm
    cases n with
    | nil => exact absurd (by simpa [memByte] using h a) hm.1.2
    | cons c' n =>
      obtain ⟨a', b'⟩ := c'
      simp only [Memory.wfFrom, Bool.and_eq_true, decide_eq_true_eq, bne_iff_ne, ne_eq] at hn
      have ha : a = a' := by
        rcases Nat.lt_trichotomy a a' with hl | he | hl
        · have := h a
          simp only [memByte, if_pos, if_neg (show a ≠ a' by omega), memByte_below hn.2 (show a < a' + 1 by omega)]
            at this
          exact absurd this hm.1.2
        · exact he
        · have := h a'
          simp only [memByte, if_pos, if_neg (show a' ≠ a by omega), memByte_below hm.2 (show a' < a + 1 by omega)]
            at this
          exact absurd this.symm hn.1.2
      subst ha
      have hb : b = b' := by simpa [memByte] using h a
      subst hb
      rw [ih hm.2 hn.2 fun x => ?_]
      by_cases hx : x = a
      · subst hx; rw [memByte_below hm.2 (by omega), memByte_below hn.2 (by omega)]
      · simpa [memByte, hx] using h x

/-- Reading one byte after writing some upward from an address. -/
theorem memByte_cellsAt (m : List Host.Cell) (a x : Nat) (bs : List Byte) :
    memByte (memPutAll m (cellsAt a bs)) x = if a ≤ x ∧ x < a + bs.length then bs.getD (x - a) 0 else memByte m x := by
  induction bs generalizing m a with
  | nil => simp [cellsAt, memPutAll]
  | cons b bs ih =>
    simp only [cellsAt, memPutAll, ih, memByte_memPut, List.length_cons]
    by_cases h1 : a + 1 ≤ x ∧ x < a + 1 + bs.length
    · rw [if_pos h1, if_pos (by omega), show x - a = (x - (a + 1)) + 1 by omega, List.getD_cons_succ]
    · rw [if_neg h1]
      by_cases h2 : x = a
      · subst h2; simp
      · rw [if_neg h2, if_neg (by omega)]

/-! ## The state's memories -/

theorem State.memOk_of_eq {s t : State} (h : s.memOk) (hm : t.mem = s.mem) (hh : t.host = s.host) : t.memOk := by
  unfold State.memOk at *; rwa [hm, hh]

theorem State.memOk_mem {s : State} (h : s.memOk) (t : State) (cs : List Host.Cell) (hm : t.mem = memPutAll s.mem cs)
    (hh : t.host = s.host) : t.memOk := by
  unfold State.memOk at *; rw [hm, hh]; exact ⟨memPutAll_wf h.1 cs, h.2⟩

theorem State.memOk_host {s : State} (h : s.memOk) (t : State) (cs : List Host.Cell) (hm : t.mem = s.mem)
    (hh : t.host = memPutAll s.host cs) : t.memOk := by
  unfold State.memOk at *; rw [hm, hh]; exact ⟨h.1, memPutAll_wf h.2 cs⟩

theorem State.memOk_foldl {α : Type} (f : State → α → State) (hf : ∀ s a, s.memOk → (f s a).memOk) (l : List α)
    (s : State) (h : s.memOk) : (l.foldl f s).memOk := by
  induction l generalizing s with
  | nil => exact h
  | cons a l ih => exact ih _ (hf s a h)

theorem State.reset_memOk : State.reset.memOk := ⟨rfl, rfl⟩

@[simp] theorem State.setTh_memOk (s : State) (t : Thread) : (s.setTh t).memOk ↔ s.memOk := Iff.rfl
@[simp] theorem State.setThread_memOk (s : State) (q r : Nat) (t : Thread) : (s.setThread q r t).memOk ↔ s.memOk := Iff.rfl
@[simp] theorem State.setSeq_memOk (s : State) (q : Nat) (v : Seq) : (s.setSeq q v).memOk ↔ s.memOk := Iff.rfl
@[simp] theorem State.setSq_memOk (s : State) (v : Seq) : (s.setSq v).memOk ↔ s.memOk := Iff.rfl
@[simp] theorem State.setCore_memOk (s : State) (c : Nat) (v : CorePair) : (s.setCore c v).memOk ↔ s.memOk := Iff.rfl
@[simp] theorem State.setCp_memOk (s : State) (v : CorePair) : (s.setCp v).memOk ↔ s.memOk := Iff.rfl
@[simp] theorem State.setDie_memOk (s : State) (d : Nat) (v : Die) : (s.setDie d v).memOk ↔ s.memOk := Iff.rfl
@[simp] theorem State.setContext_memOk (s : State) (c : Nat) (v : Context) : (s.setContext c v).memOk ↔ s.memOk := Iff.rfl
@[simp] theorem State.setQueue_memOk (s : State) (q : Nat) (v : Queue) : (s.setQueue q v).memOk ↔ s.memOk := Iff.rfl

theorem State.rekey_memOk {s : State} (h : s.memOk) (n : Nat) (k : Option (BitVec 512)) : (s.rekey n k).memOk := by
  unfold State.rekey
  split
  · dsimp only
    split
    · exact h
    · generalize cellsAt (128 * n) _ = cs
      exact ⟨memPutAll_wf h.1 cs, h.2⟩
  · exact h
  · exact h

theorem State.dropCopies_memOk {s : State} (h : s.memOk) (n : Nat) : (s.dropCopies n).memOk := by
  unfold State.dropCopies; split
  · exact State.memOk_of_eq h rfl rfl
  · exact h

theorem State.physWrite_memOk {s : State} (h : s.memOk) (pa : Nat) (bs : List Byte) (k : Option (BitVec 512)) :
    (s.physWrite pa bs k).memOk := by
  unfold State.physWrite
  split
  · exact State.memOk_host h _ _ rfl rfl
  · exact State.memOk_mem (State.dropCopies_memOk (State.rekey_memOk h _ k) _) _ _ rfl rfl
  · exact State.memOk_mem (State.dropCopies_memOk h _) _ _ rfl rfl
  · exact h

theorem State.dropTile_memOk {s : State} (h : s.memOk) (e : Nat) (p : Nat → Bool) : (s.dropTile e p).memOk := by
  unfold State.dropTile; split
  · exact State.memOk_of_eq h rfl rfl
  · exact h

theorem State.wastePrefetch_memOk {s : State} (h : s.memOk) (e : Nat) (p : Nat → Bool) : (s.wastePrefetch e p).memOk := by
  unfold State.wastePrefetch; split
  · exact State.memOk_of_eq h rfl rfl
  · exact h

theorem State.applyInval_memOk {s : State} (h : s.memOk) (e : Nat) (i : Inval) : (s.applyInval e i).memOk := by
  unfold State.applyInval
  exact State.wastePrefetch_memOk (State.dropTile_memOk ((State.setDie_memOk _ _ _).2 h) _ _) _ _

theorem State.settleDie_memOk {s : State} (h : s.memOk) (f : Bool) (e : Nat) : (s.settleDie f e).memOk := by
  unfold State.settleDie
  refine State.memOk_foldl _ (fun s i h => ?_) _ _ h
  split
  · exact State.applyInval_memOk h e i
  · exact h

theorem State.applyHome_memOk {s : State} (h : s.memOk) (f : Flight) : (s.applyHome f).memOk := by
  have h0 : (if f.pa < 0x8000000000 then s.rekey (lineOf f.pa) (some f.key) else s).memOk := by
    split
    · exact State.rekey_memOk h _ _
    · exact h
  unfold State.applyHome
  dsimp only
  generalize (if f.pa < 0x8000000000 then s.rekey (lineOf f.pa) (some f.key) else s) = u at h0 ⊢
  refine State.memOk_foldl _ (fun s e h => ?_) _ _ (State.dropTile_memOk ((State.setDie_memOk _ _ _).2 ?_) _ _)
  · split
    · exact h
    · split
      · exact h
      · exact State.settleDie_memOk ((State.setDie_memOk _ _ _).2 h) _ _
  · exact State.memOk_mem h0 _ f.cells rfl rfl

theorem State.raiseFrontier_memOk {s : State} (h : s.memOk) (c : Nat) (st : Stamp) : (s.raiseFrontier c st).memOk := h

theorem State.wakeAt_memOk {s : State} (h : s.memOk) (pa : Nat) (ph : Bool) (l : Stamp) : (s.wakeAt pa ph l).memOk := by
  unfold State.wakeAt
  refine State.memOk_foldl _ (fun s x h => ?_) _ _ h
  obtain ⟨k, t⟩ := x
  dsimp only
  split
  · split
    · exact h
    · exact h
  · exact h

theorem State.boltLeaves_memOk {s : State} (h : s.memOk) (pa : Nat) : (s.boltLeaves pa).memOk := by
  unfold State.boltLeaves; split <;> exact h

theorem State.applyBolt_memOk {s : State} (h : s.memOk) (f : Flight) (o : BoltOp) : (s.applyBolt f o).memOk := by
  unfold State.applyBolt
  generalize ((s.boltAt f.pa f.key).update o.op o.n o.arr).test = r
  obtain ⟨flip, b⟩ := r
  dsimp only
  refine State.boltLeaves_memOk ?_ _
  have h1 := State.applyHome_memOk h { f with
    stamp := f.stamp.join (s.line (lineOf f.pa)).stamp, cells := cellsAt f.pa (dwordBytes b.word0 ++ dwordBytes b.word1) }
  generalize s.applyHome _ = u at h1 ⊢
  split
  · refine State.wakeAt_memOk ?_ _ _ _; exact h1
  · exact h1

theorem State.applyFlight_memOk {s : State} (h : s.memOk) (f : Flight) : (s.applyFlight f).memOk := by
  unfold State.applyFlight; split
  · exact State.applyHome_memOk h f
  · exact State.applyBolt_memOk h f _

theorem State.drainPass_memOk {s : State} (h : s.memOk) : s.drainPass.memOk := by
  unfold State.drainPass
  refine State.memOk_foldl _ (fun s f h => ?_) _ _ h
  split
  · exact State.applyFlight_memOk (s := { s with flights := s.flights.filter fun g => g.id ≠ f.id }) h f
  · exact h

theorem State.drainN_memOk (n : Nat) {s : State} (h : s.memOk) : (State.drainN n s).memOk := by
  induction n generalizing s with
  | zero => exact h
  | succ n ih =>
    unfold State.drainN
    split
    · exact h
    · exact ih (State.drainPass_memOk h)

theorem State.drain_memOk {s : State} (h : s.memOk) : s.drain.memOk := by
  unfold State.drain
  exact State.memOk_foldl _ (fun s e h => State.settleDie_memOk (State.settleDie_memOk h _ _) _ _) _ _
    (State.drainN_memOk _ h)

theorem State.startCollapse_memOk {s : State} (h : s.memOk) (pa : Nat) : (s.startCollapse pa).memOk := by
  unfold State.startCollapse
  split
  · dsimp only
    split
    · exact State.memOk_of_eq h rfl rfl
    · exact h
  · exact h

theorem State.sendFlight_memOk {s : State} (h : s.memOk) (f : Flight) : (s.sendFlight f).memOk := by
  unfold State.sendFlight
  dsimp only
  generalize (s.holders f.pa != 0 || (s.collapsing f.pa).isSome) = held
  have h1 : (if held = true then s.startCollapse f.pa else s).memOk := by
    split
    · exact State.startCollapse_memOk h _
    · exact h
  generalize (if held = true then s.startCollapse f.pa else s) = u at h1 ⊢
  split
  · exact State.applyFlight_memOk h1 _
  · split
    · exact State.memOk_of_eq h1 rfl rfl
    · exact State.drain_memOk (State.memOk_of_eq h1 rfl rfl)

theorem State.injectCells_memOk {s : State} (h : s.memOk) (d : Nat) (fr : Stamp) (pa : Nat) (cs : List Host.Cell)
    (k : BitVec 512) (rel q : Option Nat) : (s.injectCells d fr pa cs k rel q).2.memOk :=
  State.sendFlight_memOk (s := (s.takeStamp d fr).2.fresh.2) h _

theorem State.inject_memOk {s : State} (h : s.memOk) (d : Nat) (fr : Stamp) (pa : Nat) (bs : List Byte)
    (k : BitVec 512) (rel q : Option Nat) : (s.inject d fr pa bs k rel q).2.memOk :=
  State.injectCells_memOk h d fr pa _ k rel q

theorem State.boltSend_memOk {s : State} (h : s.memOk) (d : Nat) (fr : Stamp) (pa : Nat) (o : BoltOp)
    (k : BitVec 512) (rel q : Option Nat) : (s.boltSend d fr pa o k rel q).2.2.memOk :=
  State.sendFlight_memOk (s := (s.takeStamp d fr).2.fresh.2) h _

theorem State.keepCopy_memOk {s : State} (h : s.memOk) (d pa : Nat) (k : BitVec 512) (pb : Nat) :
    (s.keepCopy d pa k pb).memOk := by
  unfold State.keepCopy State.placeCopy; split
  · exact State.memOk_of_eq h rfl rfl
  · exact h

theorem State.readLine_memOk {s s' : State} (h : s.memOk) {d : Nat} {fr st : Stamp} {pa n : Nat} {k : BitVec 512}
    {pb : Nat} {bs : List Byte} (hr : s.readLine d fr pa n k pb = some (bs, st, s')) : s'.memOk := by
  unfold State.readLine at hr
  dsimp only at hr
  generalize (if pb = 1 then homeDie pa else d) = e at hr
  have h1 : (if s.dieCovers e fr then s else s.drain).memOk := by
    split
    · exact h
    · exact State.drain_memOk h
  generalize (if s.dieCovers e fr then s else s.drain) = u at h1 hr
  split at hr
  · cases hr
  · cases hr; exact State.keepCopy_memOk h1 _ _ _ _

theorem State.atomicLine_memOk {s s' : State} (h : s.memOk) {peer : Bool} {d : Nat} {fr st : Stamp} {pa n : Nat}
    {k : BitVec 512} {rel : Option Nat} {f : List Byte → Option (List Byte)} {bs : List Byte}
    (hr : s.atomicLine peer d fr pa n k rel f = some (bs, st, s')) : s'.memOk := by
  unfold State.atomicLine at hr
  dsimp only at hr
  have h1 := State.drain_memOk h
  generalize s.drain = u at h1 hr
  split at hr
  · cases hr
  · split at hr
    · cases hr; exact h1
    · cases hr
      exact State.applyHome_memOk (s := (u.takeStamp d _).2.fresh.2) h1 _

/-! ## Translation -/

theorem State.setAD_memOk {s s' : State} (h : s.memOk) {dxp e : Word} {at_ : Nat} {a : Acc}
    (hr : s.setAD dxp e at_ a = some s') : s'.memOk := by
  unfold State.setAD at hr
  split at hr
  · cases hr; exact h
  · split at hr
    · split at hr
      · cases hr; exact State.physWrite_memOk h _ _ _
      · cases hr
    · cases hr; exact State.physWrite_memOk h _ _ _

theorem State.freshWalk_memOk {s : State} (h : s.memOk) (d : Nat) (dxp : Word) (l : Level) (a : Acc) (va : Nat)
    (hint : Bool) : (s.freshWalk d dxp l a va hint).2.2.memOk := by
  unfold State.freshWalk
  split
  · exact h
  · exact h
  · exact h
  · split
    · split
      · exact h
      · split
        · next hs => exact State.setAD_memOk h hs
        · exact h
    · exact h

theorem State.xlate_memOk {s : State} (h : s.memOk) (c : Nat) (dxp : Word) (l : Level) (a : Acc) (va : Word) :
    (s.xlate c dxp l a va).2.memOk := by
  unfold State.xlate
  dsimp only
  split
  · exact h
  · split
    · exact h
    · have hw := State.freshWalk_memOk h (c / 32) dxp l a (va.toNat % 2 ^ 57) false
      split
      · next he =>
        rw [he] at hw
        split
        · exact State.memOk_of_eq hw rfl rfl
        · exact hw
      · next he => rw [he] at hw; exact hw

/-! ## Computations that keep the form -/

/-- A computation over the module leaves both memories in canonical form, however it ends. -/
def M.KeepsForm {α : Type} (a : M α) : Prop := ∀ s : State, s.memOk → (a.state s).memOk

theorem M.KeepsForm.pure {α : Type} (x : α) : M.KeepsForm (Pure.pure x : M α) := fun _ h => h
theorem M.KeepsForm.throw {α : Type} (e : Exit) : M.KeepsForm (MonadExcept.throw e : M α) := fun _ h => h

theorem M.KeepsForm.bind {α β : Type} {a : M α} {f : α → M β} (ha : a.KeepsForm) (hf : ∀ x, (f x).KeepsForm) :
    M.KeepsForm (a >>= f) := by
  intro s h
  have := ha s h
  unfold M.state at *
  rw [bind_apply]
  cases hs : a s with
  | ok x s' => rw [hs] at this; exact hf x s' this
  | error e s' => rw [hs] at this; exact this

theorem M.KeepsForm.ite {α : Type} {c : Prop} [Decidable c] {a b : M α} (ha : a.KeepsForm) (hb : b.KeepsForm) :
    M.KeepsForm (if c then a else b) := by split <;> assumption

theorem M.KeepsForm.liftT {α : Type} (a : T α) : M.KeepsForm (liftT a) := by
  intro s h
  unfold M.state
  rw [liftT_apply]
  cases a s.th <;> exact h

/-- A translation, however it ends, leaves what the walk leaves, the thread's `vstart` apart. -/
theorem walkM_keepsForm (a : Acc) (el : Elem) (va : Word) : (walkM a el va).KeepsForm := by
  intro s h
  have hx := State.xlate_memOk h s.coreNo s.sq.dxp s.th.level a va
  have hk : ∀ u : State, u.memOk → (if a.kind = 7 then u else u.setTh { u.th with vstart := w64 el.resume }).memOk := by
    intro u hu; split <;> exact hu
  unfold M.state walkM
  dsimp only
  by_cases hc : canonical va = true
  · simp only [hc, Bool.not_true, Bool.false_eq_true, if_false]
    generalize s.xlate s.coreNo s.sq.dxp s.th.level a va = r at hx ⊢
    obtain ⟨x, s'⟩ := r
    cases x with
    | ok t => exact hx
    | page r l => exact hx
    | access => exact hk _ hx
    | wait => exact hx
  · simp only [Bool.not_eq_true] at hc
    simp only [hc, Bool.not_false, if_true]
    exact hk _ h

theorem translateM_keepsForm (a : Acc) (el : Elem) (va : Word) : (translateM a el va).KeepsForm := by
  intro s h
  have := walkM_keepsForm a el va s h
  unfold M.state translateM at *
  split
  · next hr => split at hr <;> simp_all
  · next hr =>
    split at hr
    · injection hr with h1 h2; subst h2; exact h
    · simp_all

theorem poisonCheck_state (pa : Nat) (s : State) : (poisonCheck pa).state s = s := by
  unfold M.state poisonCheck; split <;> simp_all <;> split at * <;> simp_all

theorem State.useLine_memOk {s : State} (h : s.memOk) (n : Nat) (hit : Bool) : (s.useLine n hit).memOk := by
  unfold State.useLine; cases hit <;> exact h

theorem State.touchTile_memOk {s : State} (h : s.memOk) (pa pb : Nat) (count : Bool) :
    (s.touchTile pa pb count).memOk := by
  unfold State.touchTile
  split
  · exact State.useLine_memOk h (lineOf pa) _
  · exact h

theorem State.missTile_memOk {s : State} (h : s.memOk) (pa pb : Nat) : (s.missTile pa pb).memOk := by
  unfold State.missTile; split <;> exact h

theorem State.noteLoad_memOk {s : State} (h : s.memOk) (st : Option Stamp) : (s.noteLoad st).memOk := h

theorem poisonCheck_cases (pa : Nat) (s : State) : poisonCheck pa s = .ok () s ∨ ∃ e, poisonCheck pa s = .error e s := by
  unfold poisonCheck; split
  · exact .inr ⟨_, rfl⟩
  · exact .inl rfl

theorem readM_keepsForm (t : Target) (n : Nat) (count : Bool) : (readM t n count).KeepsForm := by
  intro s h
  unfold M.state readM
  cases hp : t.place with
  | host a => exact State.noteLoad_memOk h none
  | _ =>
    rcases poisonCheck_cases t.pa s with he | ⟨e, he⟩
    · rw [he]
      dsimp only
      cases hr : s.readLine s.dieNo s.front t.pa n (s.slot t.slot).key t.pbmt with
      | none => exact State.drain_memOk (State.missTile_memOk h _ _)
      | some r =>
        obtain ⟨bs, st, s'⟩ := r
        have h' := State.readLine_memOk h hr
        exact State.noteLoad_memOk (State.touchTile_memOk (s := s'.raise _) h' _ _ _) _
    · rw [he]; exact h

theorem overdueCheck_cases (n : Nat) (s : State) :
    overdueCheck n s = .ok () s ∨ overdueCheck n s = .error (.wait .memory) s.drain := by
  unfold overdueCheck; split
  · exact .inr rfl
  · exact .inl rfl

theorem writeM_keepsForm (t : Target) (bs : List Byte) (rel : Option Nat) : (writeM t bs rel).KeepsForm := by
  intro s h
  unfold M.state writeM
  cases hp : t.place with
  | host a => exact ⟨h.1, memPutAll_wf h.2 _⟩
  | _ =>
    rcases poisonCheck_cases t.pa s with he | ⟨e, he⟩
    · rcases overdueCheck_cases 1 s with ho | ho
      · simp only [SeqRight.seqRight, EStateM.seqRight, he, ho]
        have hu : (if s.sched.caching = true then s.setCp (s.cp.dropTile (· = lineOf t.pa)) else s).memOk := by
          split <;> exact h
        generalize (if s.sched.caching = true then s.setCp (s.cp.dropTile (· = lineOf t.pa)) else s) = u at hu ⊢
        have hi := State.inject_memOk hu u.dieNo u.front t.pa bs (u.slot t.slot).key rel (some u.cur.seq)
        generalize u.inject u.dieNo u.front t.pa bs (u.slot t.slot).key rel (some u.cur.seq) = r at hi ⊢
        exact hi
      · simp only [SeqRight.seqRight, EStateM.seqRight, he, ho]
        exact State.drain_memOk h
    · simp only [SeqRight.seqRight, EStateM.seqRight, he]; exact h

theorem atomicM_keepsForm (t : Target) (va : Word) (n : Nat) (rel : Option Nat)
    (f : List Byte → Option (List Byte)) : (atomicM t va n rel f).KeepsForm := by
  intro s h
  unfold M.state atomicM
  cases hp : t.place with
  | host a =>
    cases hh : s.hostAtomics
    · exact h
    · cases hf : f (memBytes s.host a n) with
      | none => simpa [hf] using h
      | some new => simpa [hf, State.memOk] using (⟨h.1, memPutAll_wf h.2 _⟩ : Memory.wf s.mem = true ∧ _)
  | _ =>
    rcases poisonCheck_cases t.pa s with he | ⟨e, he⟩
    · rw [he]
      dsimp only
      cases hr : s.atomicLine false s.dieNo s.front t.pa n (s.slot t.slot).key rel f with
      | none => exact State.startCollapse_memOk (State.drain_memOk h) _
      | some r =>
        obtain ⟨bs, st, s'⟩ := r
        have h' := State.atomicLine_memOk h hr
        exact h'
    · rw [he]; exact h

theorem performedM_keepsForm : performedM.KeepsForm := by
  intro s h
  have hd := State.drain_memOk h
  unfold M.state performedM
  split
  all_goals
    next hr =>
    dsimp only at hr
    repeat' split at hr
    all_goals simp_all

theorem performedAllM_keepsForm : performedAllM.KeepsForm := by
  intro s h
  have hd := State.drain_memOk h
  unfold M.state performedAllM
  split
  all_goals
    next hr =>
    dsimp only at hr
    repeat' split at hr
    all_goals simp_all

theorem releaseM_keepsForm (scope : Nat) : (releaseM scope).KeepsForm := by
  refine .bind performedM_keepsForm fun _ => .bind (fun _ h => h) fun s => ?_
  exact .ite (.throw _) (.pure _)

end Sys2Proof.Machine
end

