-- ==== Sys2Proof/Tests/Slice0.lean ====
section
/-! SUPPORT. Tests: the checks of well-formedness refuse an ill-formed term each; every instruction with a word is
decoded from a word written out field by field; single instructions give results worked by hand; and, for every
obligation with hypotheses, a concrete state and operands that meet them (`witness_<obligation>`). -/

namespace Sys2Proof.Tests

open Sys2Proof Sys2Proof.Machine

set_option linter.all false
set_option Elab.async false
set_option synthInstance.maxSize 4000
set_option synthInstance.maxHeartbeats 400000
set_option maxRecDepth 4000

/-! ## Well-formedness: a term for each check, which the check refuses -/

theorem test_wf_accepts : [Instr.nop, .add 31 31 31 true true, .cinval 4 0 0 true true,
    .loop 0 false 257, .boltRd 30 1 false].all (·.wf) = true := by decide +kernel

theorem test_wf_refuses_0 : [
    (Instr.cinval 0 1 1 false false), .cinval 5 1 1 false false, .tlbsync 0 1 1 false false,
    .tlbsync 5 1 1 false false, .qnext 0 1 1 false false, .loop 1 false 1, .loop 1 false 258, .lidx 4 6, .lrem 4 6,
    .ldbAcq 4 1 false 5, .ldbnAcq 4 1 false 5, .ldhAcq 4 1 false 5, .ldhnAcq 4 1 false 5, .ldwAcq 4 1 false 5,
    .ldwnAcq 4 1 false 5, .lddAcq 4 1 false 5, .stbRel 4 1 false 5, .sthRel 4 1 false 5, .stwRel 4 1 false 5,
    .stdRel 4 1 false 5, .amoSwapW 4 1 1 6 false, .amoSwapD 4 1 1 6 false, .amoCasW 4 1 1 6 false,
    .amoCasW 5 1 1 2 false, .amoCasD 4 1 1 6 false, .amoCasD 5 1 1 2 false, .amoAddW 4 1 1 6 false,
    .amoAddD 4 1 1 6 false, .amoAndW 4 1 1 6 false, .amoAndD 4 1 1 6 false].all (fun i => !i.wf) = true :=
      by decide +kernel

theorem test_wf_refuses_1 : [
    (Instr.amoOrW 4 1 1 6 false), .amoOrD 4 1 1 6 false, .amoXorW 4 1 1 6 false, .amoXorD 4 1 1 6 false,
    .amoMinW 4 1 1 6 false, .amoMinD 4 1 1 6 false, .amoMaxW 4 1 1 6 false, .amoMaxD 4 1 1 6 false,
    .amoMinnW 4 1 1 6 false, .amoMinnD 4 1 1 6 false, .amoMaxnW 4 1 1 6 false, .amoMaxnD 4 1 1 6 false,
    .amoFaddS 4 1 1 6 false, .amoFmaxS 4 1 1 6 false, .amoFminS 4 1 1 6 false, .fenceRel 6, .fenceAcq 6, .fenceAr 6,
    .fenceSc 6, .boltArrive 5 1 1 false false, .boltRd 1 1 false, .boltRd 31 1 false, .boltRd 5 1 false,
    .vldX32Acq 4 1 1 false false 5, .vldXAcq 4 1 1 false false 5, .vldX32OAcq 4 1 1 false false 5,
    .vldXOAcq 4 1 1 false false 5, .vhaccX32 4 1 1 false false false 5, .vhaccX 4 1 1 false false false 5,
    .vscaddX32 4 1 1 false false false 5].all (fun i => !i.wf) = true := by decide +kernel

theorem test_wf_refuses_2 : [
    (Instr.vscaddX 4 1 1 false false false 5), .vcvt 4 1 false false 13, .vbq 4 1 false false 3 false, .zswap 4 16,
    .zldSShadow 16 1 false, .zstSShadow 16 1 false, .zldX32Shadow 16 1 1 false false,
    .zldXShadow 16 1 1 false false, .zstX32Shadow 16 1 1 false false, .zstXShadow 16 1 1 false false].all (fun i =>
      !i.wf) = true := by decide +kernel

/-! ## Decoding: for every instruction with a word, a word written out field by field from its encoding (Tables 8.1,
8.7 and the table of its major): the opcode first, `d` = 4, `a` = 5, `b` = 6, FA set, FB clear -/

/-- Every word of a list decodes to the instruction beside it. -/
abbrev tDecodes (l : List (IWord × Instr)) : Prop := ∀ p ∈ l, decode p.1 = .ok p.2

theorem test_decode_major_01 : tDecodes [
    (0b0000001_0000000000000000000000000#32, .nop),
    (0b0000001_00000_00101_00000_1_000000001#32, .trap 5 true),
    (0b0000001_0000000000000000000000010#32, .brk),
    (0b0000001_0000000000000000000000011#32, .eret),
    (0b0000001_00100_00101_00000_1_000000100#32, .wfe 4 5 true),
    (0b0000001_0000000000000000000000101#32, .yield),
    (0b0000001_00100_00000000000000000110#32, .pollp 4),
    (0b0000001_0000000000000000000000111#32, .halt),
    (0b0000001_00011_00101_00110_1_0_00001000#32, .cinval 3 5 6 true false),
    (0b0000001_00011_00101_00110_1_0_00001001#32, .tlbsync 3 5 6 true false),
    (0b0000001_00100_00101_00110_1_0_00001010#32, .qnext 4 5 6 true false),
    (0b0000001_0000000000000000000001011#32, .exit)] := by decide +kernel

theorem test_decode_major_02 : tDecodes [
    (0b0000010_00100_00101_1_00_001010100101#32, .csrrw 4 5 true 0x2A5),
    (0b0000010_00100_00101_1_01_001010100101#32, .csrrs 4 5 true 0x2A5),
    (0b0000010_00100_00101_1_10_001010100101#32, .csrrc 4 5 true 0x2A5)] := by decide +kernel

theorem test_decode_major_03 : tDecodes [
    (0b0000011_00000_00101_00000_1_000000000#32, .fwait 5 true),
    (0b0000011_00000_00101_00000_1_000000001#32, .fwaitv 5 true),
    (0b0000011_00100_00101_000000000000010#32, .fsts 4 5),
    (0b0000011_00100_00101_000000000000011#32, .fstv 4 5),
    (0b0000011_0000000000000000000000100#32, .fwall)] := by decide +kernel

theorem test_decode_major_04 : tDecodes [
    (0b0000100_00100_00101_00110_1_0_00000000#32, .add 4 5 6 true false),
    (0b0000100_00100_00101_00110_1_0_00000001#32, .sub 4 5 6 true false),
    (0b0000100_00100_00101_00110_1_0_00000010#32, .and 4 5 6 true false),
    (0b0000100_00100_00101_00110_1_0_00000011#32, .or 4 5 6 true false),
    (0b0000100_00100_00101_00110_1_0_00000100#32, .xor 4 5 6 true false),
    (0b0000100_00100_00101_00110_1_0_00000101#32, .andn 4 5 6 true false),
    (0b0000100_00100_00101_00110_1_0_00000110#32, .sll 4 5 6 true false),
    (0b0000100_00100_00101_00110_1_0_00000111#32, .srl 4 5 6 true false),
    (0b0000100_00100_00101_00110_1_0_00001000#32, .sra 4 5 6 true false),
    (0b0000100_00100_00101_00110_1_0_00001001#32, .rol 4 5 6 true false),
    (0b0000100_00100_00101_00110_1_0_00001010#32, .ror 4 5 6 true false),
    (0b0000100_00100_00101_00110_1_0_00001011#32, .slt 4 5 6 true false),
    (0b0000100_00100_00101_00110_1_0_00001100#32, .sltn 4 5 6 true false),
    (0b0000100_00100_00101_00110_1_0_00001101#32, .seq 4 5 6 true false),
    (0b0000100_00100_00101_00110_1_0_00001110#32, .min 4 5 6 true false),
    (0b0000100_00100_00101_00110_1_0_00001111#32, .max 4 5 6 true false),
    (0b0000100_00100_00101_00110_1_0_00010000#32, .minn 4 5 6 true false),
    (0b0000100_00100_00101_00110_1_0_00010001#32, .maxn 4 5 6 true false),
    (0b0000100_00100_00101_00000_1_000010010#32, .clz 4 5 true),
    (0b0000100_00100_00101_00000_1_000010011#32, .ctz 4 5 true),
    (0b0000100_00100_00101_00000_1_000010100#32, .cpop 4 5 true),
    (0b0000100_00100_00101_00000_1_000010101#32, .sextB 4 5 true),
    (0b0000100_00100_00101_00000_1_000010110#32, .sextH 4 5 true),
    (0b0000100_00100_00101_00000_1_000010111#32, .sextW 4 5 true),
    (0b0000100_00100_00101_00000_1_000011000#32, .zextH 4 5 true),
    (0b0000100_00100_00101_00000_1_000011001#32, .zextW 4 5 true)] := by decide +kernel

theorem test_decode_major_05 : tDecodes [
    (0b0000101_00100_00101_00110_1_0_00000000#32, .mul 4 5 6 true false),
    (0b0000101_00100_00101_00110_1_0_00000001#32, .mulh 4 5 6 true false),
    (0b0000101_00100_00101_00110_1_0_00000010#32, .mulhn 4 5 6 true false),
    (0b0000101_00100_00101_00110_1_0_00000011#32, .mulhsn 4 5 6 true false),
    (0b0000101_00100_00101_00110_1_0_00000100#32, .div 4 5 6 true false),
    (0b0000101_00100_00101_00110_1_0_00000101#32, .divn 4 5 6 true false),
    (0b0000101_00100_00101_00110_1_0_00000110#32, .rem 4 5 6 true false),
    (0b0000101_00100_00101_00110_1_0_00000111#32, .remn 4 5 6 true false)] := by decide +kernel

theorem test_decode_major_06_0 : tDecodes [
    (0b0000110_00100_00101_00110_1_0_00000000#32, .faddD 4 5 6 true false),
    (0b0000110_00100_00101_00110_1_0_00000001#32, .fsubD 4 5 6 true false),
    (0b0000110_00100_00101_00110_1_0_00000010#32, .fmulD 4 5 6 true false),
    (0b0000110_00100_00101_00110_1_0_00000011#32, .fdivD 4 5 6 true false),
    (0b0000110_00100_00101_00000_1_000000100#32, .fsqrtD 4 5 true),
    (0b0000110_00100_00101_00110_1_0_00000101#32, .fmacD 4 5 6 true false),
    (0b0000110_00100_00101_00110_1_0_00000110#32, .fminD 4 5 6 true false),
    (0b0000110_00100_00101_00110_1_0_00000111#32, .fmaxD 4 5 6 true false),
    (0b0000110_00100_00101_00000_1_000001000#32, .fnegD 4 5 true),
    (0b0000110_00100_00101_00000_1_000001001#32, .fabsD 4 5 true),
    (0b0000110_00100_00101_00110_1_0_00001010#32, .feqD 4 5 6 true false),
    (0b0000110_00100_00101_00110_1_0_00001011#32, .fltD 4 5 6 true false),
    (0b0000110_00100_00101_00110_1_0_00001100#32, .fleD 4 5 6 true false),
    (0b0000110_00100_00101_00000_1_000001101#32, .fclassD 4 5 true),
    (0b0000110_00100_00101_00000_1_000001110#32, .ftoiD 4 5 true),
    (0b0000110_00100_00101_00000_1_000001111#32, .ftonD 4 5 true),
    (0b0000110_00100_00101_00000_1_000010000#32, .itofD 4 5 true),
    (0b0000110_00100_00101_00000_1_000010001#32, .ntofD 4 5 true),
    (0b0000110_00100_00101_00000_1_000010010#32, .fcvtDS 4 5 true),
    (0b0000110_00100_00101_00110_1_0_01000000#32, .faddS 4 5 6 true false),
    (0b0000110_00100_00101_00110_1_0_01000001#32, .fsubS 4 5 6 true false),
    (0b0000110_00100_00101_00110_1_0_01000010#32, .fmulS 4 5 6 true false),
    (0b0000110_00100_00101_00110_1_0_01000011#32, .fdivS 4 5 6 true false),
    (0b0000110_00100_00101_00000_1_001000100#32, .fsqrtS 4 5 true),
    (0b0000110_00100_00101_00110_1_0_01000101#32, .fmacS 4 5 6 true false),
    (0b0000110_00100_00101_00110_1_0_01000110#32, .fminS 4 5 6 true false),
    (0b0000110_00100_00101_00110_1_0_01000111#32, .fmaxS 4 5 6 true false),
    (0b0000110_00100_00101_00000_1_001001000#32, .fnegS 4 5 true),
    (0b0000110_00100_00101_00000_1_001001001#32, .fabsS 4 5 true),
    (0b0000110_00100_00101_00110_1_0_01001010#32, .feqS 4 5 6 true false)] := by decide +kernel

theorem test_decode_major_06_1 : tDecodes [
    (0b0000110_00100_00101_00110_1_0_01001011#32, .fltS 4 5 6 true false),
    (0b0000110_00100_00101_00110_1_0_01001100#32, .fleS 4 5 6 true false),
    (0b0000110_00100_00101_00000_1_001001101#32, .fclassS 4 5 true),
    (0b0000110_00100_00101_00000_1_001001110#32, .ftoiS 4 5 true),
    (0b0000110_00100_00101_00000_1_001001111#32, .ftonS 4 5 true),
    (0b0000110_00100_00101_00000_1_001010000#32, .itofS 4 5 true),
    (0b0000110_00100_00101_00000_1_001010001#32, .ntofS 4 5 true),
    (0b0000110_00100_00101_00000_1_001010010#32, .fcvtSD 4 5 true)] := by decide +kernel

theorem test_decode_major_08 : tDecodes [
    (0b0001000_00100_00101_1_01001000110100#32, .addi 4 5 true 0x1234)] := by decide +kernel

theorem test_decode_major_09 : tDecodes [
    (0b0001001_00100_00101_1_01001000110100#32, .andi 4 5 true 0x1234)] := by decide +kernel

theorem test_decode_major_0A : tDecodes [
    (0b0001010_00100_00101_1_01001000110100#32, .ori 4 5 true 0x1234)] := by decide +kernel

theorem test_decode_major_0B : tDecodes [
    (0b0001011_00100_00101_1_01001000110100#32, .xori 4 5 true 0x1234)] := by decide +kernel

theorem test_decode_major_0C : tDecodes [
    (0b0001100_00100_00101_1_00000000_101010#32, .slli 4 5 true 42)] := by decide +kernel

theorem test_decode_major_0D : tDecodes [
    (0b0001101_00100_00101_1_00000000_101010#32, .srli 4 5 true 42)] := by decide +kernel

theorem test_decode_major_0E : tDecodes [
    (0b0001110_00100_00101_1_00000000_101010#32, .srai 4 5 true 42)] := by decide +kernel

theorem test_decode_major_0F : tDecodes [
    (0b0001111_00100_00101_1_01001000110100#32, .slti 4 5 true 0x1234)] := by decide +kernel

theorem test_decode_major_10 : tDecodes [
    (0b0010000_00100_10101011110011011110#32, .ldhi 4 0xABCDE)] := by decide +kernel

theorem test_decode_major_11 : tDecodes [
    (0b0010001_00100_10101011110011011110#32, .pcadd 4 0xABCDE)] := by decide +kernel

theorem test_decode_major_12 : tDecodes [
    (0b0010010_1001000110100010101100111#32, .jal 0x1234567)] := by decide +kernel

theorem test_decode_major_13 : tDecodes [
    (0b0010011_00100_00101_1_01001000110100#32, .jalr 4 5 true 0x1234)] := by decide +kernel

theorem test_decode_major_14 : tDecodes [
    (0b0010100_00101_00110_1_10001101000101#32, .beq 5 6 true 0x2345)] := by decide +kernel

theorem test_decode_major_15 : tDecodes [
    (0b0010101_00101_00110_1_10001101000101#32, .bne 5 6 true 0x2345)] := by decide +kernel

theorem test_decode_major_16 : tDecodes [
    (0b0010110_00101_00110_1_10001101000101#32, .blt 5 6 true 0x2345)] := by decide +kernel

theorem test_decode_major_17 : tDecodes [
    (0b0010111_00101_00110_1_10001101000101#32, .bge 5 6 true 0x2345)] := by decide +kernel

theorem test_decode_major_18 : tDecodes [
    (0b0011000_00101_00110_1_10001101000101#32, .bltn 5 6 true 0x2345)] := by decide +kernel

theorem test_decode_major_19 : tDecodes [
    (0b0011001_00101_00110_1_10001101000101#32, .bgen 5 6 true 0x2345)] := by decide +kernel

theorem test_decode_major_1A : tDecodes [
    (0b0011010_00000_00101_1_00000011001000#32, .loop 5 true 200)] := by decide +kernel

theorem test_decode_major_1B : tDecodes [
    (0b0011011_0000000000000000000000000#32, .lbrk),
    (0b0011011_00100_00011_000000000000001#32, .lidx 4 3),
    (0b0011011_00100_00011_000000000000010#32, .lrem 4 3),
    (0b0011011_0000000000000000000000011#32, .lclr)] := by decide +kernel

theorem test_decode_major_20 : tDecodes [
    (0b0100000_00100_00101_1_01001000110100#32, .ldb 4 5 true 0x1234)] := by decide +kernel

theorem test_decode_major_21 : tDecodes [
    (0b0100001_00100_00101_1_01001000110100#32, .ldbn 4 5 true 0x1234)] := by decide +kernel

theorem test_decode_major_22 : tDecodes [
    (0b0100010_00100_00101_1_01001000110100#32, .ldh 4 5 true 0x1234)] := by decide +kernel

theorem test_decode_major_23 : tDecodes [
    (0b0100011_00100_00101_1_01001000110100#32, .ldhn 4 5 true 0x1234)] := by decide +kernel

theorem test_decode_major_24 : tDecodes [
    (0b0100100_00100_00101_1_01001000110100#32, .ldw 4 5 true 0x1234)] := by decide +kernel

theorem test_decode_major_25 : tDecodes [
    (0b0100101_00100_00101_1_01001000110100#32, .ldwn 4 5 true 0x1234)] := by decide +kernel

theorem test_decode_major_26 : tDecodes [
    (0b0100110_00100_00101_1_01001000110100#32, .ldd 4 5 true 0x1234)] := by decide +kernel

theorem test_decode_major_27 : tDecodes [
    (0b0100111_00100_00101_1_01001000110100#32, .stb 4 5 true 0x1234)] := by decide +kernel

theorem test_decode_major_28 : tDecodes [
    (0b0101000_00100_00101_1_01001000110100#32, .sth 4 5 true 0x1234)] := by decide +kernel

theorem test_decode_major_29 : tDecodes [
    (0b0101001_00100_00101_1_01001000110100#32, .stw 4 5 true 0x1234)] := by decide +kernel

theorem test_decode_major_2A : tDecodes [
    (0b0101010_00100_00101_1_01001000110100#32, .std 4 5 true 0x1234)] := by decide +kernel

theorem test_decode_major_2B : tDecodes [
    (0b0101011_00100_00101_1_00000000000_011#32, .ldbAcq 4 5 true 3),
    (0b0101011_00100_00101_1_00000000100_011#32, .ldbnAcq 4 5 true 3),
    (0b0101011_00100_00101_1_00000000001_011#32, .ldhAcq 4 5 true 3),
    (0b0101011_00100_00101_1_00000000101_011#32, .ldhnAcq 4 5 true 3),
    (0b0101011_00100_00101_1_00000000010_011#32, .ldwAcq 4 5 true 3),
    (0b0101011_00100_00101_1_00000000110_011#32, .ldwnAcq 4 5 true 3),
    (0b0101011_00100_00101_1_00000000011_011#32, .lddAcq 4 5 true 3),
    (0b0101011_00100_00101_1_00000001000_011#32, .stbRel 4 5 true 3),
    (0b0101011_00100_00101_1_00000001001_011#32, .sthRel 4 5 true 3),
    (0b0101011_00100_00101_1_00000001010_011#32, .stwRel 4 5 true 3),
    (0b0101011_00100_00101_1_00000001011_011#32, .stdRel 4 5 true 3)] := by decide +kernel

theorem test_decode_major_2C : tDecodes [
    (0b0101100_00100_00101_10_011_1_000000000#32, .amoSwapW 4 5 2 3 true),
    (0b0101100_00100_00101_10_011_1_000000001#32, .amoSwapD 4 5 2 3 true),
    (0b0101100_00100_00101_10_011_1_000000010#32, .amoCasW 4 5 2 3 true),
    (0b0101100_00100_00101_10_011_1_000000011#32, .amoCasD 4 5 2 3 true),
    (0b0101100_00100_00101_10_011_1_000000100#32, .amoAddW 4 5 2 3 true),
    (0b0101100_00100_00101_10_011_1_000000101#32, .amoAddD 4 5 2 3 true),
    (0b0101100_00100_00101_10_011_1_000000110#32, .amoAndW 4 5 2 3 true),
    (0b0101100_00100_00101_10_011_1_000000111#32, .amoAndD 4 5 2 3 true),
    (0b0101100_00100_00101_10_011_1_000001000#32, .amoOrW 4 5 2 3 true),
    (0b0101100_00100_00101_10_011_1_000001001#32, .amoOrD 4 5 2 3 true),
    (0b0101100_00100_00101_10_011_1_000001010#32, .amoXorW 4 5 2 3 true),
    (0b0101100_00100_00101_10_011_1_000001011#32, .amoXorD 4 5 2 3 true),
    (0b0101100_00100_00101_10_011_1_000001100#32, .amoMinW 4 5 2 3 true),
    (0b0101100_00100_00101_10_011_1_000001101#32, .amoMinD 4 5 2 3 true),
    (0b0101100_00100_00101_10_011_1_000001110#32, .amoMaxW 4 5 2 3 true),
    (0b0101100_00100_00101_10_011_1_000001111#32, .amoMaxD 4 5 2 3 true),
    (0b0101100_00100_00101_10_011_1_000010000#32, .amoMinnW 4 5 2 3 true),
    (0b0101100_00100_00101_10_011_1_000010001#32, .amoMinnD 4 5 2 3 true),
    (0b0101100_00100_00101_10_011_1_000010010#32, .amoMaxnW 4 5 2 3 true),
    (0b0101100_00100_00101_10_011_1_000010011#32, .amoMaxnD 4 5 2 3 true),
    (0b0101100_00100_00101_10_011_1_000010100#32, .amoFaddS 4 5 2 3 true),
    (0b0101100_00100_00101_10_011_1_000010101#32, .amoFmaxS 4 5 2 3 true),
    (0b0101100_00100_00101_10_011_1_000010110#32, .amoFminS 4 5 2 3 true)] := by decide +kernel

theorem test_decode_major_2D : tDecodes [
    (0b0101101_00011_00000000000000000000#32, .fenceRel 3),
    (0b0101101_00011_00000000000000000001#32, .fenceAcq 3),
    (0b0101101_00011_00000000000000000010#32, .fenceAr 3),
    (0b0101101_00011_00000000000000000011#32, .fenceSc 3),
    (0b0101101_0000000000000000001111111#32, .fenceAll)] := by decide +kernel

theorem test_decode_major_2E : tDecodes [
    (0b0101110_00000_00101_00110_1_0_00000000#32, .boltArm 5 6 true false),
    (0b0101110_00011_00101_00110_1_0_00000001#32, .boltArrive 3 5 6 true false),
    (0b0101110_00100_00101_00110_1_0_00000010#32, .boltWait 4 5 6 true false),
    (0b0101110_00100_00101_00000_1_000000011#32, .boltRd 4 5 true)] := by decide +kernel

theorem test_decode_major_2F : tDecodes [
    (0b0101111_00000_00101_1_01001000110100#32, .pfR 5 true 0x1234),
    (0b0101111_00001_00101_1_01001000110100#32, .pfS 5 true 0x1234),
    (0b0101111_00010_00101_1_01001000110100#32, .pfW 5 true 0x1234),
    (0b0101111_00011_00101_1_01001000110100#32, .pfDrop 5 true 0x1234)] := by decide +kernel

theorem test_decode_major_30 : tDecodes [
    (0b0110000_00100_00101_00110_1_0_00000000#32, .vsetvl 4 5 6 true false),
    (0b0110000_00100_00000_00110_0_1_00000001#32, .vsetvlmax 4 6 true),
    (0b0110000_00100_00101_0_1001_1_001_101_1_00#32, .vsetvli 4 5 9 true 5 true)] := by decide +kernel

theorem test_decode_major_31 : tDecodes [
    (0b0110001_00100_00101_00000_1_000000000#32, .vld 4 5 true),
    (0b0110001_00100_00101_00110_1_0_00010000#32, .vldX8 4 5 6 true false),
    (0b0110001_00100_00101_00110_1_0_00010001#32, .vldX16 4 5 6 true false),
    (0b0110001_00100_00101_00110_1_0_00010010#32, .vldX32 4 5 6 true false),
    (0b0110001_00100_00101_00110_1_0_00010011#32, .vldX 4 5 6 true false),
    (0b0110001_00100_00101_00110_1_0_00100000#32, .vldX8O 4 5 6 true false),
    (0b0110001_00100_00101_00110_1_0_00100001#32, .vldX16O 4 5 6 true false),
    (0b0110001_00100_00101_00110_1_0_00100010#32, .vldX32O 4 5 6 true false),
    (0b0110001_00100_00101_00110_1_0_00100011#32, .vldXO 4 5 6 true false),
    (0b0110001_00100_00101_00110_1_0_0011_011_0#32, .vldX32Acq 4 5 6 true false 3),
    (0b0110001_00100_00101_00110_1_0_0011_011_1#32, .vldXAcq 4 5 6 true false 3),
    (0b0110001_00100_00101_00110_1_0_0100_011_0#32, .vldX32OAcq 4 5 6 true false 3),
    (0b0110001_00100_00101_00110_1_0_0100_011_1#32, .vldXOAcq 4 5 6 true false 3),
    (0b0110001_00100_00101_00000_1_001010001#32, .vldsN2 4 5 true),
    (0b0110001_00100_00101_00000_1_001010010#32, .vldsN3 4 5 true),
    (0b0110001_00100_00101_00000_1_001010011#32, .vldsN4 4 5 true),
    (0b0110001_00100_00101_00000_1_001010100#32, .vldsN5 4 5 true),
    (0b0110001_00100_00101_00000_1_001010101#32, .vldsN6 4 5 true),
    (0b0110001_00100_00101_00000_1_001010110#32, .vldsN7 4 5 true),
    (0b0110001_00100_00101_00000_1_001010111#32, .vldsN8 4 5 true)] := by decide +kernel

theorem test_decode_major_32 : tDecodes [
    (0b0110010_00100_00101_00000_1_000000000#32, .vst 4 5 true),
    (0b0110010_00100_00101_00110_1_0_00010000#32, .vstX8 4 5 6 true false),
    (0b0110010_00100_00101_00110_1_0_00010001#32, .vstX16 4 5 6 true false),
    (0b0110010_00100_00101_00110_1_0_00010010#32, .vstX32 4 5 6 true false),
    (0b0110010_00100_00101_00110_1_0_00010011#32, .vstX 4 5 6 true false),
    (0b0110010_00100_00101_00110_1_0_00100000#32, .vstX8O 4 5 6 true false),
    (0b0110010_00100_00101_00110_1_0_00100001#32, .vstX16O 4 5 6 true false),
    (0b0110010_00100_00101_00110_1_0_00100010#32, .vstX32O 4 5 6 true false),
    (0b0110010_00100_00101_00110_1_0_00100011#32, .vstXO 4 5 6 true false),
    (0b0110010_00100_00101_00000_1_001010001#32, .vstsN2 4 5 true),
    (0b0110010_00100_00101_00000_1_001010010#32, .vstsN3 4 5 true),
    (0b0110010_00100_00101_00000_1_001010011#32, .vstsN4 4 5 true),
    (0b0110010_00100_00101_00000_1_001010100#32, .vstsN5 4 5 true),
    (0b0110010_00100_00101_00000_1_001010101#32, .vstsN6 4 5 true),
    (0b0110010_00100_00101_00000_1_001010110#32, .vstsN7 4 5 true),
    (0b0110010_00100_00101_00000_1_001010111#32, .vstsN8 4 5 true)] := by decide +kernel

theorem test_decode_major_33 : tDecodes [
    (0b0110011_00000_00101_00000_1_000000000#32, .vldscSca 5 true),
    (0b0110011_00000_00101_00000_1_000000001#32, .vldscScb 5 true),
    (0b0110011_00100_00101_00110_1_0_00000010#32, .vstbm 4 5 6 true false),
    (0b0110011_00100_00101_00000_1_000000011#32, .vldbm 4 5 true),
    (0b0110011_00000_00101_00000_1_000000100#32, .vpfR 5 true),
    (0b0110011_00000_00101_00000_1_000000101#32, .vpfS 5 true),
    (0b0110011_00000_00101_00110_1_0_00000110#32, .vpfRX32 5 6 true false),
    (0b0110011_00000_00101_00110_1_0_00000111#32, .vpfRX 5 6 true false),
    (0b0110011_00100_00101_00110_1_0_0100_1_011#32, .vhaccX32 4 5 6 true false true 3),
    (0b0110011_00100_00101_00110_1_0_0101_1_011#32, .vhaccX 4 5 6 true false true 3),
    (0b0110011_00100_00101_00110_1_0_0110_1_011#32, .vscaddX32 4 5 6 true false true 3),
    (0b0110011_00100_00101_00110_1_0_0111_1_011#32, .vscaddX 4 5 6 true false true 3)] := by decide +kernel

theorem test_decode_major_34_0 : tDecodes [
    (0b0110100_00100_00101_00110_1_0_1_0000000#32, .vadd 4 5 6 true false true),
    (0b0110100_00100_00101_00110_1_0_1_1000000#32, .vaddVs 4 5 6 true false true),
    (0b0110100_00100_00101_00110_1_0_1_0000001#32, .vsub 4 5 6 true false true),
    (0b0110100_00100_00101_00110_1_0_1_1000001#32, .vsubVs 4 5 6 true false true),
    (0b0110100_00100_00101_00110_1_0_1_0000010#32, .vrsub 4 5 6 true false true),
    (0b0110100_00100_00101_00110_1_0_1_1000010#32, .vrsubVs 4 5 6 true false true),
    (0b0110100_00100_00101_00110_1_0_1_0000011#32, .vmul 4 5 6 true false true),
    (0b0110100_00100_00101_00110_1_0_1_1000011#32, .vmulVs 4 5 6 true false true),
    (0b0110100_00100_00101_00110_1_0_00000100#32, .vmulh 4 5 6 true false),
    (0b0110100_00100_00101_00110_1_0_01000100#32, .vmulhVs 4 5 6 true false),
    (0b0110100_00100_00101_00110_1_0_00000101#32, .vdiv 4 5 6 true false),
    (0b0110100_00100_00101_00110_1_0_01000101#32, .vdivVs 4 5 6 true false),
    (0b0110100_00100_00101_00110_1_0_00000110#32, .vrem 4 5 6 true false),
    (0b0110100_00100_00101_00110_1_0_01000110#32, .vremVs 4 5 6 true false),
    (0b0110100_00100_00101_00110_1_0_00000111#32, .vmin 4 5 6 true false),
    (0b0110100_00100_00101_00110_1_0_01000111#32, .vminVs 4 5 6 true false),
    (0b0110100_00100_00101_00110_1_0_00001000#32, .vmax 4 5 6 true false),
    (0b0110100_00100_00101_00110_1_0_01001000#32, .vmaxVs 4 5 6 true false),
    (0b0110100_00100_00101_00110_1_0_00001001#32, .vand 4 5 6 true false),
    (0b0110100_00100_00101_00110_1_0_01001001#32, .vandVs 4 5 6 true false),
    (0b0110100_00100_00101_00110_1_0_00001010#32, .vor 4 5 6 true false),
    (0b0110100_00100_00101_00110_1_0_01001010#32, .vorVs 4 5 6 true false),
    (0b0110100_00100_00101_00110_1_0_00001011#32, .vxor 4 5 6 true false),
    (0b0110100_00100_00101_00110_1_0_01001011#32, .vxorVs 4 5 6 true false),
    (0b0110100_00100_00101_00110_1_0_1_0001100#32, .vsll 4 5 6 true false true),
    (0b0110100_00100_00101_00110_1_0_1_1001100#32, .vsllVs 4 5 6 true false true),
    (0b0110100_00100_00101_00110_1_0_00001101#32, .vsrl 4 5 6 true false),
    (0b0110100_00100_00101_00110_1_0_01001101#32, .vsrlVs 4 5 6 true false),
    (0b0110100_00100_00101_00110_1_0_00001110#32, .vsra 4 5 6 true false),
    (0b0110100_00100_00101_00110_1_0_01001110#32, .vsraVs 4 5 6 true false)] := by decide +kernel

theorem test_decode_major_34_1 : tDecodes [
    (0b0110100_00100_00101_00110_1_0_00010000#32, .vmseq 4 5 6 true false),
    (0b0110100_00100_00101_00110_1_0_01010000#32, .vmseqVs 4 5 6 true false),
    (0b0110100_00100_00101_00110_1_0_00010001#32, .vmsne 4 5 6 true false),
    (0b0110100_00100_00101_00110_1_0_01010001#32, .vmsneVs 4 5 6 true false),
    (0b0110100_00100_00101_00110_1_0_00010010#32, .vmslt 4 5 6 true false),
    (0b0110100_00100_00101_00110_1_0_01010010#32, .vmsltVs 4 5 6 true false),
    (0b0110100_00100_00101_00110_1_0_00010011#32, .vmsle 4 5 6 true false),
    (0b0110100_00100_00101_00110_1_0_01010011#32, .vmsleVs 4 5 6 true false),
    (0b0110100_00100_00101_00110_1_0_00010100#32, .vmsgt 4 5 6 true false),
    (0b0110100_00100_00101_00110_1_0_01010100#32, .vmsgtVs 4 5 6 true false),
    (0b0110100_00100_00101_00110_1_0_1_0011000#32, .vmacc 4 5 6 true false true),
    (0b0110100_00100_00101_00110_1_0_1_1011000#32, .vmaccVs 4 5 6 true false true)] := by decide +kernel

theorem test_decode_major_35 : tDecodes [
    (0b0110101_00100_00101_00110_1_0_00000000#32, .vwadd 4 5 6 true false),
    (0b0110101_00100_00101_00110_1_0_01000000#32, .vwaddVs 4 5 6 true false),
    (0b0110101_00100_00101_00110_1_0_00000001#32, .vwsub 4 5 6 true false),
    (0b0110101_00100_00101_00110_1_0_01000001#32, .vwsubVs 4 5 6 true false),
    (0b0110101_00100_00101_00110_1_0_00000010#32, .vwmul 4 5 6 true false),
    (0b0110101_00100_00101_00110_1_0_01000010#32, .vwmulVs 4 5 6 true false),
    (0b0110101_00100_00101_00110_1_0_1_0000011#32, .vwmacc 4 5 6 true false true),
    (0b0110101_00100_00101_00110_1_0_1_1000011#32, .vwmaccVs 4 5 6 true false true),
    (0b0110101_00100_00101_00110_1_0_1_0001000#32, .vnsrl 4 5 6 true false true),
    (0b0110101_00100_00101_00110_1_0_1_1001000#32, .vnsrlVs 4 5 6 true false true),
    (0b0110101_00100_00101_00110_1_0_1_0001001#32, .vnsra 4 5 6 true false true),
    (0b0110101_00100_00101_00110_1_0_1_1001001#32, .vnsraVs 4 5 6 true false true),
    (0b0110101_00100_00101_00110_1_0_1_0010000#32, .vsadd 4 5 6 true false true),
    (0b0110101_00100_00101_00110_1_0_1_1010000#32, .vsaddVs 4 5 6 true false true),
    (0b0110101_00100_00101_00110_1_0_1_0010001#32, .vssub 4 5 6 true false true),
    (0b0110101_00100_00101_00110_1_0_1_1010001#32, .vssubVs 4 5 6 true false true),
    (0b0110101_00100_00101_00110_1_0_00010010#32, .vaadd 4 5 6 true false),
    (0b0110101_00100_00101_00110_1_0_01010010#32, .vaaddVs 4 5 6 true false),
    (0b0110101_00100_00101_00110_1_0_00010011#32, .vasub 4 5 6 true false),
    (0b0110101_00100_00101_00110_1_0_01010011#32, .vasubVs 4 5 6 true false),
    (0b0110101_00100_00101_00110_1_0_1_0010100#32, .vsmul 4 5 6 true false true),
    (0b0110101_00100_00101_00110_1_0_1_1010100#32, .vsmulVs 4 5 6 true false true),
    (0b0110101_00100_00101_00110_1_0_00010101#32, .vssrl 4 5 6 true false),
    (0b0110101_00100_00101_00110_1_0_01010101#32, .vssrlVs 4 5 6 true false),
    (0b0110101_00100_00101_00110_1_0_00010110#32, .vssra 4 5 6 true false),
    (0b0110101_00100_00101_00110_1_0_01010110#32, .vssraVs 4 5 6 true false)] := by decide +kernel

theorem test_decode_major_36 : tDecodes [
    (0b0110110_00100_00101_00110_1_0_1_0000000#32, .vfadd 4 5 6 true false true),
    (0b0110110_00100_00101_00110_1_0_1_1000000#32, .vfaddVs 4 5 6 true false true),
    (0b0110110_00100_00101_00110_1_0_1_0000001#32, .vfsub 4 5 6 true false true),
    (0b0110110_00100_00101_00110_1_0_1_1000001#32, .vfsubVs 4 5 6 true false true),
    (0b0110110_00100_00101_00110_1_0_1_0000010#32, .vfmul 4 5 6 true false true),
    (0b0110110_00100_00101_00110_1_0_1_1000010#32, .vfmulVs 4 5 6 true false true),
    (0b0110110_00100_00101_00110_1_0_1_0000011#32, .vfdiv 4 5 6 true false true),
    (0b0110110_00100_00101_00110_1_0_1_1000011#32, .vfdivVs 4 5 6 true false true),
    (0b0110110_00100_00101_00000_1_0_1_0000100#32, .vfsqrt 4 5 true true),
    (0b0110110_00100_00101_00110_1_0_1_0000101#32, .vfmac 4 5 6 true false true),
    (0b0110110_00100_00101_00110_1_0_1_1000101#32, .vfmacVs 4 5 6 true false true),
    (0b0110110_00100_00101_00110_1_0_1_0000110#32, .vfnmac 4 5 6 true false true),
    (0b0110110_00100_00101_00110_1_0_1_1000110#32, .vfnmacVs 4 5 6 true false true),
    (0b0110110_00100_00101_00110_1_0_1_0000111#32, .vfmin 4 5 6 true false true),
    (0b0110110_00100_00101_00110_1_0_1_1000111#32, .vfminVs 4 5 6 true false true),
    (0b0110110_00100_00101_00110_1_0_1_0001000#32, .vfmax 4 5 6 true false true),
    (0b0110110_00100_00101_00110_1_0_1_1001000#32, .vfmaxVs 4 5 6 true false true),
    (0b0110110_00100_00101_00000_1_0_1_0001001#32, .vfneg 4 5 true true),
    (0b0110110_00100_00101_00000_1_0_1_0001010#32, .vfabs 4 5 true true),
    (0b0110110_00100_00101_00000_1_0_1_0001011#32, .vfclass 4 5 true true),
    (0b0110110_00100_00101_00110_1_0_1_0010000#32, .vmfeq 4 5 6 true false true),
    (0b0110110_00100_00101_00110_1_0_1_1010000#32, .vmfeqVs 4 5 6 true false true),
    (0b0110110_00100_00101_00110_1_0_1_0010001#32, .vmflt 4 5 6 true false true),
    (0b0110110_00100_00101_00110_1_0_1_1010001#32, .vmfltVs 4 5 6 true false true),
    (0b0110110_00100_00101_00110_1_0_1_0010010#32, .vmfle 4 5 6 true false true),
    (0b0110110_00100_00101_00110_1_0_1_1010010#32, .vmfleVs 4 5 6 true false true)] := by decide +kernel

theorem test_decode_major_37 : tDecodes [
    (0b0110111_00100_00101_00000_1_0_1_0000000#32, .vfrec 4 5 true true),
    (0b0110111_00100_00101_00000_1_0_1_0000001#32, .vfrsq 4 5 true true),
    (0b0110111_00100_00101_00000_1_0_1_001_1001#32, .vcvt 4 5 true true 9),
    (0b0110111_00100_00101_00110_1_0_1_0100000#32, .vfdot 4 5 6 true false true),
    (0b0110111_00100_00101_00110_1_0_1_0100001#32, .vdot 4 5 6 true false true),
    (0b0110111_00100_00101_00000_1_0_1_0110_01_1#32, .vbq 4 5 true true 1 true),
    (0b0110111_00100_00101_00000_1_0_1_1111110#32, .vfreca 4 5 true true),
    (0b0110111_00100_00101_00000_1_0_1_1111111#32, .vfrsqa 4 5 true true)] := by decide +kernel

theorem test_decode_major_38 : tDecodes [
    (0b0111000_00100_00101_00000_1_000000000#32, .vmv 4 5 true),
    (0b0111000_00100_00101_00110_1_0_00000001#32, .vmerge 4 5 6 true false),
    (0b0111000_00100_00101_00000_1_000000010#32, .vbcast 4 5 true),
    (0b0111000_00100_00101_00110_1_0_00000011#32, .vext 4 5 6 true false),
    (0b0111000_00100_00101_00110_1_0_00000100#32, .vins 4 5 6 true false),
    (0b0111000_00100_00101_00110_1_0_00001000#32, .vslideup 4 5 6 true false),
    (0b0111000_00100_00101_00110_1_0_00001001#32, .vslidedn 4 5 6 true false),
    (0b0111000_00100_00101_00110_1_0_00001010#32, .vperm 4 5 6 true false),
    (0b0111000_00100_00101_00000_1_000001100#32, .vcpvl 4 5 true),
    (0b0111000_00100_00101_00000_1_000010000#32, .vxrd 4 5 true),
    (0b0111000_00000_00101_00110_1_0_00010001#32, .vxwr 5 6 true false)] := by decide +kernel

theorem test_decode_major_39 : tDecodes [
    (0b0111001_00100_00101_00110_1_0_00000000#32, .vredsum 4 5 6 true false),
    (0b0111001_00100_00101_00110_1_0_00000001#32, .vredmin 4 5 6 true false),
    (0b0111001_00100_00101_00110_1_0_00000010#32, .vredmax 4 5 6 true false),
    (0b0111001_00100_00101_00110_1_0_00000011#32, .vredand 4 5 6 true false),
    (0b0111001_00100_00101_00110_1_0_00000100#32, .vredor 4 5 6 true false),
    (0b0111001_00100_00101_00110_1_0_00000101#32, .vredxor 4 5 6 true false),
    (0b0111001_00100_00101_00110_1_0_00001000#32, .vfredsum 4 5 6 true false),
    (0b0111001_00100_00101_00110_1_0_00001001#32, .vfredo 4 5 6 true false),
    (0b0111001_00100_00101_00110_1_0_00001010#32, .vfredmin 4 5 6 true false),
    (0b0111001_00100_00101_00110_1_0_00001011#32, .vfredmax 4 5 6 true false)] := by decide +kernel

theorem test_decode_major_3A : tDecodes [
    (0b0111010_00100_00101_00110_0000000000#32, .kand 4 5 6),
    (0b0111010_00100_00101_00110_0000000001#32, .kor 4 5 6),
    (0b0111010_00100_00101_00110_0000000010#32, .kxor 4 5 6),
    (0b0111010_00100_00101_00110_0000000011#32, .kandn 4 5 6),
    (0b0111010_00100_00101_000000000000100#32, .knot 4 5),
    (0b0111010_00100_00101_000000000000101#32, .kmov 4 5),
    (0b0111010_00100_00000000000000000110#32, .kset 4),
    (0b0111010_00100_00000000000000000111#32, .kclr 4),
    (0b0111010_00100_00101_000000000010000#32, .kpop 4 5),
    (0b0111010_00100_00101_000000000010001#32, .kfirst 4 5),
    (0b0111010_00100_00101_000000000010010#32, .kiota 4 5),
    (0b0111010_00100_00101_00000_1_000010011#32, .kfromv 4 5 true),
    (0b0111010_00100_00101_000000000010100#32, .ktov 4 5)] := by decide +kernel

theorem test_decode_major_3B : tDecodes [
    (0b0111011_00100_00011_000000000000000#32, .vsplit 4 3),
    (0b0111011_0000000000000000000000001#32, .vjoin),
    (0b0111011_00011_00101_00110_1_0_00001000#32, .xsend 3 5 6 true false),
    (0b0111011_00100_00000000000000001001#32, .xrecv 4),
    (0b0111011_00100_00101_00110_1_0_00010000#32, .vcapp 4 5 6 true false)] := by decide +kernel

theorem test_decode_major_3C : tDecodes [
    (0b0111100_00100_00101_00110_1_0_00000000#32, .sadd 4 5 6 true false),
    (0b0111100_00100_00101_00110_1_0_00000001#32, .smul 4 5 6 true false),
    (0b0111100_00100_00101_00110_1_0_00000010#32, .sdot 4 5 6 true false),
    (0b0111100_00100_00101_00110_1_0_00000011#32, .sld 4 5 6 true false),
    (0b0111100_00100_00101_00000_1_000000100#32, .sst 4 5 true),
    (0b0111100_00100_00101_00110_1_0_00000101#32, .sexp 4 5 6 true false),
    (0b0111100_00100_00101_00110_1_0_00000110#32, .scmp 4 5 6 true false)] := by decide +kernel

theorem test_decode_major_3D : tDecodes [
    (0b0111101_00100_00101_00110_1_0_00000000#32, .vfmacv 4 5 6 true false),
    (0b0111101_00100_00101_00110_1_0_00000001#32, .vbound 4 5 6 true false),
    (0b0111101_000_10_00101_00000_1_000000010#32, .vtraise 2 5 true),
    (0b0111101_00100_00101_00000_1_000000011#32, .vfabr 4 5 true)] := by decide +kernel

theorem test_decode_major_40 : tDecodes [
    (0b1000000_00000_00101_00000_1_000000000#32, .zon 5 true),
    (0b1000000_0000000000000000000000001#32, .zoff),
    (0b1000000_00100_00000000000000000010#32, .zzero 4),
    (0b1000000_00100_00101_00110_1_0_00001000#32, .zmop 4 5 6 true false),
    (0b1000000_00100_00101_00110_1_0_00001001#32, .zmopb 4 5 6 true false),
    (0b1000000_00100_00101_00110_1_0_00001010#32, .zmopv 4 5 6 true false),
    (0b1000000_00100_00101_00000_1_000001011#32, .zbnd 4 5 true),
    (0b1000000_00100_00101_000000000001100#32, .zabn 4 5),
    (0b1000000_00100_00101_00110_0_1_00010000#32, .zrd 4 5 6 true),
    (0b1000000_00100_00101_00110_0_1_00010001#32, .zcd 4 5 6 true),
    (0b1000000_00100_00101_00110_1_0_00010010#32, .zwr 4 5 6 true false),
    (0b1000000_00100_01011_000000000010100#32, .zswap 4 11)] := by decide +kernel

theorem test_decode_major_41 : tDecodes [
    (0b1000001_00100_00101_00000_1_000000000#32, .zldS 4 5 true),
    (0b1000001_00100_00101_00000_1_000000001#32, .zstS 4 5 true),
    (0b1000001_00100_00101_00110_1_0_00000010#32, .zldX32 4 5 6 true false),
    (0b1000001_00100_00101_00110_1_0_00000011#32, .zldX 4 5 6 true false),
    (0b1000001_00100_00101_00110_1_0_00000100#32, .zstX32 4 5 6 true false),
    (0b1000001_00100_00101_00110_1_0_00000101#32, .zstX 4 5 6 true false),
    (0b1000001_00100_00101_00000_1_000001000#32, .zldSShadow 4 5 true),
    (0b1000001_00100_00101_00000_1_000001001#32, .zstSShadow 4 5 true),
    (0b1000001_00100_00101_00110_1_0_00001010#32, .zldX32Shadow 4 5 6 true false),
    (0b1000001_00100_00101_00110_1_0_00001011#32, .zldXShadow 4 5 6 true false),
    (0b1000001_00100_00101_00110_1_0_00001100#32, .zstX32Shadow 4 5 6 true false),
    (0b1000001_00100_00101_00110_1_0_00001101#32, .zstXShadow 4 5 6 true false)] := by decide +kernel

theorem test_decode_major_42 : tDecodes [
    (0b1000010_00100_00101_00000_1_000000000#32, .cpy 4 5 true),
    (0b1000010_00100_00101_00110_1_0_00000001#32, .cpym 4 5 6 true false),
    (0b1000010_00100_00101_00000_1_000001000#32, .gsub 4 5 true),
    (0b1000010_00100_00101_00000_1_000001001#32, .dlaunch 4 5 true),
    (0b1000010_00100_00101_00000_1_000010000#32, .frmDec 4 5 true),
    (0b1000010_00100_00101_00000_1_000010001#32, .frmRsz 4 5 true),
    (0b1000010_00100_00101_00000_1_000011000#32, .fcv 4 5 true)] := by decide +kernel

theorem test_decode_major_43 : tDecodes [
    (0b1000011_0000000000000000000000001#32, .barCr),
    (0b1000011_0000000000000000000000010#32, .barQd),
    (0b1000011_0000000000000000000000011#32, .barDi),
    (0b1000011_0000000000000000000000100#32, .barPk),
    (0b1000011_0000000000000000000000101#32, .barPd)] := by decide +kernel

theorem test_decode_major_44 : tDecodes [
    (0b1000100_00100_00101_00110_1_0_00000000#32, .shist 4 5 6 true false),
    (0b1000100_00100_00000000000000000001#32, .shcnt 4),
    (0b1000100_00100_00101_00110_1_0_00000010#32, .trrd 4 5 6 true false),
    (0b1000100_00100_00000000000000000100#32, .vtrim 4)] := by decide +kernel

/-! ## Small states -/

/-- One bound sequencer on core 0 with a handler, its thread at 0x10000. -/
def tBase : State := { State.reset with
  seqs := [(0, { bound := some ⟨0, 0, 0⟩, groups := 15, tvec := 0x5000 })],
  threads := [(0, { pc := 0x10000, ir := 0x08000000 })] }

/-- The same with `s1` to `s3` set. -/
def tRegs (x y z : Word) : State := tBase.setTh (((tBase.th.setX 1 x).setX 2 y).setX 3 z)

/-- At supervisor level, with a saved status and position. -/
def tSup (st pc : Word) : State :=
  let s := tRegs 7 8 9
  s.setTh { s.th with level := .supervisor, tstat := st, tpc := pc }

/-- `s1` empty, events latched, NEST set. -/
def tEmpty : State :=
  let s := tRegs 7 8 9
  s.setTh { s.th with xempty := 2, latch := 5, tstat := 32 }

/-- Loops open to a depth; all bodies end at the thread's word. -/
def tLoops (dep : Nat) (x count : Word) : State :=
  let s := tRegs x 7 9
  s.setTh { s.th with
    ldepth := BitVec.ofNat 64 dep, lecnt := [(0, 3), (1, count), (2, 0)],
    leend := [(0, 0x10000), (1, 0x10000), (2, 0x10000), (5, 0x10020)],
    lebeg := [(0, 0xFF00), (1, 0x10000), (2, 0xFFF0)], leidx := [(1, 5)] }

/-- A `wfe` that waits with a limit: d = 3, a = 1. -/
def tWfe : State :=
  let s := tRegs 7 8 9
  s.setTh { s.th with latch := 2, wait := .wfe true, ir := 0x02300004#32 ||| (1#32 <<< 15) }

/-- Tables for four pages from 0x10000: HBM at the same address; host memory at 0; the registers of die 0; and HBM at
0x8000 with A and D clear. -/
def tTables : List Host.Cell :=
  cellsAt 0x1000 (bytesOfNat 2 0x801) ++ cellsAt 0x2000 (bytesOfNat 2 0xC01) ++ cellsAt 0x3000 (bytesOfNat 2 0x1001) ++
  cellsAt 0x4000 (bytesOfNat 2 0x1401) ++ cellsAt 0x5080 (bytesOfNat 8 0x40DF) ++
  cellsAt 0x5088 (bytesOfNat 8 (0x800000000 * 1024 + 0xDF)) ++
  cellsAt 0x5090 (bytesOfNat 8 (0x20000000 * 1024 + 0xDF + 2 ^ 62)) ++ cellsAt 0x5098 (bytesOfNat 8 (8 * 1024 +
    0x1F)) ++
  cellsAt 0x10000 (bytesOfNat 4 0x02000000) ++
  cellsAt 0x10080 (bytesOfNat 48 0x9FA0F1F2F3F4F5F6F7F8F9FAFBFC01FDFE7F800000000001)

/-- The root of those tables. -/
def tDxp : Word := 0xA000000000000001

/-- The module ready, those tables in place, every feature on, `s1` to `s5` set. -/
def tMem (x y z : Word) : State :=
  let s : State := { tBase with
    mem := memPutAll [] tTables, host := memPutAll [] (cellsAt 0x10 (bytesOfNat 4 0x0C0B0A09)),
    slot0 := { loaded := true, key := 7 }, ready := true, featuse := 0xFFFFFFFF,
    contexts := [(0, { v := true, dxp := tDxp })],
    seqs := [(0, { bound := some ⟨0, 0, 0⟩, groups := 15, tvec := 0x5000, dxp := tDxp })] }
  s.setTh (((((s.th.setX 1 x).setX 2 y).setX 3 z).setX 4 0x55).setX 5 0x66)

/-- Bytes stored in module memory. -/
def tPut (s : State) (pa : Nat) (bs : List Byte) : State := { s with mem := memPutAll s.mem (cellsAt pa bs) }

/-- Where an access goes that sets no bit. -/
def tAt (s : State) (a : Acc) (va : Word) : Target := (s.targetOf a va).getD ⟨0, 0, 0, .hole⟩

def tBits : BitVec 32768 := 0xC0490FDB3F800000BF80000000000000FF8000007F8000000000000180000000FEDCBA9876543210
def tBytes : BitVec 32768 := 0x0000000000000010000000000000000000000000000000180000000000000008
def tWords : BitVec 32768 := 0x000000100000001800000008000000000000000000000020

/-- Vector registers and masks set, an element type, `vl` and `vstart` given, index vector `i` in `v2`. -/
def tVec (et vl st : Nat) (x y : Word) (stride : Nat) (i : BitVec 32768) : State :=
  let s := tMem x y 3
  s.setTh { s.th with
    vtype := BitVec.ofNat 64 (et + 384), vl := BitVec.ofNat 64 vl, vstart := BitVec.ofNat 64 st,
    vstride := BitVec.ofNat 64 stride, vmsk := 0x200, k := [(0, 0x5B7), (3, 0x13)], sca := 0x7E817F80, scb :=
      0xFF807F7E, ftrap := 0,
    vdecl := s.th.vdecl ||| (3 <<< 14), qlen := [(0, 4), (1, 3)],
    v := [(1, { bits := tBits, vb := 64 }), (2, { bits := i, vb := 64 }), (4, { bits := tWords + tBits, vb := 16 }),
      (16, { bits := 0x5000000040000000200000001, vb := 16 }), (17, { bits := 0x400000003F80000040000000FFFFFFFF, vb
        := 16 }),
      (18, { bits := 0x8000000050000000300000002, vb := 16 }), (19, { bits := 0x3F8000003F8000007FFFFFFF40400000, vb
        := 16 }),
      (20, { bits := 1 }), (33, { bits := 0x55, vb := 8 })] }

/-- One active element, at `vstart`. -/
def tOne (et st : Nat) (i : BitVec 32768) : State := tVec et (st + 1) st 0x10080 3 0 i

/-- Where the header of the queues below is. -/
def tHead : Head := ⟨0x10080, 0⟩

/-- A queue header at 0x10080 with 64 entries of 4 bytes at 0x10000. -/
def tQueue (tail head resv free : Nat) (closed : Bool) : State :=
  tPut (tVec 6 4 0 0x10080 2 0 tBytes) 0x10080 (bytesOfNat 8 (tail * 2 ^ 32 + head) ++ bytesOfNat 8 (resv * 2 ^ 32 +
    free) ++
    bytesOfNat 8 ((if closed then 2 ^ 63 else 0) + 2 * 2 ^ 56 + 6 * 2 ^ 32 + 2) ++ bytesOfNat 8 0x10000 ++ bytesOfNat
      8 0)

/-- That header's access. -/
def tHeadAcc : Acc := ⟨6, true, true, false, false, true, 64⟩

/-- Lanes split for threads. -/
def tLanes : State :=
  let s := tVec 6 4 0 3 4 0 tBytes
  s.setTh { s.th with pend := [] }

/-- A state an instruction leaves. -/
def tNext (o : Host.Outcome State Fault Refusal) : State :=
  match o with
  | .next t => t
  | _ => State.reset

/-- Tiles on, the weight buffer filled. -/
def tTile (et vl : Nat) (x y : Word) : State :=
  let s := tVec et vl 0 x y 16 tBytes
  let q := { s.sq with zon := true, zn := 40, wbuf := memPutAll [] (cellsAt 0 ([3, 0, 0, 0, 0x80, 0x3F] ++
    List.replicate 32 0)) }
  (s.setSq (q.setTile 4 (Tile.zeroed.setZ 0 0x3F80000040000000))).setTh { s.th with vmsk := 0x230, k := [(0, 0x5B7),
    (1, 3)] }

/-- A copy descriptor of one element. -/
def tCopyDesc (src dst esz : Nat) : List Byte :=
  bytesOfNat 8 src ++ bytesOfNat 8 dst ++ bytesOfNat 8 (esz * 2 ^ 58 + 2 ^ 55) ++ bytesOfNat 8 0 ++ bytesOfNat 8 1 ++
    bytesOfNat 88 0

/-- A command of sequencer 0 with ticket register `s6`. -/
def tCommand (kind : Nat) (desc : List Byte) (code : Option Nat) (done : Nat) (follow : Word) (due : Bool) : Command :=
  { id := 77, kind, desc, seq := some 0, thr := 0, ticket := 6, pc := 0x100, front := 0, dxp := tDxp, level := .program,
    ctx := 0, follow, frm := 0, queue := none, node := none, done, code, followDue := due, pagerStage := 0, fault :=
      none,
    record := 0, cap := 0, wrote := 0, past := [] }

/-- A unit with that command at the head of its queue. -/
def tUnit (u : Nat) (c : Command) : State :=
  let s := (tTile 10 3 0x10100 0x2000000000000000).setUnitQueue u [c]
  s.setTh { s.th with pend := [.ticket 6 77], xempty := 64 }

/-- A compressed form of `v4` (Table 12.12). -/
def tForm (s : State) : List (Word × List Byte) :=
  let st := (List.range s.th.vlN).filter fun i => s.th.active i && !isZeroElem s.th.etype (elemAt s.th.ew (s.vbits 4) i)
  let c := (s.th.vlN + 63) / 64
  let l : List (Nat × List Byte) := (0, bytesOfNat 8 (s.th.vlN + 65536 * st.length)) :: (List.range c).map (fun j =>
    (8 + 8 * j, bytesOfNat 8 (st.foldl (fun r i => r + 2 ^ i) 0 / 2 ^ (64 * j)))) ++
    st.zipIdx.map fun p => (8 + 8 * c + p.2 * (s.th.ew / 8), bytesOfNat (s.th.ew / 8) (elemAt s.th.ew (s.vbits 4) p.1))
  l.map fun p => (s.gx 1 + BitVec.ofNat 64 p.1, p.2)

/-- A hash table of 16 slots at 0x10400, its descriptor at 0x10080, key 8's slot holding a key. -/
def tHash (occ key : Nat) : State :=
  tPut (tPut (tVec 7 1 0 0x10080 16 0 tBytes) 0x10080
    (bytesOfNat 8 0x10400 ++ bytesOfNat 8 4 ++ bytesOfNat 8 occ ++ bytesOfNat 8 10))
    (0x10400 + 16 * (8 * 0x9E3779B97F4A7C15 % 2 ^ 64 / 2 ^ 60)) (bytesOfNat 8 key ++ bytesOfNat 8 77)

/-- Four threads, of which three wait at `vjoin`; or two, none of which does. -/
def tJoin (last : Bool) : State :=
  let s := tNext (execVsplit 4 (if last then 4 else 2) tLanes)
  let s := (List.range 4).foldl (fun s i => if last then s.setThread 0 i { s.thread 0 i with wait := .join } else s) s
  let s : State := { s with cur := ⟨0, if last then 3 else 0⟩ }
  s.setTh { s.th with wait := .none }

/-- A second sequencer of the launch whose `v3` is empty, and an `xsend v3, s1, v2` that waits for it. -/
def tPeers : State :=
  let s := tVec 6 4 0 1 4 0 tBytes
  let s : State := { s with seqs := s.seqs ++ [(4, { bound := some ⟨0, 0, 0⟩, groups := 15 })] }
  let s := s.setDie 0 { s.die 0 with lcmap := 0xF }
  let s := s.setThread 4 0 { v := [(3, { bits := 5, empty := true })] }
  s.setTh { s.th with wait := .peer, ir := 0 ||| (3#32 <<< 20) ||| (1#32 <<< 15) ||| (2#32 <<< 10) }

/-- An append over nine elements whose active ones are the bits of `m`, to an empty queue whose reservations have
  gone round once. -/
def tAppend (m : Nat) : State :=
  let s := tQueue 64 64 64 64 false
  s.setTh { s.th with vmsk := 0x201, k := [(1, BitVec.ofNat 4096 m)], vl := 9 }

/-- Verdicts under way: kind 1, bounds in `v7`, the sum in `v4` as given. -/
def tVerdict (sum : Nat) : State :=
  let s := tVec 10 6 0 5 7 0 tBytes
  s.setTh { s.th with
    vverd := 0x71, ftrap := 0, vt := [(1, 0x40000000)],
    v := [(1, { bits := tBits, vb := 64 }), (4, { bits := BitVec.ofNat 32768 sum, vb := 16 })] }

/-- A matrix step's state: a type, and the address of B in the weight buffer. -/
def tZ (et : Nat) (b : Word) : State :=
  let s := tTile et 3 1 b
  s.setTh { s.th with ftrap := 0 }
def tStream (s : State) : List Nat × Nat :=
  match expandStream s.sq.wbuf s.sq.wbufSize (s.th.ew / 8) (4 * kDepth s.th.etype) (s.gx 2).toNat with
  | .ok r => r
  | .error n => ([], n)

/-- Rows of a tile 16 bytes apart at 0x10080, two columns active; the state after a store of tile `k`. -/
def tTileMem (i : BitVec 32768) : State :=
  let s := tTile 10 3 0x10080 3
  s.setTh { s.th with v := [(1, { bits := tBits, vb := 64 }), (2, { bits := i, vb := 64 })] }
def tDrainList (s : State) (f : Form) (k : Nat) : Option State :=
  s.putList 9 (((List.range 128).filter fun r => decide (s.th.touched r)).flatMap fun r =>
    ((List.range 128).filter s.th.cactive).map fun c =>
      ((match f with
        | .indexed xw => s.gx 1 + BitVec.ofNat 64 (elemAt xw (s.vbits 2) r)
        | _ => s.gx 1 + BitVec.ofNat 64 r * (if s.th.vstride ≠ 0 then s.th.vstride else 512)) + BitVec.ofNat 64 (4 * c),
        bytesOfNat 4 (elemAt 32 ((s.sq.tileAt k).zrow r) c)))
def tDrain (s : State) (f : Form) (k : Nat) : State := (tDrainList s f k).getD State.reset

/-- The state after the accesses of a vector store. -/
def tStored (s : State) (kind : Nat) (f : Form) : State :=
  (s.putList kind (s.storeElems f 4 (s.gx 1) (s.vbits 2))).getD State.reset

/-- A frame command's descriptor (Table 15.10): the operation, context 3. -/
def tFrameDesc (op : Nat) : List Byte :=
  bytesOfNat 8 (op * 2 ^ 10 + 3 * 2 ^ 4 + 2 ^ 7) ++ bytesOfNat 8 (if op = 1 then 0x10000 else 0x10080) ++
  bytesOfNat 8 (if op = 1 then 0x100000 else 16) ++ bytesOfNat 8 0x10080 ++ bytesOfNat 8 0x100C0 ++
  bytesOfNat 8 (if op = 1 then 16 * 2 ^ 48 + 16 * 2 ^ 32 else 64) ++ bytesOfNat 8 0x100D0 ++ bytesOfNat 8 0

/-- Frame engine 2 of die 1 with context 3 open for no picture, and a command at the head of a unit's queue. -/
def tFrames (u : Nat) (c : Command) : State :=
  let s := tUnit u c
  s.setFrame 1 2 { s.frame 1 2 with ctxs := [(3, ⟨1, 0x10000, 0, 0, 0, []⟩)] }

/-- A resize of 2 by 2 pixels (Table 15.14), and a conversion (Table 15.18). -/
def tResize : List Byte :=
  bytesOfNat 8 (2 ^ 5) ++ bytesOfNat 8 0x10080 ++ bytesOfNat 8 0x10090 ++ bytesOfNat 8 (4 * 2 ^ 48 + 4 * 2 ^ 32 + 4) ++
  bytesOfNat 8 (2 * 2 ^ 16 + 2) ++ bytesOfNat 8 (1 * 2 ^ 48 + 1 * 2 ^ 32 + 16) ++ bytesOfNat 8 0x100C0 ++
  bytesOfNat 8 0x10100 ++ bytesOfNat 8 0 ++ bytesOfNat 8 (0x3F800000 * 2 ^ 32) ++
  bytesOfNat 8 (0x3F800000 * 2 ^ 32 + 0x3F800000) ++ bytesOfNat 40 0
def tConvert : List Byte :=
  bytesOfNat 8 0 ++ bytesOfNat 8 (2 * 2 ^ 32 + 3) ++ bytesOfNat 8 0x10080 ++ bytesOfNat 8 3 ++ bytesOfNat 8 0x10100 ++
  bytesOfNat 8 0x10120 ++ bytesOfNat 8 0x10140 ++ bytesOfNat 8 0x10180 ++ bytesOfNat 8 10 ++ bytesOfNat 56 0

/-- The engine's answer and its state. -/
def tVal {α : Type} (d : α) (r : EStateM.Result EngExit Eng α) : α :=
  match r with
  | .ok c _ => c
  | .error _ _ => d
def tEng {α : Type} (r : EStateM.Result EngExit Eng α) : Eng :=
  match r with
  | .ok _ e => e
  | .error _ e => e

/-- A graph whose node 0 has ended. -/
def tGraphRec (bad : Bool) : Graph :=
  ⟨9, 0, 0x10000, tDxp, .program, 0, some 0, 0, 6, 0x100, none, 1, 0, [0], [], [(0, 5, bad, 0)], none, [], [], [],
    none, false⟩
def tGraph (bad : Bool) : State := { tMem 1 2 3 with graphs := [tGraphRec bad] }

/-- Members of launch 5's barriers: the thread's sequencer and those listed. -/
def tBarrier (l : List Nat) : State :=
  let s := tMem 1 1 3
  { s with seqs := (0, { s.sq with bound := some ⟨5, 0, 0⟩, groups := 3 }) ::
      l.map fun q => (q, { bound := some ⟨5, 0, 0⟩, groups := 12 }) }

/-- A strip history, a trace and a long `v6`, at supervisor level. -/
def tDebug : State :=
  let s := tVec 6 4 0 1 2 0 tBytes
  let s := s.setTh { s.th with
    hist := [⟨1, 2, 3, 4⟩, ⟨5, 6, 7, 8⟩], histN := 9, level := .supervisor, v := (6, { bits := tBits, vb := 64 }) ::
      s.th.v }
  s.setCore 0 { s.core 0 with trace := [(1, 2), (3, 4)] }

/-- An engine's error, and two results that have not landed. -/
def tEvents (w : Wait) : State :=
  let s := tQueue 5 2 5 2 false
  s.setTh { s.th with
    engineErrors := [(5, 6)], pend := [.scalar 3 5, .vector 2 { bits := 7 }], wait := w, tstat := 0 }

/-- A stamp of die 0's first write. -/
def tStamp : Stamp := (0 : Stamp).setComp 0 1

/-- A write, an invalidation, an arrival at a bolt and a publication that wait. -/
def tFlight : Flight := ⟨1, 0, tStamp, 0x10108, cellsAt 0x10108 [1, 2], 7, none, false, none, none, none⟩
def tBoltFlight : Flight := ⟨2, 0, tStamp, 0x10180, [], 7, none, false, none, none, some ⟨0, 1, 1, 0⟩⟩
def tInflight : State :=
  let s := tQueue 5 2 6 2 false
  let s := s.setDie 0 { s.die 0 with invals := [⟨0x202, 0, tStamp⟩] }
  { s with
    flights := [tFlight, tBoltFlight],
    resvs := [⟨1, tHead, 5, 1, none, 0, 0, 0, 0, 0x10080, tDxp⟩] }

/-- A replica of page 0x10 at die 1, which a write of the page collapses. -/
def tReplica : State :=
  let s := tMem 1 2 3
  let e : Word × Word := (BitVec.ofNat 64 (2 ^ 63 + 0x10), 0x4000)
  let s := s.setDie 1 { s.die 1 with rdir := [(0, e)] }
  { s with collapses := [⟨0x10, 2⟩] }

/-- A fault of the thread, or of the command of copy engine 3, and die 0's queue of 64 records at 0x20000. -/
def tFault : PageFault := ⟨0x14000, 1, 0x0D, 0, 0, 0, 8, 0, 1, 0, 0, 0⟩
def tFaulted (w : Wait) (st : Nat) (base : Word) (l : List Record) : State :=
  let c := tCommand 0 [] none 0 0 false
  let s := (tMem 1 2 3).setUnitQueue 3 [{ c with pagerStage := st, fault := some tFault }]
  let s := s.setDie 0 { s.die 0 with fqbase := base, records := l, fqtail := 1 }
  s.setTh { s.th with wait := w }

/-- A launch of one stage, whose queue's header is at 0x10080. -/
def tStage : StageRun := ⟨0x10000, 32, 3, 0, 0, 0x10080, tHead, 1, 1, 1, 4⟩
def tLaunchRec : Launch :=
  { id := 3, ctx := 0, prio := 0, arg := 5, stages := [tStage], compl := 0, irq := false, vec := 0, queue := none,
    ticket := none, node := none, total := 0, closeBolt := none, closeVa := 0, close0 := true, front := 0, die := 0, handle := 1 }
def tLaunch (tail head : Nat) (closed : Bool) : State := { tQueue tail head tail head closed with launches :=
  [tLaunchRec] }

/-- The header of a hardware queue (Table 7.4), and one such queue whose header is at 0x10080. -/
def tHwHeader (tail head mode : Nat) (closed : Bool) (nslot outq : Nat) : List Byte :=
  bytesOfNat 8 (tail * 2 ^ 32 + head) ++ bytesOfNat 8 (tail * 2 ^ 32 + head) ++
  bytesOfNat 8 ((if closed then 2 ^ 63 else 0) + mode * 2 ^ 61 + 2 * 2 ^ 56 + 6 * 2 ^ 32 + 2) ++ bytesOfNat 8 0x10000 ++
  bytesOfNat 8 0x10300 ++ bytesOfNat 8 (nslot * 2 ^ 32 + 16) ++ bytesOfNat 8 0x10400 ++ bytesOfNat 8 outq
def tHwQueue (cl : Option (Nat × Nat)) : HwQueue := ⟨tHead, 0x10080, tDxp, 0, 0, 1, cl, [], false, 0, [], []⟩
def tHw (tail head mode : Nat) (closed : Bool) (nslot : Nat) (cl : Option (Nat × Nat)) : State :=
  let s := tPut (tMem 1 2 3) 0x10080 (tHwHeader tail head mode closed nslot 0x10200)
  let s := tPut s 0x10200 (bytesOfNat 16 0 ++ bytesOfNat 8 (3 * 2 ^ 56 + 6 * 2 ^ 32 + 2) ++ bytesOfNat 8 0x10000)
  { tPut s 0x10000 (bytesOfNat 8 0) with hwqs := [tHwQueue cl] }

/-- Where an engine's access goes. -/
def tFor (s : State) (w : Bool) (n va : Nat) : Target :=
  (s.targetFor 0 tDxp .supervisor ⟨if w then 11 else 10, !w, w, false, false, false, n⟩ (BitVec.ofNat 64 va)).getD
    ⟨0, 0, 0, .hole⟩

/-- A packet (Table 16.3), and a launch queue whose one packet it is; what its beginning and an access of it answer. -/
def tPk (kind low a b : Nat) : List Byte :=
  bytesOfNat 8 (kind * 2 ^ 56 + low) ++ bytesOfNat 8 0 ++ bytesOfNat 8 a ++ bytesOfNat 8 b ++ bytesOfNat 32 0
def tPackets (p : List Byte) (first : Bool) : State :=
  let s := tPut (tQueue 0 0 0 0 false) 0x10300 p
  { s with
    featstat := if first then 0x8000000000000000#64 else 0,
    queues := [(0, { en := true, prod := 1, base := 0x10300 / 64, lsize := 6, ctx := 0 })] }
def tBegun (s : State) : List Byte × BitVec 32 × State := (s.beginPacket 0 fun _ => true).getD ([], 0, s)
def tBy {α : Type} (s : State) (a : E α) (d : α) : α × State :=
  match s.byDispatcher 0 a with
  | some (.ok x, t) => (x, t)
  | some (.error _, t) => (d, t)
  | none => (d, s)

/-- The state a packet leaves once it has begun, and what it then reads. -/
def tBeg (s : State) : State := (tBegun s).2.2
def tRead (s : State) (va : Word) (n : Nat) : List Byte × State :=
  tBy (tBeg s) (eFault (eReadAll ((tBeg s).dispatch 0 ((tBeg s).queue 0).ctx) va n)) []
def tBolt (s : State) : Target × State :=
  tBy (tBeg s) (eBoltTarget ((tBeg s).dispatch 0 ((tBeg s).queue 0).ctx) (dwordOf (tBegun s).1 16)) ⟨0, 0, 0, .hole⟩

/-- Packets of each kind. -/
def tFence : State := tPackets (tPk 6 0 0 0) true
def tUnload : State :=
  let s := tPackets (tPk 4 0 1 0) true
  s.setContext 0 { s.context 0 with objects := [⟨1, [], [], [], none, []⟩] }
def tLoad (first : Bool) : State := tPackets (tPk 3 0 0x10400 64) first
def tGraphPacket (first : Bool) : State := tPackets (tPk 2 0 0x10400 0) first
def tCopyPacket : State := tPackets (tPk 7 0 0x10400 0) true
def tArrive : State := tPackets (tPk 5 0 0x10080 1) true
def tWait (ph : Nat) : State := tPut (tPackets (tPk 5 (1 + 2 * ph) 0x10080 0) true) 0x10080 (bytesOfNat 16 0)
def tStall : State :=
  let s := tWait 0
  let s := (tBeg s).setQueue 0 { (tBeg s).queue 0 with boltWait := some (0x10080, 0) }
  s.setContext 0 { s.context 0 with boltlim := 5 }

/-- A launch packet that no context's object answers, one whose object is loaded, and what its reading answers. -/
def tLaunchPacket (loaded : Bool) : State :=
  let p := bytesOfNat 8 (2 ^ 56) ++ bytesOfNat 8 0 ++ bytesOfNat 8 0x10400 ++ bytesOfNat 8 1 ++ bytesOfNat 8 5 ++
    bytesOfNat 24 0
  let s := tPut (tPackets p true) 0x10400 (bytesOfNat 8 1 ++ bytesOfNat 56 0 ++ bytesOfNat 8 0x10080 ++
    bytesOfNat 8 (2 ^ 48 + 2 ^ 32 + 2 ^ 24 + 1) ++ bytesOfNat 16 0)
  if loaded then
    s.setContext 0 { s.context 0 with
      objects := [⟨1, [], [], [], none, []⟩], stages := [⟨1, [65], 0, 32, 3, 0, 0, 0x10000⟩] }
  else s
def tAccepts (s : State) : Launch × State :=
  tBy (tBeg s) (acceptM 0 ((tBeg s).queue 0).ctx (some 0) false (tBegun s).1) tLaunchRec

/-- A thread whose sequencer is to be saved at 0x200000, which is mapped to 0x200000. -/
def tSave : State :=
  let s := tPut (tMem 1 2 3) 0x4008 (bytesOfNat 8 (0x200 * 1024 + 0xDF))
  s.setSq { s.sq with saving := some 0x30, tsave := 0x200000, held := [0] }
def tSaveArea (s : State) : List Byte :=
  saveArea (s.seq 0) (s.drain.presented 0) 0x30 (s.drain.frontier 0)
def tSaveWrite : EStateM.Result EngExit Eng Unit :=
  saveWrite ⟨0, 0, tDxp, .supervisor⟩ 0x200000 (tSaveArea tSave) (.start tSave.drain (tSave.drain.frontier 0))

/-- A saved context whose area is in memory at 0x200000. -/
def tSavedRec : Saved := ⟨1, ⟨0, 0, 0⟩, 0x200000, tDxp, 0, [], [], [], [], 0, [], none, 15, [], []⟩
def tSavedCtx : State := { tPut tSave 0x200000 (saveArea tSave.sq [tSave.th] 0x30 0) with saved := [tSavedRec] }
def tRestoreRead : EStateM.Result EngExit Eng (List Byte) :=
  saveRead ⟨1 / 32, 1, tSavedRec.dxp, .supervisor⟩ tSavedRec.area (.start tSavedCtx (tSavedCtx.frontier 1))
def tRestoreBytes : List Byte := tVal [] tRestoreRead
def tRestored : Restored :=
  ((tEng tRestoreRead).s.restored tSavedRec tRestoreBytes 1 15 0).getD ⟨{}, [], 0⟩

/-- The module ready, a queue, key slot 1 free, an aperture free. -/
def tReady : State := tQueue 3 0 3 0 false

/-- A replication that its home has begun. -/
def tReplicating : State := tNext (execReplicate (BitVec.ofNat 64 (2 ^ 63 + 2 ^ 48 + 0x10)) tReady)

/-! ## What makes a witness of an answer -/

theorem tSome {α : Type} {x : Option α} (d : α) (h : x.isSome = true) : x = some (x.getD d) := by
  cases x with
  | none => cases h
  | some _ => rfl
theorem tTouched {t : Thread} {P : Nat → Prop} (h : ∀ i < t.vlN, t.touched i → P i) : ∀ i < 4096, t.touched i → P i :=
  fun i _ ht => h i ht.2.1 ht
def tDone {α : Type} (r : EStateM.Result EngExit Eng α) : Bool := r matches .ok _ _
theorem tOk {α : Type} {r : EStateM.Result EngExit Eng α} (d : α) (h : tDone r = true) : r = .ok (tVal d r) (tEng r)
  := by
  cases r with
  | ok _ _ => rfl
  | error _ _ => cases h
theorem tBegan (s : State) (p : List Byte → Bool) (h : (s.beginPacket 0 p).isSome = true) :
    s.beginPacket 0 p = some ((tBegun s).1, (tBegun s).2.1, tBeg s) := by
  have e : s.beginPacket 0 p = s.beginPacket 0 fun _ => true := by
    unfold State.beginPacket at h ⊢
    dsimp only at h ⊢
    repeat' split at h
    all_goals simp_all
  rw [e] at h ⊢
  cases hx : s.beginPacket 0 fun _ => true with
  | none => rw [hx] at h; cases h
  | some x => simp only [tBeg, tBegun, hx, Option.getD_some]
def tByDone {α : Type} (s : State) (a : E α) : Bool := s.byDispatcher 0 a matches some (.ok _, _)
theorem tByOk {α : Type} (s : State) (a : E α) (d : α) (h : tByDone s a = true) :
    s.byDispatcher 0 a = some (.ok (tBy s a d).1, (tBy s a d).2) := by
  unfold tByDone at h
  unfold tBy
  split at h
  · next hx => simp only [hx]
  · cases h

theorem tRestored_eq (h : ((tEng tRestoreRead).s.restored tSavedRec tRestoreBytes 1 15 0).isSome = true) :
    (tEng tRestoreRead).s.restored tSavedRec tRestoreBytes 1 15 0 = some tRestored := tSome _ h
theorem tSaveWrite_eq (h : tDone tSaveWrite = true) :
    saveWrite ⟨0 / 128, 0 / 4, (tSave.seq 0).dxp, .supervisor⟩ (tSave.seq 0).tsave
      (saveArea (tSave.seq 0) (tSave.drain.presented 0) 0x30 (tSave.drain.frontier (0 / 4)))
      (.start tSave.drain (tSave.drain.frontier (0 / 4))) = .ok () (tEng tSaveWrite) := by
  have h1 : (tSave.seq 0).dxp = tDxp := by decide +kernel
  have h2 : (tSave.seq 0).tsave = 0x200000 := by decide +kernel
  rw [h1, h2]
  change tSaveWrite = _
  cases hx : tSaveWrite with
  | ok _ _ => rfl
  | error _ _ => rw [hx] at h; cases h
theorem tRestoreRead_eq (h : tDone tRestoreRead = true) :
    saveRead ⟨1 / 32, 1, tSavedRec.dxp, .supervisor⟩ tSavedRec.area (.start tSavedCtx (tSavedCtx.frontier 1)) =
      .ok tRestoreBytes (tEng tRestoreRead) := by
  change tRestoreRead = .ok (tVal [] tRestoreRead) _
  cases hx : tRestoreRead with
  | ok _ _ => rfl
  | error _ _ => rw [hx] at h; cases h

/-! ## Single instructions, with results worked by hand from the entries -/

theorem test_add_wraps :
    (tNext (exec (.add 4 1 2 false false) (tRegs 0xFFFFFFFFFFFFFFFF 2 0))).th.getX 4 = 1 := by decide +kernel
theorem test_sub_source_is_destination :
    (tNext (exec (.sub 2 1 2 false false) (tRegs 5 7 0))).th.getX 2 = 0xFFFFFFFFFFFFFFFE := by decide +kernel
theorem test_sltn_is_unsigned :
    (tNext (exec (.sltn 4 1 2 false false) (tRegs 1 0xFFFFFFFFFFFFFFFF 0))).th.getX 4 = 1 ∧
    (tNext (exec (.slt 4 1 2 false false) (tRegs 1 0xFFFFFFFFFFFFFFFF 0))).th.getX 4 = 0 := by decide +kernel
theorem test_srai_fills_with_the_sign :
    (tNext (exec (.srai 4 1 false 63) (tRegs 0x8000000000000000 0 0))).th.getX 4 = 0xFFFFFFFFFFFFFFFF := by
  decide +kernel
theorem test_x0_discards :
    (tNext (exec (.addi 0 1 false 5) (tRegs 3 0 0))).th.getX 0 = 0 := by decide +kernel
theorem test_branch_backwards :
    (tNext (exec (.beq 1 2 false 0x3FF0) (tRegs 3 3 0))).th.pc = 0xFFC0 ∧
    (tNext (exec (.beq 1 2 false 0x3FF0) (tRegs 3 4 0))).th.pc = 0x10004 := by decide +kernel
theorem test_trap_saves :
    (let t := (tNext (exec (.trap 1 false) (tRegs 0xABC 0 0))).th
     t.tpc = 0x10000 ∧ t.tval = 0xABC ∧ t.tcause.toNat % 256 = 0x21 ∧ t.level = .supervisor ∧ t.pc = 0x5000) := by
  decide +kernel
theorem test_store_is_little_endian :
    (let t := tNext (exec (.stw 2 1 false 0) (tMem 0x10080 0x0A0B0C0D 0))
     (List.range 4).map (fun i => memByte t.drain.mem (0x10080 + i)) = [0x0D, 0x0C, 0x0B, 0x0A]) := by decide +kernel
theorem test_vadd_wraps_in_its_element :
    (elemAt 8 ((tNext (exec (.vadd 4 1 2 false false false) (tVec 4 1 0 0 0 0
      0xFF))).th.vreg 4).bits.toNat 0) = 0x0F := by decide +kernel
/-- R242: a bound that is a NaN with a payload is written as the canonical NaN. -/
theorem test_vbound_writes_the_canonical_nan :
    elemAt 32 ((tNext (exec (.vbound 4 1 2 false false) (tVec 10 1 0 0 0xFFC12345 0 0))).th.vreg 4).bits.toNat 1 =
      0x7FC00000 := by decide +kernel
/-- AES-256 on the example of the published standard (FIPS 197, C.3), bytes from the lowest. -/
theorem test_aes256 :
    (let k := roundKeys 0x1F1E1D1C1B1A191817161514131211100F0E0D0C0B0A09080706050403020100
     aesEncrypt k 0xFFEEDDCCBBAA99887766554433221100 = 0x8960494B9049FCEABF456751CAB7A28E ∧
     aesDecrypt k 0x8960494B9049FCEABF456751CAB7A28E = 0xFFEEDDCCBBAA99887766554433221100) := by decide +kernel

/-! ## States and operands that meet the hypotheses of the obligations -/

/-- A partial answer that is one. -/
theorem tEx {α : Type} {x : Option α} (h : x.isSome = true) : ∃ u, x = some u := Option.isSome_iff_exists.mp h

/-- An outcome that is a next state. -/
def tIsNext (o : Host.Outcome State Fault Refusal) : Bool := o matches .next _

theorem tNexts {o : Host.Outcome State Fault Refusal} (h : tIsNext o = true) : ∃ t, o = .next t := by
  cases o with
  | next t => exact ⟨t, rfl⟩
  | _ => cases h

/-- R205: loops open to a depth of two, and a transfer. -/
theorem witness_takenRule : (tLoops 2 7 3).th.ldepth.toNat ≤ 6 := by decide +kernel

theorem witness_retirementFrame :
    (tMem 1 2 3).quiet ∧ (∃ seq thr, 4 * seq + thr ≠ threadKey (tMem 1 2 3).cur) ∧
    let u := (tMem 1 2 3).th.begin
    (seqNext u u.pc).1 = 0x10004 :=
  ⟨by decide +kernel, ⟨1, 0, by decide +kernel⟩, by decide +kernel⟩

/-- Four elements of 32 bits; the function adds one to the old value and answers nothing for element 2. -/
def tLoopFn (i old : Nat) : ERes := { val := if i = 2 then none else some (old + 1) }

theorem witness_elementLoop :
    let t := (tVec 6 4 1 0x10080 3 16 tBytes).th
    let w : Nat := 32
    let old := (t.vreg 4).bits.toNat
    let touched (i : Nat) : Prop := t.startN ≤ i ∧ i < t.vlN ∧ t.active i = true
    w ∈ [8, 16, 32, 64] ∧ t.vlN * w ≤ 32768 ∧
    (∃ v, (touched 1 ∧ w * (1 + 1) ≤ 32768) ∧ (tLoopFn 1 (elemAt w old 1)).val = some v) ∧
    (touched 1 ∧ (tLoopFn 1 (elemAt w old 1)).val ≠ none) ∧ ¬ touched 0 ∧
    (touched 2 ∧ (tLoopFn 2 (elemAt w old 2)).val = none) ∧ ¬ touched 1023 ∧ w * (1023 + 1) ≤ 32768 ∧
    ∀ i, touched i → (tLoopFn i (elemAt w old i)).fl &&& (t.ftrap.toNat % 64) = 0 :=
  ⟨by decide +kernel, by decide +kernel, ⟨_, by decide +kernel, rfl⟩, by decide +kernel, by decide +kernel,
    by decide +kernel, by decide +kernel, by decide +kernel, fun _ _ => Nat.zero_and _⟩

/-- Element 2 raises a flag that traps; element 1, before it, does not, and element 3 is after it. -/
def tTrapFn (i old : Nat) : ERes := { val := some (old + 1), fl := if i = 2 then 8 else 0 }

theorem witness_elementLoopTrap :
    let t := { (tVec 6 4 1 0x10080 3 16 tBytes).th with ftrap := 0x3F }
    let w : Nat := 32
    let old := (t.vreg 4).bits.toNat
    let touched (i : Nat) : Prop := t.startN ≤ i ∧ i < t.vlN ∧ t.active i = true
    let trapping (j : Nat) : Nat := (tTrapFn j (elemAt w old j)).fl &&& (t.ftrap.toNat % 64)
    w ∈ [8, 16, 32, 64] ∧ t.vlN * w ≤ 32768 ∧ touched 2 ∧ trapping 2 ≠ 0 ∧ (∀ j < 2, touched j → trapping j = 0) ∧
    touched 1 ∧ (tTrapFn 1 (elemAt w old 1)).val = some (elemAt w old 1 + 1) ∧ w * (3 + 1) ≤ 32768 := by decide +kernel

theorem witness_memoryFormKept : (tMem 1 2 3).memOk ∧ ∃ t, step (tMem 1 2 3) = .next t :=
  ⟨⟨by decide +kernel, by decide +kernel⟩, tNexts (by decide +kernel)⟩

theorem witness_decodeEncode :
    (Instr.add 1 2 3 true false).hasWord = true ∧ (Instr.add 1 2 3 true false).wf = true ∧
    decode 0x08110E00#32 = .ok (.add 1 2 3 true false) := by decide +kernel

theorem witness_resetState : State.reset.ready = false ∧ (0 : Nat) / 8 ≠ 1 := by decide +kernel

/-- An event at the head of the agenda; then thread 0 in its turn, with a misaligned position, with a word, with a
word in host memory, with no word, with a word that does not begin while a `qnext` is outstanding, and where no other agent
has a step. -/
theorem witness_stepRunsDecoded :
    (let s : State := { tMem 1 2 3 with agenda := [.balancerEpoch 0] }
     ∃ es, s.agenda = .balancerEpoch 0 :: es ∧ (Instr.balancerEpoch 0).hasWord = false) ∧
    (let s : State := (tMem 1 2 3).setTh { (tMem 1 2 3).th with pc := 0x10002 }
     let s0 : State := s.completionsGo
     let s1 : State := { s0 with turn := s0.turn + 1 }.leadArrives.rehomeLost
     let u : State := { s1 with cur := ⟨0, 0⟩ }
     s.agenda = [] ∧ s0.turn % 2 = 0 ∧ nextCursor s1.cur (s1.runnable false) = [⟨0, 0⟩] ∧
     u.anyDue = false ∧ u.th.claiming = false ∧ u.th.pc.toNat % 4 ≠ 0) ∧
    (let s : State := tMem 1 2 3
     let s0 : State := s.completionsGo
     let s1 : State := { s0 with turn := s0.turn + 1 }.leadArrives.rehomeLost
     let u : State := { s1 with cur := ⟨0, 0⟩ }
     let v : State := u.setTh { u.th with ir := 0 }
     let tg : Target := tAt v fetchAcc 0x10000
     let w : IWord := BitVec.ofNat 32 (natOfBytes (v.heldAt tg 4))
     s.agenda = [] ∧ s0.turn % 2 = 0 ∧ nextCursor s1.cur (s1.runnable false) = [⟨0, 0⟩] ∧
     u.anyDue = false ∧ u.th.claiming = false ∧ u.th.pc.toNat % 4 = 0 ∧ v.plain ∧
     v.targetOf fetchAcc u.th.pc = some tg ∧ tg.place.isMem = true ∧ decode w = .ok .nop) ∧
    (let s : State := { (tMem 1 2 3).setTh { (tMem 1 2 3).th with pc := 0x11010 } with
       host := memPutAll [] (cellsAt 0x10 (bytesOfNat 4 0x02000000)) }
     let s0 : State := s.completionsGo
     let s1 : State := { s0 with turn := s0.turn + 1 }.leadArrives.rehomeLost
     let u : State := { s1 with cur := ⟨0, 0⟩ }
     let v : State := u.setTh { u.th with ir := 0 }
     let tg : Target := tAt v fetchAcc 0x11010
     let w : IWord := BitVec.ofNat 32 (natOfBytes (v.heldAt tg 4))
     s.agenda = [] ∧ s0.turn % 2 = 0 ∧ nextCursor s1.cur (s1.runnable false) = [⟨0, 0⟩] ∧
     u.anyDue = false ∧ u.th.claiming = false ∧ u.th.pc.toNat % 4 = 0 ∧ v.plain ∧
     v.targetOf fetchAcc u.th.pc = some tg ∧ tg.place = .host (tg.pa - 0x800000000000) ∧ decode w = .ok .nop) ∧
    (let s : State := tPut (tMem 1 2 3) 0x10000 [0xFF, 0xFF, 0xFF, 0xFF]
     let s0 : State := s.completionsGo
     let s1 : State := { s0 with turn := s0.turn + 1 }.leadArrives.rehomeLost
     let u : State := { s1 with cur := ⟨0, 0⟩ }
     let v : State := u.setTh { u.th with ir := 0 }
     let tg : Target := tAt v fetchAcc 0x10000
     let w : IWord := BitVec.ofNat 32 (natOfBytes (v.heldAt tg 4))
     s.agenda = [] ∧ s0.turn % 2 = 0 ∧ nextCursor s1.cur (s1.runnable false) = [⟨0, 0⟩] ∧
     u.anyDue = false ∧ u.th.claiming = false ∧ u.th.pc.toNat % 4 = 0 ∧ v.plain ∧
     v.targetOf fetchAcc u.th.pc = some tg ∧ tg.place.isMem = true ∧ decode w = .error .zeroOrOnes ∧
     (let r0 := v.regionAt tg.pa
      ((v.setTh (v.th.enterWord r0.1 r0.2 (decide (r0.2 = 0)))).withIr w).quiet)) ∧
    (let s : State := (tPut (tMem 1 2 3) 0x10000 [0xFF, 0xFF, 0xFF, 0xFF]).setTh { (tMem 1 2 3).th with
       pend := [.claim 3 tHead 0x10080 2] }
     let s0 : State := s.completionsGo
     let s1 : State := { s0 with turn := s0.turn + 1 }.leadArrives.rehomeLost
     let u : State := { s1 with cur := ⟨0, 0⟩ }
     let v : State := u.setTh { u.th with ir := 0 }
     let tg : Target := tAt v fetchAcc 0x10000
     let w : IWord := BitVec.ofNat 32 (natOfBytes (v.heldAt tg 4))
     s.agenda = [] ∧ s0.turn % 2 = 0 ∧ nextCursor s1.cur (s1.runnable false) = [⟨0, 0⟩] ∧ u.anyDue = false ∧
     u.th.pc.toNat % 4 = 0 ∧ v.plain ∧ v.targetOf fetchAcc u.th.pc = some tg ∧ tg.place.isMem = true ∧
     u.th.claiming = true ∧ undoable w = false) ∧
    (let s : State := (tMem 1 2 3).setTh { (tMem 1 2 3).th with level := .program, engineErrors := [(5, 6)] }
     let s0 : State := s.completionsGo
     let s1 : State := { s0 with turn := s0.turn + 1 }.leadArrives.rehomeLost
     let u : State := { s1 with cur := ⟨0, 0⟩ }
     let v : State := u.setTh { u.th with ir := 0 }
     let tg : Target := tAt v fetchAcc 0x10000
     let w : IWord := BitVec.ofNat 32 (natOfBytes (v.heldAt tg 4))
     s.agenda = [] ∧ s0.turn % 2 = 0 ∧ nextCursor s1.cur (s1.runnable false) = [⟨0, 0⟩] ∧ u.th.level = .program ∧
     u.anyDue = true ∧ u.th.claiming = false ∧ u.sq.shadow = none ∧ u.th.pc.toNat % 4 = 0 ∧ v.plain ∧
     v.targetOf fetchAcc u.th.pc = some tg ∧ tg.place.isMem = true ∧ decode w = .ok .nop) ∧
    (let s : State := { tMem 1 2 3 with turn := 1 }
     let s0 : State := s.completionsGo
     let s1 : State := { s0 with turn := s0.turn + 1 }.leadArrives.rehomeLost
     tryOther exec dueSteps s1 = none) :=
  ⟨⟨[], rfl, rfl⟩, by decide +kernel, by decide +kernel, by decide +kernel, by decide +kernel, by decide +kernel,
    by decide +kernel, by decide +kernel⟩

/-- A unit to decode; and what is left of a decoder's answer, here a picture in two bytes of a plane that the context
takes. -/
theorem witness_frameDecodeResult :
    (let c : Command := tCommand 2 (tFrameDesc 0) none 0 0 false
     let s : State := tFrames 270 c
     s.unitQueue (264 + 4 * 1 + 2) = [c] ∧ c.kind = 2 ∧ frameFields c.desc ≠ none ∧ (s.frame 1 2).live = true ∧
     c.pagerStage = 0 ∧ c.code = none ∧ (dwordOf c.desc 0).toNat / 2 ^ 10 % 4 = 0) ∧
    (let c : Command := tCommand 2 (tFrameDesc 0) none 0 0 false
     tDone (decodeStore 1 2 3 0 64 c ⟨1, 0x10000, 0x100000, 16, 16, []⟩ [7]
       ⟨false, false, true, true, true, false, false, 2, 1, false, 9, [3, 4], [5, 6], [], [], 0⟩
       (c.resume (tFrames 270 c))) = true) := by decide +kernel

theorem witness_vectorStorePremises :
    let s := tVec 6 1 0 0x10080 3 16 tBytes
    s.quiet ∧ s.plain ∧ s.fullX [1] ∧ s.th.wait = .none ∧ s.th.vtype.getLsbD 63 = false ∧ s.th.etype ≠ 12 := by
  decide +kernel

theorem witness_vectorStoreStrided :
    let s := tVec 6 1 0 0x10080 3 16 tBytes
    ((s.readyRun 4 (Form.fields .strided) ∧ s.readyForm .strided 2) ∧
      ∃ u, s.putList 4 (s.storeElems .strided 4 (s.gx 1) (s.vbits 2)) = some u) ∧
    ((s.readyRun 4 (Form.fields (.indexed 8)) ∧ s.readyForm (.indexed 8) 2) ∧
      ∃ u, s.putList 5 (s.storeElems (.indexed 8) 4 (s.gx 1) (s.vbits 2)) = some u) ∧
    ((s.readyRun 4 (Form.fields (.indexed 16)) ∧ s.readyForm (.indexed 16) 2) ∧
      ∃ u, s.putList 5 (s.storeElems (.indexed 16) 4 (s.gx 1) (s.vbits 2)) = some u) :=
  ⟨⟨by decide +kernel, tEx (by decide +kernel)⟩, ⟨by decide +kernel, tEx (by decide +kernel)⟩, ⟨by decide +kernel,
    tEx (by decide +kernel)⟩⟩

theorem witness_vectorStoreIndexed :
    let s := tVec 6 1 0 0x10080 3 16 tBytes
    ((s.readyRun 4 (Form.fields (.indexed 32)) ∧ s.readyForm (.indexed 32) 2) ∧
      ∃ u, s.putList 5 (s.storeElems (.indexed 32) 4 (s.gx 1) (s.vbits 2)) = some u) ∧
    ((s.readyRun 4 (Form.fields (.indexed 64)) ∧ s.readyForm (.indexed 64) 2) ∧
      ∃ u, s.putList 5 (s.storeElems (.indexed 64) 4 (s.gx 1) (s.vbits 2)) = some u) :=
  ⟨⟨by decide +kernel, tEx (by decide +kernel)⟩, ⟨by decide +kernel, tEx (by decide +kernel)⟩⟩

theorem witness_vectorStoreSegments :
    let s := tVec 6 1 0 0x10080 3 16 tBytes
    ((s.readyRun 4 (Form.fields (.segment 2)) ∧ s.readyForm (.segment 2) 2) ∧
      ∃ u, s.putList 4 (s.storeElems (.segment 2) 4 (s.gx 1) (s.vbits 2)) = some u) ∧
    ((s.readyRun 4 (Form.fields (.segment 3)) ∧ s.readyForm (.segment 3) 2) ∧
      ∃ u, s.putList 4 (s.storeElems (.segment 3) 4 (s.gx 1) (s.vbits 2)) = some u) ∧
    ((s.readyRun 4 (Form.fields (.segment 4)) ∧ s.readyForm (.segment 4) 2) ∧
      ∃ u, s.putList 4 (s.storeElems (.segment 4) 4 (s.gx 1) (s.vbits 2)) = some u) :=
  ⟨⟨by decide +kernel, tEx (by decide +kernel)⟩, ⟨by decide +kernel, tEx (by decide +kernel)⟩, ⟨by decide +kernel,
    tEx (by decide +kernel)⟩⟩

theorem witness_vectorStoreWideSegments :
    let s := tVec 6 1 0 0x10080 3 16 tBytes
    ((s.readyRun 4 (Form.fields (.segment 5)) ∧ s.readyForm (.segment 5) 2) ∧
      ∃ u, s.putList 4 (s.storeElems (.segment 5) 4 (s.gx 1) (s.vbits 2)) = some u) ∧
    ((s.readyRun 4 (Form.fields (.segment 6)) ∧ s.readyForm (.segment 6) 2) ∧
      ∃ u, s.putList 4 (s.storeElems (.segment 6) 4 (s.gx 1) (s.vbits 2)) = some u) :=
  ⟨⟨by decide +kernel, tEx (by decide +kernel)⟩, ⟨by decide +kernel, tEx (by decide +kernel)⟩⟩

theorem witness_vectorStoreWidestSegments :
    let s := tVec 6 1 0 0x10080 3 16 tBytes
    ((s.readyRun 4 (Form.fields (.segment 7)) ∧ s.readyForm (.segment 7) 2) ∧
      ∃ u, s.putList 4 (s.storeElems (.segment 7) 4 (s.gx 1) (s.vbits 2)) = some u) ∧
    ((s.readyRun 4 (Form.fields (.segment 8)) ∧ s.readyForm (.segment 8) 2) ∧
      ∃ u, s.putList 4 (s.storeElems (.segment 8) 4 (s.gx 1) (s.vbits 2)) = some u) :=
  ⟨⟨by decide +kernel, tEx (by decide +kernel)⟩, ⟨by decide +kernel, tEx (by decide +kernel)⟩⟩

/-- One row of a tile, two columns. -/
def tTileRow : State :=
  let s := tTile 10 1 0x10080 3
  s.setTh { s.th with vmsk := 0x30, v := [(1, { bits := tBits, vb := 64 }), (2, { bits := tWords, vb := 64 })] }

/-- Where a row's column of a tile load or store is. -/
def tTileVa (s : State) (f : Form) (r c : Nat) : Word :=
  (match f with
    | .indexed xw => s.gx 1 + BitVec.ofNat 64 (elemAt xw (s.vbits 2) r)
    | _ => s.gx 1 + BitVec.ofNat 64 r * (if s.th.vstride ≠ 0 then s.th.vstride else 512)) + BitVec.ofNat 64 (4 * c)

theorem witness_tileMemoryPremises :
    let s := tTileRow
    s.quiet ∧ s.plain ∧ s.th.vtype.getLsbD 63 = false ∧ 4096 ≤ s.th.vlmaxN ∧ s.th.startN ≤ 128 ∧ s.th.vlN ≤ 128 ∧
    s.th.etype = 10 ∧ s.sq.follow = [] ∧ s.sq.zon = true ∧ s.fullX [1] ∧ s.th.wait = .none ∧
    s.sq.tileOn 4 = true ∧ s.sq.tileOn 36 = true := by decide +kernel

theorem tLoadsTile (s : State) (f : Form)
    (h : ∀ r < s.th.vlN, s.th.touched r → ∀ c < 128, s.th.cactive c = true → s.valueAt 8 (tTileVa s f r c) 4 ≠ none) :
    ∀ r < 128, s.th.touched r → ∀ c < 128, s.th.cactive c = true → s.valueAt 8 (tTileVa s f r c) 4 ≠ none :=
  fun r _ ht => h r ht.2.1 ht

theorem witness_tileLoads :
    let s := tTileRow
    s.readyForm .strided 2 ∧ s.readyForm (.indexed 32) 2 ∧
    (∀ r < 128, s.th.touched r → ∀ c < 128, s.th.cactive c = true → s.valueAt 8 (tTileVa s .strided r c) 4 ≠ none) ∧
    ∀ r < 128, s.th.touched r → ∀ c < 128, s.th.cactive c = true → s.valueAt 8 (tTileVa s (.indexed 32) r c) 4 ≠ none :=
  ⟨by decide +kernel, by decide +kernel, tLoadsTile _ _ (by decide +kernel), tLoadsTile _ _ (by decide +kernel)⟩

theorem witness_tileWideLoads :
    let s := tTileRow
    s.readyForm (.indexed 64) 2 ∧
    ∀ r < 128, s.th.touched r → ∀ c < 128, s.th.cactive c = true → s.valueAt 8 (tTileVa s (.indexed 64) r c) 4 ≠ none :=
  ⟨by decide +kernel, tLoadsTile _ _ (by decide +kernel)⟩

/-- What a store of tile `k` stores. -/
def tTileList (s : State) (f : Form) (k : Nat) : List (Word × List Byte) :=
  ((List.range 128).filter fun r => decide (s.th.touched r)).flatMap fun r =>
    ((List.range 128).filter s.th.cactive).map fun c =>
      (tTileVa s f r c, bytesOfNat 4 (elemAt 32 ((s.sq.tileAt k).zrow r) c))

theorem witness_tileStores :
    ∃ u u', tTileRow.putList 9 (tTileList tTileRow .strided 4) = some u ∧
      tTileRow.putList 9 (tTileList tTileRow .strided 36) = some u' :=
  ⟨_, _, tSome State.reset (by decide +kernel), tSome State.reset (by decide +kernel)⟩

theorem witness_tileIndexedStores :
    ∃ u u', tTileRow.putList 9 (tTileList tTileRow (.indexed 32) 4) = some u ∧
      tTileRow.putList 9 (tTileList tTileRow (.indexed 32) 36) = some u' :=
  ⟨_, _, tSome State.reset (by decide +kernel), tSome State.reset (by decide +kernel)⟩

theorem witness_tileWideStores :
    ∃ u u', tTileRow.putList 9 (tTileList tTileRow (.indexed 64) 4) = some u ∧
      tTileRow.putList 9 (tTileList tTileRow (.indexed 64) 36) = some u' :=
  ⟨_, _, tSome State.reset (by decide +kernel), tSome State.reset (by decide +kernel)⟩

def tFails {α : Type} (r : EStateM.Result EngExit Eng α) : Bool := r matches .error _ _
theorem tErrs {α : Type} {r : EStateM.Result EngExit Eng α} (h : tFails r = true) : ∃ x e, r = .error x e := by
  cases r with
  | ok => cases h
  | error x e => exact ⟨x, e, rfl⟩
theorem tPages {α : Type} {r : EStateM.Result EngExit Eng α} (h : (r matches .error (.page _) _) = true) :
    ∃ f e, r = .error (.page f) e := by
  cases r with
  | ok => cases h
  | error x e => cases x with
    | page f => exact ⟨f, e, rfl⟩
    | _ => cases h
theorem tOks {α : Type} {r : EStateM.Result EngExit Eng α} (h : tFails r = false) : ∃ a e, r = .ok a e := by
  cases r with
  | ok a e => exact ⟨a, e, rfl⟩
  | error => cases h

theorem witness_saveEvents :
    (tSave.seq 0).saving = some 0x30 ∧ (tSave.seq 0).bound = some ⟨0, 0, 0⟩ ∧ tSave.saveReady 0 0x30 = true ∧
    tSave.drain.flights = [] ∧ (tSave.seq 0).asked = none ∧ (∀ o ∈ ((tEng tSaveWrite).s.context 0).objects, o.unloadedAt = none) := by decide +kernel

/-- The rest of the hypotheses of a save: the area of that sequencer is written. -/
theorem witness_saveEventsArea :
    saveWrite ⟨0 / 128, 0 / 4, (tSave.seq 0).dxp, .supervisor⟩ (tSave.seq 0).tsave
      (saveArea (tSave.seq 0) (tSave.drain.presented 0) 0x30 (tSave.drain.frontier (0 / 4)))
      (.start tSave.drain (tSave.drain.frontier (0 / 4))) = .ok () (tEng tSaveWrite) :=
  tSaveWrite_eq (by decide +kernel)

theorem witness_saveEventsRestore :
    tSavedCtx.saved[0]? = some tSavedRec ∧ shareOf 15 = some (0, 0) ∧ tSavedCtx.shareFree 1 15 = true ∧
    tSavedRec.triedOn 0 = true ∧ tSavedRec.tickets = [] ∧ (∀ g ∈ (tEng tRestoreRead).s.graphs, g.parked = []) ∧
    tSavedCtx.shareFree 0 15 = false := by
  decide +kernel

/-- The rest of the hypotheses of a restore: the area is read, and holds a context. -/
theorem witness_saveEventsRead :
    saveRead ⟨1 / 32, 1, tSavedRec.dxp, .supervisor⟩ tSavedRec.area (.start tSavedCtx (tSavedCtx.frontier 1)) =
      .ok tRestoreBytes (tEng tRestoreRead) := tRestoreRead_eq (by decide +kernel)

/-- A save area that is not mapped, where the pager is asked. -/
theorem witness_saveEventsPaged :
    let s : State := tSave.setSq { tSave.sq with tsave := 0x123456789000 }
    let s : State := s.setDie 0 { s.die 0 with fqbase := BitVec.ofNat 64 (0x20000 + 6) }
    s.saveReady 0 0x30 = true ∧ s.drain.flights = [] ∧ s.sq.asked = none ∧ s.fqClosed 0 = false ∧
    ∃ f e, saveWrite ⟨0, 0, s.sq.dxp, .supervisor⟩ s.sq.tsave (saveArea s.sq (s.drain.presented 0) 0x30 (s.drain.frontier 0))
      (.start s.drain (s.drain.frontier 0)) = .error (.page f) e :=
  ⟨by decide +kernel, by decide +kernel, by decide +kernel, by decide +kernel, tPages (by decide +kernel)⟩

/-- A save area, and an area to restore, that are not mapped; and one that holds no context. -/
theorem witness_saveEventsRefused :
    (let s : State := tSave.setSq { tSave.sq with tsave := 0x123456789000 }
     s.saveReady 0 0x30 = true ∧ s.drain.flights = [] ∧ s.sq.asked = none ∧ s.fqClosed 0 = true ∧
     ∃ x e, saveWrite ⟨0, 0, s.sq.dxp, .supervisor⟩ s.sq.tsave (saveArea s.sq (s.drain.presented 0) 0x30 (s.drain.frontier 0))
       (.start s.drain (s.drain.frontier 0)) = .error x e) ∧
    (let c := { tSavedRec with area := 0x123456789000 }
     let s : State := { tSavedCtx with saved := [c] }
     s.shareFree 1 15 = true ∧ c.triedOn 0 = true ∧
     ∃ x e, saveRead ⟨0, 1, c.dxp, .supervisor⟩ c.area (.start s (s.frontier 1)) = .error x e) ∧
    (let s : State := tPut tSavedCtx 0x200000 [0xFF]
     s.shareFree 1 15 = true ∧
     ∃ bs e, saveRead ⟨0, 1, tDxp, .supervisor⟩ 0x200000 (.start s (s.frontier 1)) = .ok bs e) :=
  ⟨⟨by decide +kernel, by decide +kernel, by decide +kernel, by decide +kernel, tErrs (by decide +kernel)⟩,
    ⟨by decide +kernel, by decide +kernel, tErrs (by decide +kernel)⟩, ⟨by decide +kernel, tOks (by decide +kernel)⟩⟩

theorem witness_saveEventsRecords :
    (tEng tRestoreRead).s.restored tSavedRec tRestoreBytes 1 15 0 = some tRestored := tRestored_eq (by decide +kernel)

theorem witness_integerRegisterResults :
    let s : State := tRegs 5 0x8000000000000000 9
    let d : BitVec 5 := 3
    let a : BitVec 5 := 1
    let b : BitVec 5 := 2
    s.quiet ∧ s.fullX [d, a, b] :=
  by decide +kernel

theorem witness_integerOneSourceResults :
    let s : State := tRegs 5 7 9
    let d : BitVec 5 := 3
    let a : BitVec 5 := 1
    s.quiet ∧ s.fullX [d, a] :=
  by decide +kernel

theorem witness_integerImmediateResults :
    let s : State := tRegs 5 7 9
    let d : BitVec 5 := 3
    let a : BitVec 5 := 1
    s.quiet ∧ s.fullX [d, a] :=
  by decide +kernel

theorem witness_multiplyDivideResults :
    let s : State := tRegs 5 0 9
    let d : BitVec 5 := 3
    let a : BitVec 5 := 1
    let b : BitVec 5 := 2
    s.quiet ∧ s.fullX [d, a, b] :=
  by decide +kernel

theorem witness_scalarDoubleResults :
    let s : State := tRegs 0x3FF8000000000000 7 9
    let d : BitVec 5 := 3
    let a : BitVec 5 := 1
    let b : BitVec 5 := 2
    s.quiet ∧ s.fullX [d, a, b] :=
  by decide +kernel

theorem witness_scalarSingleResults :
    let s : State := tRegs 0x40490FDB 7 9
    let d : BitVec 5 := 3
    let a : BitVec 5 := 1
    let b : BitVec 5 := 2
    s.quiet ∧ s.fullX [d, a, b] :=
  by decide +kernel

theorem witness_branchResults :
    let s : State := tRegs 5 7 9
    let a : BitVec 5 := 1
    let b : BitVec 5 := 2
    s.quiet ∧ s.fullX [a, b] :=
  by decide +kernel

theorem witness_jumpResults :
    let s : State := tRegs 8 7 9
    let d : BitVec 5 := 0
    let a : BitVec 5 := 1
    let imm : BitVec 14 := 0x3FFC
    s.quiet ∧
    let t := s.gx a + BitVec.ofInt 64 imm.toInt
    s.th.ldepth = 0 ∧ s.fullX [31] ∧ s.fullX [d, a] ∧ (d = 0 ∨ s.th.ldepth = 0) ∧ t.toNat % 4 = 0 :=
  by decide +kernel

theorem witness_jumpTraps :
    (let s : State := tLoops 1 8 3
     let d : BitVec 5 := 3
     s.quiet ∧
     s.th.ldepth ≠ 0 ∧ d ≠ 0) ∧
    (let s : State := tRegs 9 8 3
     let d : BitVec 5 := 3
     let a : BitVec 5 := 1
     let imm : BitVec 14 := 4
     s.quiet ∧
     let t := s.gx a + BitVec.ofInt 64 imm.toInt
     s.fullX [a] ∧ (d = 0 ∨ s.th.ldepth = 0) ∧ t.toNat % 4 ≠ 0) :=
  by decide +kernel

theorem witness_seqNextRule :
    (let t : Thread := (tLoops 0 8 3).th
     t.ldepth.toNat ≤ 6 ∧
     t.ldepth = 0) ∧
    (let t : Thread := (tLoops 6 8 3).th
     let p : Word := 0x10000
     t.ldepth.toNat ≤ 6 ∧
     let e := t.ldepth.toNat - 1
     t.ldepth ≠ 0 ∧ p ≠ Sparse.get 0 t.leend e) ∧
    (let t : Thread := (tLoops 2 8 3).th
     let p : Word := 0x10000
     t.ldepth.toNat ≤ 6 ∧
     let e := t.ldepth.toNat - 1
     t.ldepth ≠ 0 ∧ p = Sparse.get 0 t.leend e ∧ Sparse.get 0 t.lecnt e ≠ 0) ∧
    (let t : Thread := (tLoops 3 8 3).th
     let p : Word := 0x10000
     t.ldepth.toNat ≤ 6 ∧
     let e := t.ldepth.toNat - 1
     t.ldepth ≠ 0 ∧ p = Sparse.get 0 t.leend e ∧ Sparse.get 0 t.lecnt e = 0) :=
  by decide +kernel

theorem witness_loopResults :
    (let s : State := tLoops 2 8 3
     let d : BitVec 5 := 5
     let a : BitVec 5 := 1
     let n : BitVec 5 := 1
     let imm : BitVec 14 := 1
     s.quiet ∧
     let t := s.th
     let dep := t.ldepth.toNat
     let last := t.pc + BitVec.ofInt 64 (4 * (imm.toInt - 1))
     let fits := dep = 0 ∨ last.toNat ≤ (Sparse.get 0 t.leend (dep - 1)).toNat
     s.fullX [a] ∧ fits ∧ s.gx a ≠ 0 ∧ dep < 6 ∧ t.ldepth ≠ 0 ∧ s.fullX [d] ∧ n.toNat < dep) ∧
    (let s : State := tLoops 2 0 3
     let a : BitVec 5 := 1
     let imm : BitVec 14 := 1
     s.quiet ∧
     let t := s.th
     let dep := t.ldepth.toNat
     let last := t.pc + BitVec.ofInt 64 (4 * (imm.toInt - 1))
     let fits := dep = 0 ∨ last.toNat ≤ (Sparse.get 0 t.leend (dep - 1)).toNat
     s.fullX [a] ∧ fits ∧ s.gx a = 0) :=
  by decide +kernel

theorem witness_loopTraps :
    (let s : State := tLoops 2 8 3
     let a : BitVec 5 := 1
     let n : BitVec 5 := 2
     let imm : BitVec 14 := 2
     s.quiet ∧
     let t := s.th
     let dep := t.ldepth.toNat
     let last := t.pc + BitVec.ofInt 64 (4 * (imm.toInt - 1))
     let fits := dep = 0 ∨ last.toNat ≤ (Sparse.get 0 t.leend (dep - 1)).toNat
     s.fullX [a] ∧ (¬ fits) ∧ dep ≤ n.toNat) ∧
    (let s : State := tLoops 6 8 3
     let a : BitVec 5 := 1
     let imm : BitVec 14 := 9
     s.quiet ∧
     let t := s.th
     let dep := t.ldepth.toNat
     let last := t.pc + BitVec.ofInt 64 (4 * (imm.toInt - 1))
     let fits := dep = 0 ∨ last.toNat ≤ (Sparse.get 0 t.leend (dep - 1)).toNat
     s.fullX [a] ∧ fits ∧ s.gx a ≠ 0 ∧ dep = 6) ∧
    (let s : State := tRegs 6 8 3
     s.quiet ∧
     let t := s.th
     let dep := t.ldepth.toNat
     dep = 0) :=
  by decide +kernel

theorem witness_scalarRegisterFile :
    let r : Nat := 31
    let q : Nat := 0
    r ≠ 0 ∧ q ≠ r :=
  by decide +kernel

theorem witness_emptySource :
    let s : State := tEmpty
    let a : BitVec 5 := 1
    s.quiet ∧ s.th.xFull a.toNat = false :=
  by decide +kernel

theorem witness_emptyDestination :
    let s : State := tEmpty
    let d : BitVec 5 := 1
    let a : BitVec 5 := 2
    s.quiet ∧ s.fullX [a] ∧ s.th.xFull d.toNat = false :=
  by decide +kernel

theorem witness_csrReadResults :
    let s : State := tRegs 5 7 9
    let d : BitVec 5 := 3
    let csr : BitVec 12 := 0x007
    s.quiet ∧ s.fullX [d] ∧ csrAllowed s.th.level csr.toNat false = true :=
  by decide +kernel

theorem witness_csrWriteResults :
    let s : State := tRegs 5 7 9
    let d : BitVec 5 := 3
    let a : BitVec 5 := 2
    let csr : BitVec 12 := 0x007
    s.quiet ∧ s.fullX [d, a] ∧ csrAllowed s.th.level csr.toNat true = true ∧ csr.toNat < 0x200 ∧
    a ≠ 0 :=
  by decide +kernel

theorem witness_csrRefused :
    (let s : State := tRegs 5 7 9
     let csr : BitVec 12 := 0x3C0
     let a : BitVec 5 := 1
     s.quiet ∧
     let c := csr.toNat
     s.th.level = .program ∧ 0x100 ≤ c ∧ 0x300 ≤ c ∧ a ≠ 0) ∧
    (let s : State := tRegs 5 7 9
     let csr : BitVec 12 := 0x00B
     s.quiet ∧
     let c := csr.toNat
     0x00B ≤ c ∧ c < 0x010) ∧
    (tRegs 5 7 9).quiet ∧ (tSup 0 9).quiet ∧
    (∀ c ∈ [0x00B, 0x00F, 0x014, 0x017, 0x026, 0x03F, 0x059, 0x0FF, 0x106, 0x1FF, 0x205, 0x20F, 0x218, 0x2FF, 0x307, 0x30F,
       0x316, 0x317, 0x319, 0xFFF],
     (0x00B ≤ c ∧ c < 0x010) ∨ (0x014 ≤ c ∧ c < 0x018) ∨ (0x026 ≤ c ∧ c < 0x040) ∨ (0x059 ≤ c ∧ c < 0x100) ∨
     (0x106 ≤ c ∧ c < 0x200) ∨ (0x205 ≤ c ∧ c < 0x210) ∨ (0x218 ≤ c ∧ c < 0x300) ∨ (0x307 ≤ c ∧ c < 0x310) ∨
     (0x316 ≤ c ∧ c < 0x318) ∨ 0x319 ≤ c) :=
  by decide +kernel

theorem witness_supervisorCsrWrites :
    (let s : State := tSup 0 9
     let d : BitVec 5 := 3
     let a : BitVec 5 := 2
     s.quiet ∧ s.fullX [d, a] ∧ s.th.level = .supervisor) ∧
    (∀ j < 2, (BitVec.ofNat 12 (0x312 + j)).toNat = 0x312 + j ∧ (BitVec.ofNat 12 (0x314 + j)).toNat = 0x314 + j) ∧
    (let s (x : Word) : State := (tSup 0 9).setTh ((tSup 0 9).th.setX 2 x)
     let takes (s : State) : Prop :=
       let mode := (s.gx 2).toNat / 2 ^ 60
       mode = 0 ∨ mode = 0xA ∨ (mode = 0xB ∧ s.feature 16 = true)
     let ready (s : State) : Prop :=
       s.quiet ∧ s.fullX [3, 2] ∧ s.th.level = .supervisor ∧ s.plain ∧ s.th.claiming = false
     ready (s 0xA000000000001000) ∧ takes (s 0xA000000000001000) ∧ ready (s 0x1000000000001000) ∧
     ¬ takes (s 0x1000000000001000)) :=
  by decide +kernel

theorem witness_fullEmptyResults :
    let s : State := tRegs 5 7 9
    let d : BitVec 5 := 3
    let a : BitVec 5 := 2
    s.quiet ∧ s.fullX [a] ∧ s.readyV [a] ∧ s.fullX [d] ∧ a.toNat < s.th.vn ∧ s.th.xempty = 0 ∧
    (∀ e ∈ s.th.v, e.2.empty = false) :=
  by decide +kernel

theorem witness_systemResults :
    let s : State := (let s := tRegs 5 7 9; s.setTh { s.th with latch := 1 })
    let d : BitVec 5 := 3
    let a : BitVec 5 := 2
    s.quiet ∧ s.fullX [d, a] ∧ s.th.latch ≠ 0 ∧ s.th.wait ≠ .wfeOver ∧ s.fullX [d] :=
  by decide +kernel

theorem witness_wfeTimeout :
    let s : State := tWfe
    let q : Nat := 0
    let t : Nat := 0
    let d : BitVec 5 := 3
    let a : BitVec 5 := 1
    s.cur = ⟨q, t⟩ ∧ s.quiet ∧ s.th.wait = .wfe true ∧ fieldD s.th.ir = d ∧ fieldA s.th.ir = a ∧ s.fullX [d, a] :=
  by decide +kernel

theorem witness_requestedTraps :
    let s : State := tRegs 5 7 9
    let a : BitVec 5 := 2
    s.quiet ∧ s.fullX [a] :=
  by decide +kernel

theorem witness_trapEntry :
    (let s : State := tRegs 5 7 9
     s.quiet ∧ s.sq.tvec ≠ 0 ∧ s.th.tstat.getLsbD 5 = false ∧ s.th.pend = []) ∧
    (let s : State := (tRegs 5 7 9).setTh { (tRegs 5 7 9).th with pend := [.scalar 3 5] }
     s.quiet ∧ s.sq.tvec ≠ 0 ∧ s.th.tstat.getLsbD 5 = false ∧ s.th.pend = [.scalar 3 5]) := by decide +kernel

theorem witness_trapWithoutHandler :
    let s : State := tEmpty
    s.quiet ∧ (s.sq.tvec = 0 ∨ s.th.tstat.getLsbD 5 = true) :=
  by decide +kernel

theorem witness_trapReturn :
    let s : State := tSup 0x37 0x444
    s.quiet ∧ s.th.level = .supervisor :=
  by decide +kernel

theorem witness_supervisorOnly :
    let s : State := tRegs 5 7 9
    s.quiet ∧ s.th.level = .program :=
  by decide +kernel

theorem witness_sequencerControlResults :
    (let s : State := tSup 0 9
     let a : BitVec 5 := 1
     let b : BitVec 5 := 2
     s.quiet ∧ s.plain ∧ s.th.claiming = false ∧ s.engineBusy s.cur.seq = false ∧
     (s.resvs.any (fun r => r.seq = some s.cur.seq) = false) ∧ s.th.level = .supervisor ∧ s.fullX [a, b] ∧
     (s.gx a).toNat + (s.gx b).toNat ≤ 2 ^ 64) ∧
    (let s : State := tRegs 5 7 9
     s.quiet ∧ s.plain ∧ s.th.claiming = false ∧ s.engineBusy s.cur.seq = false ∧
     (s.resvs.any (fun r => r.seq = some s.cur.seq) = false) ∧ s.th.level = .program ∧ s.sq.split = 1) :=
  by decide +kernel

/-- A split thread; a handler entered from supervisor level; one entered from program level. -/
theorem witness_yieldResults :
    ((tJoin false).quiet ∧ (tJoin false).sq.split ≠ 1) ∧
    (let s : State := tSup 0x30 9
     s.quiet ∧ s.sq.split = 1 ∧ s.th.claiming = false ∧ s.th.level = .supervisor ∧ s.th.tstat.getLsbD 4 = true) ∧
    (let s : State := tSup 0x20 9
     s.quiet ∧ s.sq.split = 1 ∧ s.th.claiming = false ∧ s.th.level = .supervisor ∧ s.th.tstat.getLsbD 4 = false) :=
  by decide +kernel

theorem witness_scalarLoadResults :
    let s : State := tMem 0x10088 2 3
    let d : BitVec 5 := 3
    let a : BitVec 5 := 1
    let imm : BitVec 14 := 0
    s.quiet ∧ s.plain ∧ s.fullX [d, a] ∧
    let va := s.gx a + BitVec.ofInt 64 imm.toInt
    let r (e : Nat) : Prop := va.toNat % 2 ^ e = 0 ∧ s.reaches (scalarLoadAcc e) va
    r 0 ∧ r 1 ∧ r 2 ∧ r 3 :=
  by decide +kernel

theorem witness_acquireLoadResults :
    let s : State := tMem 0x13000 2 3
    let d : BitVec 5 := 3
    let a : BitVec 5 := 1
    s.quiet ∧ s.plain ∧ s.fullX [d, a] ∧
    let at_ := s.gx a
    let r (e : Nat) : Prop := at_.toNat % 2 ^ e = 0 ∧ s.reaches (scalarLoadAcc e) at_
    r 0 ∧ r 1 ∧ r 2 ∧ r 3 :=
  by decide +kernel

theorem witness_scalarStoreResults :
    let s : State := tMem 0x13FF8 2 3
    let d : BitVec 5 := 3
    let a : BitVec 5 := 1
    let imm : BitVec 14 := 0
    let scope : BitVec 3 := 5
    s.quiet ∧ s.plain ∧ s.fullX [d, a] ∧
    let va := s.gx a + BitVec.ofInt 64 imm.toInt
    let r (e : Nat) (va : Word) : Prop := va.toNat % 2 ^ e = 0 ∧ s.reaches (scalarStoreAcc e) va
    r 0 va ∧ r 1 va ∧ r 2 va ∧ r 3 va ∧ s.mayRelease scope.toNat ∧ r 0 (s.gx a) ∧ r 1 (s.gx a) ∧ r 2 (s.gx a) ∧
    r 3 (s.gx a) ∧ (s.goesTo (scalarStoreAcc 3) va).place.isMem = true :=
  by decide +kernel

/-- Stores to host memory and to a die's registers. -/
theorem witness_outsideStoreResults :
    (let s : State := tMem 0x11010 2 3
     let va : Word := 0x11010
     s.quiet ∧ s.plain ∧ s.fullX [3, 1] ∧ va.toNat % 2 ^ 3 = 0 ∧ s.reaches (scalarStoreAcc 3) va ∧
     (s.goesTo (scalarStoreAcc 3) va).place = .host 0x10) ∧
    (let s : State := tMem 0x12008 2 3
     let va : Word := 0x12008
     s.quiet ∧ s.plain ∧ s.fullX [3, 1] ∧ va.toNat % 2 ^ 2 = 0 ∧ s.reaches (scalarStoreAcc 2) va ∧
     (s.goesTo (scalarStoreAcc 2) va).place = .regs 0 8) :=
  by decide +kernel

theorem witness_misalignedAccess :
    let s : State := tMem 0x10081 2 3
    let d : BitVec 5 := 3
    let a : BitVec 5 := 1
    let imm : BitVec 14 := 0
    s.quiet ∧ s.fullX [d, a] ∧
    let va := s.gx a + BitVec.ofInt 64 imm.toInt
    va.toNat % 2 ≠ 0 ∧ va.toNat % 4 ≠ 0 ∧ va.toNat % 8 ≠ 0 :=
  by decide +kernel

/-- Atomics of module memory, with a release; of host memory; of this module and of another at scope `.pd`. -/
theorem witness_atomicResults :
    (let s : State := tMem 0x10088 2 3
     let d : BitVec 5 := 4
     let a : BitVec 5 := 1
     let ord : BitVec 2 := 3
     let scope : BitVec 3 := 2
     let va := s.gx a
     s.quiet ∧ s.plain ∧ s.fullX [d, a] ∧ (2 ≤ ord.toNat → s.mayRelease scope.toNat) ∧
     (scope = 5 → s.feature 18 = true) ∧ va.toNat % 8 = 0 ∧ scope ≠ 5 ∧ s.reaches (scalarAtomicAcc false 2) va ∧
     s.reaches (scalarAtomicAcc false 3) va ∧ s.reaches (scalarAtomicAcc true 3) va ∧
     (s.goesTo (scalarAtomicAcc false 3) va).place.isMem = true ∧
     (f32.val ((s.gx d).toNat % 2 ^ 32)).nanFlags &&& s.th.ftrap.toNat % 64 = 0 ∧ d.toNat % 2 = 0 ∧
     s.fullX [d + 1]) ∧
    (let s : State := { tMem 0x11010 2 3 with hostAtomics := true }
     let va : Word := 0x11010
     s.quiet ∧ s.plain ∧ va.toNat % 8 = 0 ∧ s.reaches (scalarAtomicAcc true 3) va ∧ s.hostAtomics = true) ∧
    (let s : State := { tMem 0x0A00000000010088 2 3 with podctl := 0x8000000000000500 }
     let va : Word := s.gx 1
     s.quiet ∧ s.plain ∧ s.fullX [4, 1] ∧ s.mayRelease 5 ∧ s.feature 18 = true ∧ va.toNat % 8 = 0 ∧
     (va.toNat / 2 ^ 62 = 0 ∧ va.getLsbD 56 = false ∧ s.podctl.getLsbD 63 = true) ∧
     va.toNat / 2 ^ 57 % 32 = s.podctl.toNat / 2 ^ 8 % 32 ∧
     s.reaches (scalarAtomicAcc false 3) (va &&& 0x00FFFFFFFFFFFFFF#64) ∧
     (s.goesTo (scalarAtomicAcc false 3) (va &&& 0x00FFFFFFFFFFFFFF#64)).place.isMem = true) ∧
    (let s : State := { tMem 0x0C00000000010088 2 3 with podctl := 0x8000000000000500 }
     let va : Word := s.gx 1
     s.quiet ∧ s.plain ∧ s.fullX [4, 1] ∧ s.mayRelease 5 ∧ s.feature 18 = true ∧ va.toNat % 8 = 0 ∧
     (va.toNat / 2 ^ 62 = 0 ∧ va.getLsbD 56 = false ∧ s.podctl.getLsbD 63 = true) ∧
     va.toNat / 2 ^ 57 % 32 ≠ s.podctl.toNat / 2 ^ 8 % 32 ∧ s.sq.tvec ≠ 0 ∧ s.th.tstat.getLsbD 5 = false) :=
  by decide +kernel

theorem witness_fenceResults :
    let s : State := tMem 0x10088 2 3
    let scope : BitVec 5 := 5
    s.quiet ∧ s.plain ∧ (scope = 5 → s.feature 18 = true) ∧ s.mayRelease scope.toNat ∧ s.feature 19 = true ∧
    s.th.claiming = false :=
  by decide +kernel

theorem witness_hintResults :
    let s : State := tMem 0x10088 2 3
    let a : BitVec 5 := 1
    s.quiet ∧ s.fullX [a] ∧ s.sched.caching = false :=
  by decide +kernel

/-- The phase observed is the bolt's, and is not. -/
theorem witness_boltResults :
    let r (y : Word) : Prop :=
      let s : State := tMem 0x10080 y 3
      let d : BitVec 5 := 4
      let va := s.gx 1
      let tg := s.goesTo (scalarAtomicAcc false 4) va
      let s' := s.walkedTo (scalarAtomicAcc false 4) va
      let q := s'.boltAt tg.pa (s'.slot tg.slot).key
      s.quiet ∧ s.plain ∧ s.fullX [1, 2] ∧ s.th.wait = .none ∧ va.toNat % 16 = 0 ∧
      s.reaches (scalarAtomicAcc false 4) va ∧ s.mayRelease 5 ∧ s.fullX [d] ∧ (q.ph ≠ (s.gx 2).getLsbD 0 ↔ y = 0) ∧
      s.fullX [d, d + 1] ∧ d ≠ 31
    r 0 ∧ r 1 :=
  by decide +kernel

theorem witness_vectorConfiguration :
    let s : State := tMem 0x10080 0 3
    let d : BitVec 5 := 3
    let a : BitVec 5 := 1
    let b : BitVec 5 := 2
    s.quiet ∧ s.fullX [d, a, b] ∧ s.th.layout = s.th.lanes ∧ s.th.lanes.length * s.th.depth ≤ 512 :=
  by decide +kernel

theorem witness_vectorIntegerValues :
    let s : State := tVec 3 6 1 5 7 0 tBytes
    let d : BitVec 5 := 4
    let a : BitVec 5 := 1
    let b : BitVec 5 := 2
    s.quiet ∧ s.th.vtype.getLsbD 63 = false ∧ isInt s.th.etype = true ∧
    s.readyRow false d a b ∧ s.readyRow true d a b :=
  by decide +kernel

theorem witness_vectorIntegerBits :
    let s : State := tVec 7 6 1 5 7 0 tBytes
    let d : BitVec 5 := 4
    let a : BitVec 5 := 1
    let b : BitVec 5 := 2
    s.quiet ∧ s.th.vtype.getLsbD 63 = false ∧ isInt s.th.etype = true ∧
    s.readyRow false d a b ∧ d ≠ a ∧ d ≠ b ∧ s.readyRow true d a b :=
  by decide +kernel

theorem witness_vectorIntegerWidths :
    (let s : State := tVec 2 6 1 5 7 0 tBytes
     let d : BitVec 5 := 4
     let a : BitVec 5 := 1
     let b : BitVec 5 := 2
     s.quiet ∧ s.th.vtype.getLsbD 63 = false ∧ isInt s.th.etype = true ∧ d ≠ a ∧ s.th.ew ≤ 32 ∧
     s.th.vlN * (2 * s.th.ew) ≤ s.th.vlmaxN ∧
     let e := s.th.etype
     d ≠ b ∧ s.readyRow false d a b ∧ isSigned e = true ∧ s.readyRow true d a b) ∧
    (let s : State := tVec 6 6 1 5 7 0 tBytes
     let d : BitVec 5 := 4
     let a : BitVec 5 := 1
     let b : BitVec 5 := 2
     s.quiet ∧ s.th.vtype.getLsbD 63 = false ∧ isInt s.th.etype = true ∧ d ≠ a ∧ s.th.ew ≤ 32 ∧
     s.th.vlN * (2 * s.th.ew) ≤ s.th.vlmaxN ∧
     let e := s.th.etype
     d ≠ b ∧ s.readyRow false d a b ∧ isSigned e = false ∧ s.readyRow true d a b) :=
  by decide +kernel

theorem witness_vectorIntegerCompares :
    let s : State := tVec 1 6 1 5 7 0 tBytes
    let d : BitVec 5 := 4
    let a : BitVec 5 := 1
    let b : BitVec 5 := 2
    s.quiet ∧ s.th.vtype.getLsbD 63 = false ∧ isInt s.th.etype = true ∧ d.toNat < 16 ∧
    s.readyV [a, b] ∧ s.readyV [a] ∧ s.fullX [b] :=
  by decide +kernel

theorem witness_vectorFloatingResults :
    let s : State := tVec 10 4 1 5 7 0 tBytes
    let d : BitVec 5 := 4
    let a : BitVec 5 := 1
    let b : BitVec 5 := 2
    let xm : Bool := true
    s.quiet ∧ s.th.vtype.getLsbD 63 = false ∧ isFp s.th.etype = true ∧
    let t := fmtOf s.th.etype
    let w := s.th.ew
    let m := s.th.frm.toNat % 8
    let r (sc : Bool) (f : Nat → Nat → Nat → Nat × Nat) : Prop :=
      let g : Nat → Nat → ERes := fun i dst =>
        let v := f (elemAt w (s.vbits a) i) (s.opB sc b w i) (elemAt w dst i)
        ⟨some v.1, v.2, false, false⟩
      s.noTrap d w xm g
    s.readyRow false d a b ∧ (r false (fun x y _ => fAdd t m x y)) ∧ (r false (fun x y _ => fSub t m x y)) ∧
    (r false (fun x y _ => fMul t m x y)) ∧ (r false (fun x y _ => fDiv t m x y)) ∧
    (r false (fun x y _ => fMinMax t false x y)) ∧ (r false (fun x y _ => fMinMax t true x y)) ∧ d ≠ a ∧ d ≠ b ∧
    (r false (fun x y z => fFma t m false x y z)) ∧ (r false (fun x y z => fFma t m true x y z)) ∧
    s.readyRow true d a b ∧ (r true (fun x y _ => fAdd t m x y)) ∧ (r true (fun x y _ => fSub t m x y)) ∧
    (r true (fun x y _ => fMul t m x y)) ∧ (r true (fun x y _ => fDiv t m x y)) ∧
    (r true (fun x y _ => fMinMax t false x y)) ∧ (r true (fun x y _ => fMinMax t true x y)) ∧
    (r true (fun x y z => fFma t m false x y z)) ∧ (r true (fun x y z => fFma t m true x y z)) :=
  by decide +kernel

theorem witness_vectorFloatingOthers :
    let s : State := tVec 10 4 1 5 7 0 tBytes
    let d : BitVec 5 := 4
    let a : BitVec 5 := 1
    let b : BitVec 5 := 2
    let xm : Bool := true
    let ty : BitVec 4 := 11
    s.quiet ∧ s.th.vtype.getLsbD 63 = false ∧
    let t := fmtOf s.th.etype
    let w := s.th.ew
    let m := s.th.frm.toNat % 8
    let r (f : Nat → Nat × Nat) : Prop :=
      let g : Nat → Nat → ERes := fun i _ =>
        let v := f (elemAt w (s.vbits a) i)
        ⟨some v.1, v.2, false, false⟩
      s.noTrap d w xm g
    let rk (sc : Bool) (f : Nat → Nat → Nat × Nat) : Prop :=
      let g : Nat → Nat → ERes := fun i _ =>
        let v := f (elemAt w (s.vbits a) i) (s.opB sc b w i)
        ⟨some v.1, v.2, false, false⟩
      s.noTrapK d xm g
    let wt := 8 <<< ewLog ty.toNat
    let cv : Nat → Nat → ERes := fun i _ => convert m s.th.satOn s.th.etype ty.toNat (elemAt w (s.vbits a) i)
    isFp s.th.etype = true ∧ s.readyV [d, a] ∧ (r (fun x => fSqrt t m x)) ∧ (r (fun x => fNeg t x)) ∧
    (r (fun x => fAbs t x)) ∧ (r (fun x => fClass t x)) ∧ (r (fun x => fRec t m x)) ∧ (r (fun x => fRsq t m x)) ∧
    (r (fun x => shortened t (fRec t m x))) ∧ (r (fun x => shortened t (fRsq t m x))) ∧ d.toNat < 16 ∧
    s.readyV [a, b] ∧ (rk false (fun x y => fEq t x y)) ∧ (rk false (fun x y => fLess t false x y)) ∧
    (rk false (fun x y => fLess t true x y)) ∧ s.readyV [a] ∧ s.fullX [b] ∧ (rk true (fun x y => fEq t x y)) ∧
    (rk true (fun x y => fLess t false x y)) ∧ (rk true (fun x y => fLess t true x y)) ∧
    (isTb ty.toNat = true → s.feature 8 = true) ∧ (wt ≠ w → d ≠ a ∧ s.th.vlN * max wt w ≤ s.th.vlmaxN) ∧
    s.noTrap d wt xm cv :=
  by decide +kernel

theorem witness_floatingElementTrap :
    let s : State := (let s := tVec 10 4 0 5 7 0 0x3F800000; s.setTh { s.th with ftrap := 0x3F })
    let d : BitVec 5 := 4
    let a : BitVec 5 := 1
    let b : BitVec 5 := 2
    let xm : Bool := true
    s.quiet ∧ s.th.vtype.getLsbD 63 = false ∧ isFp s.th.etype = true ∧ s.readyRow false d a b ∧
    let w := s.th.ew
    let g : Nat → Nat → ERes := fun i _ =>
      let v := fAdd (fmtOf s.th.etype) (s.th.frm.toNat % 8) (elemAt w (s.vbits a) i) (elemAt w (s.vbits b) i)
      ⟨some v.1, v.2, false, false⟩
    let l := eloop (s.th.loopCfg w xm true) g (s.th.vlN - s.th.startN) s.th.startN
      { dst := s.vbits d, xk := s.th.mask s.th.xmReg }
    l.stop ≠ none :=
  by decide +kernel

theorem witness_dotAndQuantiseResults :
    (let s : State := (let s := tVec 11 8 0 5 7 0 tBytes; s.setTh { s.th with ftrap := 0 })
     let d : BitVec 5 := 4
     let a : BitVec 5 := 1
     let b : BitVec 5 := 2
     let src : BitVec 2 := 0
     s.quiet ∧ s.th.vtype.getLsbD 63 = false ∧ s.readyV [d, a, b] ∧ d ≠ a ∧ d ≠ b ∧ s.th.ftrap.toNat % 64 = 0 ∧
     let t := s.th
     let e := t.etype
     let f := if src = 0 then f32 else if src = 1 then bf16 else f16
     (isFp e = true ∨ isTb e = true) ∧ isTb e = true ∧ t.vlN * f.width ≤ t.vlmaxN ∧ t.startN % t.blenN = 0) ∧
    (let s : State := (let s := tVec 4 8 0 5 7 0 tBytes; s.setTh { s.th with ftrap := 0 })
     let d : BitVec 5 := 4
     let a : BitVec 5 := 1
     let b : BitVec 5 := 2
     s.quiet ∧ s.th.vtype.getLsbD 63 = false ∧ s.readyV [d, a, b] ∧ d ≠ a ∧ d ≠ b ∧ s.th.ftrap.toNat % 64 = 0 ∧
     let t := s.th
     let e := t.etype
     (e = 0 ∨ e = 4)) :=
  by decide +kernel

theorem witness_integerNarrowing :
    let n : Nat := 1
    0 < n :=
  by decide +kernel

theorem witness_vectorLoadResults :
    let s : State := tVec 6 1 0 0x10080 3 16 tBytes
    let d : BitVec 5 := 4
    let a : BitVec 5 := 1
    let b : BitVec 5 := 2
    let scope : BitVec 3 := 3
    (s.quiet ∧ s.plain ∧ s.fullX [a] ∧ s.th.wait = .none ∧ s.th.vtype.getLsbD 63 = false ∧ s.th.etype ≠ 12 ∧
    s.th.vlN * s.th.ew ≤ 32768) ∧
    let w := s.th.ew
    let r (f : Form) (kind : Nat) (acq : Option Nat) : Prop :=
      let va (i fi : Nat) : Word := s.th.elementAddr f (s.gx a) (s.vbits b) i fi
      (s.readyRun d f.fields ∧ s.readyForm f b) ∧
      (∀ i < 4096, s.th.touched i → ∀ fi < f.fields, s.valueAt kind (va i fi) (w / 8) ≠ none)
    r .strided 1 none ∧ r (.indexed 8) 2 none ∧ r (.indexed 16) 2 none ∧ r (.indexed 32) 2 none ∧
    r (.indexed 64) 2 none ∧ r (.indexed 32) 2 (some scope.toNat) ∧ r (.indexed 64) 2 (some scope.toNat) ∧
    r (.segment 2) 1 none ∧ r (.segment 3) 1 none ∧ r (.segment 4) 1 none ∧ r (.segment 5) 1 none ∧
    r (.segment 6) 1 none ∧ r (.segment 7) 1 none ∧ r (.segment 8) 1 none :=
  ⟨by decide +kernel, ⟨⟨by decide +kernel, tTouched (by decide +kernel)⟩, ⟨by decide +kernel, tTouched
    (by decide +kernel)⟩, ⟨by decide +kernel, tTouched (by decide +kernel)⟩, ⟨by decide +kernel, tTouched
      (by decide +kernel)⟩, ⟨by decide +kernel, tTouched (by decide +kernel)⟩, ⟨by decide +kernel, tTouched
        (by decide +kernel)⟩, ⟨by decide +kernel, tTouched (by decide +kernel)⟩, ⟨by decide +kernel, tTouched
          (by decide +kernel)⟩, ⟨by decide +kernel, tTouched (by decide +kernel)⟩, ⟨by decide +kernel, tTouched
            (by decide +kernel)⟩, ⟨by decide +kernel, tTouched (by decide +kernel)⟩, ⟨by decide +kernel, tTouched
              (by decide +kernel)⟩, ⟨by decide +kernel, tTouched (by decide +kernel)⟩, ⟨by decide +kernel, tTouched
                (by decide +kernel)⟩⟩⟩

theorem witness_oneStoreFrame :
    let s : State := tMem 0 0 0
    let u : State := ((tMem 0 0 0).putAt 4 0x10088 [1, 2]).getD State.reset
    let kind : Nat := 4
    let va : Word := 0x10088
    let bs : List Byte := [1, 2]
    let tg : Target := tAt (tMem 0 0 0) (storeAcc 4 2) 0x10088
    s.plain ∧ s.targetOf (storeAcc kind bs.length) va = some tg ∧ tg.place.isMem = true ∧ s.putAt kind va bs = some u ∧
    bs.length ∈ [1, 2, 4, 8] :=
  by decide +kernel

/-- Elements whose bits lie in one byte and in two. -/
theorem witness_tumblerStreamResults :
    let r (st : Nat) : Prop :=
      let s : State := tOne 12 st tBytes
      let d : BitVec 5 := 4
      let a : BitVec 5 := 1
      let i := s.th.startN
      let b0 := s.gx a + BitVec.ofNat 64 (6 * i / 8)
      let b1 := s.gx a + BitVec.ofNat 64 ((6 * i + 5) / 8)
      let acc : Acc := ⟨4, false, true, false, false, true, 1⟩
      (s.quiet ∧ s.plain ∧ s.fullX [a] ∧ s.readyV [d] ∧ s.th.wait = .none ∧ s.th.vtype.getLsbD 63 = false ∧
      s.th.etype = 12 ∧ s.th.vstride = 0 ∧ s.th.vlN = s.th.startN + 1 ∧ s.th.active s.th.startN = true ∧
      s.th.startN < 4096) ∧ s.valueAt 1 b0 1 ≠ none ∧ s.valueAt 1 b1 1 ≠ none ∧ (b1 = b0 ↔ st = 0) ∧
      s.targetOf acc b0 ≠ none ∧ s.targetOf acc b1 ≠ none
    r 0 ∧ r 1 :=
  by decide +kernel

theorem witness_scaleLoadResults :
    let s : State := tVec 8 20 0 0x10080 3 0 tBytes
    let a : BitVec 5 := 1
    s.quiet ∧ s.plain ∧ s.fullX [a] ∧ s.th.vtype.getLsbD 63 = false ∧ s.th.groups ≤ 512 ∧
    let va (g : Nat) : Word := s.gx a + BitVec.ofNat 64 g * (if s.th.vstride ≠ 0 then s.th.vstride else 1)
    (∀ g < 512, s.th.startN ≤ g → g < s.th.groups → s.valueAt 1 (va g) 1 ≠ none) :=
  by decide +kernel

theorem witness_compressedStoreResults :
    (let s : State := tVec 6 3 0 0x10080 200 0 tBytes
     let u : State := ((tVec 6 3 0 0x10080 200 0 tBytes).putList 4 (tForm (tVec 6 3 0 0x10080 200 0 tBytes))).getD
       State.reset
     let d : BitVec 5 := 4
     let a : BitVec 5 := 1
     let b : BitVec 5 := 2
     s.quiet ∧ s.plain ∧ s.fullX [a, b] ∧ s.readyV [d] ∧ s.th.wait = .none ∧ s.th.vtype.getLsbD 63 = false ∧ s.th.etype ≠ 12 ∧
     s.th.vstart = 0 ∧ (s.gx a).toNat % 8 = 0 ∧
     let w := s.th.ew / 8
     let n := s.th.vlN
     let c := (n + 63) / 64
     let st := (List.range n).filter fun i => s.th.active i && !isZeroElem s.th.etype (elemAt s.th.ew (s.vbits d) i)
     let need := 8 + 8 * c + st.length * w
     let mask := st.foldl (fun r i => r + 2 ^ i) 0
     let form : List (Nat × List Byte) := (0, bytesOfNat 8 (n + 65536 * st.length)) ::
       (List.range c).map (fun j => (8 + 8 * j, bytesOfNat 8 (mask / 2 ^ (64 * j)))) ++
       st.zipIdx.map fun p => (8 + 8 * c + p.2 * w, bytesOfNat w (elemAt s.th.ew (s.vbits d) p.1))
     need ≤ (s.gx b).toNat ∧ (s.putList 4 (form.map fun p => (s.gx a + BitVec.ofNat 64 p.1, p.2)) = some u)) ∧
    (let s : State := tVec 6 3 0 0x10080 2 0 tBytes
     let d : BitVec 5 := 4
     let a : BitVec 5 := 1
     let b : BitVec 5 := 2
     s.quiet ∧ s.plain ∧ s.fullX [a, b] ∧ s.readyV [d] ∧ s.th.wait = .none ∧ s.th.vtype.getLsbD 63 = false ∧ s.th.etype ≠ 12 ∧
     s.th.vstart = 0 ∧ (s.gx a).toNat % 8 = 0 ∧
     let w := s.th.ew / 8
     let n := s.th.vlN
     let c := (n + 63) / 64
     let st := (List.range n).filter fun i => s.th.active i && !isZeroElem s.th.etype (elemAt s.th.ew (s.vbits d) i)
     let need := 8 + 8 * c + st.length * w
     (s.gx b).toNat < need) :=
  by decide +kernel

theorem witness_expandingLoadResults :
    let s : State := tPut (tVec 3 0 0 0x10080 3 0 tBytes) 0x10080 (bytesOfNat 8 (9 + 65536 * 4) ++ bytesOfNat 8
      0b100100110 ++ bytesOfNat 32 0x1111)
    let d : BitVec 5 := 4
    let a : BitVec 5 := 1
    s.quiet ∧ s.plain ∧ s.fullX [a] ∧ s.readyV [d] ∧ s.th.wait = .none ∧ s.th.vtype.getLsbD 63 = false ∧ s.th.etype ≠ 12 ∧
    s.th.vstart = 0 ∧ (s.gx a).toNat % 8 = 0 ∧
    let w := s.th.ew
    let base := s.gx a
    let n := (s.valueAt 1 base 2).getD 0
    let z := (s.valueAt 1 (base + 2) 2).getD 0
    let c := (n + 63) / 64
    let bit (i : Nat) : Bool := ((s.valueAt 1 (base + BitVec.ofNat 64 (8 + 8 * (i / 64))) 8).getD 0).testBit (i % 64)
    let ones (i : Nat) : Nat := ((List.range i).filter bit).length
    let val (j : Nat) : Option Nat := s.valueAt 1 (base + BitVec.ofNat 64 (8 + 8 * c + j * (w / 8))) (w / 8)
    s.valueAt 1 base 2 ≠ none ∧ s.valueAt 1 (base + 2) 2 ≠ none ∧ n * w ≤ 32768 ∧ n ≤ s.th.vlmaxN / w ∧
    (∀ j < c, s.valueAt 1 (base + BitVec.ofNat 64 (8 + 8 * j)) 8 ≠ none) ∧ ones n = z ∧ (∀ j < z, val j ≠ none) :=
  by decide +kernel

theorem witness_vectorHintResults :
    let s : State := tVec 6 3 0 0x10080 3 16 tWords
    let a : BitVec 5 := 1
    let b : BitVec 5 := 2
    s.quiet ∧ s.sched.caching = false ∧ s.fullX [a] ∧ s.th.wait = .none ∧ s.th.vtype.getLsbD 63 = false ∧
    let r  : Prop :=
      True
    r ∧ s.readyForm (.indexed 32) b ∧ s.readyForm (.indexed 64) b :=
  by decide +kernel

theorem witness_scatterAddResults :
    let s : State := tOne 6 0 tBytes
    let tg : Target := tAt (tOne 6 0 tBytes) atomicAcc 0x10088
    let d : BitVec 5 := 4
    let a : BitVec 5 := 1
    let b : BitVec 5 := 2
    s.quiet ∧ s.plain ∧ s.fullX [a] ∧ s.readyV [d, b] ∧ s.th.wait = .none ∧ s.th.vtype.getLsbD 63 = false ∧
    s.th.etype ∈ [2, 3, 6, 7, 10] ∧ s.th.vlN = s.th.startN + 1 ∧ s.th.active s.th.startN = true ∧ s.mayRelease 5 ∧
    s.th.ftrap.toNat % 64 = 0 ∧
    let i := s.th.startN
    let w := s.th.ew
    let r (xw : Nat) : Prop :=
      let va := s.gx a + BitVec.ofNat 64 (elemAt xw (s.vbits b) i)
      s.readyForm (.indexed xw) b ∧ va.toNat % (w / 8) = 0 ∧ s.targetOf atomicAcc va = some tg
    r 32 ∧ r 64 :=
  by decide +kernel

theorem witness_hashAccumulateResults :
    (let s : State := tHash 3 8
     let dt : Target := tAt (tHash 3 8) atomicAcc 0x10080
     let st : Target := tAt (tHash 3 8) atomicAcc (BitVec.ofNat 64 (0x10400 + 16 * (8 * 0x9E3779B97F4A7C15 % 2 ^ 64 /
       2 ^ 60)))
     let d : BitVec 5 := 4
     let a : BitVec 5 := 1
     let b : BitVec 5 := 2
     s.quiet ∧ s.plain ∧ s.fullX [a] ∧ s.readyV [d, b] ∧ s.th.wait = .none ∧ s.th.vtype.getLsbD 63 = false ∧
     s.th.etype ∈ [2, 3, 6, 7] ∧ s.th.vlN = s.th.startN + 1 ∧ s.th.active s.th.startN = true ∧ s.mayRelease 5 ∧
     lineOf st.pa ≠ lineOf dt.pa ∧ (s.gx a).toNat % 32 = 0 ∧
     s.targetOf atomicAcc (s.gx a) = some dt ∧
     let i := s.th.startN
     let des (k n : Nat) : Nat := natOfBytes (((s.heldAt dt 32).drop k).take n)
     let lcap := des 8 8 % 32
     let base := des 0 8
     let maxocc := des 24 8
     base % 16 = 0 ∧ des 8 8 < 32 ∧ des 16 8 < 2 ^ 32 ∧ maxocc < 2 ^ 32 ∧ 4 ≤ lcap ∧ lcap ≤ 30 ∧ maxocc < 2 ^ lcap ∧
     (∀ j < (base % 4096 + 16 * 2 ^ lcap + 4095) / 4096, s.targetOf atomicAcc (if j = 0 then BitVec.ofNat 64 base
       else BitVec.ofNat 64 (base - base % 4096) + BitVec.ofNat 64 (4096 * j)) ≠ none) ∧
     let r (xw : Nat) : Prop :=
       let key := elemAt xw (s.vbits b) i
       let slot := key * 0x9E3779B97F4A7C15 % 2 ^ 64 / 2 ^ (64 - lcap)
       let held := natOfBytes ((s.heldAt st 16).take 8)
       s.readyForm (.indexed xw) b ∧ key ≠ 2 ^ 64 - 1 ∧
       s.targetOf atomicAcc (BitVec.ofNat 64 (base + 16 * slot)) = some st ∧ held = key
     r 32 ∧ r 64) ∧
    (let s : State := tHash 9 (2 ^ 64 - 1)
     let dt : Target := tAt (tHash 9 (2 ^ 64 - 1)) atomicAcc 0x10080
     let st : Target := tAt (tHash 9 (2 ^ 64 - 1)) atomicAcc (BitVec.ofNat 64 (0x10400 + 16 * (8 * 0x9E3779B97F4A7C15
       % 2 ^ 64 / 2 ^ 60)))
     let d : BitVec 5 := 4
     let a : BitVec 5 := 1
     let b : BitVec 5 := 2
     s.quiet ∧ s.plain ∧ s.fullX [a] ∧ s.readyV [d, b] ∧ s.th.wait = .none ∧ s.th.vtype.getLsbD 63 = false ∧
     s.th.etype ∈ [2, 3, 6, 7] ∧ s.th.vlN = s.th.startN + 1 ∧ s.th.active s.th.startN = true ∧ s.mayRelease 5 ∧
     lineOf st.pa ≠ lineOf dt.pa ∧ (s.gx a).toNat % 32 = 0 ∧
     s.targetOf atomicAcc (s.gx a) = some dt ∧
     let i := s.th.startN
     let des (k n : Nat) : Nat := natOfBytes (((s.heldAt dt 32).drop k).take n)
     let lcap := des 8 8 % 32
     let base := des 0 8
     let maxocc := des 24 8
     let occ := des 16 8 % 2 ^ 32
     base % 16 = 0 ∧ des 8 8 < 32 ∧ des 16 8 < 2 ^ 32 ∧ maxocc < 2 ^ 32 ∧ 4 ≤ lcap ∧ lcap ≤ 30 ∧ maxocc < 2 ^ lcap ∧
     (∀ j < (base % 4096 + 16 * 2 ^ lcap + 4095) / 4096, s.targetOf atomicAcc (if j = 0 then BitVec.ofNat 64 base
       else BitVec.ofNat 64 (base - base % 4096) + BitVec.ofNat 64 (4096 * j)) ≠ none) ∧
     let r (xw : Nat) : Prop :=
       let key := elemAt xw (s.vbits b) i
       let slot := key * 0x9E3779B97F4A7C15 % 2 ^ 64 / 2 ^ (64 - lcap)
       let held := natOfBytes ((s.heldAt st 16).take 8)
       s.readyForm (.indexed xw) b ∧ key ≠ 2 ^ 64 - 1 ∧
       s.targetOf atomicAcc (BitVec.ofNat 64 (base + 16 * slot)) = some st ∧ held = 2 ^ 64 - 1 ∧ occ < maxocc
     r 32 ∧ r 64) :=
  by decide +kernel

theorem witness_permuteResults :
    let s : State := tVec 6 4 1 1 3 0 tBytes
    let d : BitVec 5 := 4
    let a : BitVec 5 := 1
    let b : BitVec 5 := 2
    s.quiet ∧ s.th.vtype.getLsbD 63 = false ∧
    s.readyV [d, a] ∧ s.readyV [d] ∧ s.fullX [a] ∧ s.fullX [b] ∧ d ≠ a ∧ s.readyV [d, a, b] ∧ d ≠ b ∧ s.readyV [a] ∧
    s.fullX [d, b] ∧ s.fullX [a, b] ∧ (s.gx a).toNat < s.th.vx ∧ s.th.vFull (32 + (s.gx a).toNat) = true ∧
    s.readyV [b] :=
  by decide +kernel

theorem witness_mergeAndCompact :
    let s : State := tVec 6 4 0 5 7 0 tBytes
    let d : BitVec 5 := 4
    let a : BitVec 5 := 1
    let b : BitVec 5 := 2
    s.quiet ∧ s.th.vtype.getLsbD 63 = false ∧ s.th.vlN * s.th.ew ≤ 32768 ∧
    s.readyV [d, a, b] ∧ s.readyV [d, a] ∧ d ≠ a ∧ s.th.vstart = 0 :=
  by decide +kernel

theorem witness_reductionResults :
    (let s : State := tVec 6 4 0 5 7 0 tBytes
     let d : BitVec 5 := 3
     let a : BitVec 5 := 1
     let b : BitVec 5 := 2
     s.quiet ∧ s.th.vtype.getLsbD 63 = false ∧ s.th.vstart = 0 ∧ s.sched.lazy = false ∧ s.readyV [a] ∧
     s.fullX [d, b] ∧
     let e := s.th.etype
     isInt e = true) ∧
    (let s : State := tVec 10 4 0 5 7 0 tBytes
     let d : BitVec 5 := 3
     let a : BitVec 5 := 1
     let b : BitVec 5 := 2
     s.quiet ∧ s.th.vtype.getLsbD 63 = false ∧ s.th.vstart = 0 ∧ s.sched.lazy = false ∧ s.readyV [a] ∧
     s.fullX [d, b] ∧
     let e := s.th.etype
     isFp e = true) :=
  by decide +kernel

theorem witness_maskResults :
    let s : State := tVec 6 4 1 5 7 0 tBytes
    let d : BitVec 5 := 4
    let a : BitVec 5 := 0
    let b : BitVec 5 := 3
    s.quiet ∧ s.th.vtype.getLsbD 63 = false ∧ d.toNat < 16 ∧ a.toNat < 16 ∧ b.toNat < 16 ∧
    let x (i : Nat) : Bool := (s.th.mask a.toNat).testBit i
    let y (i : Nat) : Bool := (s.th.mask b.toNat).testBit i
    let ones (n : Nat) : Nat := ((List.range n).filter x).length
    let w := s.th.ew
    let r (f : Nat → Bool) : Prop :=
      True
    let v (f : Nat → Nat) : Prop :=
      True
    (r (fun i => x i && y i)) ∧ (r (fun i => x i || y i)) ∧ (r (fun i => x i != y i)) ∧ (r (fun i => x i && !y i)) ∧
    (r (fun i => !x i)) ∧ r x ∧ (r (fun _ => true)) ∧ (r (fun _ => false)) ∧ s.fullX [d] ∧ isInt s.th.etype = true ∧
    s.readyV [a] ∧ (r (fun i => elemAt w (s.vbits a) i != 0)) ∧ s.readyV [d] ∧ s.th.vlN * w ≤ 32768 ∧ v ones ∧
    (v (fun i => if x i then 1 else 0)) :=
  by decide +kernel

theorem witness_splitResults :
    let s : State := tLanes
    let d : BitVec 5 := 4
    let n : BitVec 5 := 4
    s.quiet ∧ s.sq.split = 1 ∧ s.cur.thr = 0 ∧ n ∈ [2, 4] ∧ s.fullX [d] ∧
    let w := n.toNat
    let sl := s.sq.slots
    let lanes (i : Nat) : List Nat := lanesIn s.th.lanes (sl.1 + i * sl.2 / w) (sl.2 / w)
    (∀ i < 4, i < w → lanes i ≠ []) ∧ s.th.pend = [] ∧ s.th.lanes.Nodup ∧ s.th.layout.Nodup ∧
    s.th.lanes.length * s.th.depth ≤ 512 ∧ s.th.layout.length * s.th.depth ≤ 512 ∧
    (lanes 3)[5]? = some 53 ∧ s.th.layout[53]? = some 53 ∧ 7 < s.th.depth :=
  by decide +kernel

theorem witness_joinResults :
    (let s : State := tJoin true
     s.quiet ∧ s.plain ∧ s.sq.split ∈ [2, 4] ∧ s.cur.thr < s.sq.split ∧
     let w := s.sq.split
     let q := s.cur.seq
     let th (i : Nat) : Thread := s.thread q i
     (∀ i < 4, i < w → (th i).pend = []) ∧ (∀ i < 4, i < w → i ≠ s.cur.thr → (th i).wait = .join) ∧
     (∀ i < 4, i < w → (th i).layout.Nodup ∧ (th i).layout.length * (th 0).depth ≤ 512 ∧
       ∀ j < 4, j < w → j ≠ i → ∀ lane ∈ (th i).layout, lane ∉ (th j).layout) ∧
     (liveLanes s.cp s.sq).length * (th 0).depth ≤ 512 ∧ (th 1).layout[5]? = (liveLanes s.cp s.sq)[5 + (th 0).layout.length]? ∧
     (th 1).layout[5]? ≠ none) ∧
    (let s : State := tJoin false
     s.quiet ∧ s.plain ∧ s.sq.split ∈ [2, 4] ∧ s.cur.thr < s.sq.split ∧
     let w := s.sq.split
     let q := s.cur.seq
     let th (i : Nat) : Thread := s.thread q i
     (∀ i < 4, i < w → (th i).pend = []) ∧ (∃ i < 4, i < w ∧ i ≠ s.cur.thr ∧ (th i).wait ≠ .join)) :=
  by decide +kernel

theorem witness_exchangeResults :
    (let s : State := tPeers
     let q : Nat := 4
     let u : Nat := 0
     let d : BitVec 5 := 3
     let a : BitVec 5 := 1
     let b : BitVec 5 := 2
     s.quiet ∧ d.toNat < s.th.vn ∧ s.fullX [a] ∧ s.readyV [b] ∧ s.peerOf (s.gx a) = some q ∧
     let p := s.thread q s.cur.thr
     q ≠ s.cur.seq ∧ d.toNat < p.vn ∧ p.vFull d.toNat = false ∧ s.cur = ⟨s.cur.seq, u⟩ ∧ s.th.wait = .peer ∧
     fieldD s.th.ir = d ∧ fieldA s.th.ir = a ∧ fieldB s.th.ir = b) ∧
    (let s : State := tRegs 5 7 9
     let a : BitVec 5 := 1
     let b : BitVec 5 := 2
     s.quiet ∧ s.fullX [a] ∧ s.readyV [b] ∧ s.peerOf (s.gx a) = none ∧ s.th.wait ≠ .peer) ∧
    (let s : State := (tRegs 5 7 9).setTh { (tRegs 5 7 9).th with wait := .peer }
     let a : BitVec 5 := 1
     let b : BitVec 5 := 2
     s.quiet ∧ s.fullX [a] ∧ s.readyV [b] ∧ s.peerOf (s.gx a) = none ∧ s.th.wait = .peer) :=
  by decide +kernel

/-- A sequencer that holds a claim. -/
theorem witness_exitResults :
    let s : State := tQueue 5 2 5 2 false
    let s : State := s.setSq { s.sq with claims := [⟨tHead, 0x10080, tDxp, 0, 2⟩] }
    s.quiet ∧ s.sq.split = 1 ∧ s.plain ∧ s.th.claiming = false ∧ s.engineBusy s.cur.seq = false ∧
    (s.resvs.any (fun r => r.seq = some s.cur.seq) = false) ∧
    (∀ c ∈ s.sq.claims, s.headFails c.header = true ∨ s.countReady (homeDie c.header.pa) 0 c.header = true) :=
  by decide +kernel

/-- Work enough; some, on a closed queue; none, on a closed queue; too little, with a rebind asked of one of two
instances; too little. -/
theorem witness_claimResults :
    (let s : State := tQueue 5 2 5 2 false
     s.quiet ∧ s.plain ∧ s.fullX [3, 1, 2] ∧
     let va := s.gx 1
     let tg := s.goesTo tHeadAcc va
     let s' := s.walkedTo tHeadAcc va
     let h := s'.header tg.head
     let n := (s.gx 2).toNat
     let need := min n (h.threshold s.th)
     va.toNat % 64 = 0 ∧ s.reaches tHeadAcc va ∧ QHeader.ofBytes (s'.heldAt tg 64) = h ∧ s.sq.split = 1 ∧
     s.th.wait = .none ∧ s.th.claiming = false ∧ h.fault true = none ∧ 0 < n ∧ n ≤ min (2 ^ h.lcap) (2 ^ 30 - 1) ∧
     s.sq.claims = [] ∧ s.sq.rebound = [] ∧ s.freed = [] ∧
     need ≤ h.avail) ∧
    (let s : State := (tQueue 3 2 3 2 true)
     s.quiet ∧ s.plain ∧ s.fullX [3, 1, 2] ∧
     let va := s.gx 1
     let tg := s.goesTo tHeadAcc va
     let s' := s.walkedTo tHeadAcc va
     let h := s'.header tg.head
     let n := (s.gx 2).toNat
     let need := min n (h.threshold s.th)
     va.toNat % 64 = 0 ∧ s.reaches tHeadAcc va ∧ QHeader.ofBytes (s'.heldAt tg 64) = h ∧ s.sq.split = 1 ∧
     s.th.wait = .none ∧ s.th.claiming = false ∧ h.fault true = none ∧ 0 < n ∧ n ≤ min (2 ^ h.lcap) (2 ^ 30 - 1) ∧
     s.sq.claims = [] ∧ s.sq.rebound = [] ∧ s.freed = [] ∧
     (h.closed = true ∧ 0 < h.avail)) ∧
    (let s : State := tQueue 2 2 2 2 true
     s.quiet ∧ s.plain ∧ s.fullX [3, 1, 2] ∧
     let va := s.gx 1
     let tg := s.goesTo tHeadAcc va
     let s' := s.walkedTo tHeadAcc va
     let h := s'.header tg.head
     let n := (s.gx 2).toNat
     let need := min n (h.threshold s.th)
     va.toNat % 64 = 0 ∧ s.reaches tHeadAcc va ∧ QHeader.ofBytes (s'.heldAt tg 64) = h ∧ s.sq.split = 1 ∧
     s.th.wait = .none ∧ s.th.claiming = false ∧ h.fault true = none ∧ 0 < n ∧ n ≤ min (2 ^ h.lcap) (2 ^ 30 - 1) ∧
     s.sq.claims = [] ∧ s.sq.rebound = [] ∧ s.freed = [] ∧
     h.avail = 0 ∧ h.closed = true ∧ 0 < h.threshold s.th) ∧
    (let s : State := tQueue 2 2 2 2 false
     let s : State := { s with seqs := (0, { s.sq with rebind := true }) :: [(4, { bound := s.sq.bound, groups := 15 })] }
     s.quiet ∧ s.plain ∧ s.fullX [3, 1, 2] ∧
     let va := s.gx 1
     let tg := s.goesTo tHeadAcc va
     let s' := s.walkedTo tHeadAcc va
     let h := s'.header tg.head
     let n := (s.gx 2).toNat
     let need := min n (h.threshold s.th)
     va.toNat % 64 = 0 ∧ s.reaches tHeadAcc va ∧ QHeader.ofBytes (s'.heldAt tg 64) = h ∧ s.sq.split = 1 ∧
     s.th.wait = .none ∧ s.th.claiming = false ∧ h.fault true = none ∧ 0 < n ∧ n ≤ min (2 ^ h.lcap) (2 ^ 30 - 1) ∧
     s.sq.claims = [] ∧ s.sq.rebound = [] ∧ s.freed = [] ∧
     h.avail < need ∧ h.closed = false ∧ s.sq.rebind = true ∧ s.notLast = true) ∧
    (let s : State := tQueue 2 2 2 2 false
     s.quiet ∧ s.plain ∧ s.fullX [3, 1, 2] ∧
     let va := s.gx 1
     let tg := s.goesTo tHeadAcc va
     let s' := s.walkedTo tHeadAcc va
     let h := s'.header tg.head
     let n := (s.gx 2).toNat
     let need := min n (h.threshold s.th)
     va.toNat % 64 = 0 ∧ s.reaches tHeadAcc va ∧ QHeader.ofBytes (s'.heldAt tg 64) = h ∧ s.sq.split = 1 ∧
     s.th.wait = .none ∧ s.th.claiming = false ∧ h.fault true = none ∧ 0 < n ∧ n ≤ min (2 ^ h.lcap) (2 ^ 30 - 1) ∧
     s.sq.claims = [] ∧ s.sq.rebound = [] ∧ s.freed = [] ∧
     h.avail < need ∧ h.closed = false ∧ ((s.sq.rebind && s.notLast) = false)) :=
  by decide +kernel

theorem witness_appendResults :
    (let s : State := tAppend 0
     let tg : Target := tAt (tAppend 0) tHeadAcc 0x10080
     let d : BitVec 5 := 3
     let a : BitVec 5 := 1
     let b : BitVec 5 := 2
     s.quiet ∧ s.plain ∧ s.fullX [d, a, b] ∧
     let h := s.header tg.head
     let acc : Acc := ⟨4, false, true, false, false, false, 2 ^ h.esz⟩
     (s.gx a).toNat % 64 = 0 ∧ s.targetOf ⟨6, true, true, false, false, true, 64⟩ (s.gx a) = some tg ∧
     QHeader.ofBytes (s.heldAt tg 64) = h ∧ s.th.wait = .none ∧ s.th.vtype.getLsbD 63 = false ∧ s.th.vstart = 0 ∧
     h.fault false = none ∧ h.base.toNat % 4096 = 0 ∧ h.lcap + h.esz ≤ 12 ∧ s.targetOf acc h.base ≠ none ∧
     (List.range s.th.vlN).filter s.th.active = []) ∧
    (let s : State := tAppend 0x80
     let tg : Target := tAt (tAppend 0x80) tHeadAcc 0x10080
     let et : Target := tAt (tAppend 0x80) ⟨4, false, true, false, false, false, 4⟩ 0x10000
     let d : BitVec 5 := 3
     let a : BitVec 5 := 1
     let b : BitVec 5 := 2
     let i : Nat := 7
     s.quiet ∧ s.plain ∧ s.fullX [d, a, b] ∧
     let h := s.header tg.head
     let acc : Acc := ⟨4, false, true, false, false, false, 2 ^ h.esz⟩
     (s.gx a).toNat % 64 = 0 ∧ s.targetOf ⟨6, true, true, false, false, true, 64⟩ (s.gx a) = some tg ∧
     QHeader.ofBytes (s.heldAt tg 64) = h ∧ s.th.wait = .none ∧ s.th.vtype.getLsbD 63 = false ∧ s.th.vstart = 0 ∧
     h.fault false = none ∧ h.base.toNat % 4096 = 0 ∧ h.lcap + h.esz ≤ 12 ∧ s.targetOf acc h.base ≠ none ∧
     (List.range s.th.vlN).filter s.th.active = [i] ∧ h.resv = h.tail ∧ s.resvs = [] ∧
     (h.resv - h.free).toNat < 2 ^ h.lcap ∧ h.mode = 0 ∧ et.place.isMem = true ∧ lineOf et.pa ≠ lineOf tg.pa ∧
     (M.state (countM tg.head offResv (h.resv + 1) none) s).targetOf acc (h.base + BitVec.ofNat 64 (h.resv.toNat %
       2 ^ h.lcap * 2 ^ h.esz)) = some et) :=
  by decide +kernel

theorem witness_sparseResults :
    let s : State := tVec 6 6 0 3 1 0 tBytes
    let d : BitVec 5 := 2
    let a : BitVec 5 := 0
    let b : BitVec 5 := 1
    s.quiet ∧ s.feature 10 = true ∧ s.th.vn = 32 ∧ s.th.vtype.getLsbD 63 = false ∧ s.th.etype ∈ [2, 6, 10] ∧
    s.th.vstart = 0 ∧ s.sched.lazy = false ∧ s.th.ftrap.toNat % 64 = 0 ∧ s.th.sparseCap ≤ 1024 ∧
    let pairs (t : Thread) (q : BitVec 5) : List (Nat × Nat) := (List.range (t.qlenN q)).map fun j =>
      (elemAt 32 (t.vreg (16 + 2 * q.toNat)).bits.toNat j, elemAt 32 (t.vreg (17 + 2 * q.toNat)).bits.toNat j)
    let full (q : BitVec 5) : Prop := q.toNat < 8 ∧ s.th.vFull (16 + 2 * q.toNat) = true ∧
      s.th.vFull (17 + 2 * q.toNat) = true
    let source (q : BitVec 5) : Prop := full q ∧ s.th.qlenN q ≤ s.th.sparseCap ∧
      ((pairs s.th q).map (·.1)).Pairwise (· < ·)
    let A := pairs s.th a
    let B := pairs s.th b
    let both := A.filterMap fun p => (B.lookup p.1).map fun y => (p.2, y)
    source a ∧ source b ∧ full d ∧ (A.map (·.1) ++ B.map (·.1)).eraseDups.length ≤ s.th.sparseCap ∧
    both.length ≤ s.th.sparseCap ∧ s.fullX [d] ∧ s.readyV [d] ∧ d.toNat ≠ 16 + 2 * a.toNat ∧
    d.toNat ≠ 17 + 2 * a.toNat ∧ s.fullX [b] ∧ s.readyV [a] ∧ a.toNat ≠ 16 + 2 * d.toNat ∧
    a.toNat ≠ 17 + 2 * d.toNat ∧
    let act := (List.range s.th.vlN).filter s.th.active
    (s.gx b).toNat % 2 ^ 32 + s.th.vlN ≤ 2 ^ 32 ∧ act.length ≤ s.th.sparseCap :=
  by decide +kernel

theorem witness_sparseMemoryResults :
    let s : State := tPut (tVec 6 6 0 0x10080 2 0 tBytes) 0x10080 (bytesOfNat 8 7 ++ bytesOfNat 8 9)
    let u : State := ((tPut (tVec 6 6 0 0x10080 2 0 tBytes) 0x10080 (bytesOfNat 8 7 ++ bytesOfNat 8 9)).putList 4
      [(0x10080, bytesOfNat 8 0xFFFFFFFF00000001), (0x10088, bytesOfNat 8 0x4000000000000002), (0x10090, bytesOfNat 8
        0x3F80000000000004), (0x10098, bytesOfNat 8 0x4000000000000005)]).getD State.reset
    let d : BitVec 5 := 0
    let a : BitVec 5 := 1
    let b : BitVec 5 := 2
    s.quiet ∧ s.plain ∧ s.feature 10 = true ∧ s.th.vn = 32 ∧ s.th.vtype.getLsbD 63 = false ∧ s.th.etype ∈ [2, 6, 10] ∧
    s.th.sparseCap ≤ 1024 ∧ d.toNat < 8 ∧ s.th.vFull (16 + 2 * d.toNat) = true ∧
    s.th.vFull (17 + 2 * d.toNat) = true ∧ s.fullX [a, b] ∧ s.th.wait = .none ∧ s.th.vstart = 0 ∧ (s.gx a).toNat % 8 = 0 ∧
    let n := (s.gx b).toNat
    let va (j : Nat) : Word := s.gx a + BitVec.ofNat 64 (8 * j)
    let val (j : Nat) : Nat := (s.valueAt 1 (va j) 8).getD 0
    let pairs (t : Thread) : List (Nat × Nat) := (List.range (t.qlenN d)).map fun j =>
      (elemAt 32 (t.vreg (16 + 2 * d.toNat)).bits.toNat j, elemAt 32 (t.vreg (17 + 2 * d.toNat)).bits.toNat j)
    n ≤ s.th.sparseCap ∧ (∀ j < n, s.valueAt 1 (va j) 8 ≠ none) ∧
    (((List.range n).map fun j => val j % 2 ^ 32).Pairwise (· < ·)) ∧ s.th.qlenN d ≤ s.th.sparseCap ∧
    ((pairs s.th).map (·.1)).Pairwise (· < ·) ∧
    (s.putList 4 ((pairs s.th).zipIdx.map fun p => (va p.2, bytesOfNat 8 (p.1.1 + p.1.2 * 2 ^ 32))) = some u) :=
  by decide +kernel

theorem witness_verdictResults :
    (let s : State := tVerdict 0x7FAA0001
     let d : BitVec 5 := 4
     let a : BitVec 5 := 1
     let b : BitVec 5 := 2
     s.quiet ∧ s.feature 9 = true ∧ s.th.vtype.getLsbD 63 = false ∧ s.th.ftrap.toNat % 64 = 0 ∧
     let e := s.th.etype
     let w := s.th.ew
     s.fullX [a] ∧ s.readyV [d, a] ∧ e ∈ [8, 10] ∧ s.th.vverd.toNat % 4 ≠ 0 ∧ s.fullX [b] ∧ d ≠ a ∧ e = 10 ∧
     s.th.vstart = 0 ∧ s.th.vlN < s.th.vlmaxN / w ∧ s.th.vlmaxN ≤ 32768 ∧
     (let breg := s.th.vverd.toNat / 16 % 32
      let sd := elemAt 32 (s.vbits d) 0
      s.readyV [d, a, b] ∧ d.toNat + 1 < s.th.vn ∧ s.th.vFull (d.toNat + 1) = true ∧ breg < s.th.vn ∧
      s.th.vFull breg = true ∧ a.toNat ≠ d.toNat ∧ a.toNat ≠ d.toNat + 1 ∧ b.toNat ≠ d.toNat ∧ b.toNat ≠ d.toNat + 1 ∧
      breg ≠ d.toNat ∧ breg ≠ d.toNat + 1 ∧ (isFp e = true ∨ isTb e = true) ∧ s.th.vstart = 0 ∧ isAbn f32 sd = true)) ∧
    (let s : State := tVerdict 0x3F800000
     let d : BitVec 5 := 4
     let a : BitVec 5 := 1
     let b : BitVec 5 := 2
     s.quiet ∧ s.feature 9 = true ∧ s.th.vtype.getLsbD 63 = false ∧ s.th.ftrap.toNat % 64 = 0 ∧
     let e := s.th.etype
     let breg := s.th.vverd.toNat / 16 % 32
     let hd := elemAt 32 (s.th.vreg (d.toNat + 1)).bits.toNat 0
     let sd := elemAt 32 (s.vbits d) 0
     s.readyV [d, a, b] ∧ d.toNat + 1 < s.th.vn ∧ s.th.vFull (d.toNat + 1) = true ∧ breg < s.th.vn ∧
     s.th.vFull breg = true ∧ a.toNat ≠ d.toNat ∧ a.toNat ≠ d.toNat + 1 ∧ b.toNat ≠ d.toNat ∧ b.toNat ≠ d.toNat + 1 ∧
     breg ≠ d.toNat ∧ breg ≠ d.toNat + 1 ∧ (isFp e = true ∨ isTb e = true) ∧ s.th.vstart = 0 ∧ isAbn f32 sd = false ∧
     isAbn f32 hd = false) :=
  by decide +kernel

theorem witness_tileResults :
    (let s : State := tTile 10 3 1 2
     let d : BitVec 5 := 4
     let a : BitVec 5 := 1
     let b : BitVec 5 := 2
     s.quiet ∧ s.th.vtype.getLsbD 63 = false ∧ 4096 ≤ s.th.vlmaxN ∧ s.th.startN ≤ 128 ∧ s.sq.follow = [] ∧
     let q := s.sq
     let i := (s.gx b).toNat
     q.split = 1 ∧ q.zon = true ∧ q.tileOn d.toNat = true ∧
     (∃ k < 32,
        q.tileOn (32 + k) = true) ∧
     s.feature 9 = true ∧ s.th.etype = 10 ∧ s.readyV [a] ∧ s.fullX [a] ∧ s.th.vlN ≤ 128 ∧ s.fullX [b] ∧ i < 128) ∧
    (let s : State := (let s := tTile 10 3 1 2; s.setSq { s.sq with zon := false, zn := 0 })
     let a : BitVec 5 := 1
     s.quiet ∧ s.th.vtype.getLsbD 63 = false ∧ 4096 ≤ s.th.vlmaxN ∧ s.th.startN ≤ 128 ∧ s.sq.follow = [] ∧
     let q := s.sq
     let n := (s.gx a).toNat
     q.split = 1 ∧ s.fullX [a] ∧ 1 ≤ n ∧ n ≤ q.tiles ∧ q.zon = false) :=
  by decide +kernel

theorem witness_matrixSteps :
    (let s : State := tZ 8 0
     let d : BitVec 5 := 4
     let a : BitVec 5 := 1
     let b : BitVec 5 := 2
     let l : List Nat := (tStream (tZ 8 0)).1
     let n : Nat := (tStream (tZ 8 0)).2
     s.quiet ∧ s.th.vtype.getLsbD 63 = false ∧ 4096 ≤ s.th.vlmaxN ∧ s.th.startN ≤ 128 ∧ s.sq.follow = [] ∧
     s.sq.zon = true ∧ s.sq.tileOn d.toNat = true ∧ (isFp s.th.etype = true ∨ isTb s.th.etype = true) ∧
     s.th.ftrap.toNat % 64 = 0 ∧ s.readyV [a] ∧
     let e := s.th.etype
     let w := s.th.ew
     let step (y : Nat → Nat) : Prop :=
       True
     s.readyV [b] ∧ step (elemAt w (s.vbits b)) ∧ s.fullX [b] ∧ (s.gx b).toNat % 4 = 0 ∧
     (let x := expandStream s.sq.wbuf s.sq.wbufSize (w / 8) (4 * kDepth e) (s.gx b).toNat
      x = .ok (l, n) ∧ (step (fun i => l.getD i 0))) ∧
     s.feature 9 = true ∧ s.th.startN < 128) ∧
    (let s : State := tZ 8 0xFFFFFFFFC
     let d : BitVec 5 := 4
     let a : BitVec 5 := 1
     let b : BitVec 5 := 2
     let n : Nat := 0xFFFFFFFFC
     s.quiet ∧ s.th.vtype.getLsbD 63 = false ∧ 4096 ≤ s.th.vlmaxN ∧ s.th.startN ≤ 128 ∧ s.sq.follow = [] ∧
     s.sq.zon = true ∧ s.sq.tileOn d.toNat = true ∧ (isFp s.th.etype = true ∨ isTb s.th.etype = true) ∧
     s.th.ftrap.toNat % 64 = 0 ∧ s.readyV [a] ∧
     let e := s.th.etype
     let w := s.th.ew
     s.fullX [b] ∧ (s.gx b).toNat % 4 = 0 ∧
     let x := expandStream s.sq.wbuf s.sq.wbufSize (w / 8) (4 * kDepth e) (s.gx b).toNat
     x = .error n) :=
  by decide +kernel

theorem witness_commandIssue :
    (let s : State := tPut (tTile 10 3 0x10100 0x2000000000000000) 0x10100 (tCopyDesc 0x10088 0x10100 3)
     let d : BitVec 5 := 6
     let a : BitVec 5 := 1
     let b : BitVec 5 := 2
     let bs : List Byte := tCopyDesc 0x10088 0x10100 3
     s.quiet ∧ s.plain ∧ s.fullX [d, a, b] ∧ s.th.wait = .none ∧
     let va := s.gx a
     let f := s.gx b
     let at_ (n : Nat) : Prop := va.toNat % (64 * n) = 0 ∧ s.descAt va n = some bs
     let issued (u kind : Nat) (fo : Word) : Prop :=
       (s.unitQueue u).length < unitDepth u
     at_ 2 ∧ issued s.coreNo 0 0 ∧ s.sq.zon = true ∧ s.sq.tileOn (f.toNat / 2 ^ 59) = true ∧ issued s.coreNo 1 f ∧
     (s.unitQueue s.coreNo).length < 64 ∧ s.feature 11 = true ∧
     issued (264 + 4 * s.dieNo + (dwordOf bs 0).toNat % 4) 3 0 ∧ s.feature 12 = true ∧ issued (296 + s.dieNo) 4 0) ∧
    (let s : State := tPut (tTile 10 3 0x10100 0x2000000000000000) 0x10100 (tCopyDesc 0x10088 0x10100 3)
     let d : BitVec 5 := 6
     let a : BitVec 5 := 1
     let b : BitVec 5 := 2
     let bs : List Byte := (tCopyDesc 0x10088 0x10100 3).take 64
     s.quiet ∧ s.plain ∧ s.fullX [d, a, b] ∧ s.th.wait = .none ∧
     let va := s.gx a
     let at_ (n : Nat) : Prop := va.toNat % (64 * n) = 0 ∧ s.descAt va n = some bs
     let issued (u kind : Nat) (fo : Word) : Prop :=
       (s.unitQueue u).length < unitDepth u
     at_ 1 ∧ s.feature 11 = true ∧ issued (264 + 4 * s.dieNo + (dwordOf bs 0).toNat % 4) 2 0 ∧
     (((s.die s.dieNo).dlq.filter fun l => l.node.isNone).length < 64)) ∧
    (let s : State := tPut (tTile 10 3 0x10100 0x2000000000000000) 0x10100 (tCopyDesc 0x10088 0x10100 3)
     let d : BitVec 5 := 6
     let a : BitVec 5 := 1
     let b : BitVec 5 := 2
     let bs : List Byte := tCopyDesc 0x10088 0x10100 3 ++ List.replicate 128 0
     s.quiet ∧ s.plain ∧ s.fullX [d, a, b] ∧ s.th.wait = .none ∧
     let va := s.gx a
     let at_ (n : Nat) : Prop := va.toNat % (64 * n) = 0 ∧ s.descAt va n = some bs
     at_ 4 ∧ s.walkerFull s.dieNo = false) :=
  by decide +kernel

theorem witness_copyEngineResults :
    (let s : State := tUnit 0 (tCommand 0 (tCopyDesc 0x10088 0x10100 3) none 0 0 false)
     let u : Nat := 0
     let c : Command := tCommand 0 (tCopyDesc 0x10088 0x10100 3) none 0 0 false
     let l : List Command := []
     let k : CopyDesc := (CopyDesc.ofBytes (tCopyDesc 0x10088 0x10100 3) true).getD ⟨0, 0, 0, 0, false, false, false,
       0, []⟩
     let st : Target := (tAt (tUnit 0 (tCommand 0 [] none 0 0 false)) ⟨10, true, false, false, false, false, 8⟩ 0x10088)
     let dt : Target := (tAt (tUnit 0 (tCommand 0 [] none 0 0 false)) ⟨11, false, true, false, false, false, 8⟩ 0x10100)
     s.plain ∧ s.unitQueue u = c :: l ∧ u < 264 ∧ c.pagerStage = 0 ∧ c.past = [] ∧
     let n := 2 ^ k.esz
     c.code = none ∧ c.done = 0 ∧ CopyDesc.ofBytes c.desc (c.kind = 1 || (c.node.isNone && c.queue.isNone)) = some k ∧
     k.tuples = 1 ∧ k.dkind = 0 ∧ k.spod = false ∧ k.dpod = false ∧ k.src.toNat % n = 0 ∧ k.dst.toNat % n = 0 ∧
     s.targetFor (unitCore u) c.dxp c.level ⟨10, true, false, false, false, false, n⟩ k.src = some st ∧
     s.targetFor (unitCore u) c.dxp c.level ⟨11, false, true, false, false, false, n⟩ k.dst = some dt ∧ dt.place.isMem = true) ∧
    (let s : State := tUnit 0 (tCommand 0 [] (some 0) 8 0 false)
     let u : Nat := 0
     let r : Nat := 6
     let q : Nat := 0
     let h : Nat := 0
     let c : Command := tCommand 0 [] (some 0) 8 0 false
     let l : List Command := []
     s.plain ∧ s.unitQueue u = c :: l ∧ u < 264 ∧ c.pagerStage = 0 ∧ c.past = [] ∧
     c.code ≠ none ∧ c.followDue = false ∧ c.kind = 0 ∧ c.boltBytes = none ∧ c.node = none ∧ c.queue = none ∧
     c.ticket = r ∧ r ≠ 0 ∧ c.seq = some q ∧ c.thr = h ∧ h < 4 ∧ (s.thread q h).pend = [.ticket r c.id] ∧
     (∀ e ∈ s.threads, e.1 ≠ 4 * q + h → e.2.pend = []) ∧ s.saved = []) ∧
    (let s : State := tUnit 255 (tCommand 1 [] (some 0) 8 0 true)
     let u : Nat := 255
     let c : Command := tCommand 1 [] (some 0) 8 0 true
     let l : List Command := []
     s.plain ∧ s.unitQueue u = c :: l ∧ u < 264 ∧ c.pagerStage = 0 ∧ c.past = [] ∧
     u < 256 ∧ c.followDue = true ∧ c.code = some 0) :=
  by decide +kernel

theorem witness_frameAndFormatResults :
    (let s : State := tFrames 270 (tCommand 2 (tFrameDesc 1) none 0 0 false)
     let d : Nat := 1
     let g : Nat := 2
     let c : Command := tCommand 2 (tFrameDesc 1) none 0 0 false
     let l : List Command := []
     d < 8 ∧ g < 4 ∧ c.pagerStage = 0 ∧ c.code = none ∧
     let u := 264 + 4 * d + g
     let op := (dwordOf c.desc 0).toNat / 2 ^ 10 % 4
     let m := dwordOf c.desc 8
     let w := (dwordOf c.desc 0x28).toNat / 2 ^ 48
     let hh := (dwordOf c.desc 0x28).toNat / 2 ^ 32 % 2 ^ 16
     let up (n : Nat) : Nat := (n + 63) / 64 * 64
     s.unitQueue u = c :: l ∧ c.kind = 2 ∧ frameFields c.desc ≠ none ∧ (s.frame d g).live = true ∧ op = 1 ∧
     m.toNat % 4096 = 0 ∧ 9 * up w * up hh * 3 ≤ (dwordOf c.desc 0x10).toNat) ∧
    (let s : State := tFrames 270 (tCommand 2 (tFrameDesc 2) none 0 0 false)
     let d : Nat := 1
     let g : Nat := 2
     let c : Command := tCommand 2 (tFrameDesc 2) none 0 0 false
     let l : List Command := []
     d < 8 ∧ g < 4 ∧ c.pagerStage = 0 ∧ c.code = none ∧
     let u := 264 + 4 * d + g
     let op := (dwordOf c.desc 0).toNat / 2 ^ 10 % 4
     let k := (dwordOf c.desc 0).toNat / 2 ^ 4 % 8
     s.unitQueue u = c :: l ∧ c.kind = 2 ∧ frameFields c.desc ≠ none ∧ (s.frame d g).live = true ∧ op = 2 ∧
     (s.frame d g).ctx k ≠ none) ∧
    (let s : State := tFrames 270 (tCommand 3 tResize none 0 0 false)
     let d : Nat := 1
     let g : Nat := 2
     let c : Command := tCommand 3 tResize none 0 0 false
     let c' : Command := tVal (tCommand 3 tResize none 0 0 false) (resizeData 1 2 (tCommand 3 tResize none 0 0 false)
       ((tCommand 3 tResize none 0 0 false).resume (tFrames 270 (tCommand 3 tResize none 0 0 false))))
     let l : List Command := []
     let e : Eng := tEng (resizeData 1 2 (tCommand 3 tResize none 0 0 false) ((tCommand 3 tResize none 0 0 false).resume (tFrames 270
       (tCommand 3 tResize none 0 0 false))))
     (d < 8 ∧ g < 4 ∧ c.pagerStage = 0 ∧ c.code = none) ∧
     let u := 264 + 4 * d + g
     (s.unitQueue u = c :: l ∧ c.kind = 3) ∧ resizeData d g c (c.resume s) = .ok c' e) ∧
    (let s : State := tFrames 297 (tCommand 4 tConvert none 0 0 false)
     let d : Nat := 1
     let g : Nat := 2
     let c : Command := tCommand 4 tConvert none 0 0 false
     let c' : Command := tVal (tCommand 4 tConvert none 0 0 false) (fcvData 1 (tCommand 4 tConvert none 0 0 false)
       ((tCommand 4 tConvert none 0 0 false).resume (tFrames 297 (tCommand 4 tConvert none 0 0 false))))
     let l : List Command := []
     let e : Eng := tEng (fcvData 1 (tCommand 4 tConvert none 0 0 false) ((tCommand 4 tConvert none 0 0 false).resume (tFrames 297
       (tCommand 4 tConvert none 0 0 false))))
     (d < 8 ∧ g < 4 ∧ c.pagerStage = 0 ∧ c.code = none) ∧
     s.unitQueue (296 + d) = c :: l ∧ fcvData d c (c.resume s) = .ok c' e) :=
  ⟨by decide +kernel, by decide +kernel, ⟨by decide +kernel, ⟨by decide +kernel, tOk _ (by decide +kernel)⟩⟩,
    ⟨by decide +kernel, ⟨by decide +kernel, tOk _ (by decide +kernel)⟩⟩⟩

theorem witness_graphNodeResults :
    let s : State := tGraph true
    let g : Graph := tGraphRec true
    let n : Nat := 0
    let st : Nat := 5
    let op : Nat := 0
    let bad : Bool := true
    s.graph g.id = some g ∧ (g.results.find? (fun r => r.1 = n) = some (n, st, bad, op)) ∧ s.opDone op = true ∧ g.todo = [] ∧ g.ending = none :=
  by decide +kernel

theorem witness_barrierResults :
    (let s : State := tBarrier []
     let b : Binding := ⟨5, 0, 0⟩
     s.quiet ∧ s.plain ∧ s.sq.split = 1 ∧ s.sq.bound = some b ∧ s.th.claiming = false ∧
     let core := s.coreNo
     let r (level : Nat) : Prop :=
       let n := s.members level (unitOf level core) b.launch
       (s.sq.arrivals.find? (fun a => a.level = level) = none) ∧ n.2 + 1 = n.1
     r 1 ∧ r 2 ∧ r 3 ∧ r 4 ∧ s.feature 18 = true ∧ s.copyBusy s.cur.seq = false ∧ r 5) ∧
    (let s : State := tBarrier [2]
     let b : Binding := ⟨5, 0, 0⟩
     s.quiet ∧ s.plain ∧ s.sq.split = 1 ∧ s.sq.bound = some b ∧ s.th.claiming = false ∧
     let core := s.coreNo
     let r (level : Nat) : Prop :=
       let n := s.members level (unitOf level core) b.launch
       (s.sq.arrivals.find? (fun a => a.level = level) = none) ∧ n.2 + 1 < n.1
     r 1 ∧ r 2 ∧ r 3 ∧ r 4 ∧ s.feature 18 = true ∧ s.copyBusy s.cur.seq = false ∧ r 5) :=
  by decide +kernel

/-- Every member has arrived, outside a pod and in one; one has not. -/
theorem witness_barrierTests :
    let s : State := tBarrier []
    let t : State := s.setSq { s.sq with arrivals := [⟨4, 0, 1, 0⟩, ⟨5, 0, 2, 0⟩] }
    s.barrierReady 4 0 5 = false ∧ t.barrierReady 4 0 5 = true ∧
    ({ t with podctl := 0x8000000000000000 } : State).barrierReady 5 0 5 = true := by decide +kernel

theorem witness_debugResults :
    let s : State := tDebug
    let d : BitVec 5 := 6
    let a : BitVec 5 := 1
    let b : BitVec 5 := 2
    s.quiet ∧
    s.fullX [d, a, b] ∧ s.fullX [d] ∧ s.th.level = .supervisor ∧ s.readyV [d] ∧ s.th.vtype.getLsbD 63 = false ∧
    s.th.vlN * s.th.ew ≤ 32768 :=
  by decide +kernel

/-- Core 0 traces the kinds of EN in slot 0, and its trigger 0 compares with an address. -/
def tTraced (s : State) (en : Nat) (kind : Nat) (act : Bool) (addr : Nat) : State :=
  s.setCore 0 { s.core 0 with
    trcctl := BitVec.ofNat 64 (0x100 + en)
    trgctl := [(0, BitVec.ofNat 64 (2 ^ 63 + (if act then 2 ^ 62 else 0) + kind * 2 ^ 60))]
    trgaddr := [(0, BitVec.ofNat 64 addr)] }

/-- A trigger at the position, that traps or does not; none, for a jump, a trap and a mask operation; at the address of
a load, that traps or does not, and of a store; at a load's second element; and a trace that is frozen. -/
theorem witness_traceAndTriggers :
    let base (s : State) : Prop := s.cp.traced s.slotNo = true ∧ s.cur.thr < 4 ∧ s.th.wait = .none ∧ s.th.pend = []
    let live (s : State) : Prop := base s ∧ s.cp.frozen = false
    let handled (s : State) : Prop := s.sq.tvec ≠ 0 ∧ s.th.tstat.getLsbD 5 = false
    let m : State := tVec 6 4 0 0x10080 2 0 tBytes
    (let s := tTraced m 15 0 true 0x10000
     live s ∧ s.hits [0] s.th.pc ≠ [] ∧ s.traps (s.hits [0] s.th.pc) = true ∧ handled s) ∧
    (let s := tTraced m 15 0 false 0x10000
     live s ∧ s.hits [0] s.th.pc ≠ [] ∧ s.traps (s.hits [0] s.th.pc) = false ∧ s.fullX [3, 1]) ∧
    (let s := tTraced m 15 0 true 0x20000
     live s ∧ s.hits [0] s.th.pc = [] ∧ s.th.ldepth = 0 ∧ s.th.xFull 31 = true ∧ handled s ∧
     s.th.vtype.getLsbD 63 = false) ∧
    (∀ act, let s := tTraced m 15 1 act 0x10080
     live s ∧ s.hits [0] s.th.pc = [] ∧ s.plain ∧ s.fullX [3, 1] ∧
     let va := s.gx 1 + BitVec.ofInt 64 (0 : BitVec 14).toInt
     va.toNat % 8 = 0 ∧ s.reaches (scalarLoadAcc 3) va ∧ s.hits [1, 3] va ≠ [] ∧ s.traps (s.hits [1, 3] va) = act) ∧
    (let s := tTraced m 15 2 true 0x10080
     live s ∧ s.hits [0] s.th.pc = [] ∧ s.plain ∧ s.fullX [3, 1] ∧ handled s ∧
     let va := s.gx 1 + BitVec.ofInt 64 (0 : BitVec 14).toInt
     va.toNat % 8 = 0 ∧ s.reaches (scalarLoadAcc 3) va ∧ s.hits [1, 3] va = [] ∧ s.traps (s.hits [2, 3] va) = true) ∧
    (let s := tTraced m 11 1 true 0x10084
     live s ∧ s.hits [0] s.th.pc = [] ∧ s.plain ∧ s.fullX [1] ∧ s.readyV [4] ∧ s.th.vtype.getLsbD 63 = false ∧
     s.th.etype ≠ 12 ∧ s.th.vlN * s.th.ew ≤ 32768 ∧ handled s ∧ s.cp.trcctl.getLsbD 2 = false ∧
     let va (i : Nat) : Word := s.th.elementAddr .strided (s.gx 1) 0 i 0
     let k : Nat := 1
     s.th.touched k ∧ s.traps (s.hits [1, 3] (va k)) = true ∧ (va k).toNat % (s.th.ew / 8) = 0 ∧ s.th.touched 0 ∧
     s.hits [1, 3] (va 0) = [] ∧ s.valueAt 1 (va 0) (s.th.ew / 8) ≠ none) ∧
    (let s := m.setCore 0 { m.core 0 with trcctl := 0x800000000000010F }
     s.cp.frozen = true ∧ s.th.wait = .none ∧ s.hits [0] s.th.pc = [] ∧ s.th.ldepth = 0 ∧ s.th.xFull 31 = true) := by
  decide +kernel

theorem witness_threadEvents :
    (let s : State := tEvents .none
     let q : Nat := 0
     let h : Nat := 0
     let k : Nat := 0
     let r : Nat := 3
     let v : Word := 5
     let y : Bool := true
     let req : BitVec 4 := 1
     s.cur = ⟨q, h⟩ ∧ s.quiet ∧ h < 4 ∧ s.sq.shadow = none ∧ s.th.wait.begun = false ∧
     let stands : Prop := (s.th.wait matches .bolt _ _ _ | .barrier _ | .wfe _) = true
     s.sq.bound ≠ none ∧ s.sq.stopped = false ∧ ¬ stands ∧ s.th.pend[k]? = some (.scalar r v) ∧
     r ≠ 0 ∧ r < 32 ∧ req.toNat % 4 ≠ 0 ∧ s.sq.split ≤ 4 ∧ s.sq.saving = none ∧ s.sq.polled = false ∧ s.th.pc.toNat % 4 = 0 ∧
     canonical s.th.pc = true ∧ s.sq.dxp.toNat / 2 ^ 60 ≠ 0 ∧ s.plain ∧ s.atEntry = true ∧
     y = ((s.freshWalk s.dieNo s.sq.dxp s.th.level fetchAcc (s.th.pc.toNat % 2 ^ 57) true).1 matches .ok _)) ∧
    (let s : State := tEvents .none
     let q : Nat := 0
     let h : Nat := 0
     let k : Nat := 1
     let r : Nat := 2
     let w : VReg := { bits := 7 }
     s.cur = ⟨q, h⟩ ∧ s.quiet ∧ h < 4 ∧ s.sq.shadow = none ∧ s.th.pend[k]? = some (.vector r w)) ∧
    (let s : State := (tEvents .none).setTh { (tEvents .none).th with pend := [] }
     let q : Nat := 0
     let h : Nat := 0
     let k : Nat := 1
     s.cur = ⟨q, h⟩ ∧ s.quiet ∧ h < 4 ∧ s.sq.shadow = none ∧ s.th.wait.begun = false ∧
     let enters (cause : Nat) (P : State → Prop) : Prop :=
       s.sq.tvec ≠ 0 ∧ s.th.tstat.getLsbD 5 = false
     s.sq.bound ≠ none ∧ s.sq.stopped = false ∧ h < s.sq.split ∧ k ∈ [1, 2, 3, 4, 6, 7] ∧
     (k = 1 → s.atEntry = true) ∧ s.th.pend = [] ∧ (enters 0x3F (fun t => t.th.tval = BitVec.ofNat 64 k))) ∧
    (let s : State := tEvents (.bolt 0x40 0x80 true)
     let q : Nat := 0
     let h : Nat := 0
     let pa : Nat := 0x40
     let va : Word := 0x80
     let x : Bool := true
     s.cur = ⟨q, h⟩ ∧ s.quiet ∧ h < 4 ∧ s.sq.shadow = none ∧
     s.th.wait = .bolt pa va x ∧ s.sq.boltlim.toNat % 2 ^ 32 ≠ 0) ∧
    (let s : State := tEvents (.bolt 0x40 0x80 true)
     let v : Word := 5
     let st : Word := 6
     let es : List (Word × Word) := []
     let stands : Prop := (s.th.wait matches .bolt _ _ _ | .barrier _ | .wfe _) = true
     s.cur = ⟨0, 0⟩ ∧ s.quiet ∧ s.sq.shadow = none ∧ s.sq.bound ≠ none ∧ s.sq.stopped = false ∧ s.th.level = .program ∧
     s.th.laneNotices = [] ∧ stands ∧ s.th.engineErrors = (v, st) :: es ∧ s.sq.tvec ≠ 0 ∧
     s.th.tstat.getLsbD 5 = false) ∧
    (let s : State := (tEvents .none).setTh { (tEvents .none).th with pend := [.claim 3 tHead 0x10080 2] }
     let q : Nat := 0
     let h : Nat := 0
     let hd : Head := tHead
     let va : Word := 0x10080
     let n : Nat := 2
     let d : Nat := 3
     s.cur = ⟨q, h⟩ ∧ s.quiet ∧ h < 4 ∧ s.sq.shadow = none ∧
     h = 0 ∧ s.th.pend = [.claim d hd va n] ∧ d ≠ 0 ∧ d < 32 ∧ s.plain ∧ s.sq.rebound = [] ∧ 0 < n ∧ n < 2 ^ 30 ∧
     hd.pa % 64 = 0 ∧ (s.place hd.pa).isMem = true ∧ s.headReads hd = true ∧
     min n ((s.header hd).threshold s.th) ≤ (s.header hd).avail) ∧
    (let s : State := ((tEvents .none).setTh { (tEvents .none).th with pend := [.claim 3 tHead 0x10080 2] }).setDie 0
       { (tEvents .none).die 0 with sfail := BitVec.ofNat 64 (2 ^ 64 - 1) }
     s.cur = ⟨0, 0⟩ ∧ s.quiet ∧ s.th.pend = [.claim 3 tHead 0x10080 2] ∧ s.headFails tHead = true) ∧
    (let s : State := (tEvents .none).setSq { (tEvents .none).sq with polled := true }
     s.cur = ⟨0, 0⟩ ∧ s.quiet ∧ s.sq.polled = true) :=
  by decide +kernel

theorem witness_memoryEvents :
    (let s : State := tInflight
     let f : Flight := tFlight
     let v : Inval := ⟨0x202, 0, tStamp⟩
     let r : Resv := ⟨1, tHead, 5, 1, none, 0, 0, 0, 0, 0x10080, tDxp⟩
     s.flights[0]? = some f ∧ f.op = none ∧ s.flightReady f = true ∧
     ((s.line (lineOf f.pa)).key = none ∨ (s.line (lineOf f.pa)).key = some f.key ∨ 0x8000000000 ≤ f.pa) ∧
     (s.die 0).invals[0]? = some v ∧ s.canApply 0 v.origin v.stamp = true ∧
     s.resvs[0]? = some r ∧ s.freed = [] ∧ s.canPublish r = true ∧ r.header.pa % 64 = 0 ∧
     ((s.line (lineOf r.header.pa)).key = none ∨ (s.line (lineOf r.header.pa)).key = some (s.headKey r.header) ∨
       0x8000000000 ≤ r.header.pa)) ∧
    (let s : State := { tInflight with flights := [tBoltFlight] }
     let f : Flight := tBoltFlight
     let o : BoltOp := ⟨0, 1, 1, 0⟩
     s.flights[0]? = some f ∧ f.op = some o ∧ s.flightReady f = true ∧ f.pa % 16 = 0 ∧ o.n < 2 ^ 48 ∧ o.arr < 2 ^ 15 ∧
     (s.boltAt f.pa f.key).arrArr < 32767 ∧
     ((s.line (lineOf f.pa)).key = none ∨ (s.line (lineOf f.pa)).key = some f.key ∨ 0x8000000000 ≤ f.pa)) ∧
    (let s : State := tReplica
     let page : Nat := 0x10
     let holder : Nat := 1
     let i : Nat := 0
     let e : Word × Word := (BitVec.ofNat 64 (2 ^ 63 + 0x10), 0x4000)
     s.awaits page holder = true ∧ s.holderEntry holder page = some (i, e) ∧ holder < 8 ∧ s.flights = [] ∧
     holder ≠ homeDie (page * 4096)) :=
  by decide +kernel

theorem witness_pagerEvents :
    (let s : State := tFaulted (.record tFault) 1 0 []
     let q : Nat := 0
     let h : Nat := 0
     let f : PageFault := tFault
     s.cur = ⟨q, h⟩ ∧ s.quiet ∧ h < 4 ∧ q < 1024 ∧
     let d := s.dieNo
     s.th.wait = .record f ∧ s.fqClosed d = true) ∧
    (let s : State := tFaulted (.record tFault) 1 (BitVec.ofNat 64 (0x20000 + 6)) []
     let q : Nat := 0
     let h : Nat := 0
     let u : Nat := 3
     let f : PageFault := tFault
     let c : Command := { tCommand 0 [] none 0 0 false with pagerStage := 1, fault := some tFault }
     let l : List Command := []
     s.cur = ⟨q, h⟩ ∧ s.quiet ∧ h < 4 ∧ q < 1024 ∧
     let d := s.dieNo
     s.th.wait = .record f ∧ s.fqClosed d = false ∧ s.fqRoom d = true ∧ (s.die d).records = [] ∧ u < 256 ∧
     unitDie u = d ∧ s.unitQueue u = c :: l ∧ c.pagerStage = 1 ∧ c.fault = some f) ∧
    (let s : State := tFaulted (.pager 0 1 tFault) 2 (BitVec.ofNat 64 (0x20000 + 6)) [⟨1, some (0, 0), 0⟩]
     let q : Nat := 0
     let h : Nat := 0
     let idx : Nat := 1
     let f : PageFault := tFault
     let r : Record := ⟨1, some (0, 0), 0⟩
     s.cur = ⟨q, h⟩ ∧ s.quiet ∧ h < 4 ∧ q < 1024 ∧
     let d := s.dieNo
     s.ready = true ∧ ((s.die d).records.find? (fun r => r.idx = idx) = some r) ∧ r.thread = some (q, h) ∧ s.th.wait = .pager d idx f ∧
     s.sq.pfwait.toNat % 2 ^ 32 ≠ 0 ∧ s.sq.saving = none) ∧
    (let s : State := tFaulted .none 2 (BitVec.ofNat 64 (0x20000 + 6)) [⟨1, none, 3⟩]
     let q : Nat := 0
     let h : Nat := 0
     let u : Nat := 3
     let idx : Nat := 1
     let c : Command := { tCommand 0 [] none 0 0 false with pagerStage := 2, fault := some tFault }
     let l : List Command := []
     let r : Record := ⟨1, none, 3⟩
     s.cur = ⟨q, h⟩ ∧ s.quiet ∧ h < 4 ∧ q < 1024 ∧
     let d := s.dieNo
     s.ready = true ∧ ((s.die d).records.find? (fun r => r.idx = idx) = some r) ∧ r.thread = none ∧ r.unit = u ∧ u < 256 ∧
     s.unitQueue u = c :: l) ∧
    (let s : State := { tFaulted .none 2 (BitVec.ofNat 64 (0x20000 + 6)) [⟨1, none, 3⟩] with ready := false }
     s.cur = ⟨0, 0⟩ ∧ s.quiet ∧ s.ready = false) :=
  by decide +kernel

theorem witness_launchEvents :
    (let s : State := tLaunch 5 2 false
     let l : Launch := tLaunchRec
     let r : StageRun := tStage
     let id : Nat := 3
     let j : Nat := 0
     let core : Nat := 1
     let groups : Nat := 15
     let kind : Nat := 0
     let slot : Nat := 0
     let die : Nat := 0
     (s.launches.find? (fun l => l.id = id) = some l) ∧ l.stages[j]? = some r ∧ s.bindable l j r core groups = true ∧
     shareOf groups = some (kind, slot) ∧ id ≠ 0 ∧ (s.header r.header).closed = false ∧ s.closes l j r = true ∧
     s.countReady l.die l.front r.header = true ∧ r.header.pa % 64 = 0 ∧
     ((s.line (lineOf r.header.pa)).key = none ∨ (s.line (lineOf r.header.pa)).key = some (s.headKey r.header) ∨
       0x8000000000 ≤ r.header.pa) ∧ die < 8 ∧ (s.die die).balEn = true) ∧
    (let s : State := tLaunch 2 2 true
     let l : Launch := tLaunchRec
     let r : StageRun := tStage
     let id : Nat := 3
     (s.launches.find? (fun l => l.id = id) = some l) ∧ (l.stages.all (fun r => s.drained r.header) = true) ∧
     (s.boundOf (fun b => b.launch = id) = 0) ∧ (s.savedOf (fun b => b.launch = id) = 0)) ∧
    ((State.reset.setDie 7 { State.reset.die 7 with balEn := false }).die 7).balEn = false :=
  by decide +kernel

theorem witness_bypassQueue :
    let s : State := tHw 3 0 2 false 4 none
    let n : Nat := 0
    let k : HwQueue := tHwQueue none
    let ht : Target := tFor (tHw 3 0 2 false 4 none) true 64 0x10080
    let et : Target := tFor (tHw 3 0 2 false 4 none) false 4 0x10000
    let st : Target := tFor (tHw 3 0 2 false 4 none) false 16 0x10300
    let dt : Target := tFor (tHw 3 0 2 false 4 none) true 16 0x10400
    s.plain ∧ s.hwqs[n]? = some k ∧ k.die < 8 ∧ k.past = [] ∧
    let h := s.header k.header
    let e := 2 ^ h.esz
    let i := natOfBytes (s.heldAt et e)
    let src := h.src + BitVec.ofNat 64 (i * h.rowb)
    let dst := h.dst + BitVec.ofNat 64 (i * h.rowb)
    (∀ x ∈ s.hwqs, x.header.pa = k.header.pa → x = k) ∧ k.stopped = false ∧ k.header.pa % 64 = 0 ∧ k.mayWrite s 64 k.va ht ∧
    ht.head = k.header ∧ 0 < h.rowb ∧ h.rowb % 4 = 0 ∧
    k.mayRead s e (h.base + BitVec.ofNat 64 (h.head.toNat % 2 ^ h.lcap * e)) et ∧ k.mayRead s h.rowb src st ∧
    src.toNat % 128 + h.rowb ≤ 128 ∧ h.mode = 2 ∧ h.avail ≠ 0 ∧ s.freed = [] ∧ h.free = h.head ∧
    k.mayWrite s h.rowb dst dt ∧ dst.toNat % 128 + h.rowb ≤ 128 ∧ dt.pa / 128 ≠ k.header.pa / 128 :=
  by decide +kernel

theorem witness_compactionClaim :
    let s : State := tHw 1 0 1 true 4 none
    let n : Nat := 0
    let k : HwQueue := tHwQueue none
    let ht : Target := tFor (tHw 1 0 1 true 4 none) true 64 0x10080
    let et : Target := tFor (tHw 1 0 1 true 4 none) false 4 0x10000
    let ot : Target := tFor (tHw 1 0 1 true 4 none) true 64 0x10200
    let st : Target := tFor (tHw 1 0 1 true 4 none) false 16 0x10300
    let dt : Target := tFor (tHw 1 0 1 true 4 none) true 16 0x10C00
    s.plain ∧ s.hwqs[n]? = some k ∧ k.die < 8 ∧ k.past = [] ∧
    let h := s.header k.header
    let e := 2 ^ h.esz
    let i := natOfBytes (s.heldAt et e)
    let src := h.src + BitVec.ofNat 64 (i * h.rowb)
    let dst := h.dst + BitVec.ofNat 64 (k.slot * 128 * h.rowb)
    (∀ x ∈ s.hwqs, x.header.pa = k.header.pa → x = k) ∧ k.stopped = false ∧ k.header.pa % 64 = 0 ∧ k.mayWrite s 64 k.va ht ∧
    ht.head = k.header ∧ 0 < h.rowb ∧ h.rowb % 4 = 0 ∧
    k.mayRead s e (h.base + BitVec.ofNat 64 (h.head.toNat % 2 ^ h.lcap * e)) et ∧ k.mayRead s h.rowb src st ∧
    src.toNat % 128 + h.rowb ≤ 128 ∧ h.mode = 1 ∧ k.claimed = none ∧ h.avail = 1 ∧ h.closed = true ∧ h.nslot ≠ 0 ∧
    h.outq.toNat % 64 = 0 ∧ k.mayWrite s 64 h.outq ot ∧ k.mayRead s 64 h.outq ot ∧ ot.pbmt ≠ 2 ∧
    (QHeader.ofBytes (s.heldAt ot 64)).fault true = none ∧ (QHeader.ofBytes (s.heldAt ot 64)).esz = 3 ∧ k.named = [] ∧
    k.mayWrite s h.rowb dst dt ∧ dst.toNat % 128 + h.rowb ≤ 128 ∧ dt.pa / 128 ≠ k.header.pa / 128 :=
  by decide +kernel

theorem witness_compactionSlot :
    let s : State := tHw 1 0 1 true 4 (some (0, 1))
    let n : Nat := 0
    let first : Nat := 0
    let r : Nat := 1
    let k : HwQueue := tHwQueue (some (0, 1))
    let ht : Target := tFor (tHw 1 0 1 true 4 none) true 64 0x10080
    let ot : Target := tFor (tHw 1 0 1 true 4 none) true 64 0x10200
    let dt : Target := tFor (tHw 1 0 1 true 4 none) true 8 0x10000
    s.plain ∧ s.hwqs[n]? = some k ∧ k.die < 8 ∧ k.past = [] ∧
    let h := s.header k.header
    let o := QHeader.ofBytes (s.heldAt ot 64)
    let u := (s.setCount k.die 0 ot.head offResv (o.resv + 1) none).2
    (∀ x ∈ s.hwqs, x.header.pa = k.header.pa → x = k) ∧ k.stopped = false ∧ k.header.pa % 64 = 0 ∧ h.mode = 1 ∧
    k.claimed = some (first, r) ∧ h.outq.toNat % 64 = 0 ∧ k.mayWrite s 64 k.va ht ∧ ht.head = k.header ∧
    k.mayWrite s 64 h.outq ot ∧ k.mayRead s 64 h.outq ot ∧ ot.pbmt ≠ 2 ∧ o.fault true = none ∧ o.esz = 3 ∧
    s.header ot.head = o ∧ (o.resv - o.free).toNat < 2 ^ o.lcap ∧ o.resv = o.tail ∧ s.resvs = [] ∧ s.freed = [] ∧
    h.free = BitVec.ofNat 32 first ∧ k.mayWrite u 8 (o.base + BitVec.ofNat 64 (o.resv.toNat % 2 ^ o.lcap * 8)) dt ∧
    dt.pa / 128 ≠ k.header.pa / 128 ∧ dt.pa / 128 ≠ ot.pa / 128 ∧ ot.pa / 128 ≠ k.header.pa / 128 :=
  by decide +kernel

/-- A closed queue with one entry left, whose row is copied to the slot; an open one with one entry. -/
theorem witness_compactionCopies :
    let made (s : State) (closed : Bool) : Prop :=
      let n : Nat := 0
      let k : HwQueue := tHwQueue none
      let ht : Target := tFor (tHw 1 0 1 closed 4 none) true 64 0x10080
      let ot : Target := tFor (tHw 1 0 1 closed 4 none) true 64 0x10200
      s.plain ∧ s.hwqs[n]? = some k ∧ k.die < 8 ∧ k.past = [] ∧
      let h := s.header k.header
      (∀ x ∈ s.hwqs, x.header.pa = k.header.pa → x = k) ∧ k.stopped = false ∧ k.header.pa % 64 = 0 ∧
      k.mayWrite s 64 k.va ht ∧ ht.head = k.header ∧ 0 < h.rowb ∧ h.rowb % 4 = 0 ∧ h.mode = 1 ∧ k.claimed = none ∧
      h.nslot ≠ 0 ∧ h.outq.toNat % 64 = 0 ∧ k.mayWrite s 64 h.outq ot ∧ k.mayRead s 64 h.outq ot ∧ ot.pbmt ≠ 2 ∧
      (QHeader.ofBytes (s.heldAt ot 64)).fault true = none ∧ (QHeader.ofBytes (s.heldAt ot 64)).esz = 3 ∧ k.named = [] ∧
      h.closed = closed ∧ (if closed then min 128 h.avail = 1 else h.avail < 128)
    made (tHw 1 0 1 true 4 none) true ∧ made (tHw 1 0 1 false 4 none) false ∧
    (let s := tHw 1 0 1 true 4 none
     ((tHwQueue none).copies (s.header tHead) 0 1 s).isSome = true) := by decide +kernel

theorem witness_packetEvents :
    (let s : State := tFence
     let s1 : State := tBeg tFence
     let q : Nat := 0
     let bs : List Byte := (tBegun tFence).1
     let idx : BitVec 32 := (tBegun tFence).2.1
     let began (p : List Byte → Bool) : Prop := s.beginPacket q p = some (bs, idx, s1)
     (began (fun bs => pktKind bs = 6))) ∧
    (let s : State := tUnload
     let s1 : State := tBeg tUnload
     let q : Nat := 0
     let bs : List Byte := (tBegun tUnload).1
     let idx : BitVec 32 := (tBegun tUnload).2.1
     let began (p : List Byte → Bool) : Prop := s.beginPacket q p = some (bs, idx, s1)
     (began (fun bs => pktKind bs = 4)) ∧ packetOk bs false 0 [16] = true) ∧
    (let s : State := tLoad false
     let s1 : State := tBeg (tLoad false)
     let q : Nat := 0
     let bs : List Byte := (tBegun (tLoad false)).1
     let idx : BitVec 32 := (tBegun (tLoad false)).2.1
     let began (p : List Byte → Bool) : Prop := s.beginPacket q p = some (bs, idx, s1)
     (began (fun bs => pktKind bs = 3)) ∧ s1.featstat.getLsbD 63 = false) ∧
    (let s : State := tLoad true
     let s1 : State := tBeg (tLoad true)
     let s2 : State := (tRead (tLoad true) (dwordOf (tBegun (tLoad true)).1 16) (dwordOf (tBegun (tLoad true)).1
       24).toNat).2
     let q : Nat := 0
     let bs : List Byte := (tBegun (tLoad true)).1
     let obj : List Byte := (tRead (tLoad true) (dwordOf (tBegun (tLoad true)).1 16) (dwordOf (tBegun (tLoad true)).1
       24).toNat).1
     let idx : BitVec 32 := (tBegun (tLoad true)).2.1
     let began (p : List Byte → Bool) : Prop := s.beginPacket q p = some (bs, idx, s1)
     let ctx := (s1.queue q).ctx
     let va := dwordOf bs 16
     (began (fun bs => pktKind bs = 3)) ∧ (s1.featstat.getLsbD 63 = true ∧ packetOk bs false 0 [16, 24] = true) ∧
     s1.byDispatcher 0 (eFault (eReadAll (s1.dispatch 0 ctx) va (dwordOf bs 24).toNat)) = some (.ok obj, s2)) ∧
    (let s : State := tGraphPacket false
     let s1 : State := tBeg (tGraphPacket false)
     let q : Nat := 0
     let bs : List Byte := (tBegun (tGraphPacket false)).1
     let idx : BitVec 32 := (tBegun (tGraphPacket false)).2.1
     let began (p : List Byte → Bool) : Prop := s.beginPacket q p = some (bs, idx, s1)
     (began (fun bs => pktKind bs = 2)) ∧ s1.featstat.getLsbD 63 = false) ∧
    (let s : State := tGraphPacket true
     let s1 : State := tBeg (tGraphPacket true)
     let s2 : State := (tRead (tGraphPacket true) (dwordOf (tBegun (tGraphPacket true)).1 16) 256).2
     let q : Nat := 0
     let bs : List Byte := (tBegun (tGraphPacket true)).1
     let obj : List Byte := (tRead (tGraphPacket true) (dwordOf (tBegun (tGraphPacket true)).1 16) 256).1
     let idx : BitVec 32 := (tBegun (tGraphPacket true)).2.1
     let began (p : List Byte → Bool) : Prop := s.beginPacket q p = some (bs, idx, s1)
     let ctx := (s1.queue q).ctx
     let va := dwordOf bs 16
     (began (fun bs => pktKind bs = 2)) ∧ (s1.featstat.getLsbD 63 = true ∧ packetOk bs false 3 [16] = true ∧
     va.toNat % 256 = 0) ∧ s1.byDispatcher 0 (eFault (eReadAll (s1.dispatch 0 ctx) va 256)) = some (.ok obj, s2)) ∧
    (let s : State := tCopyPacket
     let s1 : State := tBeg tCopyPacket
     let s2 : State := (tRead tCopyPacket (dwordOf (tBegun tCopyPacket).1 16) 128).2
     let q : Nat := 0
     let bs : List Byte := (tBegun tCopyPacket).1
     let obj : List Byte := (tRead tCopyPacket (dwordOf (tBegun tCopyPacket).1 16) 128).1
     let idx : BitVec 32 := (tBegun tCopyPacket).2.1
     let began (p : List Byte → Bool) : Prop := s.beginPacket q p = some (bs, idx, s1)
     let ctx := (s1.queue q).ctx
     let va := dwordOf bs 16
     (began (fun bs => pktKind bs = 7)) ∧ (packetOk bs false 3 [16] = true ∧ va.toNat % 128 = 0) ∧
     s1.byDispatcher 0 (eFault (eReadAll (s1.dispatch 0 ctx) va 128)) = some (.ok obj, s2)) ∧
    (let s : State := tArrive
     let s1 : State := tBeg tArrive
     let s2 : State := (tBolt tArrive).2
     let q : Nat := 0
     let bs : List Byte := (tBegun tArrive).1
     let idx : BitVec 32 := (tBegun tArrive).2.1
     let t : Target := (tBolt tArrive).1
     let began (p : List Byte → Bool) : Prop := s.beginPacket q p = some (bs, idx, s1)
     let ctx := (s1.queue q).ctx
     let va := dwordOf bs 16
     (began (fun bs => pktKind bs = 5 && boltOp bs = 0)) ∧ ((s.queue q).boltWait = none ∧
     packetOk bs false 2 [16, 24] = true ∧ (dwordOf bs 24).toNat < 2 ^ 48 ∧ va.toNat % 16 = 0) ∧
     s1.byDispatcher 0 (eBoltTarget (s1.dispatch 0 ctx) va) = some (.ok t, s2) ∧ s2.plain) ∧
    (let s : State := tWait 0
     let s1 : State := tBeg (tWait 0)
     let s2 : State := (tBolt (tWait 0)).2
     let q : Nat := 0
     let bs : List Byte := (tBegun (tWait 0)).1
     let idx : BitVec 32 := (tBegun (tWait 0)).2.1
     let t : Target := (tBolt (tWait 0)).1
     let began (p : List Byte → Bool) : Prop := s.beginPacket q p = some (bs, idx, s1)
     let ctx := (s1.queue q).ctx
     let va := dwordOf bs 16
     (s.queue q).boltWait = none ∧ (began (fun bs => pktKind bs = 5 && boltOp bs = 1)) ∧
     (packetOk bs false 2 [16] = true ∧ va.toNat % 16 = 0) ∧
     s1.byDispatcher 0 (eBoltTarget (s1.dispatch 0 ctx) va) = some (.ok t, s2) ∧
     let ph := (s2.boltAt t.pa (s2.slot t.slot).key).ph
     ph = (dwordOf bs 0).getLsbD 1) ∧
    (let s : State := tWait 1
     let s1 : State := tBeg (tWait 1)
     let s2 : State := (tBolt (tWait 1)).2
     let q : Nat := 0
     let bs : List Byte := (tBegun (tWait 1)).1
     let idx : BitVec 32 := (tBegun (tWait 1)).2.1
     let t : Target := (tBolt (tWait 1)).1
     let began (p : List Byte → Bool) : Prop := s.beginPacket q p = some (bs, idx, s1)
     let ctx := (s1.queue q).ctx
     let va := dwordOf bs 16
     (s.queue q).boltWait = none ∧ (began (fun bs => pktKind bs = 5 && boltOp bs = 1)) ∧
     (packetOk bs false 2 [16] = true ∧ va.toNat % 16 = 0) ∧
     s1.byDispatcher 0 (eBoltTarget (s1.dispatch 0 ctx) va) = some (.ok t, s2) ∧
     let ph := (s2.boltAt t.pa (s2.slot t.slot).key).ph
     ph ≠ (dwordOf bs 0).getLsbD 1) ∧
    (let s : State := tStall
     let q : Nat := 0
     let bs : List Byte := (tBegun (tWait 0)).1
     let idx : BitVec 32 := (tBegun (tWait 0)).2.1
     let c : Nat := (s.queue q).ctx
     let pa : Nat := 0x10080
     let f : Nat := 0
     (s.queue q).boltPacket 1 = some (idx, c, bs) ∧ (s.queue q).boltWait = some (pa, f) ∧ (s.context c).boltlim ≠ 0 ∧
     (s.boltStamps pa).flips = f ∧
     let s : State := s.setQueue q { s.queue q with boltWait := some (pa, 1) }
     (s.queue q).boltPacket 1 = some (idx, c, bs) ∧ (s.queue q).boltWait = some (pa, 1) ∧ (s.boltStamps pa).flips ≠ 1) ∧
    (let s : State := tPackets (tPk 8 0 0 0) true
     let s1 : State := tBeg (tPackets (tPk 8 0 0 0) true)
     let q : Nat := 0
     let bs : List Byte := (tBegun (tPackets (tPk 8 0 0 0) true)).1
     let idx : BitVec 32 := (tBegun (tPackets (tPk 8 0 0 0) true)).2.1
     let began (p : List Byte → Bool) : Prop := s.beginPacket q p = some (bs, idx, s1)
     q < 4096 ∧ (began (fun bs => pktKind bs = 1 || pktKind bs = 0 || decide (7 < pktKind bs))) ∧ pktKind bs ≠ 1) ∧
    (let s : State := tLaunchPacket false
     let s1 : State := tBeg (tLaunchPacket false)
     let s2 : State := (tAccepts (tLaunchPacket false)).2
     let q : Nat := 0
     let n : Nat := 10
     let bs : List Byte := (tBegun (tLaunchPacket false)).1
     let idx : BitVec 32 := (tBegun (tLaunchPacket false)).2.1
     let began (p : List Byte → Bool) : Prop := s.beginPacket q p = some (bs, idx, s1)
     let ctx := (s1.queue q).ctx
     q < 4096 ∧ (began (fun bs => pktKind bs = 1 || pktKind bs = 0 || decide (7 < pktKind bs))) ∧ (pktKind bs = 1 ∧
     s1.byDispatcher 0 (acceptM 0 ctx (some q) false bs) = some (.error n, s2))) ∧
    (let s : State := tLaunchPacket true
     let s1 : State := tBeg (tLaunchPacket true)
     let s2 : State := (tAccepts (tLaunchPacket true)).2
     let q : Nat := 0
     let bs : List Byte := (tBegun (tLaunchPacket true)).1
     let idx : BitVec 32 := (tBegun (tLaunchPacket true)).2.1
     let l : Launch := (tAccepts (tLaunchPacket true)).1
     let began (p : List Byte → Bool) : Prop := s.beginPacket q p = some (bs, idx, s1)
     let ctx := (s1.queue q).ctx
     q < 4096 ∧ (began (fun bs => pktKind bs = 1 || pktKind bs = 0 || decide (7 < pktKind bs))) ∧ pktKind bs = 1 ∧
     s1.byDispatcher 0 (acceptM 0 ctx (some q) false bs) = some (.ok l, s2)) :=
  ⟨tBegan _ _ (by decide +kernel), ⟨tBegan _ _ (by decide +kernel), by decide +kernel⟩, ⟨tBegan _ _
    (by decide +kernel), by decide +kernel⟩, ⟨tBegan _ _ (by decide +kernel), by decide +kernel, tByOk _ _ _
      (by decide +kernel)⟩, ⟨tBegan _ _ (by decide +kernel), by decide +kernel⟩, ⟨tBegan _ _ (by decide +kernel),
        by decide +kernel, tByOk _ _ _ (by decide +kernel)⟩, ⟨tBegan _ _ (by decide +kernel), by decide +kernel,
          tByOk _ _ _ (by decide +kernel)⟩, ⟨tBegan _ _ (by decide +kernel), by decide +kernel, tByOk _ _ _
            (by decide +kernel), by decide +kernel⟩, ⟨by decide +kernel, tBegan _ _ (by decide +kernel),
              by decide +kernel, tByOk _ _ _ (by decide +kernel), by decide +kernel⟩, ⟨by decide +kernel, tBegan _ _
                (by decide +kernel), by decide +kernel, tByOk _ _ _ (by decide +kernel), by decide +kernel⟩,
                  by decide +kernel, ⟨by decide +kernel, tBegan _ _ (by decide +kernel), by decide +kernel⟩,
                    ⟨by decide +kernel, tBegan _ _ (by decide +kernel), by decide +kernel⟩, ⟨by decide +kernel,
                      tBegan _ _ (by decide +kernel), by decide +kernel, tByOk _ _ _ (by decide +kernel)⟩⟩

/-- A packet with a reserved field that is not zero, or an address that its kind does not allow: it begins. -/
def tRefused (p : List Byte) : Prop :=
  let s := tPackets p true
  (s.queue 0).boltWait = none ∧ (tBeg s).featstat.getLsbD 63 = true ∧
    s.beginPacket 0 (fun bs => bs = p) = some (p, (tBegun s).2.1, tBeg s)

theorem tRefusedOf (p : List Byte) (h : ((tPackets p true).queue 0).boltWait = none)
    (h1 : (tBeg (tPackets p true)).featstat.getLsbD 63 = true) (h2 : (tBegun (tPackets p true)).1 = p)
    (h3 : ((tPackets p true).beginPacket 0 fun bs => bs = p).isSome = true) : tRefused p := by
  refine ⟨h, h1, ?_⟩
  have e := tBegan _ _ h3
  rwa [h2] at e

theorem witness_packetsRefused :
    (let p := (tPk 3 0 0x10400 64).set 40 1
     tRefused p ∧ pktKind p = 3 ∧ packetOk p false 0 [16, 24] = false) ∧
    (let p := (tPk 4 0 1 0).set 40 1
     tRefused p ∧ pktKind p = 4 ∧ packetOk p false 0 [16] = false) ∧
    (let p := tPk 2 0 0x10480 0
     tRefused p ∧ pktKind p = 2 ∧ (dwordOf p 16).toNat % 256 ≠ 0) ∧
    (let p := tPk 7 0 0x10440 0
     tRefused p ∧ pktKind p = 7 ∧ (dwordOf p 16).toNat % 128 ≠ 0) ∧
    (let p := tPk 5 0 0x10080 (2 ^ 48)
     tRefused p ∧ pktKind p = 5 ∧ boltOp p = 0 ∧ 2 ^ 48 ≤ (dwordOf p 24).toNat) ∧
    (let p := tPk 5 1 0x10081 0
     tRefused p ∧ pktKind p = 5 ∧ boltOp p = 1 ∧ (dwordOf p 16).toNat % 16 ≠ 0) ∧
    (let p := tPk 1 0 0x10420 0
     tRefused p ∧ pktKind p = 1 ∧ (dwordOf p 16).toNat % 64 ≠ 0) ∧
    (let s := tPackets (tPk 1 0 0x10400 0) false
     (tBeg s).featstat.getLsbD 63 = false ∧ (s.beginPacket 0 fun bs => pktKind bs = 1).isSome = true) := by
  refine ⟨⟨tRefusedOf _ ?_ ?_ ?_ ?_, ?_⟩, ⟨tRefusedOf _ ?_ ?_ ?_ ?_, ?_⟩, ⟨tRefusedOf _ ?_ ?_ ?_ ?_, ?_⟩,
    ⟨tRefusedOf _ ?_ ?_ ?_ ?_, ?_⟩, ⟨tRefusedOf _ ?_ ?_ ?_ ?_, ?_⟩, ⟨tRefusedOf _ ?_ ?_ ?_ ?_, ?_⟩,
    ⟨tRefusedOf _ ?_ ?_ ?_ ?_, ?_⟩, ?_⟩ <;> decide +kernel

theorem witness_errorEvents :
    (let s : State := (let s := tReady; { s with femap := 32, ppmap := 8 })
     let core : Nat := 0
     let lane : Nat := 5
     let die : Nat := 1
     let unit : Nat := 2
     core < 256 ∧ lane < 64 ∧ (s.core core).live.getLsbD lane = true ∧
     (s.die (core / 32)).lcmap.getLsbD (core % 32) = true ∧ (∀ q ∈ s.resident4 core, (s.seq q).split ≤ 4) ∧
     s.resident4 core = [0] ∧ (s.seq 0).bound ≠ none ∧ die < 8 ∧ unit < 64 ∧
     (s.die die).smap.getLsbD unit = true ∧ (s.die die).sfail.getLsbD unit = false ∧ unit < 160 ∧
     (s.die die).pmap.getLsbD unit = true ∧ (s.die die).pfail.getLsbD unit = false ∧ unit < 4 ∧
     (s.frame die unit).live = true ∧ unit < 3 ∧ (Sparse.get {} (s.die die).port unit).live = true) ∧
    (let s : State := (let s := tPut tReady 0x5080 (bytesOfNat 8 (0x400000000 + 0xDF)); s)
     let q : Nat := 0
     let core : Nat := 0
     let n : Nat := 0x10080
     let tg : Target := ⟨0x1000000080, 0, 0, .hbm 1⟩
     let l : List Nat := []
     s.resident4 core = q :: l ∧ s.cur = ⟨q, 0⟩ ∧ n < 2 ^ 56 ∧ s.sq.dxp.toNat / 2 ^ 60 ≠ 0 ∧ core < 256 ∧
     (s.freshWalk (core / 32) s.sq.dxp s.th.level ⟨0, true, false, false, false, false, 1⟩ n true).1 = .ok tg ∧
     tg.place.isMem = true ∧ tg.pbmt = 0 ∧ s.poisoned (core / 32) tg.pa = false ∧ homeDie tg.pa ≠ core / 32 ∧ (s.die (core / 32)).copies = [] ∧
     (∀ c ∈ s.cores, c.2.prefetched = [] ∧ c.2.leadOut = []) ∧ s.sched.caching = false ∧ s.portFree = true) ∧
    (let s : State := tReady.setCore 0 { tReady.core 0 with live := 0xFFFFFFFFFFFFFFF8 }
     (s.core 0).live.getLsbD 5 = true ∧ (s.die 0).lcmap.getLsbD 0 = true ∧
     ((List.range 16).filter fun i => (s.core 0).live.getLsbD (5 / 16 * 16 + i)).length = 13) ∧
    (let s : State := tReady.setCore 0 { tReady.core 0 with live := 0xFFFFFFFFFFFFFFF0 }
     (s.core 0).live.getLsbD 5 = true ∧ (s.die 0).lcmap.getLsbD 0 = true ∧
     ((List.range 16).filter fun i => (s.core 0).live.getLsbD (5 / 16 * 16 + i)).length = 12) :=
  by decide +kernel

theorem witness_resetAndPowerEvents :
    (let s : State := tReady
     let d : Nat := 1
     let i : Nat := 5
     let n : Nat := 1100
     let v : Word := 0x4000000003200002
     d < 8 ∧ i < 32 ∧
     let req := v.toNat / 2 ^ 62
     s.ready = true ∧ v.toNat % 8 ≤ 6 ∧ (s.die d).newWays = none ∧ (i % 4 < 2 ∨ req < 2) ∧
     (req = 3 → s.halfBusy i = false) ∧ 1050 ≤ n ∧ n < 1150 ∧
     (∃ port < 3,
        (Sparse.get {} (s.die d).port port).live = true)) ∧
    (let s : State := (let s := tReady; { s.setDie 1 { s.die 1 with newWays := some 3 } with thermal := 1100, pwrisl
      := [(5, 2 ^ 58)] })
     let d : Nat := 1
     let i : Nat := 5
     let n : Nat := 3
     d < 8 ∧ i < 32 ∧
     let isl := s.island i
     s.plain ∧ (s.die d).newWays = some n ∧ isl.toNat / 2 ^ 58 % 4 ∈ [1, 2] ∧ n < 1050 ∧ s.hot = true) ∧
    (let d : Nat := 1
     let i : Nat := 5
     let n : Nat := 1200
     d < 8 ∧ i < 32 ∧
     1150 ≤ n ∧ n < 65536) ∧
    (∃ q x, tReady.seqs.filter (fun v => v.2.bound.isSome) = [(q, x)]) ∧
    (∀ h ∈ [1149, 1150, 1050, 0], let s : State := { tReady with thermal := BitVec.ofNat 64 h }
     s.thermal.toNat % 65536 = h) :=
  ⟨by decide +kernel, by decide +kernel, by decide +kernel, ⟨_, _, rfl⟩, by decide +kernel⟩

theorem witness_contextEvents :
    (let s : State := (let s := tReady; { s with featstat := 0x8000000000000000#64, apertures := [] })
     let c : Nat := 1
     let q : Nat := 0
     let j : Nat := 0
     let v : Word := 0x8000000000000000
     s.ready = true ∧ c < 64 ∧ q < 1024 ∧ j < 64 ∧
     let k := s.queue q
     let want : Queue := { k with
       en := false, prio := v.toNat / 2 ^ 61 % 4, lsize := v.toNat / 2 ^ 56 % 32, ctx := v.toNat % 64 }
     s.featstat.getLsbD 63 = true ∧ (v.getLsbD 62 = true → s.feature 15 = true) ∧ (s.context c).v = false ∧
     (k.en = false ∨ k.err = true) ∧ (s.setQueue q want).enableOk want = false ∧
     (let n := 4 * (32 * (v.toNat / 2 ^ 8 % 8) + v.toNat / 2 ^ 3 % 32) + v.toNat % 4
      v.getLsbD 63 = true ∧ (s.seq n).bound ≠ none)) ∧
    (let s : State := (let s := tReady; { s with queues := [(0, { base := 0x10000 / 64 })] })
     let c : Nat := 0
     let q : Nat := 0
     let j : Nat := 0
     let v : Word := 0x8600000000000000
     s.ready = true ∧ c < 64 ∧ q < 1024 ∧ j < 64 ∧
     let k := s.queue q
     let want : Queue := { k with
       en := false, prio := v.toNat / 2 ^ 61 % 4, lsize := v.toNat / 2 ^ 56 % 32, ctx := v.toNat % 64 }
     (s.context c).v = true ∧ (s.context c).busy = false ∧ (k.en = false ∨ k.err = true) ∧ (s.setQueue q want).enableOk want = true) ∧
    (let s : State := (let s := tReady; { s with apertures := [(0, (0, 1, 0x10000, 0))] })
     let c : Nat := 0
     let q : Nat := 0
     let j : Nat := 0
     let v : Word := 0x8000000000000010
     s.ready = true ∧ c < 64 ∧ q < 1024 ∧ j < 64 ∧
     let a := s.aperture j
     a.valid = false ∧ s.apertureOk j (v &&& 0x7F8000FFFFFFFFFF#64, a.2) = true) :=
  by decide +kernel

theorem witness_hostMemory :
    (let s : State := tReady
     let off : Nat := 2 ^ 39 + 0x10088
     let n : Nat := 9
     let pa : Nat := ((tReady.barTarget (2 ^ 39 + 0x10088) 9).getD (0, 0, none)).1
     let slot : Nat := ((tReady.barTarget (2 ^ 39 + 0x10088) 9).getD (0, 0, none)).2.1
     let bs : List (Option Byte) := [some 1, none, none, some 4, some 5]
     s.ready = true ∧ s.barTarget off n = some (pa, slot, none) ∧ s.barOk pa n slot = true ∧ off + n ≤ 2 ^ 40 ∧
     s.plain ∧ (∀ d < 8, (s.die d).newWays = none) ∧ s.barTarget off bs.length = some (pa, slot, none) ∧
     s.barOk pa bs.length slot = true ∧ off + bs.length ≤ 2 ^ 40 ∧ pa % 128 + bs.length ≤ 128 ∧
     ((s.line (lineOf pa)).key = none ∨ (s.line (lineOf pa)).key = some (s.slot slot).key)) ∧
    (let s : State := tReady
     let off : Nat := 2 ^ 39 - 3
     let n : Nat := 9
     s.ready = true ∧ s.barTarget off n = none ∧ off + n ≤ 2 ^ 40) :=
  by decide +kernel

theorem witness_hostRequests :
    (let s : State := tReady
     let v : Word := 0x8000000000000101
     s.ready = true ∧ s.xlinvb.getLsbD 62 = false ∧ v.getLsbD 63 = true ∧ s.fwcmd.getLsbD 62 = false ∧
     v.toNat % 16 = 1) ∧
    (let s : State := { tReady with fwlen := 0x20000, xlinvb := 0x4000000000000000 }
     let v : Word := 0x8000000000000102
     s.ready = true ∧ s.plain ∧ s.xlinvb.getLsbD 62 = true ∧ s.fwcmd.getLsbD 62 = false ∧ v.getLsbD 63 = true ∧
     v.toNat % 16 = 2) ∧
    (let s : State := { tReady with slots := [(1, { loaded := true, closing := true, key := 6 })], featuse := 0 }
     let slot : Nat := 1
     let v : Word := 0x8000000000000103
     s.ready = true ∧ s.repcmd.getLsbD 62 = false ∧ v.getLsbD 63 = true ∧ s.feature 14 = false ∧
     s.fwcmd.getLsbD 62 = false ∧ v.toNat % 16 = 3 ∧ v.toNat / 2 ^ 8 % 2 ^ 7 ≠ 0 ∧
     (s.slot (v.toNat / 2 ^ 8 % 2 ^ 7)).loaded = true ∧ s.plain ∧ slot < 128 ∧ (s.slot slot).closing = true) ∧
    (let s : State := { tReady with repcmd := 0x4000000000000000, repRun := 0x10000000010 }
     s.ready = true ∧ s.repcmd.getLsbD 62 = true ∧ s.repRun.toNat / 2 ^ 40 % 2 ^ 7 = 1) ∧
    (let s : State := tReady
     let v : Word := 0x8001000000000010
     s.ready = true ∧
     let page := v.toNat % 2 ^ 40
     let key := v.toNat / 2 ^ 40 % 2 ^ 7
     let holder := v.toNat / 2 ^ 48 % 8
     s.plain ∧ s.repcmd.getLsbD 62 = false ∧ v.getLsbD 63 = true ∧ s.feature 14 = true ∧ s.slotUsable key = true ∧
     ∃ d < 8,
       s.place (page * 4096) = .hbm d ∧ homeDie (page * 4096) ≠ holder) ∧
    (let s : State := tReplicating
     s.ready = true ∧
     let page := s.repRun.toNat % 2 ^ 40
     let holder := s.repRun.toNat / 2 ^ 48 % 8
     s.repcmd.getLsbD 62 = true ∧ s.homeEntry (page * 4096) ≠ none ∧ entryFor (s.die holder).rdir holder page ≠ none ∧
     (∀ d ∈ s.dies, d.2.sfail = 0 ∧ d.2.pfail = 0)) ∧
    (let s : State := tReplicating.setDie 0 { tReplicating.die 0 with sfail := BitVec.ofNat 64 (2 ^ 64 - 1) }
     let page := s.repRun.toNat % 2 ^ 40
     let holder := s.repRun.toNat / 2 ^ 48 % 8
     s.ready = true ∧ s.repcmd.getLsbD 62 = true ∧ s.homeEntry (page * 4096) ≠ none ∧
     entryFor (s.die holder).rdir holder page ≠ none ∧ s.unitFailed (page * 4096) = true) :=
  by decide +kernel

/-- A buffer that is too short; one in the host's memory, for each command; and one outside what the module reaches. -/
theorem witness_hostBuffers :
    (let s : State := tReady
     s.fwlen.toNat < 1660 ∧ s.fwlen.toNat < 32 + quoteBytes) ∧
    (let s : State := { tReady with fwlen := 0x20000, slots := [(2, { loaded := true })] }
     1660 ≤ s.fwlen.toNat ∧ 32 + quoteBytes ≤ s.fwlen.toNat ∧ (s.slot 1).loaded = false ∧ (s.slot 2).loaded = true ∧
     s.busOk s.fwbuf.toNat 1660 = true ∧ s.busOk s.fwbuf.toNat (32 + quoteBytes) = true) ∧
    (let s : State := { tReady with fwlen := 0x20000, fwbuf := 0xFFFFFFFFFFFFFF00 }
     s.busOk s.fwbuf.toNat 1660 = false ∧ s.busOk s.fwbuf.toNat (32 + quoteBytes) = false) := by decide +kernel

/-- A slot that a reservation still uses, and one that nothing uses. -/
theorem witness_slotInUse :
    (let s : State := { tInflight with flights := [] }
     s.drain.slotInUse 0 = true) ∧
    (let s : State := { tReady with slots := [(1, { loaded := true, closing := true, key := 6 })] }
     s.plain ∧ (s.slot 1).closing = true ∧ s.drain.slotInUse 1 = false) := by decide +kernel

theorem witness_podAndRegisters :
    (let s : State := { tReady with
       podctl := 0x8000000000000500
       dies := (List.range 8).map fun k => (k, { tReady.die k with
         port := [(0, { live := false }), (1, { live := false }), (2, { live := false })] }) }
     let v : Word := 0x0A00000000010088
     let w : Word := 8
     let u := s.peerTraffic
     s.ready = true ∧ u.plain ∧ s.collapses = [] ∧ (∀ d < 8, (s.die d).newWays = none) ∧ s.podctl.getLsbD 63 = true ∧ (s.context (s.podctl.toNat % 64)).v = true ∧
     v.toNat / 2 ^ 62 = 0 ∧ v.getLsbD 56 = false ∧ v.toNat / 2 ^ 57 % 32 = s.podctl.toNat / 2 ^ 8 % 32 ∧
     w.toNat ≤ 128 - v.toNat % 128 ∧
     ∃ d < 8,
       (u.targetFor 0 (s.context (s.podctl.toNat % 64)).dxp .supervisor ⟨10, true, false, false, false, false,
         w.toNat⟩ (v &&& 0x00FFFFFFFFFFFFFF#64)).map (·.place) = some (.hbm d) ∧
       0 < w.toNat) ∧
    (let s : State := { tReady with podctl := 0 }
     s.ready = true ∧ s.podctl.getLsbD 63 = false) :=
  by decide +kernel

/-- Finite numbers whose sum, difference, product, fused results and quotient are not 0, of a root and of a negative
number; a sum that is 0 of numbers of two signs; a product, and a quotient, of 0. -/
theorem witness_roundedResults :
    ((∀ x ∈ [0x3F800000, 0x40400000, 0x41200000, 0xBF800000, 0], f32.finite x) ∧
     f32.value 0x3F800000 = 1 ∧ f32.value 0x40400000 = 3 ∧ f32.value 0x41200000 = 10 ∧ f32.value 0xBF800000 = -1 ∧
     f32.value 0 = 0) ∧
    f32.value 0x3F800000 + f32.value 0x40400000 ≠ 0 ∧ f32.value 0x3F800000 - f32.value 0x40400000 ≠ 0 ∧
    f32.value 0x3F800000 * f32.value 0x40400000 ≠ 0 ∧
    f32.value 0x3F800000 * f32.value 0x40400000 + f32.value 0x41200000 ≠ 0 ∧
    f32.value 0x41200000 - f32.value 0x3F800000 * f32.value 0x40400000 ≠ 0 ∧
    f32.value 0x3F800000 + f32.value 0xBF800000 = 0 ∧ f32.negative 0x3F800000 ≠ f32.negative 0xBF800000 ∧
    f32.value 0x3F800000 * f32.value 0 = 0 ∧ 0 < f32.value 0x3F800000 ∧ f32.value 0xBF800000 < 0 := by
  have h : (∀ x ∈ [0x3F800000, 0x40400000, 0x41200000, 0xBF800000, 0], f32.finite x) ∧
     f32.value 0x3F800000 = 1 ∧ f32.value 0x40400000 = 3 ∧ f32.value 0x41200000 = 10 ∧ f32.value 0xBF800000 = -1 ∧
     f32.value 0 = 0 := by
    refine ⟨by decide, ?_⟩
    norm_num [Fmt.value, Fmt.magnitude, Fmt.negative, f32, Fmt.bias, zpow_neg, Nat.testBit, Nat.shiftRight_eq_div_pow]
  refine ⟨h, ?_⟩
  obtain ⟨-, h1, h2, h3, h4, h5⟩ := h
  rw [h1, h2, h3, h4, h5]
  exact ⟨by norm_num, by norm_num, by norm_num, by norm_num, by norm_num, by norm_num, by decide, by norm_num, by norm_num,
    by norm_num⟩

/-- Quiet and signaling NaNs, none of them that of an abandoned value, and a number beside them. -/
theorem witness_roundedNans :
    let nan (x : Nat) : Prop := f32.inf false < x % 2 ^ (f32.eb + f32.fb)
    let quiet (x : Nat) : Prop := nan x → x.testBit (f32.fb - 1) = true
    (∀ x ∈ [0x7FC00000, 0x7F800001, 0x3F800000], x < 2 ^ f32.width ∧ isAbn f32 x = false) ∧ nan 0x7FC00000 ∧
    quiet 0x7FC00000 ∧ nan 0x7F800001 ∧ ¬ quiet 0x7F800001 ∧ quiet 0x3F800000 ∧ ¬ nan 0x3F800000 := by decide +kernel

theorem witness_translationWalk :
    (let s : State := tMem 1 2 3
     let dxp : Word := tDxp
     let va : Word := 0x13008
     let e4 : Word := 0x801
     let e3 : Word := 0xC01
     let e2 : Word := 0x1001
     let e1 : Word := 0x1401
     let e0 : Word := 0x201F
     s.sched = ⟨false, false⟩ ∧ dxp.toNat / 2 ^ 60 = 0xA ∧
     let slot (l table : Nat) : Nat := table + 8 * (va.toNat / 2 ^ (12 + 9 * l) % 512)
     let reads (l : Nat) (table : Option Nat) : Option Word :=
       table.bind fun t => if s.resizing (slot l t) then none else s.pteRead dxp (slot l t)
     let down (e : Word) : Option Nat := s.tableAddr dxp (entryField e 49 10 * 4096)
     let root := s.tableAddr dxp (entryField dxp 39 0 * 4096)
     reads 4 root = some e4 ∧ entryPoints e4 ∧ reads 3 (down e4) = some e3 ∧ entryPoints e3 ∧
     reads 2 (down e3) = some e2 ∧ entryPoints e2 ∧ reads 1 (down e2) = some e1 ∧ entryPoints e1 ∧
     reads 0 (down e1) = some e0) ∧
    (let s : State := tMem 1 2 3
     let dxp : Word := tDxp
     let va : Word := 0x1000000000000
     let e4 : Word := 0
     s.sched = ⟨false, false⟩ ∧ dxp.toNat / 2 ^ 60 = 0xA ∧
     let slot (l table : Nat) : Nat := table + 8 * (va.toNat / 2 ^ (12 + 9 * l) % 512)
     let reads (l : Nat) (table : Option Nat) : Option Word :=
       table.bind fun t => if s.resizing (slot l t) then none else s.pteRead dxp (slot l t)
     let root := s.tableAddr dxp (entryField dxp 39 0 * 4096)
     reads 4 root = some e4 ∧ (¬ entryPoints e4)) ∧
    (let s : State := tMem 1 2 3
     let dxp : Word := tDxp
     let va : Word := 0x8000000000
     let e4 : Word := 0x801
     let e3 : Word := 0
     s.sched = ⟨false, false⟩ ∧ dxp.toNat / 2 ^ 60 = 0xA ∧
     let slot (l table : Nat) : Nat := table + 8 * (va.toNat / 2 ^ (12 + 9 * l) % 512)
     let reads (l : Nat) (table : Option Nat) : Option Word :=
       table.bind fun t => if s.resizing (slot l t) then none else s.pteRead dxp (slot l t)
     let down (e : Word) : Option Nat := s.tableAddr dxp (entryField e 49 10 * 4096)
     let root := s.tableAddr dxp (entryField dxp 39 0 * 4096)
     reads 4 root = some e4 ∧ entryPoints e4 ∧ reads 3 (down e4) = some e3 ∧ (¬ entryPoints e3)) ∧
    (let s : State := tMem 1 2 3
     let dxp : Word := tDxp
     let va : Word := 0x40000000
     let e4 : Word := 0x801
     let e3 : Word := 0xC01
     let e2 : Word := 0
     s.sched = ⟨false, false⟩ ∧ dxp.toNat / 2 ^ 60 = 0xA ∧
     let slot (l table : Nat) : Nat := table + 8 * (va.toNat / 2 ^ (12 + 9 * l) % 512)
     let reads (l : Nat) (table : Option Nat) : Option Word :=
       table.bind fun t => if s.resizing (slot l t) then none else s.pteRead dxp (slot l t)
     let down (e : Word) : Option Nat := s.tableAddr dxp (entryField e 49 10 * 4096)
     let root := s.tableAddr dxp (entryField dxp 39 0 * 4096)
     reads 4 root = some e4 ∧ entryPoints e4 ∧ reads 3 (down e4) = some e3 ∧ entryPoints e3 ∧
     reads 2 (down e3) = some e2 ∧ (¬ entryPoints e2)) ∧
    (let s : State := tMem 1 2 3
     let dxp : Word := tDxp
     let va : Word := 0x200000
     let e4 : Word := 0x801
     let e3 : Word := 0xC01
     let e2 : Word := 0x1001
     let e1 : Word := 0
     s.sched = ⟨false, false⟩ ∧ dxp.toNat / 2 ^ 60 = 0xA ∧
     let slot (l table : Nat) : Nat := table + 8 * (va.toNat / 2 ^ (12 + 9 * l) % 512)
     let reads (l : Nat) (table : Option Nat) : Option Word :=
       table.bind fun t => if s.resizing (slot l t) then none else s.pteRead dxp (slot l t)
     let down (e : Word) : Option Nat := s.tableAddr dxp (entryField e 49 10 * 4096)
     let root := s.tableAddr dxp (entryField dxp 39 0 * 4096)
     reads 4 root = some e4 ∧ entryPoints e4 ∧ reads 3 (down e4) = some e3 ∧ entryPoints e3 ∧
     reads 2 (down e3) = some e2 ∧ entryPoints e2 ∧ reads 1 (down e2) = some e1 ∧ (¬ entryPoints e1)) ∧
    (let s : State := tPut (tMem 1 2 3) 0x1000 (bytesOfNat 8 0x2400000001)
     let dxp : Word := tDxp
     let va : Word := 0x10000
     let e4 : Word := 0x2400000001
     s.sched = ⟨false, false⟩ ∧ dxp.toNat / 2 ^ 60 = 0xA ∧
     let slot (l table : Nat) : Nat := table + 8 * (va.toNat / 2 ^ (12 + 9 * l) % 512)
     let reads (l : Nat) (table : Option Nat) : Option Word :=
       table.bind fun t => if s.resizing (slot l t) then none else s.pteRead dxp (slot l t)
     let down (e : Word) : Option Nat := s.tableAddr dxp (entryField e 49 10 * 4096)
     let root := s.tableAddr dxp (entryField dxp 39 0 * 4096)
     reads 4 root = some e4 ∧ entryPoints e4 ∧ reads 3 (down e4) = none) ∧
    (let s : State := tPut (tMem 1 2 3) 0x2000 (bytesOfNat 8 0x2400000001)
     let dxp : Word := tDxp
     let va : Word := 0x10000
     let e4 : Word := 0x801
     let e3 : Word := 0x2400000001
     s.sched = ⟨false, false⟩ ∧ dxp.toNat / 2 ^ 60 = 0xA ∧
     let slot (l table : Nat) : Nat := table + 8 * (va.toNat / 2 ^ (12 + 9 * l) % 512)
     let reads (l : Nat) (table : Option Nat) : Option Word :=
       table.bind fun t => if s.resizing (slot l t) then none else s.pteRead dxp (slot l t)
     let down (e : Word) : Option Nat := s.tableAddr dxp (entryField e 49 10 * 4096)
     let root := s.tableAddr dxp (entryField dxp 39 0 * 4096)
     reads 4 root = some e4 ∧ entryPoints e4 ∧ reads 3 (down e4) = some e3 ∧ entryPoints e3 ∧ reads 2 (down e3) =
       none) ∧
    (let s : State := tPut (tMem 1 2 3) 0x3000 (bytesOfNat 8 0x2400000001)
     let dxp : Word := tDxp
     let va : Word := 0x10000
     let e4 : Word := 0x801
     let e3 : Word := 0xC01
     let e2 : Word := 0x2400000001
     s.sched = ⟨false, false⟩ ∧ dxp.toNat / 2 ^ 60 = 0xA ∧
     let slot (l table : Nat) : Nat := table + 8 * (va.toNat / 2 ^ (12 + 9 * l) % 512)
     let reads (l : Nat) (table : Option Nat) : Option Word :=
       table.bind fun t => if s.resizing (slot l t) then none else s.pteRead dxp (slot l t)
     let down (e : Word) : Option Nat := s.tableAddr dxp (entryField e 49 10 * 4096)
     let root := s.tableAddr dxp (entryField dxp 39 0 * 4096)
     reads 4 root = some e4 ∧ entryPoints e4 ∧ reads 3 (down e4) = some e3 ∧ entryPoints e3 ∧
     reads 2 (down e3) = some e2 ∧ entryPoints e2 ∧ reads 1 (down e2) = none) ∧
    (let s : State := tPut (tMem 1 2 3) 0x4000 (bytesOfNat 8 0x2400000001)
     let dxp : Word := tDxp
     let va : Word := 0x10000
     let e4 : Word := 0x801
     let e3 : Word := 0xC01
     let e2 : Word := 0x1001
     let e1 : Word := 0x2400000001
     s.sched = ⟨false, false⟩ ∧ dxp.toNat / 2 ^ 60 = 0xA ∧
     let slot (l table : Nat) : Nat := table + 8 * (va.toNat / 2 ^ (12 + 9 * l) % 512)
     let reads (l : Nat) (table : Option Nat) : Option Word :=
       table.bind fun t => if s.resizing (slot l t) then none else s.pteRead dxp (slot l t)
     let down (e : Word) : Option Nat := s.tableAddr dxp (entryField e 49 10 * 4096)
     let root := s.tableAddr dxp (entryField dxp 39 0 * 4096)
     reads 4 root = some e4 ∧ entryPoints e4 ∧ reads 3 (down e4) = some e3 ∧ entryPoints e3 ∧
     reads 2 (down e3) = some e2 ∧ entryPoints e2 ∧ reads 1 (down e2) = some e1 ∧ entryPoints e1 ∧
     reads 0 (down e1) = none) :=
  by decide +kernel

/-- A root in a hole, and one in a window that changes size. -/
theorem witness_translationRoot :
    let r (s : State) (dxp : Word) (resizing : Bool) : Prop :=
      let slot := entryField dxp 39 0 * 4096 + 8 * (0x10000 / 2 ^ 48 % 512)
      s.sched = ⟨false, false⟩ ∧ dxp.toNat / 2 ^ 60 = 0xA ∧ s.resizing slot = resizing ∧
      (if s.resizing slot then none else s.pteRead dxp slot) = none
    r (tMem 1 2 3) 0xA000000009000000 false ∧
    r ((tMem 1 2 3).setDie 0 { (tMem 1 2 3).die 0 with newWays := some 3 }) 0xA000000010000000 true := by decide +kernel

/-- Tables of a host process: an entry that ends the walk, read from host memory; and a root outside the host's bus. -/
theorem witness_translationHostTables :
    let s : State := tMem 1 2 3
    let slot (t : Nat) : Nat := t + 8 * (0x10000 / 2 ^ 48 % 512)
    s.sched = ⟨false, false⟩ ∧ (0xB000000000000001 : Word).toNat / 2 ^ 60 = 0xB ∧
    s.place 0x800000001000 = .host 0x1000 ∧
    (s.tableAddr 0xB000000000000001 (entryField 0xB000000000000001 39 0 * 4096)).map slot = some 0x800000001000 ∧
    s.pteRead 0xB000000000000001 0x800000001000 = some 0 ∧ ¬ entryPoints 0 ∧
    s.tableAddr 0xB00000FFFFFFFFFF (entryField 0xB00000FFFFFFFFFF 39 0 * 4096) = none := by decide +kernel

theorem witness_untranslatedAccess :
    (let s : State := tMem 0x0123456789ABCDE8 2 3
     let d : BitVec 5 := 3
     let a : BitVec 5 := 1
     let imm : BitVec 14 := 0
     s.quiet ∧ s.portFree = true ∧ s.fullX [d, a] ∧
     let va := s.gx a + BitVec.ofInt 64 imm.toInt
     let sign : Prop := va.toNat / 2 ^ 56 = 0 ∨ va.toNat / 2 ^ 56 = 255
     (¬ sign) ∧ va.toNat % 2 = 0 ∧ va.toNat % 4 = 0 ∧ va.toNat % 8 = 0) ∧
    (let s : State := tRegs 0x88 2 3
     let d : BitVec 5 := 3
     let a : BitVec 5 := 1
     let imm : BitVec 14 := 0
     s.quiet ∧ s.portFree = true ∧ s.fullX [d, a] ∧
     let va := s.gx a + BitVec.ofInt 64 imm.toInt
     let sign : Prop := va.toNat / 2 ^ 56 = 0 ∨ va.toNat / 2 ^ 56 = 255
     let on : Prop := s.sq.dxp.toNat / 2 ^ 60 ≠ 0
     sign ∧ (¬ on) ∧ va.toNat % 2 = 0 ∧ va.toNat % 4 = 0 ∧ va.toNat % 8 = 0) :=
  by decide +kernel

end Sys2Proof.Tests
end

section
/-! SUPPORT. Reset and power (O57). The statement ranges over every `State`, and a state is plain data: its `hbmcap`
is any number, where R25 bounds a die's HBM by 64 GiB. Where it is said to reach up to the die register spaces, the ring
conditions of R427 take an event queue that lies among the registers, and an entry written there reads as zeros: the
record of a thermal shutdown is neither in the queue nor counted as dropped, which `State.tells` excuses at a hole of
the map only. -/

namespace Sys2Proof.Machine

/-! ## The register spaces as a place of the device's own accesses -/

theorem State.physWrite_of_regs {s : State} {pa d off : Nat} (h : s.place pa = .regs d off) (bs : List Byte)
    (key : Option (BitVec 512)) : s.physWrite pa bs key = s := by
  simp only [State.physWrite, h]

theorem State.physRead_of_regs {s : State} {pa d off : Nat} (h : s.place pa = .regs d off) (n : Nat)
    (key : Option (BitVec 512)) : s.physRead pa n key = List.replicate n 0 := by
  simp only [State.physRead, h]

/-- What an address names is a matter of the dies alone. -/
theorem State.place_of_dies {s t : State} (h : t.dies = s.dies) (pa : Nat) : t.place pa = s.place pa := by
  unfold State.place State.die
  rw [h]

/-- An event whose entry would lie among the registers leaves every die as it was. -/
theorem State.event_dies_of_regs {s : State} {d off : Nat}
    (h : s.place (fld s.eqbase 63 6 * 64 + 32 * (s.eqtail.toNat % 2 ^ fld s.eqbase 3 0)) = .regs d off)
    (kind die core slot code : Nat) (data addr aux : Word) :
    (s.event kind die core slot code data addr aux).dies = s.dies := by
  unfold State.event
  dsimp only
  rw [State.physWrite_of_regs h]
  split
  · rfl
  · split <;> rfl

/-! ## The frequencies -/

/-- Choosing a frequency asks for one free value, whatever the choice. -/
theorem State.pickMhz_state (s : State) (i fmax : Nat) : (s.pickMhz i fmax).2 = s.draw.2 := by
  unfold State.pickMhz
  dsimp only
  split
  · rfl
  · split <;> rfl

/-- Firmware's choice of frequencies changes `pwrisl` alone, and the model's count of free values. -/
theorem State.rescale_frame (s : State) : ∃ f p, s.rescale = { s with free := f, pwrisl := p } := by
  unfold State.rescale
  generalize List.range 32 = l
  induction l generalizing s with
  | nil => exact ⟨s.free, s.pwrisl, rfl⟩
  | cons i l ih =>
    rw [List.foldl_cons]
    split
    · obtain ⟨f, p, h⟩ := ih (((s.pickMhz i (fld (s.island i) 31 16)).2).setIsland i _)
      exact ⟨f, p, h.trans (by rw [State.pickMhz_state]; rfl)⟩
    · exact ih s

@[simp] theorem State.rescale_dies (s : State) : s.rescale.dies = s.dies := by
  obtain ⟨_, _, h⟩ := s.rescale_frame
  rw [h]
@[simp] theorem State.rescale_seqs (s : State) : s.rescale.seqs = s.seqs := by
  obtain ⟨_, _, h⟩ := s.rescale_frame
  rw [h]
@[simp] theorem State.rescale_eqbase (s : State) : s.rescale.eqbase = s.eqbase := by
  obtain ⟨_, _, h⟩ := s.rescale_frame
  rw [h]
@[simp] theorem State.rescale_eqtail (s : State) : s.rescale.eqtail = s.eqtail := by
  obtain ⟨_, _, h⟩ := s.rescale_frame
  rw [h]

/-- A shutdown that has one sequencer to report, whose record would lie among the registers, leaves every die as it
was. -/
theorem thermalShutdown_dies_of_regs {s t : State} {n q d off : Nat} {x : Seq} (hlow : 1150 ≤ n) (hhigh : n < 65536)
    (hone : s.seqs.filter (fun v => v.2.bound.isSome) = [(q, x)])
    (hplace : s.place (fld s.eqbase 63 6 * 64 + 32 * (s.eqtail.toNat % 2 ^ fld s.eqbase 3 0)) = .regs d off)
    (hnext : exec (.thermalShutdown n) s = .next t) : t.dies = s.dies := by
  have hexec : exec (.thermalShutdown n) s = execThermalShutdown n s := rfl
  have hrun : ¬ (decide (n < 1150) || decide (65536 ≤ n)) = true := by
    simp only [Bool.or_eq_true, decide_eq_true_eq]
    omega
  rw [hexec, execThermalShutdown, if_neg hrun] at hnext
  simp only [State.rescale_seqs, hone, List.foldl_cons, List.foldl_nil, Host.Outcome.next.injEq] at hnext
  subst hnext
  rw [State.seqEvent, State.event_dies_of_regs (d := d) (off := off)]
  · simp
  · rw [State.place_of_dies (s := s) (by simp)]
    simpa using hplace

/-! ## The state that refutes the statement -/

/-- A module too large for its map: the HBM of die 0 is said to reach 4 KiB into the register space of that die, where
an event queue of 64 entries begins. Sequencer 0 is bound. -/
def registerRing : State :=
  { State.reset with
    dies := [(0, { hbmcap := 0x20000001000 })]
    eqbase := 0x20000000006
    seqs := [(0, { bound := some ⟨0, 0, 0⟩ })] }

/-- The first entry of the queue is at a register. -/
theorem registerRing_place : registerRing.place 0x20000000000 = .regs 0 0 := by decide +kernel

/-- The queue is open and has room, so that the driver is told by an entry; a state with the dies of `registerRing`
reads zeros there. -/
theorem registerRing_not_tells {t : State} (h : t.dies = registerRing.dies) :
    ¬ registerRing.tells t 8 0 0 0 0xFF 0 (registerRing.thread 0 0).pc 0 := by
  intro htold
  rw [State.tells, if_neg (by decide +kernel)] at htold
  obtain ⟨-, -, -, hread⟩ := htold
  have hplace : t.place 0x20000000000 = .regs 0 0 := (State.place_of_dies h _).trans registerRing_place
  have hzero := State.physRead_of_regs hplace 32 registerRing.key0
  exact absurd (hzero.symm.trans (hread (by decide +kernel))) (by decide +kernel)

end Sys2Proof.Machine

open Sys2Proof Sys2Proof.Machine

/-- Refutes O57, in its clause on a thermal shutdown: that of `registerRing` neither leaves the record of sequencer 0 in
the event queue nor counts it as dropped. -/
theorem not_resetAndPowerEvents : ¬ Obligations.ResetAndPowerEvents := by
  unfold Obligations.ResetAndPowerEvents
  intro h
  obtain ⟨-, -, -, -, -, -, -, -, -, -, hshutdown, -⟩ := h registerRing 0 0 1150 0 0 (by decide) (by decide)
  obtain ⟨t, hnext, -, -, -, -, -, htold⟩ := hshutdown (by decide) (by decide)
  have hdies := thermalShutdown_dies_of_regs (by decide) (by decide) rfl registerRing_place hnext
  exact registerRing_not_tells hdies (htold 0 _ rfl)

end

section
/-! SUPPORT. Errors and what the driver is told (O56). Where HBM is said to reach into the die register spaces, as in
`registerRing`, an event queue may lie among the registers, and no entry of it can be read back: the failure of a slice
is then neither in the queue nor counted as dropped. -/

namespace Sys2Proof.Machine

/-- The lowest byte of an entry of the event queue is that of its code (Table 18.6). -/
theorem eventWord_lowByte (phase kind die core slot dropped code : Nat) :
    (eventWord phase kind die core slot dropped code).toNat % 256 = code % 256 := by
  simp only [eventWord, w64, BitVec.toNat_ofNat]
  omega

/-- Where the event queue is open and its next entry lies among the registers, no step that leaves the map as it is
tells the driver: zeros are read there, and the lowest byte of the entry is not 0. -/
theorem State.not_tells_of_regs {s t : State} {d off kind die core slot code : Nat} {data addr aux : Word}
    (hopen : ¬ (s.eqbase.toNat % 16 < 6 ∨ 12 < s.eqbase.toNat % 16 ∨
      s.ringOk (s.eqbase.toNat / 64 * 64) (32 * 2 ^ (s.eqbase.toNat % 16)) = false ∨
      2 ^ (s.eqbase.toNat % 16) ≤ (s.eqtail - s.eqhead).toNat ∨
      s.ownFails (s.eqbase.toNat / 64 * 64 + 32 * (s.eqtail.toNat % 2 ^ (s.eqbase.toNat % 16))) = true))
    (hplace : s.place (s.eqbase.toNat / 64 * 64 + 32 * (s.eqtail.toNat % 2 ^ (s.eqbase.toNat % 16))) = .regs d off)
    (hdies : t.dies = s.dies) (hcode : code % 256 ≠ 0) : ¬ s.tells t kind die core slot code data addr aux := by
  intro htold
  rw [State.tells, if_neg hopen] at htold
  obtain ⟨-, -, -, hread⟩ := htold
  have hbytes := hread (by rw [hplace]; exact Place.noConfusion)
  rw [State.physRead_of_regs ((State.place_of_dies hdies _).trans hplace)] at hbytes
  have hfirst : (0 : Byte) = BitVec.ofNat 8 (eventWord _ kind die core slot s.dropped code).toNat :=
    (List.cons.inj hbytes).1
  have hlow := congrArg BitVec.toNat hfirst
  rw [BitVec.toNat_ofNat, eventWord_lowByte] at hlow
  exact hcode hlow.symm

/-- A live slice that fails leaves the state as the event that reports it does. -/
theorem unitFail_slice_next {s t : State} {die unit : Nat} (hdie : die < 8) (hunit : unit < 64)
    (hmap : (s.die die).smap.getLsbD unit = true) (hlive : (s.die die).sfail.getLsbD unit = false)
    (hnext : exec (.unitFail 1 die unit) s = .next t) :
    t = (s.setDie die { s.die die with sfail := (s.die die).sfail ||| (1#64 <<< unit) }).event 3 die 0 0 1
      (w64 unit) 0 0 := by
  have hexec : exec (.unitFail 1 die unit) s = execUnitFail 1 die unit s := rfl
  have hrun : ¬ 8 ≤ die := by omega
  rw [hexec, execUnitFail, if_neg hrun, if_pos rfl, if_pos (by rw [hmap, hlive]; simpa using hunit)] at hnext
  exact (Host.Outcome.next.inj hnext).symm

/-- `registerRing` once slice 0 of die 1 has failed. -/
def failedRing : State :=
  registerRing.setDie 1 { registerRing.die 1 with sfail := (registerRing.die 1).sfail ||| (1#64 <<< 0) }

/-- The first entry of the queue is at a register still. -/
theorem failedRing_place : failedRing.place 0x20000000000 = .regs 0 0 := by decide +kernel

end Sys2Proof.Machine

open Sys2Proof Sys2Proof.Machine

/-- Refutes O56, in its clause on a slice that fails: where slice 0 of die 1 of `registerRing` fails, the driver is not
told, neither by an entry of the event queue nor by a count of those dropped. -/
theorem not_errorEvents : ¬ Obligations.ErrorEvents := by
  unfold Obligations.ErrorEvents
  intro h
  obtain ⟨-, -, hslice, -⟩ := h registerRing 0 0 0 1 0 0 false ⟨0, 0, 0, .hole⟩ []
  obtain ⟨t, hnext, htold, -⟩ := hslice (by decide) (by decide) (by decide +kernel) (by decide +kernel)
  have ht := unitFail_slice_next (by decide) (by decide) (by decide +kernel) (by decide +kernel) hnext
  have hdies : t.dies = failedRing.dies := ht ▸ State.event_dies_of_regs (s := failedRing) failedRing_place _ _ _ _ _ _ _ _
  exact State.not_tells_of_regs (s := failedRing) (by decide +kernel) failedRing_place hdies (by decide) htold

end

section
/-! SUPPORT. What reaches a thread between its instructions (O49): the current thread and its sequencer read after an
update of either, what landing results and a trap change, and one lemma for each event. -/

namespace Sys2Proof.Machine

/-! ## The current thread and its sequencer -/

/-- An event that names the current thread looks at the state itself. -/
theorem State.with_cur_self {s : State} {c : Cursor} (h : s.cur = c) : { s with cur := c } = s := by
  subst h
  rfl

@[simp] theorem State.setSq_sq (s : State) (v : Seq) : (s.setSq v).sq = v := Sparse.get_set_same _ _ _ _
@[simp] theorem State.setSq_th (s : State) (v : Seq) : (s.setSq v).th = s.th := rfl

theorem State.sq_of_cur {s : State} {q h : Nat} (hcur : s.cur = ⟨q, h⟩) : s.sq = s.seq q := by
  rw [State.sq, hcur]
theorem State.setSq_of_cur {s : State} {q h : Nat} (hcur : s.cur = ⟨q, h⟩) (v : Seq) : s.setSeq q v = s.setSq v := by
  rw [State.setSq, hcur]
theorem State.th_of_cur {s : State} {q h : Nat} (hcur : s.cur = ⟨q, h⟩) : s.thread q h = s.th := by
  rw [State.th, hcur]
  rfl
theorem State.setTh_of_cur {s : State} {q h : Nat} (hcur : s.cur = ⟨q, h⟩) (t : Thread) :
    s.setThread q h t = s.setTh t := by
  unfold State.setTh State.setThread
  rw [hcur]
  rfl

theorem State.th_of_threads {s : State} {q h : Nat} {m : Sparse Thread} {t : Thread} (hcur : s.cur = ⟨q, h⟩)
    (hset : s.threads = Sparse.set m (4 * q + h) t) : s.th = t := by
  rw [← State.th_of_cur hcur, State.thread, hset, Sparse.get_set_same]

/-- Whether the trace unit watches the current slot is a matter of the cursor and the cores (R422). -/
theorem State.quiet_of_cores {s u : State} (h : s.quiet) (hcur : u.cur = s.cur) (hcores : u.cores = s.cores) :
    u.quiet := by
  unfold State.quiet State.cp State.core State.coreNo State.slotNo at *
  rwa [hcur, hcores]

/-! ## Results that land (R189, R220) -/

theorem Thread.fillX_frame (t : Thread) (r : Nat) (v : Word) :
    t.fillX r v = { t with x := (t.fillX r v).x, xempty := (t.fillX r v).xempty } := by
  unfold Thread.fillX Thread.setX
  split <;> rfl

theorem Thread.getX_fillX_same (t : Thread) {r : Nat} (v : Word) (h : r ≠ 0) : (t.fillX r v).getX r = v :=
  t.getX_setX_same v h

theorem Thread.getX_fillX_ne (t : Thread) {r i : Nat} (v : Word) (h : i ≠ r) : (t.fillX r v).getX i = t.getX i :=
  t.getX_setX_ne v h

theorem Thread.xFull_fillX (t : Thread) {r : Nat} (v : Word) (h : r < 32) : (t.fillX r v).xFull r = true := by
  simp [Thread.xFull, Thread.fillX, h]

/-- The results that land write scalar and vector registers and no other field of the thread. -/
theorem Thread.landAll_frame (t : Thread) :
    ∃ x e v, t.landAll = { t with x := x, xempty := e, v := v, pend := t.pend.filter Pend.unbounded } := by
  unfold Thread.landAll
  dsimp only
  generalize t.pend.filter Pend.unbounded = rest
  generalize t.pend = l
  induction l generalizing t with
  | nil => exact ⟨t.x, t.xempty, t.v, rfl⟩
  | cons p l ih =>
    rw [List.foldl_cons]
    cases p with
    | scalar r w =>
      obtain ⟨x, e, v, h⟩ := ih (t.fillX r w)
      exact ⟨x, e, v, h.trans (by rw [Thread.fillX_frame])⟩
    | vector r w => exact ih (t.setVreg r { w with empty := false })
    | ticket => exact ih t
    | claim => exact ih t

/-- With no result outstanding none lands. -/
theorem Thread.landAll_of_pend_nil {t : Thread} (h : t.pend = []) : t.landAll = t := by
  cases t
  subst h
  rfl

theorem loadResultLands_scalar {s : State} {q h k r : Nat} {v : Word} (hcur : s.cur = ⟨q, h⟩)
    (hpend : s.th.pend[k]? = some (.scalar r v)) : exec (.loadResultLands q h k) s =
      .next (s.setTh { s.th.fillX r v with pend := s.th.pend.eraseIdx k }) := by
  have hexec : exec (.loadResultLands q h k) s = execLoadResultLands q h k s := rfl
  rw [hexec, execLoadResultLands, State.th_of_cur hcur]
  simp only [hpend, State.setTh_of_cur hcur]

theorem loadResultLands_vector {s : State} {q h k r : Nat} {w : VReg} (hcur : s.cur = ⟨q, h⟩)
    (hpend : s.th.pend[k]? = some (.vector r w)) : exec (.loadResultLands q h k) s =
      .next (s.setTh { s.th.setVreg r { w with empty := false } with pend := s.th.pend.eraseIdx k }) := by
  have hexec : exec (.loadResultLands q h k) s = execLoadResultLands q h k s := rfl
  rw [hexec, execLoadResultLands, State.th_of_cur hcur]
  simp only [hpend, State.setTh_of_cur hcur]

/-! ## Taking a trap (R403) -/

/-- Where there is a handler and no trap is being handled, a trap enters the handler once what is outstanding has
landed. -/
theorem enterTrap_handler {s : State} (cause : Nat) (p tval telem tinfo : Word) (hvec : s.sq.tvec ≠ 0)
    (hnest : s.th.tstat.getLsbD 5 = false) :
    enterTrap cause p tval telem tinfo s = s.setTh (s.th.landAll.enter cause p tval telem tinfo s.sq.tvec) := by
  have hstat : s.th.landAll.tstat = s.th.tstat := by
    obtain ⟨x, e, v, h⟩ := s.th.landAll_frame
    rw [h]
  unfold enterTrap
  dsimp only
  rw [if_neg]
  · simp
  · simp only [State.setTh_sq, State.setTh_th, bit, hstat, hnest, hvec, Bool.false_eq_true, or_self, not_false_eq_true]

/-- The trap of a notice, in a thread that nothing traces. -/
theorem boundaryTrap_handler {s : State} (cause : Nat) (tval telem : Word) (hq : s.quiet) (hvec : s.sq.tvec ≠ 0)
    (hnest : s.th.tstat.getLsbD 5 = false) :
    boundaryTrap cause tval telem s = s.setTh (s.th.landAll.enter cause s.th.pc tval telem 0 s.sq.tvec) := by
  rw [boundaryTrap, traceEntry_quiet _ _ hq, enterTrap_handler _ _ _ _ _ hvec hnest]

/-! ## Errors of engine commands (R367, R401, R405) -/

/-- A wait in which an engine command's error is taken at once: at a bolt, at a barrier or for an event (log 22). -/
def Wait.standsBy : Wait → Bool
  | .bolt _ _ _ | .barrier _ | .wfe _ => true
  | _ => false

theorem engineCommandError_taken {s : State} {q h : Nat} {v st : Word} {es : List (Word × Word)}
    (hcur : s.cur = ⟨q, h⟩) (hbound : s.sq.bound ≠ none) (hrun : s.sq.stopped = false) (hlevel : s.th.level = .program)
    (hlanes : s.th.laneNotices = []) (hwait : s.th.wait.standsBy = true) (herr : s.th.engineErrors = (v, st) :: es) :
    exec (.engineCommandError q h) s =
      .next (boundaryTrap 0x1A v st (s.unhold.setTh { s.th with engineErrors := es })) := by
  have hexec : exec (.engineCommandError q h) s = execEngineCommandError q h s := rfl
  have hsome : s.sq.bound.isSome = true := Option.isSome_iff_ne_none.2 hbound
  rw [hexec, execEngineCommandError, State.with_cur_self hcur]
  cases hw : s.th.wait with
  | bolt | barrier | wfe => simp [hsome, hrun, hlevel, hlanes, herr, hw]
  | _ => rw [hw] at hwait; cases hwait

/-- The handler entered for an engine command's error finds the PC and the status of its entry, which is taken. -/
theorem engineCommandError_enters {s : State} {q h : Nat} {v st : Word} {es : List (Word × Word)}
    (hcur : s.cur = ⟨q, h⟩) (hq : s.quiet) (hbound : s.sq.bound ≠ none) (hrun : s.sq.stopped = false)
    (hlevel : s.th.level = .program) (hlanes : s.th.laneNotices = []) (hwait : s.th.wait.standsBy = true)
    (herr : s.th.engineErrors = (v, st) :: es) (hvec : s.sq.tvec ≠ 0) (hnest : s.th.tstat.getLsbD 5 = false) :
    Nexts (exec (.engineCommandError q h) s) fun t =>
      t.th.tcause = w64 0x1A ∧ t.th.tpc = s.th.pc ∧ t.th.pc = s.sq.tvec ∧ t.th.level = .supervisor ∧ t.mem = s.mem ∧
      t.th.tval = v ∧ t.th.telem = st ∧ t.th.engineErrors = es := by
  have htvec : s.unhold.sq.tvec = s.sq.tvec := by rw [State.unhold, State.setSq_sq]
  have htrap := boundaryTrap_handler (s := s.unhold.setTh { s.th with engineErrors := es }) 0x1A v st hq
    (by rwa [State.setTh_sq, htvec]) (by rwa [State.setTh_th])
  obtain ⟨x, e, r, hland⟩ := Thread.landAll_frame { s.th with engineErrors := es }
  rw [State.setTh_sq, htvec, State.setTh_th, hland] at htrap
  refine ⟨_, (engineCommandError_taken hcur hbound hrun hlevel hlanes hwait herr).trans (congrArg _ htrap), ?_⟩
  beta_reduce
  rw [State.setTh_th]
  exact ⟨rfl, rfl, rfl, rfl, rfl, rfl, rfl, rfl⟩

theorem engineCommandError_waits {s : State} {q h : Nat} (hcur : s.cur = ⟨q, h⟩)
    (hwait : s.th.wait.standsBy = false) : exec (.engineCommandError q h) s = .next s := by
  have hexec : exec (.engineCommandError q h) s = execEngineCommandError q h s := rfl
  rw [hexec, execEngineCommandError, State.with_cur_self hcur]
  cases hw : s.th.wait with
  | bolt | barrier | wfe => rw [hw] at hwait; cases hwait
  | _ => simp

/-! ## Requests of the runtime (R407) -/

theorem State.mapThread_thread_same (s : State) (q r : Nat) (f : Thread → Thread) :
    (s.mapThread q r f).thread q r = f (s.thread q r) := by
  unfold State.mapThread
  dsimp only
  split <;> exact Sparse.get_set_same _ _ _ _

theorem State.mapThread_thread_ne (s : State) {q r i : Nat} (f : Thread → Thread) (h : i ≠ r) :
    (s.mapThread q r f).thread q i = s.thread q i := by
  have hkey : 4 * q + i ≠ 4 * q + r := by omega
  unfold State.mapThread
  dsimp only
  split <;> exact Sparse.get_set_ne _ _ _ hkey

@[simp] theorem State.mapThread_cur (s : State) (q r : Nat) (f : Thread → Thread) :
    (s.mapThread q r f).cur = s.cur := by
  unfold State.mapThread
  dsimp only
  split <;> rfl

@[simp] theorem State.mapThread_mem (s : State) (q r : Nat) (f : Thread → Thread) :
    (s.mapThread q r f).mem = s.mem := by
  unfold State.mapThread
  dsimp only
  split <;> rfl

/-- Of its sequencer a change of a thread changes the kept copy alone (log 44). -/
theorem State.mapThread_seq (s : State) (q r : Nat) (f : Thread → Thread) :
    (s.mapThread q r f).seq q = { s.seq q with shadow := ((s.mapThread q r f).seq q).shadow } := by
  unfold State.mapThread
  dsimp only
  split
  · simp only [State.seq, Sparse.get_set_same, State.setThread_seqs]
  · rfl

/-- What a change of every thread of a sequencer does: each of them is changed, and of the sequencer its kept copy
alone. -/
theorem State.mapThreads_spec (s : State) (q : Nat) (f : Thread → Thread) :
    (∀ i, (s.mapThreads q f).thread q i = if i < (s.seq q).split then f (s.thread q i) else s.thread q i) ∧
    (s.mapThreads q f).cur = s.cur ∧ (s.mapThreads q f).mem = s.mem ∧
    (s.mapThreads q f).seq q = { s.seq q with shadow := ((s.mapThreads q f).seq q).shadow } := by
  unfold State.mapThreads
  generalize (s.seq q).split = n
  induction n with
  | zero => exact ⟨fun _ => rfl, rfl, rfl, rfl⟩
  | succ n ih =>
    obtain ⟨hthread, hcur, hmem, hseq⟩ := ih
    rw [List.range_succ, List.foldl_append, List.foldl_cons, List.foldl_nil]
    refine ⟨fun i => ?_, by rw [State.mapThread_cur, hcur], by rw [State.mapThread_mem, hmem], ?_⟩
    · by_cases hi : i = n
      · rw [hi, State.mapThread_thread_same, hthread, if_neg (lt_irrefl n), if_pos (Nat.lt_succ_self n)]
      · rw [State.mapThread_thread_ne _ _ hi, hthread]
        exact if_congr (by omega) rfl rfl
    · rw [State.mapThread_seq, hseq]

theorem migrationRequestPost_posted {s : State} {q h : Nat} {req : BitVec 4} (hcur : s.cur = ⟨q, h⟩)
    (hbound : s.sq.bound ≠ none) (hreq : req.toNat % 4 ≠ 0) (hpolled : s.sq.polled = false) :
    exec (.migrationRequestPost q req) s = .next ((s.setSq { s.sq with migreq := req.setWidth 64 }).mapThreads q
      fun t => { t with latch := t.latch ||| 2 }) := by
  have hexec : exec (.migrationRequestPost q req) s = execMigrationRequestPost q req s := rfl
  rw [hexec, execMigrationRequestPost, ← State.sq_of_cur hcur, State.setSq_of_cur hcur, if_neg]
  simp [hbound, hreq, hpolled]

/-- A request posted changes the sequencer's request and each thread's event latch. -/
theorem migrationRequestPost_latches {s : State} {q h : Nat} (migreq : Word) (hcur : s.cur = ⟨q, h⟩) :
    let t := (s.setSq { s.sq with migreq }).mapThreads q fun t => { t with latch := t.latch ||| 2 }
    t.sq = { s.sq with migreq, shadow := t.sq.shadow } ∧ t.mem = s.mem ∧
    ∀ i, t.thread q i =
      if i < s.sq.split then { s.thread q i with latch := (s.thread q i).latch ||| 2 } else s.thread q i := by
  have hset : (s.setSq { s.sq with migreq }).seq q = { s.sq with migreq } := by
    rw [← State.sq_of_cur (h := h) (by exact hcur), State.setSq_sq]
  obtain ⟨hthread, hcur', hmem, hseq⟩ :=
    (s.setSq { s.sq with migreq }).mapThreads_spec q fun t => { t with latch := t.latch ||| 2 }
  rw [hset] at hthread hseq
  refine ⟨?_, hmem, hthread⟩
  rw [State.sq_of_cur (hcur'.trans hcur)]
  exact hseq

/-- The request that a `pollp` has returned stands (log 34). -/
theorem migrationRequestPost_polled {s : State} {q h : Nat} (req : BitVec 4) (hcur : s.cur = ⟨q, h⟩)
    (hpolled : s.sq.polled = true) : exec (.migrationRequestPost q req) s = .next s := by
  have hexec : exec (.migrationRequestPost q req) s = execMigrationRequestPost q req s := rfl
  rw [hexec, execMigrationRequestPost, ← State.sq_of_cur hcur, if_pos (by rw [hpolled, Bool.or_true])]

theorem migrationRequestWithdraw_bound {s : State} {q h : Nat} (hcur : s.cur = ⟨q, h⟩) (hbound : s.sq.bound ≠ none) :
    exec (.migrationRequestWithdraw q) s = .next (s.setSq { s.sq with migreq := 0, polled := false }) := by
  have hexec : exec (.migrationRequestWithdraw q) s = execMigrationRequestWithdraw q s := rfl
  rw [hexec, execMigrationRequestWithdraw, ← State.sq_of_cur hcur, State.setSq_of_cur hcur,
    if_neg (by simpa using hbound)]

theorem preemptRequest_bound {s : State} {q h : Nat} (hcur : s.cur = ⟨q, h⟩) (hbound : s.sq.bound ≠ none)
    (hrun : s.sq.stopped = false) (hsaving : s.sq.saving = none) :
    exec (.preemptRequest q) s = .next (s.setSq { s.sq with saving := some 0x30 }) := by
  have hexec : exec (.preemptRequest q) s = execPreemptRequest q s := rfl
  rw [hexec, execPreemptRequest, ← State.sq_of_cur hcur, State.setSq_of_cur hcur]
  exact congrArg _ (if_neg (by simp [hbound, hrun, hsaving]))

/-! ## The limit of a bolt's wait (R143) -/

theorem boltStall_limited {s : State} {q h pa : Nat} {va : Word} {x : Bool} (hcur : s.cur = ⟨q, h⟩)
    (hwait : s.th.wait = .bolt pa va x) (hlim : s.sq.boltlim.toNat % 2 ^ 32 ≠ 0) :
    exec (.boltStall q h) s = .next (takeTrap 0x16 va 0 0 s) := by
  have hexec : exec (.boltStall q h) s = execBoltStall q h s := rfl
  rw [hexec, execBoltStall, State.with_cur_self hcur]
  simp only [hwait]
  exact if_neg hlim

/-! ## Machine checks (R222, R401, R419) -/

/-- The boundary that an event presents is that of the kept copy where a `qnext` is outstanding (R407). -/
theorem State.rollBack_keeps (s : State) : s.rollBack.th = s.sq.shadow.getD s.th ∧ s.rollBack.cur = s.cur ∧
    s.rollBack.mem = s.mem ∧ s.rollBack.cores = s.cores ∧ s.rollBack.sq.tvec = s.sq.tvec := by
  unfold State.rollBack
  cases s.sq.shadow with
  | none => exact ⟨rfl, rfl, rfl, rfl, rfl⟩
  | some t => simp

/-- What a source loses is held in the vector registers of the thread and in the tiles and buffers of the sequencer
(Table 17.6). -/
theorem State.loseState_keeps {s : State} {q h : Nat} (source : Nat) (hcur : s.cur = ⟨q, h⟩) :
    (∃ v, (s.loseState q h source).th = { s.th with v := v }) ∧ (s.loseState q h source).cur = s.cur ∧
    (s.loseState q h source).mem = s.mem ∧ (s.loseState q h source).cores = s.cores ∧
    (s.loseState q h source).sq.tvec = s.sq.tvec := by
  unfold State.loseState
  rw [State.th_of_cur hcur, ← State.sq_of_cur hcur]
  split
  · exact ⟨⟨_, State.th_of_threads hcur rfl⟩, rfl, rfl, rfl, rfl⟩
  · split
    · exact ⟨⟨s.th.v, rfl⟩, rfl, rfl, rfl, by simp [State.sq, State.seq, State.setSeq, hcur]⟩
    · exact ⟨⟨s.th.v, rfl⟩, rfl, rfl, rfl, rfl⟩

/-- With nothing outstanding, and in a thread that nothing traces, a trap changes the thread as `Thread.enter` does. -/
theorem enterTrap_recorded {u : State} (cause : Nat) (p tval telem tinfo : Word) (kind : Nat) (dw : Word) (hq : u.quiet)
    (hvec : u.sq.tvec ≠ 0) (hnest : u.th.tstat.getLsbD 5 = false) (hpend : u.th.pend = []) :
    enterTrap cause p tval telem tinfo (u.traceEntry kind dw) =
      u.setTh (u.th.enter cause p tval telem tinfo u.sq.tvec) := by
  rw [traceEntry_quiet _ _ hq, enterTrap_handler _ _ _ _ _ hvec hnest, Thread.landAll_of_pend_nil hpend]

/-- A machine check that can be taken is taken at the boundary presented, after its source has lost what it held; the
translation engine's draws which of its two values `tval` has (log 47). -/
theorem machineCheck_next {s : State} {q h k : Nat} (hcur : s.cur = ⟨q, h⟩) (hbound : s.sq.bound ≠ none)
    (hrun : s.sq.stopped = false) (hthr : h < s.sq.split) (hk : k ∈ [1, 2, 3, 4, 6, 7])
    (hentry : k = 1 → s.atEntry = true ∧ s.th.wait.begun = false) :
    let u := s.rollBack.loseState q h k
    let w := if k = 1 then u.draw else (0, u)
    exec (.machineCheck q h k) s = .next (enterTrap 0x3F w.2.th.pc (if bit w.1 0 then w.2.th.pc else w64 k) 0
      (if k = 1 || k = 4 || k = 6 then 1 else 0) (w.2.traceEntry 4 0x3F)) := by
  have hexec : exec (.machineCheck q h k) s = execMachineCheck q h k s := rfl
  have hcond : ¬ (s.sq.bound.isNone || s.sq.stopped || decide (s.sq.split ≤ h) || decide (k = 0) || decide (k = 5) ||
      decide (7 < k) || (decide (k = 1) && (s.th.wait.begun || !s.atEntry))) = true := by
    simp only [List.mem_cons, List.not_mem_nil, or_false] at hk
    by_cases h1 : k = 1
    · simp [hbound, hrun, hthr, h1, hentry h1]
    · simp [hbound, hrun, hthr, h1]
      omega
  rw [hexec, execMachineCheck, State.with_cur_self hcur, if_neg hcond]

/-- A machine check of a source of Table 17.6 but 5 traps at the boundary presented, whose vector registers may be
lost; `tval` is the source, or for source 1 the entry's position. -/
theorem machineCheck_taken {s : State} {q h k : Nat} (hcur : s.cur = ⟨q, h⟩) (hq : s.quiet) (hbound : s.sq.bound ≠ none)
    (hrun : s.sq.stopped = false) (hthr : h < s.sq.split) (hk : k ∈ [1, 2, 3, 4, 6, 7])
    (hentry : k = 1 → s.atEntry = true ∧ s.th.wait.begun = false) (hpend : (s.sq.shadow.getD s.th).pend = [])
    (hvec : s.sq.tvec ≠ 0) (hnest : (s.sq.shadow.getD s.th).tstat.getLsbD 5 = false) :
    Nexts (exec (.machineCheck q h k) s) fun t => t.mem = s.mem ∧ ∃ v tval,
      t.th = { s.sq.shadow.getD s.th with v := v }.enter 0x3F (s.sq.shadow.getD s.th).pc tval 0
        (if k = 1 || k = 4 || k = 6 then 1 else 0) s.sq.tvec ∧
      (tval = w64 k ∨ (k = 1 ∧ tval = (s.sq.shadow.getD s.th).pc)) := by
  refine ⟨_, machineCheck_next hcur hbound hrun hthr hk hentry, ?_⟩
  obtain ⟨hth, hcur', hmem, hcores, htvec⟩ := s.rollBack_keeps
  obtain ⟨⟨v, hth'⟩, hcur'', hmem', hcores', htvec'⟩ := State.loseState_keeps k (hcur'.trans hcur)
  have hquiet := State.quiet_of_cores hq (hcur''.trans hcur') (hcores'.trans hcores)
  generalize s.rollBack.loseState q h k = u at hth' hmem' htvec' hquiet ⊢
  rw [hth] at hth'
  have hdraw : ∃ x n, (if k = 1 then u.draw else (0, u)) = (x, { u with free := n }) ∧ (k ≠ 1 → x = 0) := by
    split
    · exact ⟨_, _, rfl, fun h1 => absurd ‹_› h1⟩
    · exact ⟨0, u.free, rfl, fun _ => rfl⟩
  obtain ⟨x, n, hdraw, hfree⟩ := hdraw
  have hpc : u.th.pc = (s.sq.shadow.getD s.th).pc := by rw [hth']
  have htrap := enterTrap_recorded (u := { u with free := n }) 0x3F u.th.pc (if bit x 0 then u.th.pc else w64 k) 0
    (if k = 1 || k = 4 || k = 6 then 1 else 0) 4 0x3F hquiet (htvec'.trans htvec ▸ hvec)
    (hth' ▸ hnest : u.th.tstat.getLsbD 5 = false) (hth' ▸ hpend : u.th.pend = [])
  rw [hdraw]
  refine ⟨(congrArg State.mem htrap).trans (hmem'.trans hmem), v, if bit x 0 then u.th.pc else w64 k, ?_, ?_⟩
  · refine (congrArg State.th htrap).trans ((State.setTh_th _ _).trans ?_)
    rw [← hpc, ← hth', ← htvec, ← htvec']
    rfl
  · by_cases h1 : k = 1
    · rw [hpc]
      split
      · exact .inr ⟨h1, rfl⟩
      · exact .inl rfl
    · exact .inl (by rw [hfree h1]; rfl)

/-! ## Regions translated ahead (R212) -/

/-- Where no copies are kept a region's word alone is read. -/
theorem State.translateRegion_uncached {s : State} (h : s.sched.caching = false) (pa k : Nat) (va : Word)
    (tg : Target) : s.translateRegion pa k va tg = some ([tg.tileLine], s) := by
  unfold State.translateRegion
  rw [h]

theorem State.ringFind_uncached {s : State} (h : s.sched.caching = false) (pa : Nat) : s.ringFind pa = none := by
  rw [State.ringFind, h]
  rfl

/-- With no replica anywhere no page is poisoned (R71). -/
theorem State.poisoned_of_plain {s : State} (h : s.plain) {d : Nat} (hd : d < 8) (pa : Nat) :
    s.poisoned d pa = false := by
  obtain ⟨-, -, -, -, -, hdies, -⟩ := h
  obtain ⟨-, -, hrdir, -⟩ := hdies d hd
  rw [State.poisoned, hrdir]
  rfl

theorem State.dieNo_lt_of_plain {s : State} (h : s.plain) : s.dieNo < 8 := by
  obtain ⟨-, hseq, -⟩ := h
  unfold State.dieNo
  omega

/-- In a plain state a region translated ahead of its entry counts in `krxlat` where the walk succeeds; a failed walk is
dropped and counted (R61). -/
theorem regionTranslate_plain {s : State} {q h : Nat} (hcur : s.cur = ⟨q, h⟩) (hbound : s.sq.bound ≠ none)
    (hpc : s.th.pc.toNat % 4 = 0) (hcan : canonical s.th.pc = true) (hmode : s.sq.dxp.toNat / 2 ^ 60 ≠ 0)
    (hplain : s.plain) (hentry : s.atEntry = true) (hbegun : s.th.wait.begun = false) :
    exec (.regionTranslate q h) s = .next
      (match (s.freshWalk s.dieNo s.sq.dxp s.th.level fetchAcc (s.th.pc.toNat % 2 ^ 57) true).1 with
      | .ok _ => s.setTh { s.th with krxlat := s.th.krxlat + 1 }
      | _ => s.bump 0x212 1) := by
  have hexec : exec (.regionTranslate q h) s = execRegionTranslate q h s := rfl
  have hcaching : s.sched.caching = false := by rw [hplain.1]
  have hgo : ¬ (s.sq.bound.isNone || decide (s.th.pc.toNat % 4 ≠ 0) || !s.atEntry || s.th.wait.begun) = true := by
    simp [hbound, hpc, hentry, hbegun]
  have hwalk : ¬ (!canonical s.th.pc || decide (fld s.sq.dxp 63 60 = 0)) = true := by
    have hfld : fld s.sq.dxp 63 60 ≠ 0 := by
      simp only [fld, Nat.shiftRight_eq_div_pow]
      have := s.sq.dxp.isLt
      omega
    simp [hcan, hfld]
  rw [hexec, execRegionTranslate, State.with_cur_self hcur, if_neg hgo, if_neg hwalk]
  obtain ⟨r, o, u⟩ := s.freshWalk s.dieNo s.sq.dxp s.th.level fetchAcc (s.th.pc.toNat % 2 ^ 57) true
  cases r with
  | ok tg =>
    dsimp only
    rw [State.ringFind_uncached hcaching, State.poisoned_of_plain hplain (State.dieNo_lt_of_plain hplain),
      State.translateRegion_uncached hcaching]
    rfl
  | _ => rfl

end Sys2Proof.Machine

end

section
/-! SUPPORT. The count of a queue's header written at its home slice (R42, R45, R166, R168; O49): the line is re-filled
under the header's key bits, so that the header then reads as it did but for the count. -/

namespace Sys2Proof.Machine

/-! ## Bytes -/

theorem natOfBytes_append (l r : List Byte) : natOfBytes (l ++ r) = natOfBytes l + 256 ^ l.length * natOfBytes r := by
  induction l with
  | nil => simp [natOfBytes]
  | cons b l ih =>
    rw [List.cons_append, natOfBytes, natOfBytes, ih, List.length_cons, pow_succ]
    ring

theorem natOfBytes_lt (l : List Byte) : natOfBytes l < 256 ^ l.length := by
  induction l with
  | nil => exact Nat.one_pos
  | cons b l ih =>
    rw [natOfBytes, List.length_cons, pow_succ]
    have := b.isLt
    omega

theorem natOfBytes_bytesOfNat (n v : Nat) : natOfBytes (bytesOfNat n v) = v % 256 ^ n := by
  induction n generalizing v with
  | zero => simp [bytesOfNat, natOfBytes, Nat.mod_one]
  | succ n ih =>
    rw [bytesOfNat, natOfBytes, ih, BitVec.toNat_ofNat, pow_succ' 256 n, Nat.mod_mul]

@[simp] theorem bytesOfNat_length (n v : Nat) : (bytesOfNat n v).length = n := by
  induction n generalizing v with
  | zero => rfl
  | succ n ih => rw [bytesOfNat, List.length_cons, ih]

theorem bytesOfNat_getD (n v i : Nat) (h : i < n) : (bytesOfNat n v).getD i 0 = BitVec.ofNat 8 (v / 256 ^ i) := by
  induction n generalizing v i with
  | zero => omega
  | succ n ih =>
    cases i with
    | zero => simp [bytesOfNat]
    | succ i => rw [bytesOfNat, List.getD_cons_succ, ih _ _ (by omega), Nat.div_div_eq_div_mul, pow_succ']

@[simp] theorem memBytes_length (m : List Host.Cell) (a n : Nat) : (memBytes m a n).length = n := by
  induction n generalizing a with
  | zero => rfl
  | succ n ih => rw [memBytes, List.length_cons, ih]

theorem memBytes_add (m : List Host.Cell) (a j k : Nat) :
    memBytes m a (j + k) = memBytes m a j ++ memBytes m (a + j) k := by
  induction j generalizing a with
  | zero => simp [memBytes]
  | succ j ih => rw [Nat.succ_add, memBytes, memBytes, ih, List.cons_append, Nat.succ_add_eq_add_succ]

theorem memBytes_eq_map (m : List Host.Cell) (a n : Nat) :
    memBytes m a n = (List.range n).map fun i => memByte m (a + i) := by
  induction n generalizing a with
  | zero => rfl
  | succ n ih =>
    rw [memBytes, ih, List.range_succ_eq_map, List.map_cons, List.map_map]
    simp [Function.comp_def, Nat.add_assoc, Nat.add_comm 1]

/-- Bytes stored are read again. -/
theorem memBytes_cellsAt (m : List Host.Cell) (a : Nat) (bs : List Byte) :
    memBytes (memPutAll m (cellsAt a bs)) a bs.length = bs := by
  rw [memBytes_eq_map]
  refine List.ext_getElem (by simp) fun i h1 h2 => ?_
  rw [List.getElem_map, List.getElem_range, memByte_cellsAt, if_pos (by omega), Nat.add_sub_cancel_left,
    List.getD_eq_getElem _ _ h2]

/-- Bytes past those stored are as they were. -/
theorem memBytes_cellsAt_past (m : List Host.Cell) (a b n : Nat) (bs : List Byte) (h : a + bs.length ≤ b) :
    memBytes (memPutAll m (cellsAt a bs)) b n = memBytes m b n := by
  rw [memBytes_eq_map, memBytes_eq_map]
  refine List.map_congr_left fun i _ => ?_
  rw [memByte_cellsAt, if_neg (by omega)]

/-! ## Headers -/

theorem dwordOf_first (b rest : List Byte) (h : b.length = 4) :
    dwordOf (b ++ rest) 0 = w64 (natOfBytes b + 2 ^ 32 * natOfBytes (rest.take 4)) := by
  rw [dwordOf, List.drop_zero, List.take_append, h, List.take_of_length_le (by omega), natOfBytes_append, h]
  norm_num

theorem dwordOf_later (b rest : List Byte) (off : Nat) (h : b.length = 4) (hoff : 4 ≤ off) :
    dwordOf (b ++ rest) off = w64 (natOfBytes ((rest.drop (off - 4)).take 8)) := by
  rw [dwordOf, List.drop_append, h, List.drop_of_length_le (by omega), List.nil_append]

/-- The halves of a dword given as two naturals. -/
theorem w64_low (a b : Nat) : (w64 (a + 2 ^ 32 * b)).extractLsb' 0 32 = BitVec.ofNat 32 a := by
  apply BitVec.eq_of_toNat_eq
  simp only [w64, BitVec.extractLsb'_toNat, BitVec.toNat_ofNat, Nat.shiftRight_zero]
  omega

theorem w64_high {a : Nat} (b : Nat) (ha : a < 2 ^ 32) :
    (w64 (a + 2 ^ 32 * b)).extractLsb' 32 32 = BitVec.ofNat 32 b := by
  apply BitVec.eq_of_toNat_eq
  simp only [w64, BitVec.extractLsb'_toNat, BitVec.toNat_ofNat, Nat.shiftRight_eq_div_pow]
  omega

/-- HEAD is the first four bytes of a header (Table 7.6). -/
theorem QHeader.ofBytes_head (v : BitVec 32) (old rest : List Byte) (h : old.length = 4) :
    QHeader.ofBytes (bytesOfNat 4 v.toNat ++ rest) = { QHeader.ofBytes (old ++ rest) with head := v } := by
  have hnew : (bytesOfNat 4 v.toNat).length = 4 := bytesOfNat_length _ _
  have hlater : ∀ off, 4 ≤ off → dwordOf (bytesOfNat 4 v.toNat ++ rest) off = dwordOf (old ++ rest) off :=
    fun off hoff => by rw [dwordOf_later _ _ _ hnew hoff, dwordOf_later _ _ _ h hoff]
  have hlow (b : List Byte) (hb : b.length = 4) : natOfBytes b < 2 ^ 32 :=
    (natOfBytes_lt b).trans_eq (by rw [hb]; rfl)
  have hhead : (dwordOf (bytesOfNat 4 v.toNat ++ rest) 0).extractLsb' 0 32 = v := by
    rw [dwordOf_first _ _ hnew, w64_low, natOfBytes_bytesOfNat, Nat.mod_eq_of_lt (b := 256 ^ 4) v.isLt,
      BitVec.ofNat_toNat, BitVec.setWidth_eq]
  have htail : (dwordOf (bytesOfNat 4 v.toNat ++ rest) 0).extractLsb' 32 32 =
      (dwordOf (old ++ rest) 0).extractLsb' 32 32 := by
    rw [dwordOf_first _ _ hnew, dwordOf_first _ _ h, w64_high _ (hlow _ hnew), w64_high _ (hlow _ h)]
  simp only [QHeader.ofBytes, hlater, hhead, htail, Nat.reduceMul, Nat.reduceLeDiff]

/-! ## Lines and their key bits (R45) -/

/-- A line re-filled under the reader's key bits holds the bytes that the reader saw. -/
theorem State.memBytes_rekey (s : State) (pa n : Nat) (key : Option (BitVec 512)) (h : pa % 128 + n ≤ 128) :
    memBytes (s.rekey (lineOf pa) key).mem pa n = s.homeBytes pa n key := by
  unfold State.rekey State.homeBytes
  cases hline : (s.line (lineOf pa)).key with
  | none => cases key <;> rfl
  | some k0 =>
    cases key with
    | none => rfl
    | some k =>
      dsimp only
      split
      · rfl
      · rw [memBytes_eq_map]
        refine List.map_congr_left fun i hi => ?_
        have hi' := List.mem_range.1 hi
        have hpa : pa + i - 128 * lineOf pa = pa % 128 + i ∧ 128 * lineOf pa ≤ pa := by unfold lineOf; omega
        rw [memByte_cellsAt, bytesOfNat_length, if_pos (by omega), bytesOfNat_getD _ _ _ (by omega), hpa.1]
        apply BitVec.eq_of_toNat_eq
        rw [BitVec.toNat_ofNat, BitVec.extractLsb'_toNat, Nat.shiftRight_eq_div_pow, pow_mul]
        simp only [Nat.reducePow]

/-- A line re-filled under key bits reads as plain under them. -/
theorem State.homeBytes_of_key {s : State} {pa : Nat} {key : Option (BitVec 512)} (n : Nat)
    (h : key = none ∨ (s.line (lineOf pa)).key = key) : s.homeBytes pa n key = memBytes s.mem pa n := by
  unfold State.homeBytes
  rcases h with rfl | h
  · cases (s.line (lineOf pa)).key <;> rfl
  · rw [h]
    cases key with
    | none => rfl
    | some k => exact if_pos rfl

theorem State.rekey_key (s : State) (n : Nat) (k : BitVec 512) : ((s.rekey n (some k)).line n).key = some k := by
  unfold State.rekey
  cases hline : (s.line n).key with
  | none => simp [State.line]
  | some k0 =>
    dsimp only
    split
    · next he => rw [hline, he]
    · simp [State.line]

/-- Re-filling a line changes memory and the lines' records alone. -/
theorem State.rekey_frame (s : State) (n : Nat) (key : Option (BitVec 512)) :
    s.rekey n key = { s with mem := (s.rekey n key).mem, lines := (s.rekey n key).lines } := by
  unfold State.rekey
  split
  · dsimp only
    split <;> rfl
  · rfl
  · rfl

/-! ## A write applied at its home (R93, R107) -/

/-- Two states differ in their dies and cores alone. -/
def State.diesApart (s t : State) : Prop := t = { s with dies := t.dies, cores := t.cores }

theorem State.diesApart.refl (s : State) : s.diesApart s := rfl

theorem State.diesApart.trans {s t u : State} (h : s.diesApart t) (h' : t.diesApart u) : s.diesApart u := by
  unfold State.diesApart at *
  rw [h', h]

theorem State.diesApart_foldl {α : Type} {g : State → α → State} (hg : ∀ (s : State) a, s.diesApart (g s a))
    (l : List α) (s : State) : s.diesApart (l.foldl g s) := by
  induction l generalizing s with
  | nil => exact State.diesApart.refl s
  | cons a l ih => exact (hg s a).trans (ih _)

theorem State.diesApart_setDie (s : State) (d : Nat) (v : Die) : s.diesApart (s.setDie d v) := rfl

theorem State.diesApart_dropTile (s : State) (e : Nat) (p : Nat → Bool) : s.diesApart (s.dropTile e p) := by
  unfold State.dropTile
  split <;> rfl

theorem State.diesApart_wastePrefetch (s : State) (e : Nat) (p : Nat → Bool) : s.diesApart (s.wastePrefetch e p) := by
  unfold State.wastePrefetch
  split <;> rfl

theorem State.diesApart_applyInval (s : State) (e : Nat) (i : Inval) : s.diesApart (s.applyInval e i) :=
  ((s.diesApart_setDie _ _).trans (State.diesApart_dropTile _ _ _)).trans (State.diesApart_wastePrefetch _ _ _)

theorem State.diesApart_settleDie (s : State) (force : Bool) (e : Nat) : s.diesApart (s.settleDie force e) := by
  refine State.diesApart_foldl (fun s i => ?_) _ s
  split
  · exact s.diesApart_applyInval e i
  · exact State.diesApart.refl s

/-- A write re-fills its line under its own key bits and puts its bytes there; of the line it changes the record, the
stamp and the holders; the dies and cores alone follow. -/
theorem State.applyHome_apart (s : State) (f : Flight) :
    let u := s.rekey (lineOf f.pa) (lineKeyBits f.pa f.key)
    let l := u.line (lineOf f.pa)
    State.diesApart { u with
      mem := memPutAll u.mem f.cells
      lines := Sparse.set u.lines (lineOf f.pa) { l with stamp := f.stamp, record := l.recordAfter f, holders := 0 } }
      (s.applyHome f) := by
  have hkey : (if f.pa < 0x8000000000 then s.rekey (lineOf f.pa) (some f.key) else s) =
      s.rekey (lineOf f.pa) (lineKeyBits f.pa f.key) := by
    unfold lineKeyBits
    split
    · rfl
    · unfold State.rekey
      cases (s.line (lineOf f.pa)).key <;> rfl
  unfold State.applyHome
  dsimp only
  rw [hkey]
  refine ((State.diesApart_setDie _ _ _).trans (State.diesApart_dropTile _ _ _)).trans
    (State.diesApart_foldl (fun s e => ?_) _ _)
  split
  · exact State.diesApart.refl s
  · split
    · exact s.diesApart_setDie _ _
    · exact (s.diesApart_setDie _ _).trans (State.diesApart_settleDie _ _ _)

/-- What a write at its home leaves of a line's bytes under the write's own key bits: those the writer saw, with its own
put among them. -/
theorem State.homeBytes_applyHome (s : State) (f : Flight) {pa n : Nat} (hpa : lineOf pa = lineOf f.pa)
    (hbits : lineKeyBits pa f.key = lineKeyBits f.pa f.key) :
    (s.applyHome f).homeBytes pa n (lineKeyBits pa f.key) =
      memBytes (memPutAll (s.rekey (lineOf pa) (lineKeyBits pa f.key)).mem f.cells) pa n := by
  have h := s.applyHome_apart f
  unfold State.diesApart at h
  have hmem : (s.applyHome f).mem = memPutAll (s.rekey (lineOf pa) (lineKeyBits pa f.key)).mem f.cells := by
    rw [h, hpa, hbits]
  rw [← hmem]
  refine State.homeBytes_of_key n ?_
  rw [h, hpa, hbits]
  unfold lineKeyBits
  split
  · exact .inr (by simpa [State.line] using s.rekey_key (lineOf f.pa) f.key)
  · exact .inl rfl

/-! ## A count of a header (R166) -/

/-- A count is a write of four bytes under the header's key bits, applied once its die has counted it. -/
theorem State.setCount_applyHome (s : State) (die : Nat) (front : Stamp) (h : Head) (off : Nat) (v : BitVec 32)
    (rel : Option Nat) : ∃ d n f, (s.setCount die front h off v rel).2 =
      ({ s.setDie die d with nextId := n } : State).applyHome f ∧ f.pa = h.pa + off ∧
      f.cells = cellsAt (h.pa + off) (bytesOfNat 4 v.toNat) ∧ f.key = s.headKey h :=
  ⟨_, _, _, rfl, rfl, rfl, rfl⟩

/-- HEAD written at its home slice: the header reads as before but for it. -/
theorem State.header_setCount_head (s : State) (die : Nat) (front : Stamp) (h : Head) (v : BitVec 32)
    (rel : Option Nat) (ha : h.pa % 64 = 0) :
    (s.setCount die front h offHead v rel).2.header h = { s.header h with head := v } := by
  obtain ⟨d, n, f, hset, hpa, hcells, hkey⟩ := s.setCount_applyHome die front h offHead v rel
  generalize hu : ({ s.setDie die d with nextId := n } : State) = u at hset
  have hsee : ∀ n key, u.homeBytes h.pa n key = s.homeBytes h.pa n key := fun n key => by rw [← hu]; rfl
  have hslot : (u.applyHome f).headKey h = s.headKey h := by
    have happ := u.applyHome_apart f
    unfold State.diesApart at happ
    rw [happ, ← hu, State.rekey_frame]
    rfl
  have hline : h.pa % 128 + (4 + 60) ≤ 128 := by omega
  rw [hset, State.header, State.header, hslot, ← hkey,
    State.homeBytes_applyHome u f (by rw [hpa]; rfl) (by rw [hpa]; rfl), hcells, ← hsee,
    show (64 : Nat) = 4 + 60 from rfl, ← State.memBytes_rekey u h.pa _ _ hline, memBytes_add, memBytes_add]
  generalize (u.rekey (lineOf h.pa) (lineKeyBits h.pa f.key)).mem = m
  have hput := memBytes_cellsAt m h.pa (bytesOfNat 4 v.toNat)
  rw [bytesOfNat_length] at hput
  rw [show h.pa + offHead = h.pa from rfl, hput, memBytes_cellsAt_past _ _ _ _ _ (by rw [bytesOfNat_length])]
  exact QHeader.ofBytes_head _ _ _ (memBytes_length _ _ _)

/-- A count written at its home slice changes no thread and no sequencer. -/
theorem State.setCount_keeps (s : State) (die : Nat) (front : Stamp) (h : Head) (off : Nat) (v : BitVec 32)
    (rel : Option Nat) : (s.setCount die front h off v rel).2.th = s.th ∧
    (s.setCount die front h off v rel).2.sq = s.sq := by
  obtain ⟨d, n, f, hset, -, -, -⟩ := s.setCount_applyHome die front h off v rel
  have happ := ({ s.setDie die d with nextId := n } : State).applyHome_apart f
  unfold State.diesApart at happ
  rw [hset, happ, State.rekey_frame]
  exact ⟨rfl, rfl⟩

/-! ## When a count can be written (R70, R107, R109) -/

/-- Memory lies on a die of the module. -/
theorem State.homeDie_lt_of_isMem {s : State} {pa : Nat} (h : (s.place pa).isMem = true) : homeDie pa < 8 := by
  unfold homeDie
  by_cases h1 : pa < 0x8000000000
  · rw [if_pos h1]
    omega
  · rw [if_neg h1]
    by_cases h2 : pa < 0x10800000000
    · omega
    · have h3 : ¬ pa < 0x10000000000 := by omega
      rw [State.place, if_neg h1, if_neg h3, if_neg h2] at h
      dsimp only at h
      split_ifs at h <;> cases h

/-- In a plain state no die lags another, so that nothing has to be applied first. -/
theorem State.canApply_of_plain {s : State} (h : s.plain) {e : Nat} (he : e < 8) (origin : Nat) (st : Stamp) :
    s.canApply e origin st = true := by
  obtain ⟨-, -, -, -, -, hdies, -⟩ := h
  obtain ⟨-, -, -, happlied⟩ := hdies e he
  refine List.all_eq_true.2 fun j hj => ?_
  rw [State.behind, happlied j (List.mem_range.1 hj), Bool.and_not_self]
  rfl

theorem State.overdue_of_plain {s : State} (h : s.plain) (d n : Nat) : s.overdue d n = false := by
  obtain ⟨-, -, -, hflights, -, hdies, -⟩ := h
  unfold State.overdue
  rw [hflights]
  refine Bool.or_eq_false_iff.2 ⟨rfl, List.any_eq_false.2 fun e he => ?_⟩
  obtain ⟨hinvals, -⟩ := hdies e (List.mem_range.1 he)
  rw [hinvals]
  exact Bool.false_ne_true

/-- With no replica on its home die a page has no holder and none collapses. -/
theorem State.homeEntry_of_plain {s : State} (h : s.plain) {pa : Nat} (hpa : homeDie pa < 8) :
    s.homeEntry pa = none := by
  obtain ⟨-, -, -, -, -, hdies, -⟩ := h
  obtain ⟨-, -, hrdir, -⟩ := hdies _ hpa
  rw [State.homeEntry, hrdir]
  rfl

/-- In a plain state a count of a header in memory that can be read can be written now. -/
theorem State.countReady_of_plain {s : State} (h : s.plain) {hd : Head} (hmem : (s.place hd.pa).isMem = true)
    (hread : s.headReads hd = true) (die : Nat) (front : Stamp) : s.countReady die front hd = true := by
  have hdie := State.homeDie_lt_of_isMem hmem
  have hentry := State.homeEntry_of_plain h hdie
  simp [State.countReady, State.atomicReady, State.holders, State.collapsing, hread, hentry, State.overdue_of_plain h,
    State.canApply_of_plain h hdie]

/-! ## The claim (R168) -/

/-- The result of a `qnext` that has claimed work (Table 7.7). -/
theorem qnextWord_claimed (take : Nat) (first : BitVec 32) :
    qnextWord 0 take first.toNat = BitVec.ofNat 64 (take * 2 ^ 32 + first.toNat) := by
  have hlow : first.toNat % 2 ^ 32 = first.toNat := Nat.mod_eq_of_lt first.isLt
  rw [qnextWord, w64, hlow, Nat.zero_shiftLeft, Nat.zero_or, ← Nat.shiftLeft_add_eq_or_of_lt first.isLt,
    Nat.shiftLeft_eq]

/-- A header is read from memory, under the records of its line and the key slots. -/
theorem State.header_congr {s t : State} (hmem : t.mem = s.mem) (hlines : t.lines = s.lines)
    (hslots : t.slots = s.slots) (hslot0 : t.slot0 = s.slot0) (h : Head) : t.header h = s.header h := by
  unfold State.header State.homeBytes State.lineBits State.line State.headKey State.slot
  rw [hmem, hlines, hslots, hslot0]

/-- HEAD of a queue advanced by the current thread: the stamp of the write, and the state. -/
def State.advanceHead (s : State) (hd : Head) (take : Nat) : Stamp × State :=
  let u := s.raise (s.line (lineOf hd.pa)).stamp
  u.setCount u.dieNo u.front hd offHead ((s.header hd).head + BitVec.ofNat 32 take) none

theorem State.advanceHead_header (s : State) {hd : Head} (take : Nat) (h : hd.pa % 64 = 0) :
    (s.advanceHead hd take).2.header hd =
      { s.header hd with head := (s.header hd).head + BitVec.ofNat 32 take } :=
  State.header_setCount_head (s.raise (s.line (lineOf hd.pa)).stamp) _ _ hd _ _ h

/-- The current thread and its sequencer are as they were. -/
theorem State.advanceHead_keeps (s : State) (hd : Head) (take : Nat) :
    (s.advanceHead hd take).2.th = s.th ∧ (s.advanceHead hd take).2.sq = s.sq :=
  State.setCount_keeps (s.raise (s.line (lineOf hd.pa)).stamp) _ _ _ _ _ _

/-- The state once the current thread has claimed `take` entries from `first` of a queue, its frontier raised by the
count's stamp. -/
def State.claim (s : State) (st : Stamp) (d : Nat) (hd : Head) (va : Word) (take : Nat) (first : BitVec 32) : State :=
  ((s.raise st).setSq { s.sq with claims := s.sq.claims ++ [⟨hd, va, s.sq.dxp, first.toNat, take⟩] }).qnextDone d
    (qnextWord 0 take first.toNat)

theorem State.claim_th (s : State) (st : Stamp) (d : Nat) (hd : Head) (va : Word) (take : Nat) (first : BitVec 32) :
    (s.claim st d hd va take first).th = { s.th.fillX d (BitVec.ofNat 64 (take * 2 ^ 32 + first.toNat)) with
      pend := s.th.pend.filter fun p => !p.unbounded || p.isTicket } := by
  rw [State.claim, State.qnextDone, qnextWord_claimed]
  simp only [State.setSq_th, State.setTh_th]
  rfl

theorem State.claim_claims (s : State) (st : Stamp) (d : Nat) (hd : Head) (va : Word) (take : Nat)
    (first : BitVec 32) : (s.claim st d hd va take first).sq.claims =
      s.sq.claims ++ [⟨hd, va, s.sq.dxp, first.toNat, take⟩] := by
  simp only [State.claim, State.qnextDone, State.setSq_sq, State.setTh_sq]

theorem State.claim_header (s : State) (st : Stamp) (d : Nat) (hd h : Head) (va : Word) (take : Nat)
    (first : BitVec 32) : (s.claim st d hd va take first).header h = s.header h :=
  State.header_congr rfl rfl rfl rfl h

/-- The `qnext` outstanding in `s` with work to claim completes (R168): HEAD is advanced and the claim is made. -/
theorem qnextLand_claims {s : State} {d n : Nat} {hd : Head} {va : Word} (hpend : s.th.pend = [.claim d hd va n])
    (hplain : s.plain) (hrebound : s.sq.rebound = []) (hmem : (s.place hd.pa).isMem = true)
    (hread : s.headReads hd = true) (hwork : min n ((s.header hd).threshold s.th) ≤ (s.header hd).avail) :
    s.qnextLand = some ((s.advanceHead hd (min n (s.header hd).avail)).2.claim
      (s.advanceHead hd (min n (s.header hd).avail)).1 d hd va (min n (s.header hd).avail) (s.header hd).head) := by
  have hfind : (s.th.pend.find? fun p => p.unbounded && !p.isTicket) = some (.claim d hd va n) := by
    rw [hpend]
    rfl
  have hready := State.countReady_of_plain hplain hmem hread s.dieNo s.front
  have hgo : (decide (min n ((s.header hd).threshold s.th) ≤ (s.header hd).avail) ||
      ((s.header hd).closed && decide (0 < (s.header hd).avail))) = true := by
    rw [decide_eq_true hwork, Bool.true_or]
  simp only [State.qnextLand, hfind, hrebound, List.contains_nil, Bool.false_eq_true, hread, Bool.not_true, hgo, hready,
    if_true, if_false]
  rfl

/-- A `qnext` outstanding with work to claim completes: the result lands, HEAD is advanced and the claim is kept. -/
theorem qnextComplete_claims {s : State} {q d n : Nat} {hd : Head} {va : Word} (hcur : s.cur = ⟨q, 0⟩)
    (hpend : s.th.pend = [.claim d hd va n]) (hplain : s.plain) (hrebound : s.sq.rebound = []) (halign : hd.pa % 64 = 0)
    (hmem : (s.place hd.pa).isMem = true) (hread : s.headReads hd = true)
    (hwork : min n ((s.header hd).threshold s.th) ≤ (s.header hd).avail) :
    Nexts (exec (.qnextComplete q) s) fun t =>
      t.th = { s.th.fillX d (BitVec.ofNat 64 (min n (s.header hd).avail * 2 ^ 32 + (s.header hd).head.toNat)) with
        pend := [] } ∧
      t.header hd = { s.header hd with head := (s.header hd).head + BitVec.ofNat 32 (min n (s.header hd).avail) } ∧
      t.sq.claims =
        s.sq.claims ++ [⟨hd, va, s.sq.dxp, (s.header hd).head.toNat, min n (s.header hd).avail⟩] := by
  have hexec : exec (.qnextComplete q) s = execQnextComplete q s := rfl
  have hfails : s.headFails hd = false := by
    unfold State.headReads at hread
    simpa using (Bool.and_eq_true_iff.1 hread).2
  obtain ⟨hth, hsq⟩ := s.advanceHead_keeps hd (min n (s.header hd).avail)
  have hnext : exec (.qnextComplete q) s = .next (s.qnextLand.getD s) := by
    rw [hexec, execQnextComplete, State.with_cur_self hcur]
    simp [hpend, hfails]
  rw [qnextLand_claims hpend hplain hrebound hmem hread hwork, Option.getD_some] at hnext
  refine ⟨_, hnext, ?_, ?_, ?_⟩
  · rw [State.claim_th, hth, hpend]
    rfl
  · rw [State.claim_header, State.advanceHead_header s _ halign]
  · rw [State.claim_claims, hsq]

/-- A `qnext` outstanding whose header fails begins again (log 44). -/
theorem qnextComplete_fails {s : State} {q d n : Nat} {hd : Head} {va : Word} (hcur : s.cur = ⟨q, 0⟩)
    (hpend : s.th.pend = [.claim d hd va n]) (hfails : s.headFails hd = true) :
    exec (.qnextComplete q) s = .next s.rollBack := by
  have hexec : exec (.qnextComplete q) s = execQnextComplete q s := rfl
  rw [hexec, execQnextComplete, State.with_cur_self hcur]
  simp [hpend, hfails]

end Sys2Proof.Machine

open Sys2Proof Sys2Proof.Machine

/-- Settles O49: each conjunct by the lemma of its event. -/
theorem threadEvents : Obligations.ThreadEvents := by
  unfold Obligations.ThreadEvents
  intro s q h k r pa n d v st va w x y es req hd hcur hq hthr stands p enters
  refine ⟨?_, ?_, ?_, ?_, ?_, ?_, ?_, ?_, ?_, ?_, ?_, ?_, ?_⟩
  · intro hbound hrun hshadow hlevel hlanes hwait herr hvec hnest
    have hp : p = s.th := congrArg (Option.getD · s.th) hshadow
    rw [hp] at hlevel hlanes herr hnest ⊢
    exact engineCommandError_enters hcur hq hbound hrun hlevel hlanes hwait herr hvec hnest
  · exact fun hwait => engineCommandError_waits hcur (Bool.eq_false_iff.2 hwait)
  · intro hpend hr hr32
    refine ⟨_, loadResultLands_scalar hcur hpend, ?_⟩
    beta_reduce
    rw [State.setTh_th]
    exact ⟨s.th.getX_fillX_same v hr, s.th.xFull_fillX v hr32, fun i _ hi => s.th.getX_fillX_ne v hi, rfl, rfl⟩
  · intro hpend
    refine ⟨_, loadResultLands_vector hcur hpend, ?_⟩
    beta_reduce
    rw [State.setTh_th]
    exact ⟨Sparse.get_set_same _ _ _ _, rfl, rfl⟩
  · exact boltStall_limited hcur
  · rintro rfl hpend - - hplain hrebound - - halign hmem hread k hwork
    exact qnextComplete_claims hcur hpend hplain hrebound halign hmem hread hwork
  · rintro rfl hpend hfails
    exact qnextComplete_fails hcur hpend hfails
  · exact migrationRequestPost_polled req hcur
  · intro hbound hreq hpolled _
    obtain ⟨hsq, hmem, hthread⟩ := migrationRequestPost_latches (req.setWidth 64) hcur
    exact ⟨_, migrationRequestPost_posted hcur hbound hreq hpolled, hsq, hmem, fun i _ => hthread i⟩
  · exact migrationRequestWithdraw_bound hcur
  · exact preemptRequest_bound hcur
  · intro hbound hrun hsplit hk hentry hpend hvec hnest
    obtain ⟨t, hnext, hmem, v, tval, hth, htval⟩ :=
      machineCheck_taken hcur hq hbound hrun hsplit hk hentry hpend hvec hnest
    refine ⟨t, hnext, ?_⟩
    beta_reduce
    rw [hth]
    refine ⟨rfl, rfl, rfl, rfl, hmem, htval, ?_, fun i _ => rfl⟩
    simp [Thread.enter, or_assoc]
  · intro hbound hpc hcan hmode hplain hentry hbegun hy
    rw [regionTranslate_plain hcur hbound hpc hcan hmode hplain hentry hbegun, hy]
    generalize (s.freshWalk s.dieNo s.sq.dxp s.th.level fetchAcc (s.th.pc.toNat % 2 ^ 57) true).1 = r
    cases r <;> rfl

end

section
/-! SUPPORT. Translation (O19). The statement ranges over every `State`, and a state is plain data: its map of threads
need not list them in rising order, as `Sparse` has it. Where a thread stands behind a higher number, writing it lists
it twice: once an instruction of it has begun, the result that it has outstanding is counted twice (R91), and a core
with room for one request more has none. The instruction then waits, and does not trap. -/

namespace Sys2Proof.Machine

/-! ## An access for which the core has no room (R91) -/

theorem accessTrigger_quiet {s : State} (ld st : Bool) (el : Elem) (va : Word) (h : s.quiet) :
    accessTrigger ld st el va s = .ok () s := by
  have htraced : s.cp.traced s.slotNo = false := h
  simp [accessTrigger, trigger, htraced]

theorem translateM_noRoom {s : State} {a : Acc} (el : Elem) (va : Word) (hkind : a.kind ≠ 7)
    (hport : s.portFree = false) : translateM a el va s = .error (.wait .memory) s := by
  simp [translateM, hkind, hport]

theorem aligned_of_mod_eq_zero {va : Word} {n : Nat} (h : va.toNat % n = 0) (s : State) : aligned va n s = .ok () s := by
  rw [aligned, if_neg (not_not.2 h), pure_apply]

theorem scalarAt_noRoom {s : State} {kind e : Nat} (r w atomic : Bool) {va : Word} (hq : s.quiet) (hkind : kind ≠ 7)
    (halign : va.toNat % 2 ^ e = 0) (hport : s.portFree = false) :
    scalarAt kind r w atomic e va s = .error (.wait .memory) s := by
  unfold scalarAt
  rw [M.bind_ok (aligned_of_mod_eq_zero halign s), M.bind_ok (getS_apply s), M.bind_ok (accessTrigger_quiet r w _ va hq),
    M.bind_error (translateM_noRoom _ va hkind hport)]

@[simp] theorem State.atIssue_setTh (s : State) : s.atIssue.setTh s.atIssue.th = s.atIssue := by
  rw [atIssue_th, State.atIssue, State.setTh_setTh]

/-- A thread computation that leaves the thread as the instruction began leaves the module so. -/
theorem liftT_atIssue {α : Type} {act : T α} {s : State} {x : α} (h : act s.atIssue.th = .ok x s.atIssue.th) :
    liftT act s.atIssue = .ok x s.atIssue := by
  rw [liftT_ok h, State.atIssue_setTh]

theorem State.xFull_atIssue (s : State) (r : Nat) : s.atIssue.th.xFull r = s.th.xFull r := by
  rw [atIssue_th, Thread.begin_xFull]

/-- An aligned scalar load waits where, as it begins, its core has no room for another request. -/
theorem loadX_noRoom {s : State} {d a : BitVec 5} {off : Word} {e : Nat} (fa signed acq : Bool) (hq : s.quiet)
    (hfull : s.fullX [d, a]) (halign : (s.gx a + off).toNat % 2 ^ e = 0) (hport : s.atIssue.portFree = false) :
    run (loadX d a fa off e signed acq) s =
      .next (s.atIssue.setTh { s.atIssue.th with wait := .memory, ended := .waiting }) := by
  have ha : s.atIssue.th.xFull a.toNat = true := by
    rw [State.xFull_atIssue]
    exact hfull a (by simp)
  have hd : s.atIssue.th.xFull d.toNat = true := by
    rw [State.xFull_atIssue]
    exact hfull d (by simp)
  have hbase : s.atIssue.th.getX a.toNat = s.gx a := by rw [atIssue_th, Thread.begin_getX, State.gx]
  refine run_error (e := .wait .memory) hq ?_
  unfold loadX
  rw [M.bind_ok (liftT_atIssue (rx_full fa ha)), M.bind_ok (liftT_atIssue (destX_full hd)), hbase,
    M.bind_error (scalarAt_noRoom (s := s.atIssue) true false false hq (by decide) halign hport)]

/-- A byte load, which is always aligned, waits there. -/
theorem execLdb_noRoom {s : State} {d a : BitVec 5} (fa : Bool) (imm : BitVec 14) (hq : s.quiet)
    (hfull : s.fullX [d, a]) (hport : s.atIssue.portFree = false) :
    exec (.ldb d a fa imm) s =
      .next (s.atIssue.setTh { s.atIssue.th with wait := .memory, ended := .waiting }) := by
  have hexec : exec (.ldb d a fa imm) s = execLdb d a fa imm s := rfl
  rw [hexec, execLdb]
  exact loadX_noRoom fa true false hq hfull (by rw [pow_zero, Nat.mod_one]) hport

/-! ## The state that refutes the statement -/

/-- Core 0 has 3,071 of its 3,072 requests outstanding, 3,070 of its lead and a load of thread 0, which the map of
threads lists behind thread 1. Register 1 of thread 0 holds an address that is not canonical. -/
def crossedThreads : State :=
  { State.reset with
    threads := [(1, {}), (0, { x := [(1, 0x100000000000000)], pend := [.scalar 2 0] })]
    cores := [(0, { leadOut := List.replicate 3070 (0, 0, 0) })] }

theorem crossedThreads_outstanding : crossedThreads.outstanding 0 = 3071 := by
  have hlead : (crossedThreads.core 0).leadOut.length = 3070 := List.length_replicate
  rw [State.outstanding, hlead]
  decide +kernel

/-- The load of thread 0 counts twice once an instruction of the thread has begun. -/
theorem crossedThreads_outstanding_atIssue : crossedThreads.atIssue.outstanding 0 = 3072 := by
  have hlead : (crossedThreads.atIssue.core 0).leadOut.length = 3070 := List.length_replicate
  rw [State.outstanding, hlead]
  decide +kernel

theorem crossedThreads_portFree : crossedThreads.portFree = true :=
  decide_eq_true (crossedThreads_outstanding.trans_lt (by decide))

theorem crossedThreads_atIssue_noRoom : crossedThreads.atIssue.portFree = false :=
  decide_eq_false crossedThreads_outstanding_atIssue.not_lt

theorem crossedThreads_ldb_waits : exec (.ldb 0 1 false 0) crossedThreads =
    .next (crossedThreads.atIssue.setTh { crossedThreads.atIssue.th with wait := .memory, ended := .waiting }) :=
  execLdb_noRoom false 0 (by decide +kernel) (by decide +kernel) crossedThreads_atIssue_noRoom

end Sys2Proof.Machine

open Sys2Proof Sys2Proof.Machine

/-- Refutes O19, in its clause on addresses that are not canonical: a byte load of `crossedThreads` waits for room in
its core, where the statement has it trap. -/
theorem not_translationRules : ¬ Obligations.TranslationRules := by
  unfold Obligations.TranslationRules
  intro h
  obtain ⟨-, -, htraps⟩ := h
  obtain ⟨hnoncanonical, -⟩ := htraps crossedThreads 0 1 false 0 (by decide +kernel) crossedThreads_portFree
    (by decide +kernel)
  obtain ⟨hldb, -⟩ := hnoncanonical (by decide +kernel)
  have hstate := Host.Outcome.next.inj (crossedThreads_ldb_waits.symm.trans hldb)
  have hwait := congrArg (fun t : State => t.th.wait) hstate
  beta_reduce at hwait
  rw [State.setTh_th] at hwait
  exact absurd hwait (by decide +kernel)

end

section
/-! SUPPORT. The memory BAR (O59). Where HBM is said to reach into the die register spaces, as in `registerRing`, an
aperture may name an address there: `homeDie` puts it on die 256, which no module has and `State.plain` does not speak
of. A page of that die that is said to have a replica keeps a write in flight (R70). -/

namespace Sys2Proof.Machine

/-- The HBM of die 0 is said to reach 4 KiB into the register space of that die, aperture 0 names those 4 KiB at the
start of the BAR, and a replica directory of a die 256 has a home entry for the page, with die 0 as holder. -/
def farPage : State :=
  { State.reset with
    ready := true
    dies := [(0, { hbmcap := 0x20000001000 }), (256, { rdir := [(0, (0x8000000020000000, 0x10020000000))] })]
    apertures := [(0, (0x8000000000000000, 1, 0x20000000000, 0))] }

theorem farPage_barTarget : farPage.barTarget 0 1 = some (0x20000000000, 0, none) := by decide +kernel

/-- The page has a holder, for whose answer a byte written through the aperture waits: it has reached no memory. -/
theorem farPage_write_held : (nextOr farPage (execMemoryBarWrite 0 0 [some 1] farPage)).mem = [] := by decide +kernel

end Sys2Proof.Machine

open Sys2Proof Sys2Proof.Machine

/-- Refutes O59, in its clause on a write through the memory BAR: a byte written at the first address of `farPage`'s
aperture is not in memory after it. -/
theorem not_hostEvents : ¬ Obligations.HostEvents := by
  unfold Obligations.HostEvents
  intro h
  obtain ⟨hbar, -, -⟩ := h
  obtain ⟨-, hwrite, -⟩ := hbar farPage 0 0 0 0x20000000000 0 [some 1] rfl
  obtain ⟨t, hnext, -, -, hbyte⟩ := hwrite farPage_barTarget (by decide +kernel) (by decide) (by decide +kernel)
    (by decide +kernel) (by decide) (by decide +kernel)
  have hexec : execMemoryBarWrite 0 0 [some 1] farPage = .next t := hnext
  have hmem := farPage_write_held
  rw [hexec, nextOr] at hmem
  have hfirst := hbyte 0x20000000000
  rw [hmem] at hfirst
  exact absurd hfirst (by decide +kernel)

end

section
/-! SUPPORT. The device's own writes (R57, R427): what a plain physical write changes, which bytes of its line a reader
then sees (R45), and what it leaves of the dies and the cores. -/

namespace Sys2Proof.Machine

/-! ## Maps and bytes -/

/-- A function of the values alone, applied to every listed one, applies to what is read where it keeps the default. -/
theorem Sparse.get_map {α : Type} {d : α} {f : α → α} (hf : f d = d) (m : Sparse α) (k : Nat) :
    Sparse.get d (m.map fun (i, v) => (i, f v)) k = f (Sparse.get d m k) := by
  induction m with
  | nil => exact hf.symm
  | cons p m ih =>
    obtain ⟨i, v⟩ := p
    simp only [List.map_cons, Sparse.get, ih]
    split <;> rfl

/-- The first bytes of those stored. -/
theorem memBytes_cellsAt_append (m : List Host.Cell) (a : Nat) (bs rest : List Byte) :
    memBytes (memPutAll m (cellsAt a (bs ++ rest))) a bs.length = bs := by
  have h := memBytes_cellsAt m a (bs ++ rest)
  rw [List.length_append, memBytes_add] at h
  exact (List.append_inj h (memBytes_length _ _ _)).1

@[simp] theorem dwordBytes_length (w : Word) : (dwordBytes w).length = 8 := bytesOfNat_length _ _

/-- A field of a dword, by division. -/
theorem fld_eq (w : Word) (hi lo : Nat) : fld w hi lo = w.toNat / 2 ^ lo % 2 ^ (hi + 1 - lo) := by
  rw [fld, Nat.shiftRight_eq_div_pow]

/-! ## The module's parts after setting one -/

@[simp] theorem State.setDie_die_same (s : State) (d : Nat) (v : Die) : (s.setDie d v).die d = v :=
  Sparse.get_set_same _ _ _ _
theorem State.setDie_die_ne (s : State) (v : Die) {d e : Nat} (h : e ≠ d) : (s.setDie d v).die e = s.die e :=
  Sparse.get_set_ne _ _ _ h
@[simp] theorem State.setCore_core_same (s : State) (c : Nat) (v : CorePair) : (s.setCore c v).core c = v :=
  Sparse.get_set_same _ _ _ _

/-- What a reader sees of a line is a matter of memory and of the lines' records. -/
theorem State.homeBytes_congr {s t : State} (hmem : t.mem = s.mem) (hlines : t.lines = s.lines) (pa n : Nat)
    (key : Option (BitVec 512)) : t.homeBytes pa n key = s.homeBytes pa n key := by
  unfold State.homeBytes State.lineBits State.line
  rw [hmem, hlines]

theorem State.seen_congr {s t : State} (hmem : t.mem = s.mem) (hlines : t.lines = s.lines)
    (key : Option (BitVec 512)) (x : Nat) : t.seen key x = s.seen key x := by
  rw [State.seen, State.seen, State.homeBytes_congr hmem hlines]

/-! ## Copies dropped (R93) -/

theorem State.dropCopies_frame (s : State) (n : Nat) : s.dropCopies n = { s with
    dies := (s.dropCopies n).dies, lines := (s.dropCopies n).lines, cores := (s.dropCopies n).cores } := by
  unfold State.dropCopies
  split <;> rfl

theorem State.dropCopies_die (s : State) (n d : Nat) :
    (s.dropCopies n).die d = { s.die d with copies := ((s.dropCopies n).die d).copies } := by
  unfold State.dropCopies
  split
  · simp only [State.die]
    rw [Sparse.get_map (f := fun d : Die => { d with copies := d.copies.filter fun c => c.1 ≠ n }) rfl]
  · rfl

theorem State.dropCopies_line_key (s : State) (n m : Nat) :
    ((s.dropCopies n).line m).key = (s.line m).key := by
  unfold State.dropCopies
  split
  · by_cases h : m = n
    · subst h
      simp only [State.line, Sparse.get_set_same]
    · simp only [State.line, Sparse.get_set_ne _ _ _ h]
  · rfl

/-! ## Lines re-filled (R45) -/

/-- Re-filling a line leaves the bytes of the others. -/
theorem State.memByte_rekey_ne (s : State) {n x : Nat} (key : Option (BitVec 512)) (h : lineOf x ≠ n) :
    memByte (s.rekey n key).mem x = memByte s.mem x := by
  unfold lineOf at h
  unfold State.rekey
  split
  · dsimp only
    split
    · rfl
    · rw [memByte_cellsAt, bytesOfNat_length, if_neg (by omega)]
  · rfl
  · rfl

/-- A byte as seen under the key bits that its line is re-filled under. -/
theorem State.seen_eq_memByte_rekey (s : State) (x : Nat) (key : Option (BitVec 512)) :
    s.seen key x = memByte (s.rekey (lineOf x) key).mem x := by
  rw [State.seen, ← s.memBytes_rekey x 1 key (by omega)]
  rfl

/-- A byte of a line whose key bits are the reader's. -/
theorem State.seen_of_key {s : State} {x : Nat} {key : Option (BitVec 512)}
    (h : key = none ∨ (s.line (lineOf x)).key = key) : s.seen key x = memByte s.mem x := by
  rw [State.seen, State.homeBytes_of_key 1 h]
  rfl

/-! ## A plain physical write -/

theorem State.physWrite_frame (s : State) (pa : Nat) (bs : List Byte) (key : Option (BitVec 512)) :
    s.physWrite pa bs key = { s with
      mem := (s.physWrite pa bs key).mem, host := (s.physWrite pa bs key).host, lines := (s.physWrite pa bs key).lines,
      dies := (s.physWrite pa bs key).dies, cores := (s.physWrite pa bs key).cores } := by
  unfold State.physWrite
  split
  · rfl
  · dsimp only
    rw [State.dropCopies_frame, State.rekey_frame]
  · dsimp only
    rw [State.dropCopies_frame]
  · rfl

/-- A write of the device's own leaves of a die all but the copies it holds. -/
theorem State.physWrite_die (s : State) (pa : Nat) (bs : List Byte) (key : Option (BitVec 512)) (d : Nat) :
    (s.physWrite pa bs key).die d = { s.die d with copies := ((s.physWrite pa bs key).die d).copies } := by
  unfold State.physWrite
  split
  · rfl
  · refine (State.dropCopies_die _ _ _).trans ?_
    rw [State.rekey_frame]
    rfl
  · exact State.dropCopies_die _ _ _
  · rfl

/-- HBM lies below 512 GiB, where a line has key bits, and the windows above it, where none has (Table 2.2). -/
theorem State.lineKeyBits_of_hbm {s : State} {pa d : Nat} (h : s.place pa = .hbm d) (k : BitVec 512) :
    lineKeyBits pa k = some k := by
  refine if_pos (Classical.byContradiction fun hpa => ?_)
  rw [State.place, if_neg hpa] at h
  dsimp only at h
  split_ifs at h

theorem State.lineKeyBits_of_window {s : State} {pa d : Nat} (h : s.place pa = .window d) (k : BitVec 512) :
    lineKeyBits pa k = none := by
  refine if_neg fun hpa => ?_
  rw [State.place, if_pos hpa] at h
  dsimp only at h
  split_ifs at h

/-- A write of the device's own to memory re-fills its line under its key bits and puts its bytes there. -/
theorem State.physWrite_isMem {s : State} {pa : Nat} (h : (s.place pa).isMem = true) (bs : List Byte)
    (k : BitVec 512) :
    (s.physWrite pa bs (some k)).mem =
      memPutAll (s.rekey (lineOf pa) (lineKeyBits pa k)).mem (cellsAt pa bs) ∧
    (lineKeyBits pa k = none ∨ ((s.physWrite pa bs (some k)).line (lineOf pa)).key = lineKeyBits pa k) := by
  unfold State.physWrite
  cases hplace : s.place pa with
  | hbm d =>
    rw [State.lineKeyBits_of_hbm hplace]
    refine ⟨?_, .inr ((State.dropCopies_line_key _ _ _).trans (s.rekey_key _ k))⟩
    dsimp only
    rw [State.dropCopies_frame]
  | window d =>
    rw [State.lineKeyBits_of_window hplace]
    refine ⟨?_, .inl rfl⟩
    dsimp only
    rw [State.dropCopies_frame]
    unfold State.rekey
    cases (s.line (lineOf pa)).key <;> rfl
  | _ => rw [hplace] at h; cases h

/-- A write of the device's own that is not to memory changes no memory. -/
theorem State.physWrite_not_isMem {s : State} {pa : Nat} (h : (s.place pa).isMem = false) (bs : List Byte)
    (key : Option (BitVec 512)) :
    (s.physWrite pa bs key).mem = s.mem ∧ (s.physWrite pa bs key).lines = s.lines := by
  unfold State.physWrite
  cases hplace : s.place pa with
  | hbm | window => rw [hplace] at h; cases h
  | _ => exact ⟨rfl, rfl⟩

/-- What was written can be read under the same key bits. -/
theorem State.physWrite_homeBytes {s : State} {pa : Nat} (h : (s.place pa).isMem = true) (bs rest : List Byte)
    (k : BitVec 512) :
    (s.physWrite pa (bs ++ rest) (some k)).homeBytes pa bs.length (lineKeyBits pa k) = bs := by
  obtain ⟨hmem, hkey⟩ := State.physWrite_isMem h (bs ++ rest) k
  rw [State.homeBytes_of_key _ hkey, hmem, memBytes_cellsAt_append]

/-- The other bytes of the line are seen under those key bits as before. -/
theorem State.physWrite_seen_outside (s : State) {pa x : Nat} (bs : List Byte) (k : BitVec 512)
    (hline : lineOf x = lineOf pa) (hx : x < pa ∨ pa + bs.length ≤ x) :
    (s.physWrite pa bs (some k)).seen (lineKeyBits pa k) x = s.seen (lineKeyBits pa k) x := by
  cases h : (s.place pa).isMem with
  | true =>
    obtain ⟨hmem, hkey⟩ := State.physWrite_isMem h bs k
    rw [State.seen_of_key (by rwa [hline]), hmem, memByte_cellsAt, if_neg (by omega), s.seen_eq_memByte_rekey, hline]
  | false =>
    obtain ⟨hmem, hlines⟩ := State.physWrite_not_isMem h bs (some k)
    exact State.seen_congr hmem hlines _ _

/-- Every other line holds what it held. -/
theorem State.physWrite_other_lines (s : State) {pa x : Nat} (bs : List Byte) (k : BitVec 512)
    (hfit : pa % 128 + bs.length ≤ 128) (hline : lineOf x ≠ lineOf pa) :
    memByte (s.physWrite pa bs (some k)).mem x = memByte s.mem x := by
  cases h : (s.place pa).isMem with
  | true =>
    have hout : ¬ (pa ≤ x ∧ x < pa + bs.length) := by unfold lineOf at hline; omega
    rw [(State.physWrite_isMem h bs k).1, memByte_cellsAt, if_neg hout, s.memByte_rekey_ne _ hline]
  | false => rw [(State.physWrite_not_isMem h bs (some k)).1]

end Sys2Proof.Machine

end

section
/-! SUPPORT. Fault records and the pager's answers (O51): what writing a record at the tail of a die's queue leaves
(R57), and one lemma for each answer to a thread or to an engine (R58 to R60). -/

namespace Sys2Proof.Machine

/-! ## A record written (R57) -/

/-- Where the next fault record of a die goes: the slot at the tail of its queue. -/
def State.recordSlot (s : State) (d : Nat) : Nat :=
  (s.die d).fqbase.toNat / 64 * 64 + 64 * ((s.die d).fqtail.toNat % 2 ^ ((s.die d).fqbase.toNat % 16))

/-- The key bits under which it is written: those of slot 0 in HBM. -/
def State.recordKey (s : State) (d : Nat) : Option (BitVec 512) := lineKeyBits (s.recordSlot d) s.slot0.key

/-- From `s` to `t` the record `r` of a fault was written at the tail of a die's queue: it is outstanding, its slot holds
the fault's address, and no byte outside the slot is changed. -/
def State.recordPut (s t : State) (d : Nat) (f : PageFault) (r : Record) : Prop :=
  (t.die d).fqtail = (s.die d).fqtail + 1 ∧ (t.die d).records = (s.die d).records ++ [r] ∧
  ((s.place (s.recordSlot d)).isMem = true →
    t.homeBytes (s.recordSlot d) 8 (s.recordKey d) = bytesOfNat 8 f.va.toNat) ∧
  (∀ x : Nat, lineOf x = lineOf (s.recordSlot d) → x < s.recordSlot d ∨ s.recordSlot d + 64 ≤ x →
    t.seen (s.recordKey d) x = s.seen (s.recordKey d) x) ∧
  ∀ x : Nat, lineOf x ≠ lineOf (s.recordSlot d) → memByte t.mem x = memByte s.mem x

/-- What follows without a change of memory or of the die leaves the record where it is. -/
theorem State.recordPut.congr {s t u : State} {d : Nat} {f : PageFault} {r : Record} (h : s.recordPut t d f r)
    (hdie : u.die d = t.die d) (hmem : u.mem = t.mem) (hlines : u.lines = t.lines) : s.recordPut u d f r := by
  obtain ⟨htail, hrecs, hslot, hseen, hother⟩ := h
  refine ⟨by rw [hdie, htail], by rw [hdie, hrecs], fun hm => ?_, fun x hx ho => ?_, fun x hx => ?_⟩
  · rw [State.homeBytes_congr hmem hlines, hslot hm]
  · rw [State.seen_congr hmem hlines, hseen x hx ho]
  · rw [hmem, hother x hx]

/-- A record is 64 bytes, the first eight of which are the fault's address (Table 3.1). -/
theorem faultRecord_va (f : PageFault) (w : Faulter) (ph : Nat) :
    ∃ rest, faultRecord f w ph = dwordBytes f.va ++ rest ∧ rest.length = 56 := by
  refine ⟨_, List.flatMap_cons, ?_⟩
  simp

/-- The slot is one of the 64-byte slots, so that a record lies within one line. -/
theorem State.recordSlot_fit (s : State) (d : Nat) : s.recordSlot d % 128 + 64 ≤ 128 := by
  unfold State.recordSlot
  omega

/-- A record written is a physical write of its slot, and an update of its die; a vector may be raised. -/
theorem State.putRecord_eq (s : State) (f : PageFault) (w : Faulter) (r : Record) :
    ∃ rest msix, rest.length = 56 ∧
      let u := s.physWrite (s.recordSlot w.die) (dwordBytes f.va ++ rest) s.key0
      s.putRecord f w r = { u.setDie w.die { u.die w.die with
        fqtail := (s.die w.die).fqtail + 1, records := (u.die w.die).records ++ [r] } with msix := msix } := by
  have hslot : fld (s.die w.die).fqbase 63 6 * 64 +
      64 * ((s.die w.die).fqtail.toNat % 2 ^ fld (s.die w.die).fqbase 3 0) = s.recordSlot w.die := by
    have hlt := (s.die w.die).fqbase.isLt
    rw [fld_eq, fld_eq, State.recordSlot, Nat.mod_eq_of_lt (by omega : (s.die w.die).fqbase.toNat / 2 ^ 6 < 2 ^ 58)]
    norm_num
  unfold State.putRecord
  dsimp only
  obtain ⟨rest, hbytes, hlen⟩ := faultRecord_va f w
    (if (s.die w.die).fqtail.toNat / 2 ^ fld (s.die w.die).fqbase 3 0 % 2 = 0 then 1 else 0)
  rw [hslot, hbytes]
  split
  · exact ⟨rest, _, hlen, rfl⟩
  · exact ⟨rest, _, hlen, rfl⟩

theorem State.recordPut_putRecord (s : State) (f : PageFault) (w : Faulter) (r : Record) :
    s.recordPut (s.putRecord f w r) w.die f r := by
  obtain ⟨rest, msix, hlen, hput⟩ := s.putRecord_eq f w r
  have hfit := s.recordSlot_fit w.die
  have hsize : (dwordBytes f.va ++ rest).length = 64 := by rw [List.length_append, dwordBytes_length, hlen]
  rw [hput]
  generalize hu : s.physWrite (s.recordSlot w.die) (dwordBytes f.va ++ rest) s.key0 = u
  have hrecs : (u.die w.die).records = (s.die w.die).records := by rw [← hu, State.physWrite_die]
  refine State.recordPut.congr (t := u.setDie w.die { u.die w.die with
    fqtail := (s.die w.die).fqtail + 1, records := (u.die w.die).records ++ [r] }) ?_ rfl rfl rfl
  refine ⟨by rw [State.setDie_die_same], by rw [State.setDie_die_same, hrecs], fun hm => ?_, fun x hx ho => ?_,
    fun x hx => ?_⟩
  · refine (State.homeBytes_congr (s := u) rfl rfl _ _ _).trans ?_
    rw [← hu, State.recordKey]
    exact State.physWrite_homeBytes hm (dwordBytes f.va) rest s.slot0.key
  · refine (State.seen_congr (s := u) rfl rfl _ _).trans ?_
    rw [← hu, State.recordKey]
    exact s.physWrite_seen_outside _ s.slot0.key hx (by rwa [hsize])
  · rw [State.setDie_mem, ← hu]
    exact s.physWrite_other_lines _ s.slot0.key (by rwa [hsize]) hx

/-! ## FAULT_RECORD_WRITE -/

theorem State.dieNo_of_cur {s : State} {q h : Nat} (hcur : s.cur = ⟨q, h⟩) : s.dieNo = q / 128 := by
  rw [State.dieNo, hcur]

theorem faultRecordWrite_closed {s : State} {q h : Nat} {f : PageFault} (hcur : s.cur = ⟨q, h⟩)
    (hwait : s.th.wait = .record f) (hclosed : s.fqClosed s.dieNo = true) :
    exec (.faultRecordWrite false q h) s = .next (deliverFault f s) := by
  have hexec : exec (.faultRecordWrite false q h) s = execFaultRecordWrite false q h s := rfl
  rw [State.dieNo_of_cur hcur] at hclosed
  rw [hexec, execFaultRecordWrite, State.with_cur_self hcur]
  simp [hwait, hclosed]

/-- A thread's record is written, and the thread waits for the pager's answer to it (R57, R58). -/
theorem faultRecordWrite_thread {s : State} {q h : Nat} {f : PageFault} (hcur : s.cur = ⟨q, h⟩)
    (hwait : s.th.wait = .record f) (hopen : s.fqClosed s.dieNo = false) (hroom : s.fqRoom s.dieNo = true)
    (hnone : (s.die s.dieNo).records = []) :
    Nexts (exec (.faultRecordWrite false q h) s) fun t =>
      t.th = { s.th with wait := .pager s.dieNo (s.die s.dieNo).fqtail.toNat f } ∧
      s.recordPut t s.dieNo f ⟨(s.die s.dieNo).fqtail.toNat, some (q, h), 0⟩ := by
  have hexec : exec (.faultRecordWrite false q h) s = execFaultRecordWrite false q h s := rfl
  rw [State.dieNo_of_cur hcur] at *
  rw [hexec, execFaultRecordWrite, State.with_cur_self hcur]
  simp only [hwait, hopen, hroom, hnone, Bool.false_and, Bool.false_eq_true, if_false, Bool.not_true, Bool.false_or,
    List.any_nil]
  exact ⟨_, rfl, State.setTh_th _ _, (s.recordPut_putRecord f _ _).congr rfl rfl rfl⟩

theorem State.unitQueue_core {u : Nat} (hu : u < 256) (s : State) : s.unitQueue u = (s.core u).copyq := if_pos hu

theorem State.setUnitQueue_core {u : Nat} (hu : u < 256) (s : State) (l : List Command) :
    s.setUnitQueue u l = s.setCore u { s.core u with copyq := l } := if_pos hu

theorem State.unitQueue_setUnitQueue {u : Nat} (hu : u < 256) (s : State) (l : List Command) :
    (s.setUnitQueue u l).unitQueue u = l := by
  rw [State.unitQueue_core hu, State.setUnitQueue_core hu, State.setCore_core_same]

/-- The record of the head command of a core's copy engine is written, and the command waits for the answer. -/
theorem faultRecordWrite_engine {s : State} {u : Nat} {f : PageFault} {c : Command} {l : List Command} (hu : u < 256)
    (hqueue : s.unitQueue u = c :: l) (hstage : c.pagerStage = 1) (hfault : c.fault = some f)
    (hopen : s.fqClosed (unitDie u) = false) (hroom : s.fqRoom (unitDie u) = true) :
    Nexts (exec (.faultRecordWrite true u 0) s) fun t =>
      t.unitQueue u = { c with pagerStage := 2, record := (s.die (unitDie u)).fqtail.toNat } :: l ∧
      s.recordPut t (unitDie u) f ⟨(s.die (unitDie u)).fqtail.toNat, none, u⟩ := by
  have hexec : exec (.faultRecordWrite true u 0) s = execFaultRecordWrite true u 0 s := rfl
  have hsaver : ¬ 312 ≤ u := by omega
  have hwalker : ¬ 304 ≤ u := by omega
  rw [hexec, execFaultRecordWrite]
  simp only [hsaver, hwalker, hqueue, hfault, hstage, hopen, hroom, decide_false, Bool.and_false, Bool.false_eq_true,
    if_false, if_true, Bool.not_true, ne_eq, not_true_eq_false]
  refine ⟨_, rfl, State.unitQueue_setUnitQueue hu _ _, ?_⟩
  rw [State.setUnitQueue_core hu]
  exact (s.recordPut_putRecord f _ _).congr rfl rfl rfl

/-! ## The pager's answers (R58 to R60, R429) -/

/-- The state with the outstanding record of an index withdrawn. -/
def State.withdraw (s : State) (d idx : Nat) : State :=
  s.setDie d { s.die d with records := (s.die d).records.filter fun r => r.idx ≠ idx }

theorem State.takeRecord_found {s : State} {d idx : Nat} {r : Record}
    (h : (s.die d).records.find? (fun r => r.idx = idx) = some r) :
    s.takeRecord d idx = some (r, s.withdraw d idx) := by
  rw [State.takeRecord, h]
  rfl

/-- No record of the index is outstanding any more. -/
theorem State.withdraw_records (s : State) (d idx : Nat) : ∀ x ∈ ((s.withdraw d idx).die d).records, x.idx ≠ idx := by
  intro x hx
  rw [State.withdraw, State.setDie_die_same] at hx
  simpa using (List.mem_filter.1 hx).2

theorem pfreplyRetry_not_ready {s : State} (h : s.ready = false) (d idx : Nat) :
    exec (.pfreplyRetry d idx) s = .next s := by
  have hexec : exec (.pfreplyRetry d idx) s = execPfreplyRetry d idx s := rfl
  rw [hexec, execPfreplyRetry, h]
  rfl

theorem pfreplyDeliver_not_ready {s : State} (h : s.ready = false) (d idx : Nat) :
    exec (.pfreplyDeliver d idx) s = .next s := by
  have hexec : exec (.pfreplyDeliver d idx) s = execPfreplyDeliver d idx s := rfl
  rw [hexec, execPfreplyDeliver, h]
  rfl

theorem pfreplyRetry_thread {s : State} {q h d idx : Nat} {r : Record} {f : PageFault} (hcur : s.cur = ⟨q, h⟩)
    (hfind : (s.die d).records.find? (fun r => r.idx = idx) = some r) (hthr : r.thread = some (q, h))
    (hwait : s.th.wait = .pager d idx f) (hready : s.ready = true) :
    exec (.pfreplyRetry d idx) s = .next ((s.withdraw d idx).setTh { s.th with wait := f.retryWait }) := by
  have hexec : exec (.pfreplyRetry d idx) s = execPfreplyRetry d idx s := rfl
  have hth : (s.withdraw d idx).thread q h = s.th := State.th_of_cur hcur
  rw [hexec, execPfreplyRetry, if_pos hready, State.takeRecord_found hfind]
  simp only [hthr, hth, hwait, State.setTh_of_cur (s := s.withdraw d idx) hcur]

theorem pfreplyDeliver_thread {s : State} {q h d idx : Nat} {r : Record} {f : PageFault} (hcur : s.cur = ⟨q, h⟩)
    (hfind : (s.die d).records.find? (fun r => r.idx = idx) = some r) (hthr : r.thread = some (q, h))
    (hwait : s.th.wait = .pager d idx f) (hready : s.ready = true) :
    exec (.pfreplyDeliver d idx) s = .next (deliverFault f (s.withdraw d idx)) := by
  have hexec : exec (.pfreplyDeliver d idx) s = execPfreplyDeliver d idx s := rfl
  have hth : (s.withdraw d idx).th.wait = .pager d idx f := hwait
  rw [hexec, execPfreplyDeliver, if_pos hready, State.takeRecord_found hfind]
  simp only [hthr, State.with_cur_self (s := s.withdraw d idx) hcur, hth]

/-- Past its limit the wait asks for a save, with `vstart` at the faulting element, and its record is withdrawn (R59). -/
theorem pfwaitExpiry_pager {s : State} {q h d idx : Nat} {r : Record} {f : PageFault} (hcur : s.cur = ⟨q, h⟩)
    (hfind : (s.die d).records.find? (fun r => r.idx = idx) = some r) (hwait : s.th.wait = .pager d idx f)
    (hlimit : s.sq.pfwait.toNat % 2 ^ 32 ≠ 0) (hsaving : s.sq.saving = none) :
    exec (.pfwaitExpiry q h) s = .next
      (((s.withdraw d idx).setTh { s.th with wait := f.retryWait, vstart := w64 f.resume }).setSq
        { s.sq with saving := some 0x30 }) := by
  have hexec : exec (.pfwaitExpiry q h) s = execPfwaitExpiry q h s := rfl
  have hfld : fld (s.seq q).pfwait 31 0 ≠ 0 := by rwa [← State.sq_of_cur hcur]
  rw [hexec, execPfwaitExpiry]
  simp only [if_neg hfld, State.th_of_cur hcur, hwait, State.takeRecord_found hfind,
    State.setTh_of_cur (s := s.withdraw d idx) hcur]
  generalize hv : (s.withdraw d idx).setTh { s.th with wait := f.retryWait, vstart := w64 f.resume } = v
  have hvcur : v.cur = ⟨q, h⟩ := by rw [← hv]; exact hcur
  have hvsq : v.sq = s.sq := by rw [← hv]; rfl
  rw [State.setSq_of_cur hvcur, ← State.sq_of_cur hvcur, hvsq, hsaving]
  rfl

/-- What the pager's answer to a copy engine does to the command at the head of its queue. -/
theorem State.engineAnswer_core {s : State} {u : Nat} {c : Command} {l : List Command} (hu : u < 256)
    (hqueue : s.unitQueue u = c :: l) (d idx : Nat) (g : Command → Command) (k : Graph → Graph) :
    ((s.withdraw d idx).engineAnswer d idx u g k).unitQueue u = g c :: l := by
  have hqueue' : (s.withdraw d idx).unitQueue u = c :: l := by
    rw [State.unitQueue_core hu] at hqueue ⊢
    exact hqueue
  rw [State.engineAnswer, if_neg (by omega), if_neg (by omega), hqueue']
  exact State.unitQueue_setUnitQueue hu _ _

theorem pfreplyRetry_engine {s : State} {u d idx : Nat} {r : Record} {c : Command} {l : List Command}
    (hfind : (s.die d).records.find? (fun r => r.idx = idx) = some r) (hthr : r.thread = none) (hunit : r.unit = u)
    (hu : u < 256) (hready : s.ready = true) (hqueue : s.unitQueue u = c :: l) :
    Nexts (exec (.pfreplyRetry d idx) s) fun t => t.unitQueue u = { c with pagerStage := 0, fault := none } :: l := by
  have hexec : exec (.pfreplyRetry d idx) s = execPfreplyRetry d idx s := rfl
  rw [hexec, execPfreplyRetry, if_pos hready, State.takeRecord_found hfind]
  simp only [hthr, hunit]
  exact ⟨_, rfl, State.engineAnswer_core hu hqueue _ _ _ _⟩

theorem pfreplyDeliver_engine {s : State} {u d idx : Nat} {r : Record} {c : Command} {l : List Command}
    (hfind : (s.die d).records.find? (fun r => r.idx = idx) = some r) (hthr : r.thread = none) (hunit : r.unit = u)
    (hu : u < 256) (hready : s.ready = true) (hqueue : s.unitQueue u = c :: l) :
    Nexts (exec (.pfreplyDeliver d idx) s) fun t => t.unitQueue u = c.deliver :: l := by
  have hexec : exec (.pfreplyDeliver d idx) s = execPfreplyDeliver d idx s := rfl
  rw [hexec, execPfreplyDeliver, if_pos hready, State.takeRecord_found hfind]
  simp only [hthr, hunit]
  exact ⟨_, rfl, State.engineAnswer_core hu hqueue _ _ _ _⟩

end Sys2Proof.Machine

open Sys2Proof Sys2Proof.Machine

/-- Settles O51: each conjunct by the lemma of its event. -/
theorem pagerEvents : Obligations.PagerEvents := by
  unfold Obligations.PagerEvents
  intro s q h u idx f c l r hcur _ _ _ d n slot key at_
  refine ⟨faultRecordWrite_closed hcur, faultRecordWrite_thread hcur, ?_, ?_, ?_, ?_⟩
  · intro hu hdie hqueue hstage hfault hopen hroom
    rw [← hdie] at hopen hroom
    obtain ⟨t, hnext, hhead, hrec⟩ := faultRecordWrite_engine hu hqueue hstage hfault hopen hroom
    rw [hdie] at hhead hrec
    exact ⟨t, hnext, hhead, hrec⟩
  · exact fun hready => ⟨pfreplyRetry_not_ready hready d idx, pfreplyDeliver_not_ready hready d idx⟩
  · intro hfind hthr hwait again
    refine ⟨fun hready => ?_, pfreplyDeliver_thread hcur hfind hthr hwait, fun hlimit hsaving => ?_⟩
    · exact ⟨_, pfreplyRetry_thread hcur hfind hthr hwait hready, State.setTh_th _ _, rfl, s.withdraw_records d idx⟩
    · exact ⟨_, pfwaitExpiry_pager hcur hfind hwait hlimit hsaving, State.setTh_th _ _, State.setSq_sq _ _,
        s.withdraw_records d idx, rfl⟩
  · intro hfind hthr hunit hu hready hqueue
    exact ⟨pfreplyRetry_engine hfind hthr hunit hu hready hqueue,
      pfreplyDeliver_engine hfind hthr hunit hu hready hqueue⟩

end

section
/-! SUPPORT. What was in flight takes effect where it may (O50): writes at their home slices (R107), and invalidations at
the dies (R93). -/

namespace Sys2Proof.Machine

/-! ## A write at its home (R107) -/

/-- A line that no other key bits were written under: a write under `k` re-fills nothing (R45). -/
def State.ownLine (s : State) (pa : Nat) (k : BitVec 512) : Prop :=
  (s.line (lineOf pa)).key = none ∨ (s.line (lineOf pa)).key = some k ∨ 0x8000000000 ≤ pa

theorem State.rekey_mem_of_ownLine {s : State} {pa : Nat} {k : BitVec 512} (h : s.ownLine pa k) :
    (s.rekey (lineOf pa) (lineKeyBits pa k)).mem = s.mem := by
  unfold State.rekey
  obtain hnone | hown | hwindow := h
  · rw [hnone]
    cases lineKeyBits pa k <;> rfl
  · have hbits : lineKeyBits pa k = some k ∨ lineKeyBits pa k = none := ite_eq_or_eq _ _ _
    obtain hb | hb := hbits <;> rw [hown, hb]
    exact congrArg State.mem (if_pos rfl)
  · rw [lineKeyBits, if_neg (by omega)]
    cases (s.line (lineOf pa)).key <;> rfl

theorem State.applyHome_frame (s : State) (f : Flight) : s.applyHome f = { s with
    mem := (s.applyHome f).mem, lines := (s.applyHome f).lines, dies := (s.applyHome f).dies,
    cores := (s.applyHome f).cores } := by
  have h := s.applyHome_apart f
  unfold State.diesApart at h
  rw [h, State.rekey_frame]

/-- In a line of its own key bits a write puts its bytes, and changes no other. -/
theorem State.applyHome_mem {s : State} {f : Flight} (h : s.ownLine f.pa f.key) :
    (s.applyHome f).mem = memPutAll s.mem f.cells := by
  have happ := s.applyHome_apart f
  unfold State.diesApart at happ
  rw [happ, State.rekey_mem_of_ownLine h]

theorem State.applyHome_stamp (s : State) (f : Flight) : ((s.applyHome f).line (lineOf f.pa)).stamp = f.stamp := by
  have h := s.applyHome_apart f
  unfold State.diesApart at h
  rw [h]
  simp only [State.line, Sparse.get_set_same]

/-- Bytes of cells elsewhere stay. -/
theorem memByte_cellsAt_outside (m : List Host.Cell) {a x : Nat} (bs : List Byte) (h : x < a ∨ a + bs.length ≤ x) :
    memByte (memPutAll m (cellsAt a bs)) x = memByte m x := by
  rw [memByte_cellsAt, if_neg (by omega)]

/-- A write in flight that can be applied is, and is in flight no more. -/
theorem writeApply_ready {s : State} {k : Nat} {f : Flight} (hk : s.flights[k]? = some f) (hop : f.op = none)
    (hready : s.flightReady f = true) (hline : s.ownLine f.pa f.key) :
    Nexts (exec (.writeApply k) s) fun t => t.flights = s.flights.eraseIdx k ∧ t.mem = memPutAll s.mem f.cells ∧
      t.host = s.host ∧ t.threads = s.threads ∧ (t.line (lineOf f.pa)).stamp = f.stamp := by
  have hexec : exec (.writeApply k) s = execWriteApply k s := rfl
  have hgo : (f.op.isNone && s.flightReady f) = true := by rw [hop, hready]; rfl
  rw [hexec, execWriteApply, hk]
  dsimp only
  rw [if_pos hgo, State.applyFlight, hop]
  refine ⟨_, rfl, ?_, State.applyHome_mem (s := { s with flights := s.flights.eraseIdx k }) hline, ?_, ?_,
    State.applyHome_stamp _ f⟩
  all_goals rw [State.applyHome_frame]

/-! ## An invalidation at a die (R93) -/

theorem State.dropTile_dies (s : State) (e : Nat) (p : Nat → Bool) : (s.dropTile e p).dies = s.dies := by
  unfold State.dropTile
  split <;> rfl

theorem State.wastePrefetch_dies (s : State) (e : Nat) (p : Nat → Bool) : (s.wastePrefetch e p).dies = s.dies := by
  unfold State.wastePrefetch
  split <;> rfl

theorem Die.markApplied_frame (d : Die) (origin : Nat) (st : Stamp) :
    d.markApplied origin st = { d with applied := (d.markApplied origin st).applied } := by
  unfold Die.markApplied
  split <;> rfl

/-- Of the dies an invalidation changes its own alone: what it has applied, its copy of the line, and what is to come. -/
theorem State.applyInval_die (s : State) (e : Nat) (i : Inval) : ∃ applied, ∀ d, (s.applyInval e i).die d =
    (s.setDie e { s.die e with
      applied := applied, copies := (s.die e).copies.filter (fun c => c.1 ≠ i.line),
      invals := (s.die e).invals.filter (· ≠ i) }).die d := by
  refine ⟨((s.die e).markApplied i.origin i.stamp).applied, fun d => ?_⟩
  unfold State.applyInval
  rw [State.die, State.wastePrefetch_dies, State.dropTile_dies, Die.markApplied_frame]
  rfl

/-- An invalidation that a die may apply takes the copy of its line, and changes no memory. -/
theorem invalidationApply_ready {s : State} {die k : Nat} {v : Inval} (hk : (s.die die).invals[k]? = some v)
    (hready : s.canApply die v.origin v.stamp = true) :
    Nexts (exec (.invalidationApply die k) s) fun t =>
      (t.die die).invals = (s.die die).invals.filter (· ≠ v) ∧
      (t.die die).copies = (s.die die).copies.filter (fun c => c.1 ≠ v.line) ∧ t.mem = s.mem := by
  have hexec : exec (.invalidationApply die k) s = execInvalidationApply die k s := rfl
  obtain ⟨applied, hdie⟩ := s.applyInval_die die v
  rw [hexec, execInvalidationApply, hk]
  dsimp only
  rw [if_pos hready]
  refine ⟨_, rfl, by rw [hdie, State.setDie_die_same], by rw [hdie, State.setDie_die_same], ?_⟩
  have h := s.diesApart_applyInval die v
  unfold State.diesApart at h
  rw [h]

end Sys2Proof.Machine

end

section
/-! SUPPORT. Bolt operations at their home slices (O50): the bolt that R137 gives is the one that is then read. -/

namespace Sys2Proof.Machine

/-! ## A bolt operation at its bolt (R136, R137) -/

/-- The fields of a bolt are within their widths (Table 6.1). -/
def Bolt.fits (b : Bolt) : Prop := b.expArr < 2 ^ 15 ∧ b.expBytes < 2 ^ 48 ∧ b.arrArr < 2 ^ 15 ∧ b.arrBytes < 2 ^ 48

theorem Bolt.ofWords_fits (d0 d1 : Word) : (Bolt.ofWords d0 d1).fits :=
  ⟨Nat.mod_lt _ (by decide), Nat.mod_lt _ (by decide), Nat.mod_lt _ (by decide), Nat.mod_lt _ (by decide)⟩

theorem Bolt.update_fits {b : Bolt} {op n arr : Nat} (hb : b.fits) (hn : n < 2 ^ 48) (harr : arr < 2 ^ 15)
    (hmore : b.arrArr < 32767) : (b.update op n arr).fits := by
  obtain ⟨hea, heb, haa, hab⟩ := hb
  unfold Bolt.update
  by_cases harm : op = 0
  · rw [if_pos harm]
    exact ⟨harr, hn, haa, hab⟩
  · rw [if_neg harm]
    by_cases hlate : op = 2 ∧ b.arrArr = b.expArr
    · rw [if_pos hlate]
      exact ⟨hea, heb, haa, hab⟩
    · rw [if_neg hlate]
      dsimp only
      split_ifs
      all_goals
        unfold Bolt.fits
        dsimp only
        omega

theorem Bolt.test_fits {b : Bolt} (hb : b.fits) : b.test.2.fits := by
  obtain ⟨hea, heb, haa, hab⟩ := hb
  unfold Bolt.test
  split
  · exact ⟨hea, heb, Nat.two_pow_pos 15, Nat.two_pow_pos 48⟩
  · exact ⟨hea, heb, haa, hab⟩

/-- The three fields of a dword of a bolt are read as they were written. -/
theorem boltWord_fields (p : Bool) {e y : Nat} (he : e < 2 ^ 15) (hy : y < 2 ^ 48) :
    bit (w64 ((if p then 2 ^ 63 else 0) + e % 2 ^ 15 * 2 ^ 48 + y % 2 ^ 48)) 63 = p ∧
    fld (w64 ((if p then 2 ^ 63 else 0) + e % 2 ^ 15 * 2 ^ 48 + y % 2 ^ 48)) 62 48 = e ∧
    fld (w64 ((if p then 2 ^ 63 else 0) + e % 2 ^ 15 * 2 ^ 48 + y % 2 ^ 48)) 47 0 = y := by
  have hp := Bool.toNat_lt p
  have hif : (if p then 2 ^ 63 else 0 : Nat) = p.toNat * 2 ^ 63 := by cases p <;> rfl
  have htop : (p.toNat * 2 ^ 63 + e * 2 ^ 48 + y) % 2 ^ 64 / 2 ^ 63 % 2 = p.toNat := by omega
  have hbit : decide (p.toNat = 1) = p := by cases p <;> rfl
  rw [Nat.mod_eq_of_lt he, Nat.mod_eq_of_lt hy, hif, fld_eq, fld_eq, bit, w64, ← BitVec.testBit_toNat,
    BitVec.toNat_ofNat, Nat.testBit_eq_decide_div_mod_eq, htop]
  exact ⟨hbit, by omega, by omega⟩

theorem Bolt.ofWords_words {b : Bolt} (h : b.fits) : Bolt.ofWords b.word0 b.word1 = b := by
  obtain ⟨hea, heb, haa, hab⟩ := h
  obtain ⟨hph, hexpArr, hexpBytes⟩ := boltWord_fields b.ph hea heb
  obtain ⟨hovf, harrArr, harrBytes⟩ := boltWord_fields b.ovf haa hab
  rw [Bolt.ofWords, Bolt.word0, Bolt.word1, hph, hexpArr, hexpBytes, hovf, harrArr, harrBytes]

/-- The dword that eight bytes of a dword spell. -/
theorem w64_natOfBytes_dwordBytes (w : Word) : w64 (natOfBytes (dwordBytes w)) = w := by
  rw [dwordBytes, natOfBytes_bytesOfNat, Nat.mod_eq_of_lt (by exact w.isLt), w64, BitVec.ofNat_toNat,
    BitVec.setWidth_eq]

theorem State.boltAt_congr {s t : State} (hmem : t.mem = s.mem) (hlines : t.lines = s.lines) (pa : Nat)
    (key : BitVec 512) : t.boltAt pa key = s.boltAt pa key := by
  rw [State.boltAt, State.boltAt, State.homeBytes_congr hmem hlines]

/-- A bolt is read as the two dwords that its line holds for it. -/
theorem State.boltAt_of_bytes {s : State} {pa : Nat} {key : BitVec 512} {d0 d1 : Word}
    (h : s.homeBytes pa 16 (lineKeyBits pa key) = dwordBytes d0 ++ dwordBytes d1) :
    s.boltAt pa key = Bolt.ofWords d0 d1 := by
  have hlen := dwordBytes_length d0
  have hbits : (if pa < 0x8000000000 then some key else none) = lineKeyBits pa key := rfl
  rw [State.boltAt, hbits, h, List.take_left' hlen, List.drop_left' hlen, w64_natOfBytes_dwordBytes,
    w64_natOfBytes_dwordBytes]

theorem State.wakeAt_frame (s : State) (pa : Nat) (ph : Bool) (last : Stamp) : s.wakeAt pa ph last = { s with
    threads := (s.wakeAt pa ph last).threads, cores := (s.wakeAt pa ph last).cores } := by
  unfold State.wakeAt
  refine List.foldlRecOn (motive := fun t : State => t = { s with threads := t.threads, cores := t.cores }) _ _ rfl
    fun t ht x _ => ?_
  obtain ⟨k, w⟩ := x
  dsimp only
  split
  · split
    · rw [ht]
      rfl
    · exact ht
  · exact ht

theorem State.boltLeaves_frame (s : State) (pa : Nat) :
    s.boltLeaves pa = { s with bolts := (s.boltLeaves pa).bolts } := by
  unfold State.boltLeaves
  split <;> rfl

/-- A bolt operation is a write of the bolt that R137 gives; beside it, hidden stamps and who waits at the bolt change. -/
theorem State.applyBolt_eq (s : State) (f : Flight) (o : BoltOp) : ∃ stamp threads cores bolts,
    let b := ((s.boltAt f.pa f.key).update o.op o.n o.arr).test.2
    s.applyBolt f o = { s.applyHome { f with
        stamp := stamp, cells := cellsAt f.pa (dwordBytes b.word0 ++ dwordBytes b.word1) } with
      threads := threads, cores := cores, bolts := bolts } := by
  unfold State.applyBolt
  generalize ((s.boltAt f.pa f.key).update o.op o.n o.arr).test = r
  obtain ⟨flip, b⟩ := r
  dsimp only
  refine ⟨f.stamp.join (s.line (lineOf f.pa)).stamp, ?_⟩
  rw [State.boltLeaves_frame]
  cases flip with
  | false => exact ⟨_, _, _, rfl⟩
  | true =>
    rw [if_pos rfl, if_pos rfl, State.wakeAt_frame]
    exact ⟨_, _, _, rfl⟩

/-- A write of a bolt's two dwords at their place leaves that bolt there. -/
theorem State.boltAt_applyHome {s : State} {f : Flight} {b : Bolt} (hfits : b.fits)
    (hcells : f.cells = cellsAt f.pa (dwordBytes b.word0 ++ dwordBytes b.word1)) :
    (s.applyHome f).boltAt f.pa f.key = b := by
  have hbytes := State.homeBytes_applyHome s f (pa := f.pa) (n := 16) rfl rfl
  have hput := memBytes_cellsAt (s.rekey (lineOf f.pa) (lineKeyBits f.pa f.key)).mem f.pa
    (dwordBytes b.word0 ++ dwordBytes b.word1)
  rw [List.length_append, dwordBytes_length, dwordBytes_length] at hput
  rw [hcells, hput] at hbytes
  rw [State.boltAt_of_bytes hbytes, Bolt.ofWords_words hfits]

/-- A bolt operation updates and tests its bolt, and changes no other byte. -/
theorem State.applyBolt_spec {s : State} {f : Flight} {o : BoltOp} (hn : o.n < 2 ^ 48) (harr : o.arr < 2 ^ 15)
    (hmore : (s.boltAt f.pa f.key).arrArr < 32767) (hline : s.ownLine f.pa f.key) :
    (s.applyBolt f o).flights = s.flights ∧
    (s.applyBolt f o).boltAt f.pa f.key = ((s.boltAt f.pa f.key).update o.op o.n o.arr).test.2 ∧
    (s.applyBolt f o).host = s.host ∧
    ∀ x : Nat, x < f.pa ∨ f.pa + 16 ≤ x → memByte (s.applyBolt f o).mem x = memByte s.mem x := by
  obtain ⟨stamp, threads, cores, bolts, happly⟩ := s.applyBolt_eq f o
  have hfits : (s.boltAt f.pa f.key).fits := Bolt.ofWords_fits _ _
  have hfits' := Bolt.test_fits (Bolt.update_fits (op := o.op) hfits hn harr hmore)
  generalize ((s.boltAt f.pa f.key).update o.op o.n o.arr).test.2 = b at happly hfits' ⊢
  rw [happly]
  refine ⟨by rw [State.applyHome_frame], ?_, by rw [State.applyHome_frame], fun x hx => ?_⟩
  · exact (State.boltAt_congr rfl rfl _ _).trans (State.boltAt_applyHome (f := { f with
      stamp := stamp, cells := cellsAt f.pa (dwordBytes b.word0 ++ dwordBytes b.word1) }) hfits' rfl)
  · dsimp only
    rw [State.applyHome_mem (by exact hline)]
    exact memByte_cellsAt_outside _ _ (by simpa using hx)

/-- A bolt operation in flight that can be applied is. -/
theorem boltOperationApply_ready {s : State} {k : Nat} {f : Flight} {o : BoltOp} (hk : s.flights[k]? = some f)
    (hop : f.op = some o) (hready : s.flightReady f = true) (hn : o.n < 2 ^ 48) (harr : o.arr < 2 ^ 15)
    (hmore : (s.boltAt f.pa f.key).arrArr < 32767) (hline : s.ownLine f.pa f.key) :
    Nexts (exec (.boltOperationApply k) s) fun t => t.flights = s.flights.eraseIdx k ∧
      t.boltAt f.pa f.key = ((s.boltAt f.pa f.key).update o.op o.n o.arr).test.2 ∧ t.host = s.host ∧
      ∀ x : Nat, x < f.pa ∨ f.pa + 16 ≤ x → memByte t.mem x = memByte s.mem x := by
  have hexec : exec (.boltOperationApply k) s = execBoltOperationApply k s := rfl
  have hgo : (f.op.isSome && s.flightReady f) = true := by rw [hop, hready]; rfl
  refine ⟨({ s with flights := s.flights.eraseIdx k } : State).applyBolt f o, ?_,
    State.applyBolt_spec (s := { s with flights := s.flights.eraseIdx k }) hn harr hmore hline⟩
  rw [hexec, execBoltOperationApply, hk]
  dsimp only
  rw [if_pos hgo, State.applyFlight, hop]

end Sys2Proof.Machine

end

section
/-! SUPPORT. Publications (O50): TAIL written at its home slice, and what else a publication changes. -/

namespace Sys2Proof.Machine

/-! ## A publication at its header (R166) -/

/-- TAIL is the second four bytes of a header (Table 7.6). -/
theorem QHeader.ofBytes_tail (v : BitVec 32) (head rest : List Byte) (h : head.length = 4) :
    (QHeader.ofBytes (head ++ (bytesOfNat 4 v.toNat ++ rest))).tail = v := by
  have hhead : natOfBytes head < 2 ^ 32 := (natOfBytes_lt head).trans_eq (by rw [h]; rfl)
  have hfirst : (bytesOfNat 4 v.toNat ++ rest).take 4 = bytesOfNat 4 v.toNat :=
    List.take_left' (bytesOfNat_length _ _)
  simp only [QHeader.ofBytes, Nat.mul_zero]
  rw [dwordOf_first _ _ h, hfirst, w64_high _ hhead, natOfBytes_bytesOfNat,
    Nat.mod_eq_of_lt (by exact v.isLt), BitVec.ofNat_toNat, BitVec.setWidth_eq]

/-- TAIL written at its home slice: the header reads it, and no byte but its four is changed. -/
theorem State.setCount_tail {s : State} {h : Head} (die : Nat) (front : Stamp) (v : BitVec 32) (rel : Option Nat)
    (ha : h.pa % 64 = 0) (hline : s.ownLine h.pa (s.headKey h)) :
    ((s.setCount die front h offTail v rel).2.header h).tail = v ∧
    ∀ x : Nat, x < h.pa + 4 ∨ h.pa + 8 ≤ x →
      memByte (s.setCount die front h offTail v rel).2.mem x = memByte s.mem x := by
  obtain ⟨d, n, f, hset, hpa, hcells, hkey⟩ := s.setCount_applyHome die front h offTail v rel
  generalize hu : ({ s.setDie die d with nextId := n } : State) = u at hset
  have hpa4 : f.pa = h.pa + 4 := hpa
  have hlineOf : lineOf f.pa = lineOf h.pa := by unfold lineOf; omega
  have hbits : lineKeyBits h.pa f.key = lineKeyBits f.pa f.key := by
    unfold lineKeyBits
    exact if_congr (by omega) rfl rfl
  have hslot : (u.applyHome f).headKey h = f.key := by rw [State.applyHome_frame, hkey, ← hu]; rfl
  have hown : u.ownLine f.pa f.key := by
    obtain hnone | hsame | hwindow := hline
    · exact .inl (by rw [hlineOf, ← hu]; exact hnone)
    · exact .inr (.inl (by rw [hlineOf, hkey, ← hu]; exact hsame))
    · exact .inr (.inr (by omega))
  have hlen : (bytesOfNat 4 v.toNat).length = 4 := bytesOfNat_length _ _
  rw [hset]
  refine ⟨?_, fun x hx => ?_⟩
  · rw [State.header, hslot, State.homeBytes_applyHome u f hlineOf.symm hbits, hcells,
      show (64 : Nat) = 4 + (4 + 56) from rfl, memBytes_add, memBytes_add]
    have hput := memBytes_cellsAt (u.rekey (lineOf h.pa) (lineKeyBits h.pa f.key)).mem (h.pa + 4) (bytesOfNat 4 v.toNat)
    rw [hlen] at hput
    rw [show h.pa + offTail = h.pa + 4 from rfl, hput]
    exact QHeader.ofBytes_tail _ _ _ (memBytes_length _ _ _)
  · rw [State.applyHome_mem hown, hcells, ← hu]
    exact memByte_cellsAt_outside _ _ (by rw [hlen]; exact hx)

theorem State.mapThread_frame (s : State) (q r : Nat) (f : Thread → Thread) : s.mapThread q r f = { s with
    threads := (s.mapThread q r f).threads, seqs := (s.mapThread q r f).seqs } := by
  unfold State.mapThread
  dsimp only
  split <;> rfl

/-- Publishing is the write of TAIL; the reservation goes, and its thread may be told. -/
theorem State.publish_eq (s : State) (r : Resv) : ∃ threads seqs,
    s.publish r = { (s.setCount r.die r.front r.header offTail (BitVec.ofNat 32 (r.first + r.count)) (some 4)).2 with
      resvs := (s.setCount r.die r.front r.header offTail (BitVec.ofNat 32 (r.first + r.count)) (some 4)).2.resvs.filter
        fun x => x.id ≠ r.id
      threads := threads, seqs := seqs } := by
  unfold State.publish
  dsimp only
  split
  · split
    · rw [State.mapThread_frame]
      exact ⟨_, _, rfl⟩
    · exact ⟨_, _, rfl⟩
  · exact ⟨_, _, rfl⟩

theorem queuePublish_ready {s : State} {k : Nat} {r : Resv} (hk : s.resvs[k]? = some r) (hfreed : s.freed = [])
    (hready : s.canPublish r = true) (ha : r.header.pa % 64 = 0)
    (hline : s.ownLine r.header.pa (s.headKey r.header)) :
    Nexts (exec (.queuePublish k) s) fun t =>
      (t.header r.header).tail = BitVec.ofNat 32 (r.first + r.count) ∧ (∀ x ∈ t.resvs, x.id ≠ r.id) ∧
      ∀ x : Nat, x < r.header.pa + 4 ∨ r.header.pa + 8 ≤ x → memByte t.mem x = memByte s.mem x := by
  have hexec : exec (.queuePublish k) s = execQueuePublish k s := rfl
  obtain ⟨threads, seqs, hpub⟩ := s.publish_eq r
  obtain ⟨htail, hmem⟩ :=
    State.setCount_tail r.die r.front (BitVec.ofNat 32 (r.first + r.count)) (some 4) ha hline
  rw [hexec, execQueuePublish, if_pos hfreed]
  simp only [hk, hready, if_true]
  refine ⟨_, rfl, ?_⟩
  beta_reduce
  rw [hpub]
  refine ⟨?_, fun x hx => ?_, hmem⟩
  · exact (congrArg QHeader.tail (State.header_congr rfl rfl rfl rfl _)).trans htail
  · simpa using (List.mem_filter.1 hx).2

end Sys2Proof.Machine

end

section
/-! SUPPORT. Replicas that collapse (O50): a holder answers, or is poisoned, and its entry is valid no more (R70, R71). -/

namespace Sys2Proof.Machine

/-! ## Replica directories are kept by what settles (R67) -/

theorem State.applyInval_rdir (s : State) (e : Nat) (i : Inval) (d : Nat) :
    ((s.applyInval e i).die d).rdir = (s.die d).rdir := by
  obtain ⟨applied, hdie⟩ := s.applyInval_die e i
  rw [hdie]
  by_cases h : d = e
  · rw [h, State.setDie_die_same]
  · rw [State.setDie_die_ne _ _ h]

theorem State.settleDie_rdir (s : State) (force : Bool) (e d : Nat) :
    ((s.settleDie force e).die d).rdir = (s.die d).rdir := by
  unfold State.settleDie
  refine List.foldlRecOn (motive := fun t : State => (t.die d).rdir = (s.die d).rdir) _ _ rfl fun t ht i _ => ?_
  split
  · rw [State.applyInval_rdir, ht]
  · exact ht

/-- With nothing in flight what is drained are invalidations: memory and what collapses are as they were. -/
theorem State.drain_apart {s : State} (h : s.flights = []) : s.diesApart s.drain := by
  unfold State.drain
  rw [h]
  exact State.diesApart_foldl (fun t e => (t.diesApart_settleDie _ _).trans (State.diesApart_settleDie _ _ _)) _ _

theorem State.drain_rdir {s : State} (h : s.flights = []) (d : Nat) : (s.drain.die d).rdir = (s.die d).rdir := by
  unfold State.drain
  rw [h]
  refine List.foldlRecOn (motive := fun t : State => (t.die d).rdir = (s.die d).rdir) _ _ rfl fun t ht e _ => ?_
  rw [State.settleDie_rdir, State.settleDie_rdir, ht]

/-! ## What the driver is told changes no directory (R427) -/

theorem State.event_frame (s : State) (kind die core slot code : Nat) (data addr aux : Word) :
    ∃ mem host lines dies cores eqtail dropped msix, s.event kind die core slot code data addr aux =
      { s with mem := mem, host := host, lines := lines, dies := dies, cores := cores, eqtail := eqtail,
               dropped := dropped, msix := msix } := by
  unfold State.event
  dsimp only
  split
  · exact ⟨_, _, _, _, _, _, _, _, rfl⟩
  · rw [State.physWrite_frame]
    split <;> exact ⟨_, _, _, _, _, _, _, _, rfl⟩

theorem State.physWrite_rdir (s : State) (pa : Nat) (bs : List Byte) (key : Option (BitVec 512)) (d : Nat) :
    ((s.physWrite pa bs key).die d).rdir = (s.die d).rdir := by
  rw [State.physWrite_die]

theorem State.event_rdir (s : State) (kind die core slot code : Nat) (data addr aux : Word) (d : Nat) :
    ((s.event kind die core slot code data addr aux).die d).rdir = (s.die d).rdir := by
  unfold State.event
  dsimp only
  split
  · rfl
  · split <;> exact s.physWrite_rdir _ _ _ d

/-! ## The answer of a holder (R70) -/

theorem State.dropHolder_frame (s : State) (page : Nat) (keep : Nat → Nat) :
    s.dropHolder page keep = { s with dies := (s.dropHolder page keep).dies } := by
  unfold State.dropHolder
  split <;> rfl

/-- A holder's bit is kept by the page's home die alone. -/
theorem State.dropHolder_die_ne (s : State) {page d : Nat} (keep : Nat → Nat) (h : d ≠ homeDie (page * 4096)) :
    (s.dropHolder page keep).die d = s.die d := by
  unfold State.dropHolder
  split
  · exact State.setDie_die_ne _ _ h
  · rfl

theorem State.awaits_eq_false {s : State} {page holder : Nat}
    (h : ∀ c ∈ s.collapses, c.page = page → c.waiting.getLsbD holder = false) : s.awaits page holder = false := by
  have hnone : (s.collapses.any fun c => c.page = page && c.waiting.getLsbD holder) = false := by
    refine List.any_eq_false.2 fun c hc => ?_
    by_cases hp : c.page = page
    · simp [hp, h c hc hp]
    · simp [hp]
  rw [State.awaits, hnone, Bool.and_false]

/-- The collapses once a holder has answered for a page. -/
def State.collapsesAfter (s : State) (page holder : Nat) : List Collapse :=
  s.collapses.map fun c => if c.page = page then { c with waiting := c.waiting &&& ~~~(1#8 <<< holder) } else c

/-- The state once a page's last holder has answered: its collapse is over and the writes it held may go on. -/
def State.collapseOver (s : State) (page holder : Nat) : State :=
  let u := s.dropHolder page fun _ => 0
  { u with
    collapses := (s.collapsesAfter page holder).filter fun c => c.page ≠ page
    flights := u.flights.map fun f => if f.page = some page then { f with held := false } else f }

theorem State.answered_eq (s : State) (page holder : Nat) : s.answered page holder =
    if (s.collapsesAfter page holder).any (fun c => c.page = page && c.waiting = 0) then
      if (s.collapseOver page holder).sched.lazy then s.collapseOver page holder else (s.collapseOver page holder).drain
    else { s with collapses := s.collapsesAfter page holder } := rfl

/-- No collapse of the page waits for the holder any more. -/
theorem State.collapsesAfter_waiting (s : State) {page holder : Nat} (hholder : holder < 8) :
    ∀ c ∈ s.collapsesAfter page holder, c.page = page → c.waiting.getLsbD holder = false := by
  intro c hc hp
  obtain ⟨c0, -, rfl⟩ := List.mem_map.1 hc
  by_cases h0 : c0.page = page
  · simp [h0, hholder]
  · rw [if_neg h0] at hp
    exact absurd hp h0

theorem State.collapseOver_spec {s : State} {page holder : Nat} (hflights : s.flights = []) (hholder : holder < 8)
    (hhome : holder ≠ homeDie (page * 4096)) :
    (s.collapseOver page holder).flights = [] ∧ (s.collapseOver page holder).mem = s.mem ∧
    ((s.collapseOver page holder).die holder).rdir = (s.die holder).rdir ∧
    ∀ c ∈ (s.collapseOver page holder).collapses, c.page = page → c.waiting.getLsbD holder = false := by
  have hdie : (s.collapseOver page holder).die holder = (s.dropHolder page fun _ => 0).die holder := rfl
  refine ⟨?_, ?_, by rw [hdie, State.dropHolder_die_ne _ _ hhome], fun c hc =>
    s.collapsesAfter_waiting hholder c (List.mem_filter.1 hc).1⟩
  · rw [State.collapseOver, State.dropHolder_frame]
    dsimp only
    rw [hflights, List.map_nil]
  · rw [State.collapseOver, State.dropHolder_frame]

/-- Once a holder has answered no collapse of the page waits for it; its own directory and memory are as they were. -/
theorem State.answered_spec {s : State} {page holder : Nat} (hflights : s.flights = []) (hholder : holder < 8)
    (hhome : holder ≠ homeDie (page * 4096)) :
    ((s.answered page holder).die holder).rdir = (s.die holder).rdir ∧ (s.answered page holder).mem = s.mem ∧
    (s.answered page holder).awaits page holder = false := by
  obtain ⟨hover, hmem, hrdir, hdone⟩ := State.collapseOver_spec hflights hholder hhome
  rw [State.answered_eq]
  split
  · split
    · exact ⟨hrdir, hmem, State.awaits_eq_false hdone⟩
    · have hdrain := State.drain_apart hover
      unfold State.diesApart at hdrain
      refine ⟨(State.drain_rdir hover holder).trans hrdir, ?_, State.awaits_eq_false ?_⟩
      · rw [hdrain]
        exact hmem
      · rw [hdrain]
        exact hdone
  · exact ⟨rfl, rfl, State.awaits_eq_false (s.collapsesAfter_waiting hholder)⟩

/-! ## Single bits of a directory entry (Table 3.6) -/

theorem getLsbD_setFld_bit (w : Word) {i j : Nat} (v : Nat) (hi : i < 64) (hj : j < 64) :
    (setFld w i i v).getLsbD j = if j = i then decide (v % 2 = 1) else w.getLsbD j := by
  have hpow : 2 ^ i < 2 ^ 64 := Nat.pow_lt_pow_right (by decide) hi
  have hone : i + 1 - i = 1 := by omega
  have hmask : 2 ^ 64 - 1 - (2 ^ 1 - 1) <<< i = 2 ^ 64 - (2 ^ i + 1) := by
    rw [Nat.shiftLeft_eq]
    omega
  change (w64 (w.toNat &&& (2 ^ 64 - 1 - (2 ^ (i + 1 - i) - 1) <<< i) ||| (v % 2 ^ (i + 1 - i)) <<< i)).getLsbD j = _
  rw [hone, hmask, w64, BitVec.getLsbD_ofNat, Nat.testBit_or, Nat.testBit_and, Nat.testBit_two_pow_sub_succ hpow,
    Nat.testBit_two_pow, Nat.testBit_shiftLeft, pow_one, BitVec.testBit_toNat]
  by_cases h : j = i
  · subst h
    simp [hj]
  · have hout : (decide (j ≥ i) && (v % 2).testBit (j - i)) = false := by
      by_cases hle : i ≤ j
      · have hpos : 1 < 2 ^ (j - i) := Nat.one_lt_two_pow (by omega)
        rw [Nat.testBit_lt_two_pow (by omega), Bool.and_false]
      · rw [decide_eq_false hle, Bool.false_and]
    rw [hout]
    simp [hj, h, Ne.symm h]

/-! ## HOLDER_ACK and REPLICA_POISON -/

theorem State.dropPage_apart (s : State) (die page pages : Nat) : s.diesApart (s.dropPage die page pages) :=
  (s.diesApart_dropTile _ _).trans (State.diesApart_wastePrefetch _ _ _)

theorem holderAck_awaited {s : State} {page holder i : Nat} {e : Word × Word} (hawaits : s.awaits page holder = true)
    (hentry : s.holderEntry holder page = some (i, e)) (hholder : holder < 8) (hflights : s.flights = [])
    (hhome : holder ≠ homeDie (page * 4096)) :
    Nexts (exec (.holderAck page holder) s) fun t =>
      (Sparse.get (0, 0) (t.die holder).rdir i).1.getLsbD 63 = false ∧ t.awaits page holder = false ∧
      t.mem = s.mem := by
  have hexec : exec (.holderAck page holder) s = execHolderAck page holder s := rfl
  have hpage := s.dropPage_apart holder page (entryPages e)
  unfold State.diesApart at hpage
  rw [hexec, execHolderAck, hawaits, hentry]
  simp only [Bool.not_true, Bool.false_eq_true, if_false]
  generalize hu : (s.dropPage holder page (entryPages e)).setDie holder _ = u
  have huflights : u.flights = [] := by rw [← hu, State.setDie_flights, hpage, hflights]
  obtain ⟨hrdir, hmem, hdone⟩ := State.answered_spec huflights hholder hhome
  refine ⟨_, rfl, ?_, hdone, ?_⟩
  · rw [hrdir, ← hu, State.setDie_die_same, Sparse.get_set_same, getLsbD_setFld_bit _ _ (by decide) (by decide)]
    rfl
  · rw [hmem, ← hu, State.setDie_mem, hpage]

theorem replicaPoison_awaited {s : State} {page holder i : Nat} {e : Word × Word}
    (hawaits : s.awaits page holder = true) (hentry : s.holderEntry holder page = some (i, e)) (hholder : holder < 8)
    (hflights : s.flights = []) (hhome : holder ≠ homeDie (page * 4096)) :
    Nexts (exec (.replicaPoison page holder) s) fun t =>
      (Sparse.get (0, 0) (t.die holder).rdir i).1.getLsbD 63 = false ∧
      (Sparse.get (0, 0) (t.die holder).rdir i).1.getLsbD 62 = true ∧ t.awaits page holder = false := by
  have hexec : exec (.replicaPoison page holder) s = execReplicaPoison page holder s := rfl
  rw [hexec, execReplicaPoison, hawaits, hentry]
  simp only [Bool.not_true, Bool.false_eq_true, if_false]
  generalize hu : State.dropHolder (s.setDie holder _) page _ = u
  have hudie : u.die holder = { s.die holder with
      rdir := Sparse.set (s.die holder).rdir i (setFld (setFld e.1 63 63 0) 62 62 1, e.2) } := by
    rw [← hu, State.dropHolder_die_ne _ _ hhome, State.setDie_die_same]
  have huflights : u.flights = [] := by rw [← hu, State.dropHolder_frame]; exact hflights
  generalize hv : u.event 4 holder 0 0 0 (w64 holder) (w64 page) (w64 (fld e.2 39 0)) = v
  have hvflights : v.flights = [] := by
    obtain ⟨_, _, _, _, _, _, _, _, hevent⟩ := u.event_frame 4 holder 0 0 0 (w64 holder) (w64 page) (w64 (fld e.2 39 0))
    rw [← hv, hevent, huflights]
  obtain ⟨hrdir, -, hdone⟩ := State.answered_spec hvflights hholder hhome
  have hget : Sparse.get (0, 0) ((v.answered page holder).die holder).rdir i =
      (setFld (setFld e.1 63 63 0) 62 62 1, e.2) := by
    rw [hrdir, ← hv, State.event_rdir, hudie, Sparse.get_set_same]
  refine ⟨_, rfl, ?_, ?_, hdone⟩
  · rw [hget, getLsbD_setFld_bit _ _ (by decide) (by decide), if_neg (by decide),
      getLsbD_setFld_bit _ _ (by decide) (by decide)]
    rfl
  · rw [hget, getLsbD_setFld_bit _ _ (by decide) (by decide)]
    rfl

end Sys2Proof.Machine

open Sys2Proof Sys2Proof.Machine

/-- Settles O50: each conjunct by the lemma of its event. -/
theorem memoryEvents : Obligations.MemoryEvents := by
  unfold Obligations.MemoryEvents
  intro s k die page holder i f v o r e
  refine ⟨writeApply_ready, fun _ => invalidationApply_ready, ?_, queuePublish_ready, holderAck_awaited,
    replicaPoison_awaited⟩
  intro hk hop hready _ hn harr hmore hline
  exact boltOperationApply_ready hk hop hready hn harr hmore hline

end

section
/-! SUPPORT. Launches (O52). R44 lets no new access be made under a key slot that is closing, and hardware closes no
queue whose header lies under one (`State.headOpen`); the statement asks of the header only what `State.countReady`
does, that its slot is loaded. -/

namespace Sys2Proof.Machine

/-- A queue whose header may not be accessed is not closed. -/
theorem queueClose_not_open {s : State} {l : Launch} {r : StageRun} {id j : Nat} (hid : id ≠ 0)
    (hfind : s.launches.find? (fun l => l.id = id) = some l) (hstage : l.stages[j]? = some r)
    (hopen : s.headOpen r.header = false) : exec (.queueClose id j) s = .next s := by
  have hexec : exec (.queueClose id j) s = execQueueClose id j s := rfl
  rw [hexec, execQueueClose, if_neg hid, hfind]
  dsimp only
  rw [hstage]
  dsimp only
  rw [hopen]
  rfl

/-! ## The state that refutes the statement -/

/-- The one stage of a launch, with its input queue's header at address 0 under key slot 1. -/
def closingStage : StageRun :=
  { entry := 0, n := 0, x := 0, tiles := 0, share := 0, queue := 0, header := ⟨0, 1⟩, minInst := 1, maxInst := 1,
    dies := 1, claim := 1 }

/-- A launch whose submitter has closed the input of stage 0 (CLOSE0). -/
def closingLaunch : Launch :=
  { id := 1, ctx := 0, prio := 0, arg := 0, stages := [closingStage], compl := 0, irq := false, vec := 0,
    queue := none, ticket := none, node := none, total := 0, closeBolt := none, closeVa := 0, close0 := true,
    front := 0, die := 0, handle := 0 }

/-- Key slot 1 is closing while that launch runs. -/
def closingSlot : State :=
  { State.reset with
    slots := [(1, { loaded := true, closing := true })]
    launches := [closingLaunch] }

theorem closingSlot_countReady : closingSlot.countReady 0 0 closingStage.header = true := by decide +kernel

theorem closingSlot_not_open : closingSlot.headOpen closingStage.header = false := by decide +kernel

theorem closingSlot_not_closed : (closingSlot.header closingStage.header).closed = false := by decide +kernel

end Sys2Proof.Machine

open Sys2Proof Sys2Proof.Machine

/-- Refutes O52, in its clause on an input queue whose feeders have ended: that of `closingSlot`'s launch is left as it
is. -/
theorem not_launchEvents : ¬ Obligations.LaunchEvents := by
  unfold Obligations.LaunchEvents
  intro h
  obtain ⟨-, hclose, -⟩ := h closingSlot closingLaunch closingStage 1 0 0 0 0 0 0 rfl
  obtain ⟨t, hnext, hclosed, -⟩ := hclose rfl (by decide) closingSlot_not_closed rfl closingSlot_countReady rfl
    (.inl rfl)
  have hsame := queueClose_not_open (s := closingSlot) (id := 1) (j := 0) (by decide) rfl rfl closingSlot_not_open
  have ht : closingSlot = t := Host.Outcome.next.inj (hsame.symm.trans hnext)
  rw [← ht] at hclosed
  exact absurd (closingSlot_not_closed.symm.trans (congrArg QHeader.closed hclosed)) Bool.false_ne_true

end

section
/-! SUPPORT. What no work of the module's own begins (O58): memory accesses, walks and engine accesses, tickets and
completion records, graphs, and what a killed sequencer leaves accept no launch, bind no instance and enable no launch
queue, and they leave the context entries in being. -/

namespace Sys2Proof.Machine

/-! ## Maps -/

theorem Sparse.mem_of_mem_set {α : Type} {m : Sparse α} {k : Nat} {v : α} {x : Nat × α}
    (h : x ∈ Sparse.set m k v) : x = (k, v) ∨ x ∈ m := by
  induction m with
  | nil => exact .inl (List.mem_singleton.1 h)
  | cons p m ih =>
    obtain ⟨k', v'⟩ := p
    rw [Sparse.set] at h
    split at h
    · exact List.mem_cons.1 h
    · split at h
      · exact (List.mem_cons.1 h).imp_right (List.mem_cons_of_mem _)
      · obtain rfl | hm := List.mem_cons.1 h
        · exact .inr List.mem_cons_self
        · exact (ih hm).imp_right (List.mem_cons_of_mem _)

/-- What is read of a map is listed there, or is what an unlisted key reads as. -/
theorem Sparse.get_eq_or_mem {α : Type} (d : α) (m : Sparse α) (k : Nat) :
    Sparse.get d m k = d ∨ (k, Sparse.get d m k) ∈ m := by
  induction m with
  | nil => exact .inl rfl
  | cons p m ih =>
    obtain ⟨k', v'⟩ := p
    rw [Sparse.get]
    split
    · next h => exact .inr (h ▸ List.mem_cons_self)
    · exact ih.imp_right (List.mem_cons_of_mem _)

theorem Sparse.get_of_forall_ne {α : Type} {d : α} {m : Sparse α} {k : Nat} (h : ∀ x ∈ m, x.1 ≠ k) :
    Sparse.get d m k = d :=
  (Sparse.get_eq_or_mem d m k).resolve_right fun hm => h _ hm rfl

/-! ## Nothing new -/

/-- From `s` to `t` nothing new begins: the launches, the bindings and the enabled queues of `t` are of `s`, and the
context entries keep what says that they are in being. -/
structure State.NothingNew (s t : State) : Prop where
  launches : ∀ x ∈ t.launches, ∃ y ∈ s.launches, y.ctx = x.ctx
  bindings : ∀ x ∈ t.seqs, x.2.bound ≠ none → ∃ y ∈ s.seqs, y.1 = x.1 ∧ y.2.bound = x.2.bound
  queues : ∀ x ∈ t.queues, x.2.en = true → ∃ y ∈ s.queues, y.2.ctx = x.2.ctx ∧ y.2.en = true
  contexts : ∀ c, (t.context c).v = (s.context c).v ∧ (t.context c).busy = (s.context c).busy ∧
    (t.context c).killed = (s.context c).killed
  seqkill : t.seqkill = s.seqkill

namespace State.NothingNew

theorem of_eq {s t : State} (hl : t.launches = s.launches) (hs : t.seqs = s.seqs) (hq : t.queues = s.queues)
    (hc : t.contexts = s.contexts) (hk : t.seqkill = s.seqkill) : s.NothingNew t where
  launches x hx := ⟨x, hl ▸ hx, rfl⟩
  bindings x hx _ := ⟨x, hs ▸ hx, rfl, rfl⟩
  queues x hx hen := ⟨x, hq ▸ hx, rfl, hen⟩
  contexts c := by unfold State.context; rw [hc]; exact ⟨rfl, rfl, rfl⟩
  seqkill := hk

theorem refl (s : State) : s.NothingNew s := of_eq rfl rfl rfl rfl rfl

theorem trans {s t u : State} (h : s.NothingNew t) (h' : t.NothingNew u) : s.NothingNew u where
  launches x hx := by
    obtain ⟨y, hy, hyx⟩ := h'.launches x hx
    obtain ⟨z, hz, hzy⟩ := h.launches y hy
    exact ⟨z, hz, hzy.trans hyx⟩
  bindings x hx hb := by
    obtain ⟨y, hy, hkey, hbound⟩ := h'.bindings x hx hb
    obtain ⟨z, hz, hkey', hbound'⟩ := h.bindings y hy (hbound ▸ hb)
    exact ⟨z, hz, hkey'.trans hkey, hbound'.trans hbound⟩
  queues x hx hen := by
    obtain ⟨y, hy, hctx, hyen⟩ := h'.queues x hx hen
    obtain ⟨z, hz, hctx', hzen⟩ := h.queues y hy hyen
    exact ⟨z, hz, hctx'.trans hctx, hzen⟩
  contexts c := by
    obtain ⟨hv, hb, hk⟩ := h'.contexts c
    obtain ⟨hv', hb', hk'⟩ := h.contexts c
    exact ⟨hv.trans hv', hb.trans hb', hk.trans hk'⟩
  seqkill := h'.seqkill.trans h.seqkill

theorem foldl {α : Type} {g : State → α → State} (hg : ∀ (s : State) a, s.NothingNew (g s a)) (l : List α)
    (s : State) : s.NothingNew (l.foldl g s) := by
  induction l generalizing s with
  | nil => exact refl s
  | cons a l ih => exact (hg s a).trans (ih _)

/-- A step made or left out. -/
theorem ite {c : Prop} [Decidable c] {s t u : State} (ht : s.NothingNew t) (hu : s.NothingNew u) :
    s.NothingNew (if c then t else u) := by
  split
  · exact ht
  · exact hu

/-- A sequencer changed, and not its binding. -/
theorem setSeq {s : State} {q : Nat} {v : Seq} (hv : v.bound = (s.seq q).bound) : s.NothingNew (s.setSeq q v) where
  launches x hx := ⟨x, hx, rfl⟩
  bindings x hx hb := by
    obtain rfl | hm := Sparse.mem_of_mem_set hx
    · obtain hd | hm := Sparse.get_eq_or_mem ({} : Seq) s.seqs q
      · exact absurd (hv.trans (congrArg Seq.bound hd)) hb
      · exact ⟨_, hm, rfl, hv.symm⟩
    · exact ⟨x, hm, rfl, rfl⟩
  queues x hx hen := ⟨x, hx, rfl, hen⟩
  contexts _ := ⟨rfl, rfl, rfl⟩
  seqkill := rfl

/-- A queue block changed, and neither its context nor whether it takes packets. -/
theorem setQueue {s : State} {q : Nat} {k : Queue} (hctx : k.ctx = (s.queue q).ctx) (hen : k.en = (s.queue q).en) :
    s.NothingNew (s.setQueue q k) where
  launches x hx := ⟨x, hx, rfl⟩
  bindings x hx _ := ⟨x, hx, rfl, rfl⟩
  queues x hx hon := by
    obtain rfl | hm := Sparse.mem_of_mem_set hx
    · obtain hd | hm := Sparse.get_eq_or_mem ({} : Queue) s.queues q
      · exact absurd (hon.symm.trans (hen.trans (congrArg Queue.en hd))) Bool.noConfusion
      · exact ⟨_, hm, hctx.symm, hen ▸ hon⟩
    · exact ⟨x, hm, rfl, hon⟩
  contexts _ := ⟨rfl, rfl, rfl⟩
  seqkill := rfl

/-- A context entry changed, and not what says that it is in being. -/
theorem setContext {s : State} {c : Nat} {e : Context} (hv : e.v = (s.context c).v) (hb : e.busy = (s.context c).busy)
    (hk : e.killed = (s.context c).killed) : s.NothingNew (s.setContext c e) where
  launches x hx := ⟨x, hx, rfl⟩
  bindings x hx _ := ⟨x, hx, rfl, rfl⟩
  queues x hx hen := ⟨x, hx, rfl, hen⟩
  contexts d := by
    unfold State.context State.setContext
    by_cases h : d = c
    · rw [h, Sparse.get_set_same]
      exact ⟨hv, hb, hk⟩
    · rw [Sparse.get_set_ne _ _ _ h]
      exact ⟨rfl, rfl, rfl⟩
  seqkill := rfl

theorem mapThread (s : State) (q r : Nat) (f : Thread → Thread) : s.NothingNew (s.mapThread q r f) := by
  have hset : s.NothingNew (s.setThread q r (f (s.thread q r))) := of_eq rfl rfl rfl rfl rfl
  unfold State.mapThread
  dsimp only
  split
  · exact hset.trans (setSeq (s := s.setThread q r (f (s.thread q r))) rfl)
  · exact hset

end State.NothingNew

/-! ## Memory (R70, R93, R107, R136) -/

theorem State.diesApart.nothingNew {s t : State} (h : s.diesApart t) : s.NothingNew t := by
  unfold State.diesApart at h
  rw [h]
  exact .of_eq rfl rfl rfl rfl rfl

theorem State.physWrite_nothingNew (s : State) (pa : Nat) (bs : List Byte) (key : Option (BitVec 512)) :
    s.NothingNew (s.physWrite pa bs key) := by
  rw [State.physWrite_frame]
  exact .of_eq rfl rfl rfl rfl rfl

theorem State.applyHome_nothingNew (s : State) (f : Flight) : s.NothingNew (s.applyHome f) := by
  rw [State.applyHome_frame]
  exact .of_eq rfl rfl rfl rfl rfl

theorem State.applyFlight_nothingNew (s : State) (f : Flight) : s.NothingNew (s.applyFlight f) := by
  unfold State.applyFlight
  split
  · exact s.applyHome_nothingNew f
  · next o _ =>
    obtain ⟨stamp, threads, cores, bolts, happly⟩ := s.applyBolt_eq f o
    rw [happly]
    exact (s.applyHome_nothingNew _).trans (.of_eq rfl rfl rfl rfl rfl)

theorem State.drainPass_nothingNew (s : State) : s.NothingNew s.drainPass := by
  refine .foldl (fun t f => .ite ?_ (.refl t)) _ s
  exact .trans (t := { t with flights := t.flights.filter fun g => g.id ≠ f.id }) (.of_eq rfl rfl rfl rfl rfl)
    (State.applyFlight_nothingNew _ f)

theorem State.drainN_nothingNew (n : Nat) (s : State) : s.NothingNew (State.drainN n s) := by
  induction n generalizing s with
  | zero => exact .refl s
  | succ n ih => exact .ite (.refl s) (s.drainPass_nothingNew.trans (ih _))

theorem State.drain_nothingNew (s : State) : s.NothingNew s.drain :=
  (State.drainN_nothingNew _ s).trans
    (.foldl (fun t _ => ((t.diesApart_settleDie _ _).trans (State.diesApart_settleDie _ _ _)).nothingNew) _ _)

theorem State.startCollapse_nothingNew (s : State) (pa : Nat) : s.NothingNew (s.startCollapse pa) := by
  unfold State.startCollapse
  split
  · exact .ite (.of_eq rfl rfl rfl rfl rfl) (.refl s)
  · exact .refl s

theorem State.sendFlight_nothingNew (s : State) (f : Flight) : s.NothingNew (s.sendFlight f) := by
  unfold State.sendFlight
  dsimp only
  generalize (s.holders f.pa != 0 || (s.collapsing f.pa).isSome) = held
  have hheld : s.NothingNew (if held = true then s.startCollapse f.pa else s) :=
    .ite (s.startCollapse_nothingNew f.pa) (.refl s)
  generalize (if held = true then s.startCollapse f.pa else s) = u at hheld ⊢
  have hsent (fs : List Flight) : u.NothingNew { u with flights := fs } := .of_eq rfl rfl rfl rfl rfl
  exact hheld.trans (.ite (u.applyFlight_nothingNew _) (.ite (hsent _) ((hsent _).trans (State.drain_nothingNew _))))

theorem State.inject_nothingNew (s : State) (die : Nat) (front : Stamp) (pa : Nat) (bs : List Byte) (key : BitVec 512)
    (rel seq : Option Nat) : s.NothingNew (s.inject die front pa bs key rel seq).2 := by
  unfold State.inject State.injectCells State.takeStamp State.fresh
  dsimp only
  refine .trans ?_ (State.sendFlight_nothingNew _ _)
  exact .of_eq rfl rfl rfl rfl rfl

theorem State.boltSend_nothingNew (s : State) (die : Nat) (front : Stamp) (pa : Nat) (o : BoltOp) (key : BitVec 512)
    (rel seq : Option Nat) : s.NothingNew (s.boltSend die front pa o key rel seq).2.2 := by
  unfold State.boltSend State.takeStamp State.fresh
  dsimp only
  refine .trans ?_ (State.sendFlight_nothingNew _ _)
  exact .of_eq rfl rfl rfl rfl rfl

theorem State.keepCopy_nothingNew (s : State) (d pa : Nat) (key : BitVec 512) (pbmt : Nat) :
    s.NothingNew (s.keepCopy d pa key pbmt) := by
  unfold State.keepCopy
  exact .ite (.of_eq rfl rfl rfl rfl rfl) (.refl s)

theorem State.readLine_nothingNew {s t : State} {d pa n pbmt : Nat} {front st : Stamp} {key : BitVec 512}
    {bs : List Byte} (h : s.readLine d front pa n key pbmt = some (bs, st, t)) : s.NothingNew t := by
  unfold State.readLine at h
  dsimp only at h
  generalize (if pbmt = 1 then homeDie pa else d) = e at h
  have hdrain : s.NothingNew (if s.dieCovers e front = true then s else s.drain) := .ite (.refl s) s.drain_nothingNew
  generalize (if s.dieCovers e front = true then s else s.drain) = u at h hdrain
  split at h
  · cases h
  · simp only [Option.some.injEq, Prod.mk.injEq] at h
    obtain ⟨-, -, rfl⟩ := h
    exact hdrain.trans (u.keepCopy_nothingNew d pa key pbmt)

theorem State.setCount_nothingNew (s : State) (die : Nat) (front : Stamp) (h : Head) (off : Nat) (v : BitVec 32)
    (rel : Option Nat) : s.NothingNew (s.setCount die front h off v rel).2 := by
  obtain ⟨d, n, f, hset, -, -, -⟩ := s.setCount_applyHome die front h off v rel
  have hcount : s.NothingNew { s.setDie die d with nextId := n } := .of_eq rfl rfl rfl rfl rfl
  rw [hset]
  exact hcount.trans (State.applyHome_nothingNew _ f)

/-! ## Translation (R34, R51) -/

theorem State.setAD_nothingNew {s t : State} {dxp e : Word} {at_ : Nat} {a : Acc} (h : s.setAD dxp e at_ a = some t) :
    s.NothingNew t := by
  unfold State.setAD at h
  split at h
  · cases h
    exact .refl s
  · split at h
    · split at h
      · cases h
        exact s.physWrite_nothingNew _ _ _
      · cases h
    · cases h
      exact s.physWrite_nothingNew _ _ _

theorem State.freshWalk_nothingNew (s : State) (die : Nat) (dxp : Word) (level : Level) (a : Acc) (va : Nat)
    (hint : Bool) : s.NothingNew (s.freshWalk die dxp level a va hint).2.2 := by
  unfold State.freshWalk
  split
  · exact .refl s
  · exact .refl s
  · exact .refl s
  · split
    · split
      · exact .refl s
      · split
        · next hset => exact State.setAD_nothingNew hset
        · exact .refl s
    · exact .refl s

theorem State.xlate_nothingNew (s : State) (core : Nat) (dxp : Word) (level : Level) (a : Acc) (va : Word) :
    s.NothingNew (s.xlate core dxp level a va).2 := by
  have hwalk := s.freshWalk_nothingNew (core / 32) dxp level a (va.toNat % 2 ^ 57) false
  unfold State.xlate
  dsimp only
  split
  · exact .refl s
  · split
    · exact .refl s
    · split
      · next hw =>
        rw [hw] at hwalk
        split
        · exact hwalk.trans (.of_eq rfl rfl rfl rfl rfl)
        · exact hwalk
      · next hw =>
        rw [hw] at hwalk
        exact hwalk

/-! ## Accesses of an engine (R60, R99, R120) -/

/-- What an engine's computation leaves, however it ends, begins nothing new after a state. -/
def NothingNewIn {α : Type} (s : State) : EStateM.Result EngExit Eng α → Prop
  | .ok _ e => s.NothingNew e.s
  | .error _ e => s.NothingNew e.s

theorem nothingNewIn_ok {α : Type} {s t : State} {x : α} {front cap wrote : Stamp} {n made : Nat} {past : List Nat}
    (h : s.NothingNew t) : NothingNewIn s (.ok x ⟨t, front, n, cap, wrote, past, made⟩) := h
theorem nothingNewIn_error {α : Type} {s t : State} {x : EngExit} {front cap wrote : Stamp} {n made : Nat}
    {past : List Nat} (h : s.NothingNew t) :
    NothingNewIn s (.error x ⟨t, front, n, cap, wrote, past, made⟩ : EStateM.Result EngExit Eng α) := h

/-- A computation of an engine begins nothing new. -/
def E.NothingNew {α : Type} (act : E α) : Prop := ∀ e : Eng, NothingNewIn e.s (act e)

namespace E.NothingNew

theorem of_ok {α : Type} {act : E α} (h : act.NothingNew) {e e' : Eng} {x : α} (he : act e = .ok x e') :
    e.s.NothingNew e'.s := by
  have := h e
  rwa [he] at this

theorem of_error {α : Type} {act : E α} (h : act.NothingNew) {e e' : Eng} {x : EngExit} (he : act e = .error x e') :
    e.s.NothingNew e'.s := by
  have := h e
  rwa [he] at this

theorem pure {α : Type} (x : α) : E.NothingNew (Pure.pure x : E α) := fun e => .refl e.s
theorem eEnd {α : Type} (c : Nat) : E.NothingNew (Machine.eEnd c : E α) := fun e => .refl e.s
theorem eState : E.NothingNew Machine.eState := fun e => .refl e.s

theorem bind {α β : Type} {a : E α} {f : α → E β} (ha : a.NothingNew) (hf : ∀ x, (f x).NothingNew) :
    E.NothingNew (a >>= f) := by
  intro e
  cases hs : a e with
  | ok x e' =>
    have hbind : (a >>= f) e = f x e' := by simp only [Bind.bind, EStateM.bind, hs]
    rw [hbind]
    cases hr : f x e' with
    | ok y e'' => exact (ha.of_ok hs).trans ((hf x).of_ok hr)
    | error y e'' => exact (ha.of_ok hs).trans ((hf x).of_error hr)
  | error x e' =>
    have hbind : (a >>= f) e = .error x e' := by simp only [Bind.bind, EStateM.bind, hs]
    rw [hbind]
    exact ha.of_error hs

theorem ite {α : Type} {c : Prop} [Decidable c] {a b : E α} (ha : a.NothingNew) (hb : b.NothingNew) :
    E.NothingNew (if c then a else b) := by
  split
  · exact ha
  · exact hb

theorem eOnce {act : E Nat} (h : act.NothingNew) : E.NothingNew (Machine.eOnce act) := by
  intro e
  unfold Machine.eOnce
  split
  · exact .refl e.s
  · split
    · next hs => exact nothingNewIn_ok (h.of_ok hs)
    · next hs => exact h.of_error hs

theorem eTarget (p : Party) (w : Bool) (rem : Nat) (va : Word) (size : Nat) :
    E.NothingNew (Machine.eTarget p w rem va size) := by
  intro e
  have hx := e.s.xlate_nothingNew p.core p.dxp p.level ⟨if w then 11 else 10, !w, w, false, false, false, size⟩ va
  unfold Machine.eTarget
  dsimp only
  generalize e.s.xlate p.core p.dxp p.level _ va = r at hx ⊢
  obtain ⟨x, u⟩ := r
  split
  · exact .refl e.s
  · cases x with
    | ok | page | access | wait => exact hx

theorem eReadAt (p : Party) (rem : Nat) (va : Word) (n : Nat) : E.NothingNew (Machine.eReadAt p rem va n) := by
  refine bind (eTarget p false rem va n) fun t e => ?_
  split
  · exact .refl e.s
  · split
    · exact .refl e.s
    · split
      · exact nothingNewIn_error e.s.drain_nothingNew
      · next hline => exact nothingNewIn_ok (State.readLine_nothingNew hline)

theorem eWriteAt (p : Party) (rem : Nat) (va : Word) (bs : List Byte) (rel : Option Nat) :
    E.NothingNew (Machine.eWriteAt p rem va bs rel) := by
  refine bind (eTarget p true rem va bs.length) fun t e => ?_
  split
  · exact .of_eq rfl rfl rfl rfl rfl
  · split
    · exact .refl e.s
    · split
      · exact nothingNewIn_error e.s.drain_nothingNew
      · exact nothingNewIn_ok (e.s.inject_nothingNew p.die e.cap t.pa bs _ rel none)

theorem eRead (p : Party) (rem : Nat) (va : Word) (n : Nat) : E.NothingNew (Machine.eRead p rem va n) :=
  bind (eOnce (bind (eReadAt p rem va n) fun _ => pure _)) fun _ => pure _

theorem eWrite (p : Party) (rem : Nat) (va : Word) (bs : List Byte) (rel : Option Nat) :
    E.NothingNew (Machine.eWrite p rem va bs rel) :=
  bind (eOnce (bind (eWriteAt p rem va bs rel) fun _ => pure _)) fun _ => pure _

theorem eReadAll_go (p : Party) (after fuel : Nat) (va : Word) (n : Nat) :
    E.NothingNew (Machine.eReadAll.go p after fuel va n) := by
  induction fuel generalizing va n with
  | zero => exact pure _
  | succ fuel ih => exact ite (pure _) (bind (eRead p _ va _) fun _ => bind (ih _ _) fun _ => pure _)

theorem eReadAll (p : Party) (va : Word) (n after : Nat) : E.NothingNew (Machine.eReadAll p va n after) :=
  eReadAll_go p after n va n

theorem eDword (p : Party) (va : Word) (rem : Nat) : E.NothingNew (Machine.eDword p va rem) :=
  bind (eRead p rem va 8) fun _ => pure _

theorem eSetDword (p : Party) (va v : Word) (rel : Option Nat) (rem : Nat) :
    E.NothingNew (Machine.eSetDword p va v rel rem) := eWrite p rem va _ rel

theorem eSettled : E.NothingNew Machine.eSettled := by
  intro e
  have hdrain : e.s.NothingNew (if e.s.settled then e.s else e.s.drain) := .ite (.refl _) e.s.drain_nothingNew
  unfold Machine.eSettled
  dsimp only
  generalize (if e.s.settled then e.s else e.s.drain) = u at hdrain ⊢
  split
  · exact hdrain
  · exact hdrain

/-- A computation that a check may end. -/
theorem orEnd {α : Type} {c : Prop} [Decidable c] {n : Nat} {k : Unit → E α} (hk : ∀ u, (k u).NothingNew) :
    E.NothingNew (if c then Machine.eEnd n >>= k else k ()) := ite (bind (eEnd n) hk) (hk ())

theorem eBolt (p : Party) (va : Word) (op n : Nat) (rel : Option Nat) : E.NothingNew (Machine.eBolt p va op n rel) := by
  refine orEnd fun _ => bind eSettled fun _ => eOnce (bind (fun e => ?_) fun t e => ?_)
  · split
    · next hs => exact (eTarget p true 16 va 16).of_error hs
    · exact eTarget p true 16 va 16 e
  · split
    · exact .refl e.s
    · split
      · exact .refl e.s
      · split
        · exact nothingNewIn_error e.s.drain_nothingNew
        · exact nothingNewIn_ok (e.s.boltSend_nothingNew p.die e.cap t.pa _ _ rel none)

end E.NothingNew

end Sys2Proof.Machine

end

section
/-! SUPPORT. Graphs, tickets and completions (O58): what a walker does for a graph (R144 to R148), and how a command, a
packet or a graph that has ended is reported (R366, R367, R388), begins nothing new. -/

namespace Sys2Proof.Machine

/-! ## What the driver and the issuers are told (R367, R388, R427) -/

theorem State.event_nothingNew (s : State) (kind die core slot code : Nat) (data addr aux : Word) :
    s.NothingNew (s.event kind die core slot code data addr aux) := by
  obtain ⟨_, _, _, _, _, _, _, _, hevent⟩ := s.event_frame kind die core slot code data addr aux
  rw [hevent]
  exact .of_eq rfl rfl rfl rfl rfl

theorem State.raiseFrontier_nothingNew (s : State) (c : Nat) (st : Stamp) : s.NothingNew (s.raiseFrontier c st) :=
  .of_eq rfl rfl rfl rfl rfl

theorem State.setDie_nothingNew (s : State) (d : Nat) (v : Die) : s.NothingNew (s.setDie d v) :=
  .of_eq rfl rfl rfl rfl rfl

theorem fillTicket_nothingNew (id : Nat) (v : Word) (front : Stamp) (s : State) :
    s.NothingNew (fillTicket id v front s) := by
  refine .foldl (fun t x => .ite ?_ (.refl t)) _ s
  exact .trans (.mapThread t _ _ _) (State.raiseFrontier_nothingNew _ _ _)

theorem State.finishTicket_nothingNew (s : State) (id : Nat) (v : Word) (front : Stamp) (ticket : Nat) (err : Bool)
    (issuer : Option (Nat × Nat)) (die core : Nat) (pc : Word) :
    s.NothingNew (s.finishTicket id v front ticket err issuer die core pc) := by
  refine .ite (.of_eq rfl rfl rfl rfl rfl) (.ite (fillTicket_nothingNew id v front s) (.ite (.refl s) ?_))
  cases issuer with
  | none => exact s.event_nothingNew _ _ _ _ _ _ _ _
  | some i => exact .mapThread s _ _ _

theorem Completion.write_nothingNew (c : Completion) (p : Party) : E.NothingNew (c.write p) :=
  .bind (.eTarget p true 16 _ 16) fun _ => .orEnd fun _ => .bind (.eWrite p 8 _ _ none) fun _ =>
    .eWrite p 8 _ _ (some 4)

theorem State.completionGo_nothingNew (s : State) (c : Completion) : s.NothingNew (s.completionGo c) := by
  have htold (u : State) : u.NothingNew (if c.irq then u.raiseVector c.vec else u) :=
    .ite (.of_eq rfl rfl rfl rfl rfl) (.refl u)
  have hlater (u : State) (cs : List Completion) : u.NothingNew { u with completions := cs } :=
    .of_eq rfl rfl rfl rfl rfl
  have hwrite := c.write_nothingNew ⟨c.die, 32 * c.die, c.dxp, .supervisor⟩
  unfold State.completionGo
  dsimp only
  split
  · exact .ite (htold s) (hlater s _)
  · have hdrain := s.drain_nothingNew
    generalize s.drain = u at hdrain ⊢
    refine .ite (htold s) ?_
    split
    · next hs =>
      exact hdrain.trans ((hwrite.of_ok hs).trans ((State.setDie_nothingNew _ _ _).trans (.ite (htold _) (hlater _ _))))
    · next hs => exact hdrain.trans ((hwrite.of_error hs).trans (hlater _ _))
    · exact (s.event_nothingNew _ _ _ _ _ _ _ _).trans (htold _)

theorem State.completePacket_nothingNew (s : State) (q : Nat) (idx : BitVec 32) (status : Nat) (info : Word) :
    s.NothingNew (s.completePacket q idx status info) := by
  unfold State.completePacket
  dsimp only
  split
  · exact .refl s
  · exact (s.completionGo_nothingNew _).trans (.setQueue rfl rfl)

/-! ## Walkers (R144 to R148) -/

/-- The module once a walker has worked. -/
def Walked.state {α : Type} : Walked α → State
  | .done _ s => s
  | .fault s => s
  | .wait s => s

theorem State.walk_nothingNew {α : Type} (s : State) (g : Graph) {act : E α} (h : act.NothingNew) :
    s.NothingNew (s.walk g act).state := by
  have hput (u : State) (gs : List Graph) : u.NothingNew { u with graphs := gs } := .of_eq rfl rfl rfl rfl rfl
  have hkeep (u : State) (d : Nat) (v : Die) (gs : List Graph) : u.NothingNew { u.setDie d v with graphs := gs } :=
    .of_eq rfl rfl rfl rfl rfl
  unfold State.walk
  dsimp only
  split
  · exact hput s _
  · split
    · exact .refl s
    · split
      · next hs => exact (h.of_ok hs).trans (hkeep _ _ _ _)
      · next hs => exact (h.of_error hs).trans (hkeep _ _ _ _)
      · next hs =>
        split
        · exact (h.of_error hs).trans (hkeep _ _ _ _)
        · exact (h.of_error hs).trans (hkeep _ _ _ _)
      · next hs => exact (h.of_error hs).trans (hkeep _ _ _ _)

theorem State.setGraph_nothingNew (s : State) (g : Graph) : s.NothingNew (s.setGraph g) := .of_eq rfl rfl rfl rfl rfl

theorem State.setUnitQueue_nothingNew (s : State) (u : Nat) (l : List Command) : s.NothingNew (s.setUnitQueue u l) := by
  unfold State.setUnitQueue
  exact .ite (.of_eq rfl rfl rfl rfl rfl) (.ite (.of_eq rfl rfl rfl rfl rfl)
    (.ite (.of_eq rfl rfl rfl rfl rfl) (.of_eq rfl rfl rfl rfl rfl)))

theorem nodeRead_nothingNew (g : Graph) (n : Nat) : E.NothingNew (nodeRead g n) := by
  unfold nodeRead
  refine .bind (.eReadAll _ _ _ _) fun bs => .bind .eState fun s => ?_
  have harrive := E.NothingNew.eBolt g.party (dwordOf bs 0x40) 2 (fld (dwordOf bs 0x48) 47 0) (some 4)
  refine .ite (.bind (.eSetDword _ _ _ _ _) fun _ => .ite (.bind ?_ fun _ => .pure _) (.pure _))
    (.ite (.bind ?_ fun _ => .pure _) (.pure _))
  all_goals
    intro e
    dsimp only
    split
    · next hs => exact nothingNewIn_ok (harrive.of_ok hs)
    · next hs => exact nothingNewIn_ok (harrive.of_error hs)
    · next hs =>
      split
      · exact nothingNewIn_ok (harrive.of_error hs)
      · exact nothingNewIn_error (harrive.of_error hs)

theorem State.startNode_nothingNew (s : State) (g : Graph) (n : Nat) (bs : List Byte) (arrive : Option Nat) :
    s.NothingNew (s.startNode g n bs arrive) := by
  have hfresh : s.NothingNew s.fresh.2 := .of_eq rfl rfl rfl rfl rfl
  have hqueue (u : State) (h : Graph) (k : Nat) (l : List Command) : u.NothingNew ((u.setGraph h).setUnitQueue k l) :=
    (u.setGraph_nothingNew h).trans (State.setUnitQueue_nothingNew _ k l)
  unfold State.startNode
  dsimp only
  refine hfresh.trans ?_
  generalize s.fresh.2 = u
  refine .ite (hqueue _ _ _ _) (.ite ?_ (.ite ?_ (.ite ?_ (.ite ?_ (u.setGraph_nothingNew _)))))
  · split
    · exact hqueue _ _ _ _
    · exact u.setGraph_nothingNew _
  · exact (u.setGraph_nothingNew _).trans (State.setDie_nothingNew _ _ _)
  · split
    · exact u.setGraph_nothingNew _
    · exact u.setGraph_nothingNew _
  · have hvector (v : State) (i : Nat) : v.NothingNew (v.raiseVector i) := .of_eq rfl rfl rfl rfl rfl
    exact (u.event_nothingNew _ _ _ _ _ _ _ _).trans ((hvector _ _).trans (State.setGraph_nothingNew _ _))

theorem State.graphTask_nothingNew (s : State) (g : Graph) (task : GraphTask) (rest : List GraphTask) :
    s.NothingNew (s.graphTask g task rest).2 := by
  unfold State.graphTask
  dsimp only
  split
  · exact s.setGraph_nothingNew _
  · cases task with
    | init n =>
      dsimp only
      generalize hw : s.walk g _ = w
      have hwalk : s.NothingNew w.state := hw ▸ s.walk_nothingNew g
        (.bind (.eDword _ _ _) fun _ => .bind (.eDword _ _ _) fun _ => .bind (.eSetDword _ _ _ _ _) fun _ =>
          .bind (.eSetDword _ _ _ _ _) fun _ => .pure _)
      cases w with
      | done r t => exact hwalk.trans (t.setGraph_nothingNew _)
      | fault t => exact hwalk.trans (t.setGraph_nothingNew _)
      | wait t => exact hwalk
    | first =>
      dsimp only
      split
      · exact s.setGraph_nothingNew _
      · exact s.setGraph_nothingNew _
    | dispatch n =>
      dsimp only
      generalize hw : s.walk g _ = w
      have hwalk : s.NothingNew w.state := hw ▸ s.walk_nothingNew g (nodeRead_nothingNew g n)
      cases w with
      | done r t => exact hwalk.trans (t.startNode_nothingNew _ _ _ _)
      | fault t =>
        dsimp only
        split
        · exact hwalk.trans (t.setGraph_nothingNew _)
        · exact hwalk.trans (t.setGraph_nothingNew _)
      | wait t => exact hwalk
    | finish n status bad =>
      dsimp only
      generalize hw : s.walk g _ = w
      have hwalk : s.NothingNew w.state := hw ▸ s.walk_nothingNew g
        (.bind (.eReadAll _ _ _ _) fun _ => .bind (.eSetDword _ _ _ _ _) fun _ =>
          .bind (.eSetDword _ _ _ _ _) fun _ => .pure _)
      cases w with
      | done bs t =>
        dsimp only
        split
        · exact hwalk.trans (t.setGraph_nothingNew _)
        · exact hwalk.trans (t.setGraph_nothingNew _)
      | fault t => exact hwalk.trans (t.setGraph_nothingNew _)
      | wait t => exact hwalk
    | succ n m =>
      dsimp only
      split
      · exact s.setGraph_nothingNew _
      · generalize hw : s.walk g _ = w
        have hwalk : s.NothingNew w.state := hw ▸ s.walk_nothingNew g
          (.bind (.eDword _ _ _) fun _ => .ite (.bind (.eSetDword _ _ _ _ _) fun _ => .pure _) (.pure _))
        split
        · exact hwalk.trans (State.setGraph_nothingNew _ _)
        · exact hwalk.trans (State.setGraph_nothingNew _ _)
        · exact hwalk.trans (State.setGraph_nothingNew _ _)
        · exact hwalk.trans (State.setGraph_nothingNew _ _)
        · exact hwalk
    | check => exact s.setGraph_nothingNew _

theorem State.graphTasks_nothingNew (fuel gid : Nat) (s : State) : s.NothingNew (s.graphTasks gid fuel) := by
  induction fuel generalizing s with
  | zero => exact .refl s
  | succ fuel ih =>
    unfold State.graphTasks
    split
    · exact .refl s
    · next g _ =>
      split
      · exact .refl s
      · next task rest _ =>
        have htask := s.graphTask_nothingNew g task rest
        split
        · next hs =>
          rw [hs] at htask
          exact htask.trans (ih _)
        · next hs =>
          rw [hs] at htask
          exact htask

theorem State.graphTicket_nothingNew (s : State) (g : Graph) (v : Word) (err : Bool) :
    s.NothingNew (s.graphTicket g v err) := by
  unfold State.graphTicket
  split
  · exact (s.setDie_nothingNew _ _).trans (State.completePacket_nothingNew _ _ _ _ _)
  · exact s.finishTicket_nothingNew _ _ _ _ _ _ _ _ _

theorem eSetTwice_nothingNew (p : Party) (va v w : Word) : E.NothingNew (do
    eSetDword p va v none
    eSettled
    eSetDword p va w (some 4)) :=
  .bind (.eSetDword _ _ _ _ _) fun _ => .bind .eSettled fun _ => .eSetDword _ _ _ _ _

theorem eArrive_nothingNew (p : Party) (va : Word) : E.NothingNew (do
    let b ← eDword p va
    if b ≠ 0 then
      let _ ← eBolt p b 2 0 (some 4)) :=
  .bind (.eDword _ _ _) fun _ => .ite (.bind (.eBolt _ _ _ _ _) fun _ => .pure _) (.pure _)

/-- The accesses of a graph's end begin nothing new, made or left out. -/
theorem graphFin_nothingNew (g : Graph) (code k : Nat) : E.NothingNew (graphFin g code k) := by
  unfold graphFin
  refine .bind (fun e => ?_) fun _ e => ?_
  · dsimp only
    split
    · next hs => exact nothingNewIn_ok ((eSetTwice_nothingNew _ _ _ _).of_error hs)
    · next hs =>
      split
      · exact nothingNewIn_ok ((eSetTwice_nothingNew _ _ _ _).of_error hs)
      · exact nothingNewIn_error ((eSetTwice_nothingNew _ _ _ _).of_error hs)
    · exact eSetTwice_nothingNew _ _ _ _ e
  · dsimp only
    split
    · next hs => exact nothingNewIn_ok ((eArrive_nothingNew _ _).of_error hs)
    · next hs =>
      split
      · exact nothingNewIn_ok ((eArrive_nothingNew _ _).of_error hs)
      · exact nothingNewIn_error ((eArrive_nothingNew _ _).of_error hs)
    · exact eArrive_nothingNew _ _ e

theorem State.endGraph_nothingNew (s : State) (gid : Nat) : s.NothingNew (s.endGraph gid) := by
  have hgraphs (t : State) (gs : List Graph) : t.NothingNew { t with graphs := gs } := .of_eq rfl rfl rfl rfl rfl
  unfold State.endGraph
  split
  · exact .refl s
  · next g _ =>
    split
    · exact .refl s
    · next code k _ =>
      refine .ite (.refl s) ?_
      generalize hw : s.walk _ _ = w
      have hwalk : s.NothingNew w.state := hw ▸ s.walk_nothingNew _ (graphFin_nothingNew g code k)
      cases w with
      | done r t => exact hwalk.trans ((hgraphs t _).trans (State.graphTicket_nothingNew _ _ _ _))
      | fault t => exact hwalk.trans ((hgraphs t _).trans (State.graphTicket_nothingNew _ _ _ _))
      | wait t => exact hwalk

theorem State.runGraph_nothingNew (s : State) (gid : Nat) : s.NothingNew (s.runGraph gid) := by
  unfold State.runGraph
  dsimp only
  generalize hu : s.graphTasks gid _ = u
  have hwork : s.NothingNew u := hu ▸ State.graphTasks_nothingNew _ gid s
  split
  · exact hwork.trans (.ite (u.endGraph_nothingNew gid) (.refl u))
  · exact hwork

end Sys2Proof.Machine

end

section
/-! SUPPORT. What is ended (O58): engine commands and graphs of a context, and a sequencer killed (R381, R428). A
sequencer killed is bound to nothing, and nothing new begins. -/

namespace Sys2Proof.Machine

/-! ## Engine commands and graphs (R366, R381) -/

theorem State.retireCommand_nothingNew (s : State) (u : Nat) (c : Command) : s.NothingNew (s.retireCommand u c) := by
  have hgraphs (t : State) (gs : List Graph) : t.NothingNew { t with graphs := gs } := .of_eq rfl rfl rfl rfl rfl
  have hfollow (q : Nat) (l : List Nat) : s.NothingNew (s.setSeq q { s.seq q with follow := l }) := .setSeq rfl
  unfold State.retireCommand
  dsimp only
  cases c.node
  case' some =>
    refine .trans ?_ (hgraphs _ _)
    split
    case' h_1 => refine .trans ?_ (State.setDie_nothingNew _ _ _)
  case' none =>
    cases c.queue
    case' some => refine .trans ?_ (.trans (State.setDie_nothingNew _ _ _) (State.completePacket_nothingNew _ _ _ _ _))
    case' none => refine .trans ?_ (State.finishTicket_nothingNew _ _ _ _ _ _ _ _ _ _)
  -- what is left is the follow-on of a copy: its sequencer's list of them, and the flags of its issuer
  all_goals
    split
    · exact .ite (.ite ((hfollow _ _).trans (.mapThread _ _ _ _)) (hfollow _ _)) (.refl s)
    · exact .refl s

theorem State.endCommands_nothingNew (ctx u : Nat) (s : State) : s.NothingNew (s.endCommands ctx u) := by
  unfold State.endCommands
  dsimp only
  refine .ite (.refl s) ?_
  refine .trans ?_ (.foldl (fun t c => t.retireCommand_nothingNew u _) _ _)
  exact .ite ((s.setUnitQueue_nothingNew u _).trans (State.setDie_nothingNew _ _ _)) (s.setUnitQueue_nothingNew u _)

theorem State.withdrawGraph_nothingNew (s : State) (g : Graph) : s.NothingNew (s.withdrawGraph g) := by
  unfold State.withdrawGraph
  split
  · exact s.setDie_nothingNew _ _
  · exact .refl s

theorem State.killGraph_nothingNew (s : State) (id : Nat) : s.NothingNew (s.killGraph id) := by
  unfold State.killGraph
  split
  · next g _ =>
    exact .ite (s.runGraph_nothingNew id) ((s.withdrawGraph_nothingNew g).trans
      ((State.setGraph_nothingNew _ _).trans (State.runGraph_nothingNew _ id)))
  · exact .refl s

/-! ## Claims freed (R70, R169) -/

theorem State.answered_nothingNew (s : State) (page holder : Nat) : s.NothingNew (s.answered page holder) := by
  have hover : s.NothingNew (s.collapseOver page holder) := by
    rw [State.collapseOver, State.dropHolder_frame]
    exact .of_eq rfl rfl rfl rfl rfl
  rw [State.answered_eq]
  exact .ite (.ite hover (hover.trans (State.drain_nothingNew _))) (.of_eq rfl rfl rfl rfl rfl)

theorem State.collapseNow_nothingNew (s : State) (pa : Nat) : s.NothingNew (s.collapseNow pa) := by
  refine .ite (.refl s) ((s.startCollapse_nothingNew pa).trans (.foldl (fun t h => ?_) _ _))
  split
  · refine .ite (.trans ?_ (State.answered_nothingNew _ _ _)) (.refl t)
    split
    · exact (State.dropPage_apart t _ _ _).nothingNew.trans (State.setDie_nothingNew _ _ _)
    · exact .refl t
  · exact .refl t

theorem State.advanceFree_nothingNew (n : Nat) (s : State) : s.NothingNew (State.advanceFree n s) := by
  have hfreed (t : State) (l : List Claim) : t.NothingNew { t with freed := l } := .of_eq rfl rfl rfl rfl rfl
  induction n generalizing s with
  | zero => exact .refl s
  | succ n ih =>
    unfold State.advanceFree
    split
    · exact (s.setCount_nothingNew _ _ _ _ _ _).trans ((hfreed _ _).trans (ih _))
    · exact .refl s

theorem State.freeClaims_nothingNew (s : State) (l : List Claim) : s.NothingNew (s.freeClaims l) := by
  have hfreed (l : List Claim) : s.NothingNew { s with freed := l } := .of_eq rfl rfl rfl rfl rfl
  exact (hfreed _).trans ((State.advanceFree_nothingNew _ _).trans
    (.foldl (fun t c => t.startCollapse_nothingNew _) _ _))

/-! ## Objects that nothing needs any more (R236) -/

theorem State.unmap_nothingNew (s : State) (dxp va : Word) : s.NothingNew (s.unmap dxp va) := by
  unfold State.unmap
  split
  · exact s.physWrite_nothingNew _ _ _
  · exact .refl s

theorem State.unmapAll_nothingNew (s : State) (dxp : Word) (l : List Object) :
    s.NothingNew (l.foldl (fun s o => o.pages.foldl (fun s va => s.unmap dxp va) s) s) :=
  .foldl (fun t o => .foldl (fun t va => t.unmap_nothingNew dxp va) o.pages t) l s

theorem State.reap_nothingNew (s : State) (ctx : Nat) : s.NothingNew (s.reap ctx) := by
  have hunmap := s.unmapAll_nothingNew (s.context ctx).dxp
  unfold State.reap
  dsimp only
  refine .ite (.refl s) ((hunmap _).trans (.trans (.setContext ?_ ?_ ?_) (.of_eq rfl rfl rfl rfl rfl)))
  · exact ((hunmap _).contexts ctx).1.symm
  · exact ((hunmap _).contexts ctx).2.1.symm
  · exact ((hunmap _).contexts ctx).2.2.symm

/-- The sequencers, the threads and the graphs are unchanged. -/
def State.GraphsKept (s t : State) : Prop := t.seqs = s.seqs ∧ t.threads = s.threads ∧ t.graphs = s.graphs

theorem State.GraphsKept.trans {s t u : State} (h : s.GraphsKept t) (h' : t.GraphsKept u) : s.GraphsKept u :=
  ⟨h'.1.trans h.1, h'.2.1.trans h.2.1, h'.2.2.trans h.2.2⟩

theorem State.unmap_graphsKept (s : State) (dxp va : Word) : s.GraphsKept (s.unmap dxp va) := by
  unfold State.unmap
  split
  · rw [State.physWrite_frame]
    exact ⟨rfl, rfl, rfl⟩
  · exact ⟨rfl, rfl, rfl⟩

theorem State.reap_graphsKept (s : State) (ctx : Nat) : s.GraphsKept (s.reap ctx) := by
  unfold State.reap
  dsimp only
  split
  · exact ⟨rfl, rfl, rfl⟩
  · refine List.foldlRecOn (motive := s.GraphsKept) _ _ ⟨rfl, rfl, rfl⟩ fun t ht o _ => ?_
    exact List.foldlRecOn (motive := s.GraphsKept) _ _ ht fun u hu va _ => hu.trans (u.unmap_graphsKept _ va)

/-! ## Barriers left (R150) -/

theorem State.peerTraffic_frame (s : State) :
    s.peerTraffic = { s with free := s.peerTraffic.free, dies := s.peerTraffic.dies } := by
  unfold State.peerTraffic
  refine List.foldlRecOn (motive := fun t : State => t = { s with free := t.free, dies := t.dies }) _ _ rfl
    fun t ht p _ => ?_
  dsimp only
  split
  · exact ht
  · rw [ht]

/-- A barrier that completes changes the arrivals of sequencers, and of what is saved. -/
theorem State.completeBarrier_keeps (s : State) (level unit launch : Nat) :
    s.NothingNew (s.completeBarrier level unit launch) ∧
    (s.completeBarrier level unit launch).seqs.map (·.1) = s.seqs.map (·.1) ∧
    (s.completeBarrier level unit launch).threads = s.threads := by
  unfold State.completeBarrier
  refine ⟨⟨fun x hx => ⟨x, hx, rfl⟩, fun x hx _ => ?_, fun x hx hen => ⟨x, hx, rfl, hen⟩, fun _ => ⟨rfl, rfl, rfl⟩,
    rfl⟩, ?_, rfl⟩
  · obtain ⟨y, hy, rfl⟩ := List.mem_map.1 hx
    refine ⟨y, hy, ?_⟩
    dsimp only
    split
    · exact ⟨rfl, rfl⟩
    · exact ⟨rfl, rfl⟩
  · dsimp only
    rw [List.map_map]
    refine List.map_congr_left fun y _ => ?_
    dsimp only [Function.comp_apply]
    split
    · rfl
    · rfl

/-- A completion test binds no sequencer, unbinds none, and changes no thread. -/
theorem State.testBarrier_keeps (s : State) (level unit launch : Nat) :
    s.NothingNew (s.testBarrier level unit launch) ∧
    (s.testBarrier level unit launch).seqs.map (·.1) = s.seqs.map (·.1) ∧
    (s.testBarrier level unit launch).threads = s.threads := by
  unfold State.testBarrier
  split
  · exact ⟨.refl s, rfl, rfl⟩
  · split
    · generalize ht : State.peerTraffic _ = t
      have htraffic : s.NothingNew t ∧ t.seqs = s.seqs ∧ t.threads = s.threads := by
        rw [← ht, State.peerTraffic_frame]
        exact ⟨.of_eq rfl rfl rfl rfl rfl, rfl, rfl⟩
      obtain ⟨hnew, hseqs, hthreads⟩ := htraffic
      dsimp only
      split
      · obtain ⟨hnew', hkeys, hthreads'⟩ := t.completeBarrier_keeps level unit launch
        exact ⟨hnew.trans hnew', hkeys.trans (by rw [hseqs]), hthreads'.trans hthreads⟩
      · exact ⟨hnew, by rw [hseqs], hthreads⟩
    · exact s.completeBarrier_keeps level unit launch

theorem State.testBarriers_keeps (s : State) : s.NothingNew s.testBarriers ∧
    s.testBarriers.seqs.map (·.1) = s.seqs.map (·.1) ∧ s.testBarriers.threads = s.threads := by
  unfold State.testBarriers
  refine List.foldlRecOn (motive := fun t : State => s.NothingNew t ∧ t.seqs.map (·.1) = s.seqs.map (·.1) ∧
    t.threads = s.threads) _ _ ⟨.refl s, rfl, rfl⟩ fun t ht b _ => ?_
  obtain ⟨hnew, hkeys, hthreads⟩ := ht
  obtain ⟨hnew', hkeys', hthreads'⟩ := t.testBarrier_keeps b.1 b.2.1 b.2.2
  exact ⟨hnew.trans hnew', hkeys'.trans hkeys, hthreads'.trans hthreads⟩

/-! ## A sequencer unbound (R150, R169, R289) -/

theorem State.NothingNew.mapLaunches (s : State) {f : Launch → Launch} (hf : ∀ l, (f l).ctx = l.ctx) :
    s.NothingNew { s with launches := s.launches.map f } where
  launches x hx := by
    obtain ⟨y, hy, rfl⟩ := List.mem_map.1 hx
    exact ⟨y, hy, (hf y).symm⟩
  bindings x hx _ := ⟨x, hx, rfl, rfl⟩
  queues x hx hen := ⟨x, hx, rfl, hen⟩
  contexts _ := ⟨rfl, rfl, rfl⟩
  seqkill := rfl

theorem State.disown_nothingNew (s : State) (q : Nat) : s.NothingNew (s.disown q) := .of_eq rfl rfl rfl rfl rfl

/-- What is left of an unbinding once the sequencer's claims, tickets and records are given up. -/
theorem State.unbind_eq (s : State) (q : Nat) : ∃ (t : State) (ctx : Nat), s.NothingNew t ∧
    s.unbind q = (({ t with
      seqs := t.seqs.filter (·.1 ≠ q)
      threads := t.threads.filter fun x => x.1 / 4 ≠ q }).reap ctx).testBarriers := by
  have hfront (p : Prop) [Decidable p] (l : Launch) (f : Stamp) :
      (if p then { l with front := f } else l).ctx = l.ctx := by
    split
    · rfl
    · rfl
  unfold State.unbind
  dsimp only
  refine ⟨_, _, ?_, rfl⟩
  refine .trans ?_ (State.setDie_nothingNew _ _ _)
  refine .trans ?_ (State.disown_nothingNew _ q)
  refine .trans ?_ (State.freeClaims_nothingNew _ _)
  refine .trans ?_ (.mapLaunches _ fun l => hfront _ l _)
  split
  · exact .of_eq rfl rfl rfl rfl rfl
  · exact .refl s

/-- A sequencer unbound is listed no more, and nor are its threads. -/
theorem State.unbind_spec (s : State) (q : Nat) : s.NothingNew (s.unbind q) ∧
    (∀ x ∈ (s.unbind q).seqs, x.1 ≠ q) ∧ ∀ x ∈ (s.unbind q).threads, x.1 / 4 ≠ q := by
  obtain ⟨t, ctx, hnew, hunbind⟩ := s.unbind_eq q
  generalize hu : ({ t with
    seqs := t.seqs.filter (·.1 ≠ q), threads := t.threads.filter fun x => x.1 / 4 ≠ q } : State) = u at hunbind
  have hfilter : t.NothingNew u := hu ▸ ⟨fun x hx => ⟨x, hx, rfl⟩,
    fun x hx _ => ⟨x, (List.mem_filter.1 hx).1, rfl, rfl⟩, fun x hx hen => ⟨x, hx, rfl, hen⟩,
    fun _ => ⟨rfl, rfl, rfl⟩, rfl⟩
  have hseqs : ∀ x ∈ u.seqs, x.1 ≠ q := fun x hx => by
    rw [← hu] at hx
    simpa using (List.mem_filter.1 hx).2
  have hthreads : ∀ x ∈ u.threads, x.1 / 4 ≠ q := fun x hx => by
    rw [← hu] at hx
    simpa using (List.mem_filter.1 hx).2
  obtain ⟨hreapSeqs, hreapThreads, -⟩ := u.reap_graphsKept ctx
  obtain ⟨htest, htestKeys, htestThreads⟩ := (u.reap ctx).testBarriers_keeps
  rw [hunbind]
  refine ⟨hnew.trans (hfilter.trans ((u.reap_nothingNew ctx).trans htest)), fun x hx => ?_, fun x hx => ?_⟩
  · have hkey : x.1 ∈ u.seqs.map (·.1) := by
      rw [← hreapSeqs, ← htestKeys]
      exact List.mem_map_of_mem hx
    obtain ⟨y, hy, hyx⟩ := List.mem_map.1 hkey
    exact hyx ▸ hseqs y hy
  · rw [htestThreads, hreapThreads] at hx
    exact hthreads x hx

/-- A sequencer killed is unbound, and nothing new begins. -/
theorem State.kill_spec (s : State) (q : Nat) : s.NothingNew (s.kill q) ∧
    (∀ x ∈ (s.kill q).seqs, x.1 ≠ q) ∧ ∀ x ∈ (s.kill q).threads, x.1 / 4 ≠ q := by
  have hclaims : s.NothingNew ((s.seq q).claims.foldl (fun s c => s.collapseNow c.header.pa) s) :=
    .foldl (fun t c => t.collapseNow_nothingNew _) _ s
  unfold State.kill
  dsimp only
  generalize (s.seq q).claims.foldl (fun s c => s.collapseNow c.header.pa) s = u at hclaims ⊢
  obtain ⟨hnew, hseqs, hthreads⟩ := u.unbind_spec q
  exact ⟨hclaims.trans hnew, hseqs, hthreads⟩

/-- Of sequencers killed in turn none is bound any more. -/
theorem State.killAll_spec (l : List (Nat × Seq)) (s : State) :
    s.NothingNew (l.foldl (fun s x => s.kill x.1) s) ∧
    ∀ x ∈ (l.foldl (fun s x => s.kill x.1) s).seqs, x.2.bound ≠ none → ∀ p ∈ l, x.1 ≠ p.1 := by
  induction l generalizing s with
  | nil => exact ⟨.refl s, fun _ _ _ p hp => absurd hp List.not_mem_nil⟩
  | cons p l ih =>
    obtain ⟨hnew, hseqs, -⟩ := s.kill_spec p.1
    obtain ⟨hnew', hrest⟩ := ih (s.kill p.1)
    rw [List.foldl_cons]
    refine ⟨hnew.trans hnew', fun x hx hb r hr => ?_⟩
    obtain rfl | hr := List.mem_cons.1 hr
    · obtain ⟨y, hy, hkey, -⟩ := hnew'.bindings x hx hb
      exact hkey ▸ hseqs y hy
    · exact hrest x hx hb r hr

/-! ## SEQKILL (R428) -/

/-- GO kills the sequencer that the value names, bound or halted. -/
theorem seqkill_bound {s : State} {v : Word} {n : Nat} (hready : s.ready = true)
    (hn : n = 4 * (32 * (v.toNat / 2 ^ 8 % 8) + v.toNat / 2 ^ 3 % 32) + v.toNat % 4) (hgo : v.getLsbD 63 = true)
    (hbound : (s.seq n).bound ≠ none) : Nexts (exec (.seqkill v) s) fun t =>
      t.seq n = {} ∧ t.thread n 0 = {} ∧ t.seqkill = v &&& 0x7FB#64 := by
  have hexec : exec (.seqkill v) s = .next (s.whenReady (·.seqkillWrite v)) := rfl
  have hfields : 4 * (32 * fld v 10 8 + fld v 7 3) + fld v 1 0 = n := by
    rw [hn, fld_eq, fld_eq, fld_eq]
    norm_num
  generalize hu : ({ s with seqkill := v &&& 0x7FB#64 } : State) = u
  have hwrite : s.seqkillWrite v = u.kill n := by
    unfold State.seqkillWrite
    dsimp only
    rw [hfields, hu, if_pos]
    rw [bit, hgo, Bool.true_and, Option.isSome_iff_ne_none, ← hu]
    exact hbound
  obtain ⟨hnew, hseqs, hthreads⟩ := u.kill_spec n
  rw [hexec, State.whenReady, if_pos hready, hwrite]
  refine ⟨_, rfl, Sparse.get_of_forall_ne hseqs, Sparse.get_of_forall_ne fun x hx hkey => hthreads x hx (by omega), ?_⟩
  rw [hnew.seqkill, ← hu]

end Sys2Proof.Machine

end

section
/-! SUPPORT. What the host's writes of context entries, queue blocks and apertures do (O58), each once; a tear-down
(R381) ends what its context had begun, and is done once no graph of the context is left. -/

namespace Sys2Proof.Machine

/-! ## Contexts created (R380) -/

/-- A free entry written with V = 1 is taken, where the write passes its tests. -/
theorem contextCreate_free {s : State} {c : Nat} {v : Word} (hready : s.ready = true) (hc : c < 64)
    (hboot : s.featstat.getLsbD 63 = true) (hord : v.getLsbD 62 = true → s.feature 15 = true)
    (hfree : (s.context c).v = false) : exec (.contextCreate c v) s = .next (s.setContext c { s.context c with
      v := true, ord := v.getLsbD 62, disc := 0, killed := 0, gen := 0, objects := [], symbols := [], stages := [] }) := by
  have hexec : exec (.contextCreate c v) s = .next (s.whenReady fun s =>
      if c < 64 then s.contextWrite c (v ||| 0x8000000000000000#64) else s) := rfl
  have hvalid : bit (v ||| 0x8000000000000000#64) 63 = true := by simp [bit]
  have hkept : bit (v ||| 0x8000000000000000#64) 62 = v.getLsbD 62 := by simp [bit]
  have hpass : (bit s.featstat 63 && (!bit (v ||| 0x8000000000000000#64) 62 || s.feature 15)) = true := by
    rw [hkept, bit, hboot, Bool.true_and]
    cases h : v.getLsbD 62
    · rfl
    · exact hord h
  rw [hexec, State.whenReady, if_pos hready, if_pos hc, State.contextWrite, hfree, hvalid, hpass, hkept]
  rfl

/-! ## Launch queues (R383, R384) -/

/-- What an enable writes into a block before its test: the fields of the value, and EN = 0. -/
theorem queueEnable_fields (v : Word) :
    fld (v ||| 0x8000000000000000#64) 62 61 = v.toNat / 2 ^ 61 % 4 ∧
    fld (v ||| 0x8000000000000000#64) 60 56 = v.toNat / 2 ^ 56 % 32 ∧
    fld (v ||| 0x8000000000000000#64) 5 0 = v.toNat % 64 := by
  have hbelow (hi lo : Nat) (h : (2 ^ 63 >>> lo) % 2 ^ (hi + 1 - lo) = 0) :
      fld (v ||| 0x8000000000000000#64) hi lo = v.toNat / 2 ^ lo % 2 ^ (hi + 1 - lo) := by
    rw [fld, BitVec.toNat_or, Nat.shiftRight_or_distrib, Nat.or_mod_two_pow]
    change _ ||| (2 ^ 63 >>> lo) % _ = _
    rw [h, Nat.or_zero, Nat.shiftRight_eq_div_pow]
  refine ⟨hbelow 62 61 (by decide), hbelow 60 56 (by decide), ?_⟩
  have hlast := hbelow 5 0 (by decide)
  rwa [pow_zero, Nat.div_one] at hlast

theorem queueEnable_eq {s : State} {q : Nat} {v : Word} (hready : s.ready = true) (hq : q < 1024)
    (hoff : (s.queue q).en = false ∨ (s.queue q).err = true) :
    let want : Queue := { s.queue q with
      en := false, prio := v.toNat / 2 ^ 61 % 4, lsize := v.toNat / 2 ^ 56 % 32, ctx := v.toNat % 64 }
    exec (.queueEnable q v) s = .next (if (s.setQueue q want).enableOk want then
      s.setQueue q { want with en := true, err := false, ecode := 0, cons := 0, prod := 0 }
      else s.setQueue q { want with err := true, ecode := 1 }) := by
  have hexec : exec (.queueEnable q v) s = .next (s.whenReady fun s =>
      if q < 4096 then s.queueWrite q (v ||| 0x8000000000000000#64) else s) := rfl
  have hvalid : bit (v ||| 0x8000000000000000#64) 63 = true := by simp [bit]
  have hstopped : ((s.queue q).en && !(s.queue q).err) = false := by
    obtain h | h := hoff
    · rw [h, Bool.false_and]
    · rw [h, Bool.not_true, Bool.and_false]
  obtain ⟨hprio, hlsize, hctx⟩ := queueEnable_fields v
  rw [hexec, State.whenReady, if_pos hready, if_pos (by omega), State.queueWrite, hstopped, hvalid, hprio, hlsize, hctx]
  rfl

/-- PROD is written, and more than the ring holds stops an enabled queue. -/
theorem prodWrite_eq {s : State} {q : Nat} {v : Word} (hready : s.ready = true) (hq : q < 1024) :
    let k := s.queue q
    let p := BitVec.ofNat 32 v.toNat
    exec (.prodWrite q v) s = .next (s.setQueue q
      (if k.en = true ∧ k.err = false ∧ 2 ^ k.lsize < (p - k.cons).toNat then
        { k with prod := p, err := true, ecode := 2 } else { k with prod := p })) := by
  have hexec : exec (.prodWrite q v) s = .next (s.whenReady fun s =>
      if q < 4096 then s.prodSet q v else s) := rfl
  have hprod : BitVec.ofNat 32 (fld v 31 0) = BitVec.ofNat 32 v.toNat := by
    apply BitVec.eq_of_toNat_eq
    rw [fld_eq]
    simp
  intro k p
  rw [hexec, State.whenReady, if_pos hready, if_pos (by omega), State.prodSet, hprod]
  simp only [Bool.and_eq_true, Bool.not_eq_true', decide_eq_true_eq, and_assoc]
  rw [apply_ite (s.setQueue q)]

/-! ## Apertures (R95, R98) -/

theorem State.setAperture_aperture_same (s : State) (j : Nat) (a : Aperture) : (s.setAperture j a).aperture j = a :=
  Sparse.get_set_same _ _ _ _

/-- A free aperture enabled, where its range and its target pass. -/
theorem apertureEnable_free {s : State} {j : Nat} {v : Word} (hready : s.ready = true) (hj : j < 64)
    (hfree : (s.aperture j).valid = false) (hok : s.apertureOk j (v &&& 0x7F8000FFFFFFFFFF#64, (s.aperture j).2) = true) :
    exec (.apertureEnable j v) s =
      .next (s.setAperture j ((v &&& 0x7F8000FFFFFFFFFF#64) ||| 0x8000000000000000#64, (s.aperture j).2)) := by
  have hexec : exec (.apertureEnable j v) s = .next (s.whenReady fun s =>
      if j < 64 then s.apertureWrite j (v ||| 0x8000000000000000#64) else s) := rfl
  have hvalid : bit (v ||| 0x8000000000000000#64) 63 = true := by simp [bit]
  have hfields : (v ||| 0x8000000000000000#64) &&& 0x7F8000FFFFFFFFFF#64 = v &&& 0x7F8000FFFFFFFFFF#64 := by
    rw [BitVec.and_comm, BitVec.and_or_distrib_left, BitVec.and_comm _ v]
    exact BitVec.or_zero
  rw [hexec, State.whenReady, if_pos hready, if_pos hj, State.apertureWrite, hfree, hvalid, hfields, if_neg Bool.false_ne_true, hok]
  rfl

/-- An aperture disabled keeps its range and its target, and no other aperture changes. -/
theorem apertureDisable_spec {s : State} {j : Nat} {v : Word} (hready : s.ready = true) (hj : j < 64) :
    Nexts (exec (.apertureDisable j v) s) fun t =>
      (t.aperture j).valid = false ∧ (t.aperture j).2 = (s.aperture j).2 ∧
      ∀ x < 64, x ≠ j → t.aperture x = s.aperture x := by
  have hexec : exec (.apertureDisable j v) s = .next (s.whenReady fun s =>
      if j < 64 then s.apertureWrite j (v &&& 0x7FFFFFFFFFFFFFFF#64) else s) := rfl
  have hvalid : bit (v &&& 0x7FFFFFFFFFFFFFFF#64) 63 = false := by simp [bit]
  rw [hexec, State.whenReady, if_pos hready, if_pos hj, State.apertureWrite, hvalid, if_pos (by decide)]
  refine ⟨_, rfl, ?_, ?_, fun x _ hx => Sparse.get_set_ne _ _ _ hx⟩
  · rw [State.setAperture_aperture_same, Aperture.valid]
    split
    · simp [bit]
    · simp [bit]
  · rw [State.setAperture_aperture_same]

/-! ## Contexts torn down (R381) -/

/-- The entry of a context that is torn down: free, and with no objects. -/
def Context.ended (e : Context) : Context := { e with v := false, busy := false, objects := [] }

/-- Work on the context's graphs, and where none is left the freeing of the entry. -/
theorem State.finishTeardown_eq (s : State) (c : Nat) : ∃ t u, s.NothingNew t ∧ t.NothingNew u ∧ u.graphs = t.graphs ∧
    s.finishTeardown c = if t.graphs.any fun g => g.ctx = c then t else u.setContext c (u.context c).ended := by
  have hgraphs : s.NothingNew ((s.graphs.filter fun g => g.ctx = c).foldl (fun s g => s.runGraph g.id) s) :=
    .foldl (fun t (g : Graph) => t.runGraph_nothingNew g.id) _ s
  unfold State.finishTeardown
  extract_lets t e emptied reaped u
  refine ⟨t, u, hgraphs, ?_, ?_, rfl⟩
  · have hemptied : t.NothingNew emptied := .setContext rfl rfl rfl
    exact hemptied.trans ((emptied.reap_nothingNew c).trans (.of_eq rfl rfl rfl rfl rfl))
  · exact (emptied.reap_graphsKept c).2.2

/-- A tear-down goes on: the entry is free once no graph of the context is left. -/
theorem State.finishTeardown_spec (s : State) (c : Nat) : ∃ u, s.NothingNew u ∧
    (s.finishTeardown c).launches = u.launches ∧ (s.finishTeardown c).seqs = u.seqs ∧
    (s.finishTeardown c).queues = u.queues ∧
    (s.finishTeardown c).context c =
      if ∃ g ∈ (s.finishTeardown c).graphs, g.ctx = c then u.context c else (u.context c).ended := by
  obtain ⟨t, u, hwork, hfreed, hgraphs, heq⟩ := s.finishTeardown_eq c
  by_cases hleft : t.graphs.any fun g => g.ctx = c
  · rw [if_pos hleft] at heq
    rw [heq]
    refine ⟨t, hwork, rfl, rfl, rfl, ?_⟩
    rw [if_pos (by simpa using hleft)]
  · rw [if_neg hleft] at heq
    have hnone : ¬ ∃ g ∈ (s.finishTeardown c).graphs, g.ctx = c := by
      have hkept : (s.finishTeardown c).graphs = u.graphs := heq ▸ rfl
      rw [hkept, hgraphs]
      simpa using hleft
    refine ⟨u, hwork.trans hfreed, heq ▸ rfl, heq ▸ rfl, heq ▸ rfl, ?_⟩
    rw [if_neg hnone, heq]
    exact Sparse.get_set_same _ _ _ _

/-- What a tear-down does before the graphs' end: the context's queues are off, its launches are dropped, its
sequencers are killed and counted, and BUSY is set. -/
theorem State.teardown_eq (s : State) (c : Nat) : ∃ u d, s.NothingNew u ∧ (∀ x ∈ u.launches, x.ctx ≠ c) ∧
    (∀ x ∈ u.seqs, x.2.bound.map (·.ctx) ≠ some c) ∧ (∀ x ∈ u.queues, x.2.ctx = c → x.2.en = false) ∧
    s.teardown c = (u.setContext c { u.context c with
      busy := true, disc := d
      killed := BitVec.ofNat 32 (s.seqs.filter fun x => (x.2.bound.map (·.ctx)) = some c).length }).finishTeardown c := by
  unfold State.teardown
  extract_lets quiet mine waiting dropped bound killed unsaved stopped withdrawn
  have hquiet : s.NothingNew quiet := by
    refine ⟨fun x hx => ⟨x, hx, rfl⟩, fun x hx _ => ⟨x, hx, rfl, rfl⟩, fun x hx hen => ?_, fun _ => ⟨rfl, rfl, rfl⟩, rfl⟩
    obtain ⟨y, hy, rfl⟩ := List.mem_map.1 hx
    exact ⟨y, hy, rfl, (Bool.and_eq_true_iff.1 hen).1⟩
  have hoff : ∀ x ∈ quiet.queues, x.2.en = true → x.2.ctx ≠ c := fun x hx hen => by
    obtain ⟨y, hy, rfl⟩ := List.mem_map.1 hx
    exact of_decide_eq_true (Bool.and_eq_true_iff.1 hen).2
  have hdropped : quiet.NothingNew dropped :=
    ⟨fun x hx => ⟨x, List.mem_of_mem_filter hx, rfl⟩, fun x hx _ => ⟨x, hx, rfl, rfl⟩, fun x hx hen => ⟨x, hx, rfl, hen⟩,
      fun _ => ⟨rfl, rfl, rfl⟩, rfl⟩
  have hlaunches : ∀ x ∈ dropped.launches, x.ctx ≠ c := fun x hx => of_decide_eq_true (List.mem_filter.1 hx).2
  have hbound : bound = dropped.seqs.filter fun x => (x.2.bound.map (·.ctx)) = some c := by
    refine List.filter_congr fun x _ => ?_
    cases h : x.2.bound
    · simp [h]
    · simp [h]
  obtain ⟨hkilled, hunbound⟩ : dropped.NothingNew killed ∧
      ∀ x ∈ killed.seqs, x.2.bound ≠ none → ∀ p ∈ bound, x.1 ≠ p.1 := dropped.killAll_spec bound
  have hrest : killed.NothingNew withdrawn := by
    have hunsaved : killed.NothingNew unsaved := .of_eq rfl rfl rfl rfl rfl
    have hstopped : unsaved.NothingNew stopped := .foldl (fun t u => t.endCommands_nothingNew c u) _ _
    have hwithdrawn : stopped.NothingNew withdrawn := .foldl (fun t (g : Graph) => t.killGraph_nothingNew g.id) _ _
    exact hunsaved.trans (hstopped.trans hwithdrawn)
  refine ⟨withdrawn, BitVec.ofNat 32 (mine.length + waiting), hquiet.trans (hdropped.trans (hkilled.trans hrest)),
    fun x hx => ?_, fun x hx hctx => ?_, fun x hx hctx => ?_, ?_⟩
  · obtain ⟨y, hy, hyx⟩ := (hkilled.trans hrest).launches x hx
    exact hyx ▸ hlaunches y hy
  · have hsome : x.2.bound ≠ none := fun h => by simp [h] at hctx
    obtain ⟨y, hy, hkey, hsame⟩ := hrest.bindings x hx hsome
    obtain ⟨z, hz, hkey', hsame'⟩ := hkilled.bindings y hy (hsame ▸ hsome)
    refine hunbound y hy (hsame ▸ hsome) z ?_ hkey'.symm
    rw [hbound, List.mem_filter, hsame', hsame]
    exact ⟨hz, decide_eq_true hctx⟩
  · refine Bool.eq_false_iff.2 fun hen => ?_
    obtain ⟨y, hy, hyctx, hyen⟩ := (hdropped.trans (hkilled.trans hrest)).queues x hx hen
    exact hoff y hy hyen (hyctx.trans hctx)
  · rw [hbound]

/-- A tear-down begun: the context's queues are off, it has no launch and no sequencer, KILLED counts those it had, and
it is BUSY while a graph of it is left. -/
theorem contextTeardown_idle {s : State} {c : Nat} (hready : s.ready = true) (hc : c < 64)
    (hv : (s.context c).v = true) (hbusy : (s.context c).busy = false) :
    Nexts (exec (.contextTeardown c) s) fun t =>
      (if ∃ g ∈ t.graphs, g.ctx = c then (t.context c).v = true ∧ (t.context c).busy = true
        else (t.context c).v = false ∧ (t.context c).objects = []) ∧ (∀ x ∈ t.launches, x.ctx ≠ c) ∧
      (t.context c).killed = BitVec.ofNat 32 (s.seqs.filter fun x => (x.2.bound.map (·.ctx)) = some c).length ∧
      (∀ x ∈ t.seqs, x.2.bound.map (·.ctx) ≠ some c) ∧ ∀ x ∈ t.queues, x.2.ctx = c → x.2.en = false := by
  have hexec : exec (.contextTeardown c) s = .next (s.whenReady fun s =>
      if 64 ≤ c || !(s.context c).v then s else if (s.context c).busy then s.finishTeardown c else s.teardown c) := rfl
  have hvalid : (decide (64 ≤ c) || !(s.context c).v) = false := by
    rw [hv, decide_eq_false (by omega)]
    rfl
  obtain ⟨u, d, hbegun, hlaunches, hseqs, hqueues, hteardown⟩ := s.teardown_eq c
  rw [hexec, State.whenReady, if_pos hready, hvalid, hbusy, if_neg Bool.false_ne_true, if_neg Bool.false_ne_true, hteardown]
  generalize he : ({ u.context c with
      busy := true, disc := d
      killed := BitVec.ofNat 32 (s.seqs.filter fun x => (x.2.bound.map (·.ctx)) = some c).length } : Context) = e
  obtain ⟨w, hwork, hlaunchesEq, hseqsEq, hqueuesEq, hcontext⟩ := (u.setContext c e).finishTeardown_spec c
  have hentry : (u.setContext c e).context c = e := Sparse.get_set_same _ _ _ _
  obtain ⟨hwv, hwbusy, hwkilled⟩ := hwork.contexts c
  rw [hentry, ← he] at hwv hwbusy hwkilled
  refine ⟨_, rfl, ?_, fun x hx => ?_, ?_, fun x hx hctx => ?_, fun x hx hctx => ?_⟩
  · split
    · next hleft =>
      rw [hcontext, if_pos hleft]
      exact ⟨hwv.trans ((hbegun.contexts c).1.trans hv), hwbusy⟩
    · next hleft =>
      rw [hcontext, if_neg hleft]
      exact ⟨rfl, rfl⟩
  · obtain ⟨y, hy, hyx⟩ := hwork.launches x (hlaunchesEq ▸ hx)
    exact hyx ▸ hlaunches y hy
  · rw [hcontext]
    split
    · exact hwkilled
    · exact hwkilled
  · obtain ⟨y, hy, -, hyx⟩ := hwork.bindings x (hseqsEq ▸ hx) fun h => by simp [h] at hctx
    exact hseqs y hy (hyx ▸ hctx)
  · refine Bool.eq_false_iff.2 fun hen => ?_
    obtain ⟨y, hy, hyctx, hyen⟩ := hwork.queues x (hqueuesEq ▸ hx) hen
    exact Bool.eq_false_iff.1 (hqueues y hy (hyctx.trans hctx)) hyen

end Sys2Proof.Machine

open Sys2Proof Sys2Proof.Machine

/-- Settles O58: each event by the lemma of its register's write. -/
theorem contextEvents : Obligations.ContextEvents := by
  unfold Obligations.ContextEvents
  intro s c q j v hready hc hq hj k want a
  refine ⟨contextCreate_free hready hc, contextTeardown_idle hready hc, fun hoff hok => ?_, fun hoff hno => ?_,
    prodWrite_eq hready hq, seqkill_bound hready rfl, apertureEnable_free hready hj, apertureDisable_spec hready hj⟩
  · exact (queueEnable_eq hready hq hoff).trans (congrArg _ (if_pos hok))
  · exact (queueEnable_eq hready hq hoff).trans (congrArg _ (if_neg (Bool.eq_false_iff.1 hno)))

end

section
/-! SUPPORT. Hardware barriers (O47): how the members of a launch are counted, what an arrival adds to the count, and
what the completion of an instance marks and takes off. -/

namespace Sys2Proof.Machine

/-! ## Lists and maps -/

theorem nodup_eraseDups (l : List Nat) : l.eraseDups.Nodup := by
  induction h : l.length using Nat.strong_induction_on generalizing l with
  | _ n ih =>
    cases l with
    | nil => exact .nil
    | cons a l =>
      rw [List.eraseDups_cons, List.nodup_cons]
      refine ⟨fun ha => by simp at ha, ih _ ?_ _ rfl⟩
      exact h ▸ Nat.lt_succ_of_le (List.length_filter_le _ l)

/-- A fold that adds what each member gives computes the sum of what they give. -/
theorem foldl_eq_add_sum {α β : Type} [AddMonoid β] {f : β → α → β} {g : α → β} (h : ∀ n x, f n x = n + g x)
    (l : List α) (n : β) : l.foldl f n = n + (l.map g).sum := by
  induction l generalizing n with
  | nil => exact (add_zero n).symm
  | cons x l ih => rw [List.foldl_cons, ih, h, List.map_cons, List.sum_cons, add_assoc]

theorem Sparse.mem_keys_set {α : Type} (m : Sparse α) (k : Nat) (v : α) (j : Nat) :
    j ∈ (Sparse.set m k v).map (·.1) ↔ j = k ∨ j ∈ m.map (·.1) := by
  induction m with
  | nil => simp [Sparse.set]
  | cons p m ih =>
    obtain ⟨i, w⟩ := p
    rw [Sparse.set]
    split
    · simp
    · split
      · next h => simp [h]
      · rw [List.map_cons, List.mem_cons, ih, List.map_cons, List.mem_cons, or_left_comm]

/-! ## Members counted (R149, R150) -/

/-- What a context with the arrivals `l` on a core adds to the members and to the arrived of a unit. -/
def memberShare (level unit core : Nat) (l : List Arrival) : Nat × Nat :=
  if l.any (·.at_ level unit) then (1, 1) else if unitOf level core = unit then (1, 0) else (0, 0)

/-- A sequencer bound to an instance of the launch. -/
def Seq.inLaunch (v : Seq) (launch : Nat) : Bool :=
  match v.bound with
  | some b => b.launch = launch
  | none => false

/-- What sequencer `q` adds to the members and to the arrived of a unit. -/
def Seq.adds (v : Seq) (level unit launch q : Nat) : Nat × Nat :=
  if v.inLaunch launch then memberShare level unit (q / 4) v.arrivals else 0

/-- What a saved context adds to them. -/
def Saved.adds (c : Saved) (level unit launch : Nat) : Nat × Nat :=
  if c.binding.launch = launch then memberShare level unit c.core c.arrivals else 0

theorem Seq.inLaunch_of_bound {v : Seq} {b : Binding} (h : v.bound = some b) : v.inLaunch b.launch = true := by
  simp [Seq.inLaunch, h]

/-- The sequencers that are in use. -/
def State.seqKeys (s : State) : Finset Nat := (s.seqs.map (·.1)).toFinset

theorem State.members_eq_sum (s : State) (level unit launch : Nat) :
    s.members level unit launch = ∑ q ∈ s.seqKeys, (s.seq q).adds level unit launch q +
      (s.saved.map (·.adds level unit launch)).sum := by
  have hkeys : s.seqKeys = (s.seqs.map (·.1)).eraseDups.toFinset := by
    ext q
    rw [State.seqKeys, List.mem_toFinset, List.mem_toFinset, List.mem_eraseDups]
  unfold State.members
  dsimp only
  rw [foldl_eq_add_sum (g := fun c : Saved => c.adds level unit launch),
    foldl_eq_add_sum (g := fun x : Nat × Seq => x.2.adds level unit launch x.1), hkeys,
    List.sum_toFinset _ (nodup_eraseDups _), State.seqList, List.map_map]
  · exact congrArg (· + _) (zero_add _)
  · rintro n ⟨q, v⟩
    unfold Seq.adds Seq.inLaunch
    cases v.bound with
    | none => exact (add_zero n).symm
    | some b =>
      by_cases hb : b.launch = launch
      · simp only [hb, decide_true, if_true]
        rfl
      · simp only [hb, decide_false, Bool.false_eq_true, if_false]
        exact (add_zero n).symm
  · intro n c
    unfold Saved.adds
    split
    · rfl
    · exact (add_zero n).symm

theorem State.mem_seqKeys_of_bound {s : State} {b : Binding} (h : s.sq.bound = some b) : s.cur.seq ∈ s.seqKeys := by
  obtain hget | hmem := Sparse.get_eq_or_mem ({} : Seq) s.seqs s.cur.seq
  · have hsq : s.sq = {} := hget
    simp [hsq] at h
  · exact List.mem_toFinset.2 (List.mem_map_of_mem hmem)

theorem State.setSq_seq_cur {s : State} {q : Nat} (v : Seq) (h : q = s.cur.seq) : (s.setSq v).seq q = v :=
  h ▸ s.setSq_sq v
theorem State.setSq_seq_ne {s : State} {q : Nat} (v : Seq) (h : q ≠ s.cur.seq) : (s.setSq v).seq q = s.seq q :=
  Sparse.get_set_ne _ _ _ h

/-- A change of the current sequencer changes the counts by what that sequencer adds to them. -/
theorem State.members_setSq {s : State} {b : Binding} (h : s.sq.bound = some b) (v : Seq) (level unit launch : Nat) :
    (s.setSq v).members level unit launch + s.sq.adds level unit launch s.cur.seq =
      s.members level unit launch + v.adds level unit launch s.cur.seq := by
  have hcur := State.mem_seqKeys_of_bound h
  have hkeys : (s.setSq v).seqKeys = s.seqKeys := by
    ext q
    rw [State.seqKeys, List.mem_toFinset]
    refine (Sparse.mem_keys_set s.seqs s.cur.seq v q).trans ⟨fun hq => ?_, fun hq => .inr (List.mem_toFinset.1 hq)⟩
    obtain rfl | hq := hq
    · exact hcur
    · exact List.mem_toFinset.2 hq
  have hothers : ∑ q ∈ s.seqKeys.erase s.cur.seq, ((s.setSq v).seq q).adds level unit launch q =
      ∑ q ∈ s.seqKeys.erase s.cur.seq, (s.seq q).adds level unit launch q :=
    Finset.sum_congr rfl fun q hq => by rw [State.setSq_seq_ne v (Finset.ne_of_mem_erase hq)]
  rw [State.members_eq_sum, State.members_eq_sum s, hkeys, ← Finset.sum_erase_add _ _ hcur,
    ← Finset.sum_erase_add _ _ hcur, hothers, State.setSq_saved, State.setSq_seq_cur v rfl,
    show s.seq s.cur.seq = s.sq from rfl]
  abel

/-! ## The instance in progress (R149) -/

theorem Arrival.id_ne_zero_of_at {a : Arrival} {level unit : Nat} (h : a.at_ level unit = true) : a.id ≠ 0 := by
  simp only [Arrival.at_, ne_eq, Bool.and_eq_true, decide_eq_true_eq] at h
  exact h.2

theorem Arrival.level_of_at {a : Arrival} {level unit : Nat} (h : a.at_ level unit = true) : a.level = level := by
  simp only [Arrival.at_, ne_eq, Bool.and_eq_true, decide_eq_true_eq] at h
  obtain ⟨⟨hlevel, -⟩, -⟩ := h
  exact hlevel

/-- The identity of the instance in progress among a member's arrivals. -/
def openArrival (level unit : Nat) (l : List Arrival) : Option Nat := (l.find? (·.at_ level unit)).map (·.id)

/-- The identity of the instance in progress in a unit, if there is one: what the model's own function of the state
computes, from which `barrierM` takes the identity of an arrival (`barrierM_eq_arriveM`). -/
def State.openId (s : State) (level unit launch : Nat) : Option Nat :=
  match s.seqList.findSome? (fun (_, v) =>
    match v.bound with
    | some b => if b.launch = launch then openArrival level unit v.arrivals else none
    | none => none) with
  | some i => some i
  | none => s.saved.findSome? fun c => if c.binding.launch = launch then openArrival level unit c.arrivals else none

/-- The identity of an instance in progress is not 0, which marks one that has completed. -/
theorem State.openId_ne_zero {s : State} {level unit launch i : Nat}
    (h : s.openId level unit launch = some i) : i ≠ 0 := by
  have hfound {l : List Arrival} (hl : openArrival level unit l = some i) : i ≠ 0 := by
    obtain ⟨a, ha, rfl⟩ := Option.map_eq_some_iff.1 hl
    exact Arrival.id_ne_zero_of_at (List.find?_some ha :)
  unfold State.openId at h
  split at h
  · next j hj =>
    obtain rfl := Option.some.inj h
    obtain ⟨⟨q, v⟩, -, hx⟩ := List.exists_of_findSome?_eq_some hj
    dsimp only at hx
    split at hx
    · split at hx
      · exact hfound hx
      · cases hx
    · cases hx
  · obtain ⟨c, -, hc⟩ := List.exists_of_findSome?_eq_some h
    split at hc
    · exact hfound hc
    · cases hc

/-- No member of the launch, bound or saved, has an arrival of an instance in progress in the unit. -/
structure State.NoneOpen (s : State) (level unit launch : Nat) : Prop where
  seqs : ∀ q, (s.seq q).inLaunch launch = true → ∀ a ∈ (s.seq q).arrivals, a.at_ level unit = false
  saved : ∀ c ∈ s.saved, c.binding.launch = launch → ∀ a ∈ c.arrivals, a.at_ level unit = false

theorem State.NoneOpen.openId_eq_none {s : State} {level unit launch : Nat} (h : s.NoneOpen level unit launch) :
    s.openId level unit launch = none := by
  have hnone {l : List Arrival} (hl : ∀ a ∈ l, a.at_ level unit = false) : openArrival level unit l = none := by
    rw [openArrival, Option.map_eq_none_iff, List.find?_eq_none]
    exact fun a ha => Bool.eq_false_iff.1 (hl a ha)
  unfold State.openId
  rw [List.findSome?_eq_none_iff.2, List.findSome?_eq_none_iff.2]
  · intro c hc
    split
    · next hlaunch => exact hnone (h.saved c hc hlaunch)
    · rfl
  · intro x hx
    obtain ⟨q, -, rfl⟩ := List.mem_map.1 hx
    dsimp only
    split
    · next b hb =>
      split
      · next hlaunch => exact hnone (h.seqs q (hlaunch ▸ Seq.inLaunch_of_bound hb))
      · rfl
    · rfl

/-- That stays so where the current sequencer changes and still has none. -/
theorem State.NoneOpen.setSq {s : State} {v : Seq} {level unit launch : Nat} (h : s.NoneOpen level unit launch)
    (hv : v.inLaunch launch = true → ∀ a ∈ v.arrivals, a.at_ level unit = false) :
    (s.setSq v).NoneOpen level unit launch where
  seqs q := by
    by_cases hcur : q = s.cur.seq
    · rwa [State.setSq_seq_cur v hcur]
    · rw [State.setSq_seq_ne v hcur]
      exact h.seqs q
  saved := h.saved

/-! ## An instance that completes (R149) -/

/-- Arrivals with those of an instance marked complete. -/
def markArrivals (level unit : Nat) (front : Stamp) (l : List Arrival) : List Arrival :=
  l.map fun a => if a.at_ level unit then { a with id := 0, front } else a

/-- A sequencer of the launch with its arrivals marked. -/
def Seq.marked (v : Seq) (level unit launch : Nat) (front : Stamp) : Seq :=
  if v.inLaunch launch then { v with arrivals := markArrivals level unit front v.arrivals } else v

theorem markArrivals_at_ {level unit : Nat} {front : Stamp} {l : List Arrival} {a : Arrival}
    (h : a ∈ markArrivals level unit front l) : a.at_ level unit = false := by
  obtain ⟨x, -, rfl⟩ := List.mem_map.1 h
  split
  · simp [Arrival.at_]
  · next hx => exact Bool.eq_false_iff.2 hx

theorem mem_markArrivals {level unit : Nat} {l : List Arrival} {a : Arrival} (ha : a ∈ l)
    (hat : a.at_ level unit = true) (front : Stamp) : { a with id := 0, front } ∈ markArrivals level unit front l :=
  List.mem_map.2 ⟨a, ha, if_pos hat⟩

theorem Seq.marked_inLaunch (v : Seq) (level unit launch : Nat) (front : Stamp) :
    (v.marked level unit launch front).inLaunch launch = v.inLaunch launch := by
  unfold Seq.marked
  split
  · rfl
  · rfl

theorem Seq.marked_arrivals {v : Seq} {launch : Nat} (h : v.inLaunch launch = true) (level unit : Nat)
    (front : Stamp) : (v.marked level unit launch front).arrivals = markArrivals level unit front v.arrivals := by
  rw [Seq.marked, if_pos h]

theorem State.completeBarrier_eq (s : State) (level unit launch : Nat) : ∃ front,
    s.completeBarrier level unit launch = { s with
      seqs := s.seqs.map fun (q, v) => (q, v.marked level unit launch front)
      saved := s.saved.map fun c =>
        if c.binding.launch = launch then { c with arrivals := markArrivals level unit front c.arrivals } else c } := by
  unfold State.completeBarrier
  dsimp only
  generalize List.foldl _ _ _ = front
  refine ⟨front, ?_⟩
  congr 1
  refine List.map_congr_left fun x _ => ?_
  exact (apply_ite (Prod.mk x.1) _ _ _).symm

/-- Every sequencer's arrivals, after an instance has completed. -/
theorem State.completeBarrier_seq (s : State) (level unit launch : Nat) : ∃ front, ∀ q,
    (s.completeBarrier level unit launch).seq q = (s.seq q).marked level unit launch front := by
  obtain ⟨front, hdone⟩ := s.completeBarrier_eq level unit launch
  refine ⟨front, fun q => ?_⟩
  rw [hdone]
  exact Sparse.get_map (d := {}) (f := (·.marked level unit launch front)) rfl s.seqs q

/-- Once an instance has completed none is in progress. -/
theorem State.completeBarrier_noneOpen (s : State) (level unit launch : Nat) :
    (s.completeBarrier level unit launch).NoneOpen level unit launch where
  seqs q hlaunch a ha := by
    obtain ⟨front, hseq⟩ := s.completeBarrier_seq level unit launch
    rw [hseq, Seq.marked_inLaunch] at hlaunch
    rw [hseq, Seq.marked_arrivals hlaunch] at ha
    exact markArrivals_at_ ha
  saved c hc hlaunch a ha := by
    obtain ⟨front, hdone⟩ := s.completeBarrier_eq level unit launch
    rw [hdone] at hc
    obtain ⟨x, -, rfl⟩ := List.mem_map.1 hc
    split at ha
    · exact markArrivals_at_ ha
    · next hx =>
      rw [if_neg hx] at hlaunch
      exact absurd hlaunch hx

/-! ## The completion test (R149, R150, R178) -/

/-- The test waits for the reports of the other modules of a pod: a moment that is free (log 15). -/
def State.barrierHeld (s : State) (level : Nat) : Prop :=
  level = 5 ∧ s.podctl.getLsbD 63 = true ∧ Config.podReported s.free = false

theorem State.testBarrier_notReady {s : State} {level unit launch : Nat}
    (h : s.barrierReady level unit launch = false) : s.testBarrier level unit launch = s := by
  rw [State.testBarrier, h, Bool.not_false, if_pos rfl]

theorem State.testBarrier_module {s : State} {level unit launch : Nat} (h : s.barrierReady level unit launch = true)
    (hpod : ¬ (level = 5 ∧ s.podctl.getLsbD 63 = true)) :
    s.testBarrier level unit launch = s.completeBarrier level unit launch := by
  have hno : ¬ (decide (level = 5) && bit s.podctl 63) = true := by
    rwa [Bool.and_eq_true, decide_eq_true_eq]
  rw [State.testBarrier, h, Bool.not_true, if_neg Bool.false_ne_true, if_neg hno]

theorem State.testBarrier_pod {s : State} {level unit launch : Nat} (h : s.barrierReady level unit launch = true)
    (hpod : level = 5 ∧ s.podctl.getLsbD 63 = true) :
    s.testBarrier level unit launch = if Config.podReported s.free then
      ({ s with free := s.free + 1 } : State).peerTraffic.completeBarrier level unit launch
      else ({ s with free := s.free + 1 } : State).peerTraffic := by
  have hyes : (decide (level = 5) && bit s.podctl 63) = true := by
    rwa [Bool.and_eq_true, decide_eq_true_eq]
  rw [State.testBarrier, h, Bool.not_true, if_neg Bool.false_ne_true, if_pos hyes]

/-- Where every member has arrived and no report is waited for, the test completes the instance, after what the reports
cost the peer links. -/
theorem State.testBarrier_completes {s : State} {level unit launch : Nat}
    (h : s.barrierReady level unit launch = true) (hheld : ¬ s.barrierHeld level) : ∃ free dies,
    s.testBarrier level unit launch = ({ s with free, dies } : State).completeBarrier level unit launch := by
  by_cases hpod : level = 5 ∧ s.podctl.getLsbD 63 = true
  · have hreported : Config.podReported s.free = true :=
      Bool.of_not_eq_false fun hno => hheld ⟨hpod.1, hpod.2, hno⟩
    rw [State.testBarrier_pod h hpod, if_pos hreported, State.peerTraffic_frame]
    exact ⟨_, _, rfl⟩
  · exact ⟨s.free, s.dies, State.testBarrier_module h hpod⟩

/-- Where a member is missing, or a report is waited for, the test completes nothing. -/
theorem State.testBarrier_leaves {s : State} {level unit launch : Nat}
    (h : s.barrierReady level unit launch = false ∨ s.barrierHeld level) : ∃ free dies,
    s.testBarrier level unit launch = { s with free, dies } := by
  cases hready : s.barrierReady level unit launch with
  | false => exact ⟨s.free, s.dies, State.testBarrier_notReady hready⟩
  | true =>
    obtain ⟨hlevel, hpodctl, hreported⟩ := h.resolve_left (Bool.eq_false_iff.not_left.2 hready)
    rw [State.testBarrier_pod hready ⟨hlevel, hpodctl⟩, if_neg (Bool.eq_false_iff.1 hreported),
      State.peerTraffic_frame]
    exact ⟨_, _, rfl⟩

end Sys2Proof.Machine
end

section
/-! SUPPORT. The barrier instructions (O47): an arrival, the wait of an earlier member, and the departure of the last. -/

namespace Sys2Proof.Machine

/-! ## The thread that goes on at the next word -/

/-- The successor rule changes the loop stack alone (R273). -/
theorem seqNext_go_frame (p : Word) (fuel : Nat) (t : Thread) : ∃ ldepth lecnt leidx,
    (seqNext.go p fuel t).2 = { t with ldepth, lecnt, leidx } := by
  induction fuel generalizing t with
  | zero => exact ⟨_, _, _, rfl⟩
  | succ fuel ih =>
    rw [seqNext.go]
    split
    · exact ⟨_, _, _, rfl⟩
    · split
      · exact ⟨_, _, _, rfl⟩
      · obtain ⟨ldepth, lecnt, leidx, hpop⟩ := ih { t with ldepth := w64 (t.ldepth.toNat - 1) }
        exact ⟨ldepth, lecnt, leidx, hpop⟩

theorem Thread.advance_seq_frame (t : Thread) : ∃ pc ldepth lecnt leidx,
    t.advance .seq = { t with pc, ldepth, lecnt, leidx } := by
  obtain ⟨ldepth, lecnt, leidx, hnext⟩ := seqNext_go_frame t.pc 7 t
  refine ⟨(seqNext t t.pc).1, ldepth, lecnt, leidx, ?_⟩
  exact congrArg (fun u : Thread => { u with pc := (seqNext t t.pc).1 }) hnext

theorem Thread.begin_frame (t : Thread) : ∃ opStart opFirst opLast opVl opMask past missed,
    t.begin = { t with opStart, opFirst, opLast, opVl, opMask, past, missed } := by
  unfold Thread.begin
  split
  · exact ⟨_, _, _, _, _, _, _, rfl⟩
  · exact ⟨_, _, _, _, _, _, _, rfl⟩

/-- A thread whose instruction retires without any other effect on it has made that instruction's progress alone. -/
theorem Thread.retired_progress (t : Thread) (cap : Nat) :
    t.begin.retired cap .seq = t.progress (t.begin.retired cap .seq) := by
  obtain ⟨opStart, opFirst, opLast, opVl, opMask, past, missed, hbegin⟩ := t.begin_frame
  obtain ⟨pc, ldepth, lecnt, leidx, hadvance⟩ := t.begin.advance_seq_frame
  rw [Thread.retired, hadvance, hbegin]
  dsimp only
  split
  · rfl
  · rfl

theorem retire_seq (s : State) : retire .seq s = s.setTh (s.th.retired s.sq.histCap .seq) := by
  simp only [retire, history_eq, State.setTh_th, State.setTh_sq, State.setTh_setTh, Thread.retired]
  split
  · rfl
  · rfl

/-! ## An arrival (R149) -/

/-- What a thread finds that arrives at a barrier and has to wait for none of its own accesses (R121, R122): its
sequencer is bound and not split, nothing is in flight, and it has no arrival of the level. -/
structure State.MayArrive (s : State) (b : Binding) (level : Nat) : Prop where
  bound : s.sq.bound = some b
  split : s.sq.split = 1
  settled : s.settled = true
  claiming : s.th.claiming = false
  copies : level = 5 → s.copyBusy s.cur.seq = false
  absent : s.sq.arrivals.find? (fun a => a.level = level) = none

theorem State.settled_of_plain {s : State} (h : s.plain) : s.settled = true := by
  obtain ⟨-, -, -, hflights, -, hdies, -⟩ := h
  rw [State.settled, Bool.and_eq_true, List.all_eq_true]
  refine ⟨decide_eq_true hflights, fun e he => decide_eq_true ?_⟩
  exact (hdies e (List.mem_range.1 he)).1

theorem State.MayArrive.atIssue {s : State} {b : Binding} {level : Nat} (h : s.MayArrive b level) :
    s.atIssue.MayArrive b level where
  bound := h.bound
  split := h.split
  settled := h.settled
  claiming := by
    rw [atIssue_th, Thread.claiming, Thread.begin_pend]
    exact h.claiming
  copies := h.copies
  absent := h.absent

theorem State.MayArrive.absent_of_mem {s : State} {b : Binding} {level : Nat} (h : s.MayArrive b level) {a : Arrival}
    (ha : a ∈ s.sq.arrivals) : a.level ≠ level := fun hlevel =>
  List.find?_eq_none.1 h.absent a ha (decide_eq_true hlevel)

theorem State.MayArrive.launchNo {s : State} {b : Binding} {level : Nat} (h : s.MayArrive b level) :
    s.launchNo = b.launch := by
  rw [State.launchNo, h.bound]

/-- The state with the current sequencer's arrival at a barrier recorded, of the instance in progress or of a new one. -/
def State.arrive (s : State) (level : Nat) : State :=
  let u := unitOf level s.coreNo
  let (id, s) := match s.openId level u s.launchNo with
    | some i => (i, s)
    | none => s.fresh
  s.setSq { s.sq with arrivals := s.sq.arrivals ++ [⟨level, u, id, s.front⟩] }

theorem State.arrive_eq (s : State) (level : Nat) : ∃ nextId a, a.at_ level (unitOf level s.coreNo) = true ∧
    s.arrive level = ({ s with nextId } : State).setSq { s.sq with arrivals := s.sq.arrivals ++ [a] } := by
  have hat {i : Nat} (hi : i ≠ 0) (f : Stamp) :
      (⟨level, unitOf level s.coreNo, i, f⟩ : Arrival).at_ level (unitOf level s.coreNo) = true := by
    simp [Arrival.at_, hi]
  unfold State.arrive
  dsimp only
  split
  · next i hi => exact ⟨s.nextId, _, hat (State.openId_ne_zero hi) _, rfl⟩
  · exact ⟨_, _, hat (Nat.succ_ne_zero _) _, rfl⟩

/-- An arrival changes the identities given out, and its sequencer's arrivals. -/
theorem State.arrive_frame (s : State) (level : Nat) : (s.arrive level).cur = s.cur ∧
    (s.arrive level).sq.bound = s.sq.bound ∧ (s.arrive level).th = s.th ∧ (s.arrive level).mem = s.mem ∧
    ((s.arrive level).barrierHeld level ↔ s.barrierHeld level) := by
  obtain ⟨n, a, -, harrive⟩ := s.arrive_eq level
  rw [harrive]
  refine ⟨rfl, ?_, rfl, rfl, .rfl⟩
  rw [State.setSq_sq]

/-- An arrival adds one to those that have arrived. -/
theorem State.MayArrive.members_arrive {s : State} {b : Binding} {level : Nat} (h : s.MayArrive b level) :
    (s.arrive level).members level (unitOf level s.coreNo) b.launch =
      ((s.members level (unitOf level s.coreNo) b.launch).1,
        (s.members level (unitOf level s.coreNo) b.launch).2 + 1) := by
  obtain ⟨n, a, hat, harrive⟩ := s.arrive_eq level
  have hbefore : s.sq.adds level (unitOf level s.coreNo) b.launch s.cur.seq = (1, 0) := by
    have hno : ¬ s.sq.arrivals.any (·.at_ level (unitOf level s.coreNo)) = true := by
      rw [List.any_eq_true]
      rintro ⟨x, hx, hxat⟩
      exact h.absent_of_mem hx (Arrival.level_of_at hxat)
    rw [Seq.adds, if_pos (Seq.inLaunch_of_bound h.bound), memberShare, if_neg hno]
    exact if_pos rfl
  have hafter : ({ s.sq with arrivals := s.sq.arrivals ++ [a] } : Seq).adds level (unitOf level s.coreNo) b.launch
      s.cur.seq = (1, 1) := by
    have hyes : (s.sq.arrivals ++ [a]).any (·.at_ level (unitOf level s.coreNo)) = true :=
      List.any_eq_true.2 ⟨a, List.mem_append_right _ List.mem_cons_self, hat⟩
    exact (if_pos (Seq.inLaunch_of_bound (v := { s.sq with arrivals := s.sq.arrivals ++ [a] }) h.bound)).trans
      (if_pos hyes)
  have hsum := State.members_setSq (s := { s with nextId := n }) h.bound { s.sq with arrivals := s.sq.arrivals ++ [a] }
    level (unitOf level s.coreNo) b.launch
  rw [← harrive] at hsum
  have hsum' : (s.arrive level).members level (unitOf level s.coreNo) b.launch + (1, 0) =
      s.members level (unitOf level s.coreNo) b.launch + (1, 1) := by
    rw [← hbefore, ← hafter]
    exact hsum
  exact Prod.ext (Nat.add_right_cancel (congrArg Prod.fst hsum' :)) (congrArg Prod.snd hsum' :)

/-- Every member has arrived once the one that arrives was the last to. -/
theorem State.MayArrive.barrierReady_arrive {s : State} {b : Binding} {level : Nat} (h : s.MayArrive b level) :
    (s.arrive level).barrierReady level (unitOf level s.coreNo) b.launch = true ↔
      (s.members level (unitOf level s.coreNo) b.launch).2 + 1 =
        (s.members level (unitOf level s.coreNo) b.launch).1 := by
  rw [State.barrierReady, h.members_arrive]
  simp

/-- The state in which an arrival has been recorded and the completion test made. -/
def State.arrived (s : State) (level : Nat) : State :=
  (s.arrive level).testBarrier level (unitOf level s.coreNo) s.launchNo

/-- What a barrier instruction does once it has to wait for none of the sequencer's copy commands. -/
def arriveM (level : Nat) : M Flow := do
  performedAllM
  modS (·.arrive level)
  modS fun s => s.testBarrier level (unitOf level s.coreNo) s.launchNo
  let s ← getS
  if s.sq.arrivals.any (fun a => a.level = level && a.id = 0) then departM level else waitM (.barrier level)

theorem barrierM_eq_arriveM (level : Nat) : barrierM level = (do
    notSplit
    let s ← getS
    match s.sq.arrivals.find? (fun a => a.level = level) with
    | some a => if a.id = 0 then departM level else waitM (.barrier level)
    | none => if level = 5 then do releaseM 5; arriveM level else arriveM level) := rfl

theorem State.MayArrive.arriveM_eq {s : State} {b : Binding} {level : Nat} (h : s.MayArrive b level) :
    arriveM level s =
      (if (s.arrived level).sq.arrivals.any (fun a => a.level = level && a.id = 0) then departM level
        else waitM (.barrier level)) (s.arrived level) := by
  have hall : performedAllM s = .ok () s := by
    rw [performedAllM, if_neg (Bool.eq_false_iff.1 h.claiming), if_pos h.settled]
  have harrived : (s.arrive level).testBarrier level (unitOf level (s.arrive level).coreNo) (s.arrive level).launchNo =
      s.arrived level := by
    obtain ⟨hcur, hbound, -⟩ := s.arrive_frame level
    rw [State.coreNo, hcur, State.launchNo, hbound]
    rfl
  rw [arriveM, M.bind_ok hall, M.bind_ok (modS_apply _ s), M.bind_ok (modS_apply _ _), harrived,
    M.bind_ok (getS_apply _)]

/-- A barrier instruction that has to wait for none of its thread's accesses makes its arrival and the test, and goes on
or waits by what the test has found. -/
theorem State.MayArrive.barrierM_eq {s : State} {b : Binding} {level : Nat} (h : s.MayArrive b level) :
    barrierM level s =
      (if (s.arrived level).sq.arrivals.any (fun a => a.level = level && a.id = 0) then departM level
        else waitM (.barrier level)) (s.arrived level) := by
  have hsplit : notSplit s = .ok () s := if_pos h.split
  have hperformed : performedM s = .ok () s := by
    rw [performedM, if_neg (Bool.eq_false_iff.1 h.claiming), if_pos h.settled]
  rw [barrierM_eq_arriveM, M.bind_ok hsplit, M.bind_ok (getS_apply s), h.absent, ← h.arriveM_eq]
  show (if level = 5 then do releaseM 5; arriveM level else arriveM level) s = _
  by_cases hlevel : level = 5
  · have hrelease : releaseM 5 s = .ok () s := by
      rw [releaseM, M.bind_ok hperformed, M.bind_ok (getS_apply s), h.copies hlevel]
      rfl
    rw [if_pos hlevel, M.bind_ok hrelease]
  · rw [if_neg hlevel]

/-! ## Who waits, and who goes on (R149) -/

/-- An arrival that does not complete its instance is still not marked, and the thread waits. -/
theorem State.MayArrive.waits {s : State} {b : Binding} {level : Nat} (h : s.MayArrive b level)
    (hopen : (s.members level (unitOf level s.coreNo) b.launch).2 + 1 ≠
      (s.members level (unitOf level s.coreNo) b.launch).1 ∨ s.barrierHeld level) :
    ∃ t, barrierM level s = .error (.wait (.barrier level)) t ∧ t.th = s.th ∧ t.mem = s.mem ∧
      t.members level (unitOf level s.coreNo) b.launch =
        ((s.members level (unitOf level s.coreNo) b.launch).1,
          (s.members level (unitOf level s.coreNo) b.launch).2 + 1) := by
  obtain ⟨-, -, hth, hmem, hheld⟩ := s.arrive_frame level
  obtain ⟨free, dies, htest⟩ := State.testBarrier_leaves (s := s.arrive level) (level := level)
    (unit := unitOf level s.coreNo) (launch := b.launch)
    (hopen.imp (fun hmore => Bool.eq_false_iff.2 (hmore ∘ h.barrierReady_arrive.1)) hheld.2)
  have harrived : s.arrived level = { s.arrive level with free, dies } := by
    rw [State.arrived, h.launchNo, htest]
  obtain ⟨n, a, hat, harrive⟩ := s.arrive_eq level
  have hunmarked : ¬ (s.arrive level).sq.arrivals.any (fun a => a.level = level && a.id = 0) = true := by
    rw [harrive, State.setSq_sq, List.any_eq_true]
    rintro ⟨x, hx, hmarked⟩
    obtain ⟨hlevel, hid⟩ := Bool.and_eq_true_iff.1 hmarked
    obtain hx | hx := List.mem_append.1 hx
    · exact h.absent_of_mem hx (of_decide_eq_true hlevel)
    · obtain rfl := List.mem_singleton.1 hx
      exact Arrival.id_ne_zero_of_at hat (of_decide_eq_true hid)
  refine ⟨s.arrived level, ?_, ?_⟩
  · rw [h.barrierM_eq, harrived]
    exact congrFun (if_neg hunmarked) _
  · rw [harrived]
    exact ⟨hth, hmem, h.members_arrive⟩

/-- A departure takes the arrivals of the level that are marked off, and raises the core's frontier (R122). -/
theorem departM_ok (level : Nat) (s : State) : ∃ cores, departM level s = .ok .seq (({ s with cores } : State).setSq
    { s.sq with arrivals := s.sq.arrivals.filter fun a => !(a.level = level && a.id = 0) }) := by
  have hraise (l : List Arrival) : ∃ cores, l.foldl (fun (s : State) a => s.raise a.front) s = { s with cores } :=
    List.foldlRecOn (motive := fun t : State => ∃ cores, t = { s with cores }) l _ ⟨s.cores, rfl⟩ fun t ht a _ => by
      obtain ⟨cores, rfl⟩ := ht
      exact ⟨_, rfl⟩
  obtain ⟨cores, hcores⟩ := hraise (s.sq.arrivals.filter fun a => a.level = level && a.id = 0)
  refine ⟨cores, ?_⟩
  rw [departM, M.bind_ok (modS_apply _ s), hcores]
  rfl

/-- Of the arrivals of a sequencer that had none of the level, one of an instance that has completed is taken off. -/
theorem level_ne_of_mem_departed {level unit : Nat} {front : Stamp} {l : List Arrival} {a x : Arrival}
    (hl : ∀ y ∈ l, y.level ≠ level) (hat : a.at_ level unit = true)
    (hx : x ∈ (markArrivals level unit front (l ++ [a])).filter fun a => !(a.level = level && a.id = 0)) :
    x.level ≠ level := by
  obtain ⟨hx, hleft⟩ := List.mem_filter.1 hx
  obtain ⟨y, hy, rfl⟩ := List.mem_map.1 hx
  obtain hy | hy := List.mem_append.1 hy
  · have hunmarked : ¬ y.at_ level unit = true := fun hyat => hl y hy (Arrival.level_of_at hyat)
    rw [if_neg hunmarked]
    exact hl y hy
  · obtain rfl := List.mem_singleton.1 hy
    simp [if_pos hat, Arrival.level_of_at hat] at hleft

/-- A departure from an instance that has completed leaves none in progress. -/
theorem departM_completed {s : State} {level unit launch : Nat} : ∃ t,
    departM level (s.completeBarrier level unit launch) = .ok .seq t ∧ t.th = s.th ∧ t.mem = s.mem ∧
    t.NoneOpen level unit launch ∧
    t.sq.arrivals = (s.completeBarrier level unit launch).sq.arrivals.filter fun a => !(a.level = level && a.id = 0) := by
  obtain ⟨cores, hdepart⟩ := departM_ok level (s.completeBarrier level unit launch)
  refine ⟨_, hdepart, rfl, rfl, ?_, congrArg Seq.arrivals (State.setSq_sq _ _)⟩
  have hnone := s.completeBarrier_noneOpen level unit launch
  have hcores : ({ s.completeBarrier level unit launch with cores } : State).NoneOpen level unit launch :=
    ⟨hnone.seqs, hnone.saved⟩
  exact hcores.setSq fun hq a ha => hnone.seqs s.cur.seq hq a (List.mem_of_mem_filter ha)

/-- The last member to arrive completes the instance, and goes on with its own arrival taken off. -/
theorem State.MayArrive.departs {s : State} {b : Binding} {level : Nat} (h : s.MayArrive b level)
    (hlast : (s.members level (unitOf level s.coreNo) b.launch).2 + 1 =
      (s.members level (unitOf level s.coreNo) b.launch).1) (hheld : ¬ s.barrierHeld level) :
    ∃ t, barrierM level s = .ok .seq t ∧ t.th = s.th ∧ t.mem = s.mem ∧ (∀ a ∈ t.sq.arrivals, a.level ≠ level) ∧
      t.NoneOpen level (unitOf level s.coreNo) b.launch := by
  obtain ⟨hcur, hbound, hth, hmem, hheld'⟩ := s.arrive_frame level
  obtain ⟨free, dies, htest⟩ := State.testBarrier_completes (h.barrierReady_arrive.2 hlast) (hheld ∘ hheld'.1)
  have harrived : s.arrived level =
      ({ s.arrive level with free, dies } : State).completeBarrier level (unitOf level s.coreNo) b.launch := by
    rw [State.arrived, h.launchNo, htest]
  obtain ⟨front, hseq⟩ := ({ s.arrive level with free, dies } : State).completeBarrier_seq level
    (unitOf level s.coreNo) b.launch
  obtain ⟨n, a, hat, harrive⟩ := s.arrive_eq level
  have hmarked : (s.arrived level).sq.arrivals =
      markArrivals level (unitOf level s.coreNo) front (s.sq.arrivals ++ [a]) := by
    have hsq : (s.arrived level).sq = (s.arrive level).sq.marked level (unitOf level s.coreNo) b.launch front := by
      rw [harrived]
      exact hseq _
    rw [hsq, Seq.marked_arrivals (Seq.inLaunch_of_bound (hbound.trans h.bound)), harrive, State.setSq_sq]
  have hany : (s.arrived level).sq.arrivals.any (fun a => a.level = level && a.id = 0) = true := by
    rw [hmarked, List.any_eq_true]
    exact ⟨_, mem_markArrivals (List.mem_append_right _ List.mem_cons_self) hat front,
      by simp [Arrival.level_of_at hat]⟩
  obtain ⟨t, hdepart, htth, htmem, hnone, harrivals⟩ := departM_completed
    (s := { s.arrive level with free, dies }) (level := level) (unit := unitOf level s.coreNo) (launch := b.launch)
  rw [← harrived] at hdepart harrivals
  refine ⟨t, ?_, htth.trans hth, htmem.trans hmem, fun x hx => ?_, hnone⟩
  · rw [h.barrierM_eq, if_pos hany, hdepart]
  · rw [harrivals, hmarked] at hx
    exact level_ne_of_mem_departed (fun y => h.absent_of_mem) hat hx

end Sys2Proof.Machine
end

section
/-! SUPPORT. The barrier instructions and the completion test as steps (O47). -/

namespace Sys2Proof.Machine

/-- An arrival that does not complete its instance waits at its place (R149, R178). -/
theorem run_barrierM_waits {s : State} {b : Binding} {level : Nat} (hq : s.quiet) (h : s.MayArrive b level)
    (hopen : (s.members level (unitOf level s.coreNo) b.launch).2 + 1 ≠
      (s.members level (unitOf level s.coreNo) b.launch).1 ∨ s.barrierHeld level) :
    Nexts (run (barrierM level) s) fun t => t.th.wait = .barrier level ∧ t.th.pc = s.th.pc ∧ t.mem = s.mem ∧
      t.members level (unitOf level s.coreNo) b.launch =
        ((s.members level (unitOf level s.coreNo) b.launch).1,
          (s.members level (unitOf level s.coreNo) b.launch).2 + 1) := by
  obtain ⟨t, hwaits, hth, hmem, hmembers⟩ := h.atIssue.waits hopen
  refine ⟨_, run_error hq hwaits, congrArg Thread.wait (State.setTh_th _ _), ?_, hmem, hmembers⟩
  rw [State.setTh_th, hth, atIssue_th]
  exact s.th.begin_pc

/-- The last member to arrive goes on, with its instance complete and its own arrival taken off (R149). -/
theorem run_barrierM_departs {s : State} {b : Binding} {level : Nat} (hq : s.quiet) (h : s.MayArrive b level)
    (hlast : (s.members level (unitOf level s.coreNo) b.launch).2 + 1 =
      (s.members level (unitOf level s.coreNo) b.launch).1) (hheld : ¬ s.barrierHeld level) :
    Nexts (run (barrierM level) s) fun t => t.th = s.th.progress t.th ∧ t.mem = s.mem ∧
      (∀ a ∈ t.sq.arrivals, a.level ≠ level) ∧ t.openId level (unitOf level s.coreNo) b.launch = none := by
  obtain ⟨t, hdeparts, hth, hmem, harrivals, hnone⟩ := h.atIssue.departs hlast hheld
  have hnext := run_ok hq hdeparts
  rw [retire_seq] at hnext
  refine ⟨_, hnext, ?_, hmem, harrivals, hnone.openId_eq_none⟩
  rw [State.setTh_th, hth, atIssue_th]
  exact s.th.retired_progress _

/-- With its feature committed `bar.pd` is the barrier of its level (R194). -/
theorem execBarPd_of_feature {s : State} (hq : s.quiet) (h : s.feature 18 = true) :
    execBarPd s = run (barrierM 5) s := by
  have hneed : needFeature 18 s.atIssue = .ok () s.atIssue := if_pos h
  rw [execBarPd, run_quiet _ hq, run_quiet _ hq, M.bind_ok hneed]

end Sys2Proof.Machine

open Sys2Proof Sys2Proof.Machine

/-- Settles O47: at each level the last member departs and the others wait; the test repeated is the completion test. -/
theorem barrierResults : Obligations.BarrierResults := by
  unfold Obligations.BarrierResults
  refine ⟨fun s b hq hplain hsplit hbound hclaiming => ?_, fun s level u launch => ?_⟩
  · intro core r
    have hlevel (level : Nat) (hcopies : level = 5 → s.copyBusy s.cur.seq = false) :
        r level (run (barrierM level) s) := by
      intro habsent
      have h : s.MayArrive b level := ⟨hbound, hsplit, State.settled_of_plain hplain, hclaiming, hcopies, habsent⟩
      refine ⟨fun hlast => ?_, fun hearlier => run_barrierM_waits hq h (.inl hearlier.ne)⟩
      by_cases hheld : s.barrierHeld level
      · obtain ⟨t, hnext, hwaits⟩ := run_barrierM_waits hq h (.inr hheld)
        exact ⟨t, hnext, fun _ => hwaits, fun hfree => absurd hheld hfree⟩
      · obtain ⟨t, hnext, hdeparts⟩ := run_barrierM_departs hq h hlast hheld
        exact ⟨t, hnext, fun hheld' => absurd hheld' hheld, fun _ => hdeparts⟩
    have hmodule (level : Nat) (h : level ≠ 5) : r level (run (barrierM level) s) :=
      hlevel level fun hpod => absurd hpod h
    refine ⟨hmodule 1 (by decide), hmodule 2 (by decide), hmodule 3 (by decide), hmodule 4 (by decide),
      fun hfeature hcopies => ?_⟩
    have hexec : exec .barPd s = run (barrierM 5) s := execBarPd_of_feature hq hfeature
    rw [hexec]
    exact hlevel 5 fun _ => hcopies
  · intro o pod s'
    exact ⟨fun hopen => congrArg _ (State.testBarrier_notReady hopen),
      fun hready hpod => ⟨congrArg _ (State.testBarrier_module hready hpod),
        (s.completeBarrier_noneOpen level u launch).openId_eq_none⟩,
      fun hready hpod => congrArg _ (State.testBarrier_pod hready hpod)⟩

end

section
/-! SUPPORT. What the accesses of the engines leave (O46): the graphs, and on every die the frame engines, are as they
were, whatever an access translates, reads, writes or makes take effect. -/

namespace Sys2Proof.Machine

/-! ## The graphs and the frame engines -/

/-- From `s` to `t` the graphs and the frame engines are the same. -/
structure State.SameEngines (s t : State) : Prop where
  graphs : t.graphs = s.graphs
  fe : ∀ d, (t.die d).fe = (s.die d).fe

namespace State.SameEngines

theorem of_eq {s t : State} (hgraphs : t.graphs = s.graphs) (hdies : t.dies = s.dies) : s.SameEngines t :=
  ⟨hgraphs, fun d => congrArg (fun m => (Sparse.get {} m d : Die).fe) hdies⟩

theorem refl (s : State) : s.SameEngines s := of_eq rfl rfl

theorem trans {s t u : State} (h : s.SameEngines t) (h' : t.SameEngines u) : s.SameEngines u :=
  ⟨h'.graphs.trans h.graphs, fun d => (h'.fe d).trans (h.fe d)⟩

theorem frame {s t : State} (h : s.SameEngines t) (d g : Nat) : t.frame d g = s.frame d g := by
  rw [State.frame, State.frame, h.fe]

/-- A step made or left out. -/
theorem ite {c : Prop} [Decidable c] {s t u : State} (ht : s.SameEngines t) (hu : s.SameEngines u) :
    s.SameEngines (if c then t else u) := by
  split
  · exact ht
  · exact hu

theorem foldl {α : Type} {g : State → α → State} (hg : ∀ (s : State) a, s.SameEngines (g s a)) (l : List α)
    (s : State) : s.SameEngines (l.foldl g s) :=
  List.foldlRecOn (motive := s.SameEngines) l g (refl s) fun t ht a _ => ht.trans (hg t a)

/-- A die changed, and not its frame engines. -/
theorem setDie {s : State} {d : Nat} {v : Die} (h : v.fe = (s.die d).fe) : s.SameEngines (s.setDie d v) where
  graphs := rfl
  fe e := by
    by_cases he : e = d
    · rw [he, State.setDie_die_same, h]
    · rw [State.setDie_die_ne _ _ he]

end State.SameEngines

/-! ## Memory (R70, R93, R107, R136) -/

theorem State.physWrite_sameEngines (s : State) (pa : Nat) (bs : List Byte) (key : Option (BitVec 512)) :
    s.SameEngines (s.physWrite pa bs key) :=
  ⟨by rw [State.physWrite_frame], fun d => by rw [State.physWrite_die]⟩

theorem State.dropTile_sameEngines (s : State) (e : Nat) (p : Nat → Bool) : s.SameEngines (s.dropTile e p) :=
  .ite (.of_eq rfl rfl) (.refl s)

theorem State.markApplied_sameEngines (s : State) (e origin : Nat) (st : Stamp) :
    s.SameEngines (s.setDie e ((s.die e).markApplied origin st)) := .setDie (by rw [Die.markApplied_frame])

theorem State.applyInval_sameEngines (s : State) (e : Nat) (i : Inval) : s.SameEngines (s.applyInval e i) := by
  obtain ⟨applied, hdie⟩ := s.applyInval_die e i
  refine ⟨?_, fun d => ?_⟩
  · have h := s.diesApart_applyInval e i
    unfold State.diesApart at h
    rw [h]
  · rw [hdie]
    refine (State.SameEngines.setDie ?_).fe d
    rfl

theorem State.settleDie_sameEngines (s : State) (force : Bool) (e : Nat) : s.SameEngines (s.settleDie force e) :=
  .foldl (fun t i => .ite (t.applyInval_sameEngines e i) (.refl t)) _ s

theorem State.applyHome_sameEngines (s : State) (f : Flight) : s.SameEngines (s.applyHome f) := by
  have hrekey : s.SameEngines (if f.pa < 0x8000000000 then s.rekey (lineOf f.pa) (some f.key) else s) := by
    rw [State.rekey_frame]
    exact .ite (.of_eq rfl rfl) (.refl s)
  unfold State.applyHome
  dsimp only
  generalize (if f.pa < 0x8000000000 then s.rekey (lineOf f.pa) (some f.key) else s) = u at hrekey ⊢
  have hput (m : List Host.Cell) (l : Sparse Line) : u.SameEngines { u with mem := m, lines := l } := .of_eq rfl rfl
  refine hrekey.trans ((hput _ _).trans ((State.markApplied_sameEngines _ _ _ _).trans
    ((State.dropTile_sameEngines _ _ _).trans (.foldl (fun t e => ?_) _ _))))
  have hinval (l : List Inval) : t.SameEngines (t.setDie e { t.die e with invals := l }) := .setDie rfl
  exact .ite (.refl t) (.ite (t.markApplied_sameEngines e _ _) ((hinval _).trans (State.settleDie_sameEngines _ _ _)))

theorem State.applyFlight_sameEngines (s : State) (f : Flight) : s.SameEngines (s.applyFlight f) := by
  unfold State.applyFlight
  split
  · exact s.applyHome_sameEngines f
  · next o _ =>
    obtain ⟨stamp, threads, cores, bolts, happly⟩ := s.applyBolt_eq f o
    rw [happly]
    exact (s.applyHome_sameEngines _).trans (.of_eq rfl rfl)

theorem State.drainPass_sameEngines (s : State) : s.SameEngines s.drainPass := by
  refine .foldl (fun t f => .ite ?_ (.refl t)) _ s
  exact .trans (t := { t with flights := t.flights.filter fun g => g.id ≠ f.id }) (.of_eq rfl rfl)
    (State.applyFlight_sameEngines _ f)

theorem State.drainN_sameEngines (n : Nat) (s : State) : s.SameEngines (State.drainN n s) := by
  induction n generalizing s with
  | zero => exact .refl s
  | succ n ih => exact .ite (.refl s) (s.drainPass_sameEngines.trans (ih _))

theorem State.drain_sameEngines (s : State) : s.SameEngines s.drain :=
  (State.drainN_sameEngines _ s).trans (.foldl
    (fun t _ => (t.settleDie_sameEngines _ _).trans (State.settleDie_sameEngines _ _ _)) _ _)

theorem State.startCollapse_sameEngines (s : State) (pa : Nat) : s.SameEngines (s.startCollapse pa) := by
  unfold State.startCollapse
  split
  · exact .ite (.of_eq rfl rfl) (.refl s)
  · exact .refl s

theorem State.sendFlight_sameEngines (s : State) (f : Flight) : s.SameEngines (s.sendFlight f) := by
  unfold State.sendFlight
  dsimp only
  generalize (s.holders f.pa != 0 || (s.collapsing f.pa).isSome) = held
  have hheld : s.SameEngines (if held = true then s.startCollapse f.pa else s) :=
    .ite (s.startCollapse_sameEngines f.pa) (.refl s)
  generalize (if held = true then s.startCollapse f.pa else s) = u at hheld ⊢
  have hsent (fs : List Flight) : u.SameEngines { u with flights := fs } := .of_eq rfl rfl
  exact hheld.trans (.ite (u.applyFlight_sameEngines _) (.ite (hsent _) ((hsent _).trans (State.drain_sameEngines _))))

/-- A stamp and an identity given out. -/
theorem State.stamped_sameEngines (s : State) (d : Nat) (front : Stamp) :
    s.SameEngines (s.takeStamp d front).2.fresh.2 :=
  .trans (t := (s.takeStamp d front).2) (.setDie rfl) (.of_eq rfl rfl)

theorem State.inject_sameEngines (s : State) (die : Nat) (front : Stamp) (pa : Nat) (bs : List Byte) (key : BitVec 512)
    (rel seq : Option Nat) : s.SameEngines (s.inject die front pa bs key rel seq).2 :=
  (s.stamped_sameEngines die front).trans (State.sendFlight_sameEngines _ _)

theorem State.boltSend_sameEngines (s : State) (die : Nat) (front : Stamp) (pa : Nat) (o : BoltOp) (key : BitVec 512)
    (rel seq : Option Nat) : s.SameEngines (s.boltSend die front pa o key rel seq).2.2 :=
  (s.stamped_sameEngines die front).trans (State.sendFlight_sameEngines _ _)

theorem State.keepCopy_sameEngines (s : State) (d pa : Nat) (key : BitVec 512) (pbmt : Nat) :
    s.SameEngines (s.keepCopy d pa key pbmt) := by
  have hcopies (m : Sparse Copy) : s.SameEngines (s.setDie d { s.die d with copies := m }) := .setDie rfl
  exact .ite ((hcopies _).trans (.of_eq rfl rfl)) (.refl s)

theorem State.readLine_sameEngines {s t : State} {d pa n pbmt : Nat} {front st : Stamp} {key : BitVec 512}
    {bs : List Byte} (h : s.readLine d front pa n key pbmt = some (bs, st, t)) : s.SameEngines t := by
  unfold State.readLine at h
  dsimp only at h
  generalize (if pbmt = 1 then homeDie pa else d) = e at h
  have hdrain : s.SameEngines (if s.dieCovers e front = true then s else s.drain) := .ite (.refl s) s.drain_sameEngines
  generalize (if s.dieCovers e front = true then s else s.drain) = u at h hdrain
  split at h
  · cases h
  · simp only [Option.some.injEq, Prod.mk.injEq] at h
    obtain ⟨-, -, rfl⟩ := h
    exact hdrain.trans (u.keepCopy_sameEngines d pa key pbmt)

/-! ## Translation (R34, R51) -/

theorem State.setAD_sameEngines {s t : State} {dxp e : Word} {at_ : Nat} {a : Acc} (h : s.setAD dxp e at_ a = some t) :
    s.SameEngines t := by
  unfold State.setAD at h
  split at h
  · cases h
    exact .refl s
  · split at h
    · split at h
      · cases h
        exact s.physWrite_sameEngines _ _ _
      · cases h
    · cases h
      exact s.physWrite_sameEngines _ _ _

theorem State.freshWalk_sameEngines (s : State) (die : Nat) (dxp : Word) (level : Level) (a : Acc) (va : Nat)
    (hint : Bool) : s.SameEngines (s.freshWalk die dxp level a va hint).2.2 := by
  unfold State.freshWalk
  split
  · exact .refl s
  · exact .refl s
  · exact .refl s
  · split
    · split
      · exact .refl s
      · split
        · next hset => exact State.setAD_sameEngines hset
        · exact .refl s
    · exact .refl s

theorem State.xlate_sameEngines (s : State) (core : Nat) (dxp : Word) (level : Level) (a : Acc) (va : Word) :
    s.SameEngines (s.xlate core dxp level a va).2 := by
  have hwalk := s.freshWalk_sameEngines (core / 32) dxp level a (va.toNat % 2 ^ 57) false
  unfold State.xlate
  dsimp only
  split
  · exact .refl s
  · split
    · exact .refl s
    · split
      · next hw =>
        rw [hw] at hwalk
        split
        · exact hwalk.trans (.of_eq rfl rfl)
        · exact hwalk
      · next hw =>
        rw [hw] at hwalk
        exact hwalk

/-! ## Accesses of an engine (R60, R99, R120) -/

/-- The module as a computation of an engine leaves it, however it ends. -/
def endState {α : Type} : EStateM.Result EngExit Eng α → State
  | .ok _ e => e.s
  | .error _ e => e.s

/-- A computation of an engine that changes neither the graphs nor the frame engines. -/
def E.SameEngines {α : Type} (act : E α) : Prop := ∀ e : Eng, e.s.SameEngines (endState (act e))

namespace E.SameEngines

theorem of_ok {α : Type} {act : E α} (h : act.SameEngines) {e e' : Eng} {x : α} (he : act e = .ok x e') :
    e.s.SameEngines e'.s := by
  have := h e
  rwa [he] at this

theorem of_error {α : Type} {act : E α} (h : act.SameEngines) {e e' : Eng} {x : EngExit} (he : act e = .error x e') :
    e.s.SameEngines e'.s := by
  have := h e
  rwa [he] at this

theorem pure {α : Type} (x : α) : E.SameEngines (Pure.pure x : E α) := fun e => .refl e.s
theorem eEnd {α : Type} (c : Nat) : E.SameEngines (Machine.eEnd c : E α) := fun e => .refl e.s
theorem eState : E.SameEngines Machine.eState := fun e => .refl e.s

theorem bind {α β : Type} {a : E α} {f : α → E β} (ha : a.SameEngines) (hf : ∀ x, (f x).SameEngines) :
    E.SameEngines (a >>= f) := by
  intro e
  simp only [Bind.bind, EStateM.bind]
  split
  · next hs => exact (ha.of_ok hs).trans (hf _ _)
  · next hs => exact ha.of_error hs

theorem ite {α : Type} {c : Prop} [Decidable c] {a b : E α} (ha : a.SameEngines) (hb : b.SameEngines) :
    E.SameEngines (if c then a else b) := by
  split
  · exact ha
  · exact hb

/-- A computation that a check may end. -/
theorem orEnd {α : Type} {c : Prop} [Decidable c] {n : Nat} {k : Unit → E α} (hk : ∀ u, (k u).SameEngines) :
    E.SameEngines (if c then Machine.eEnd n >>= k else k ()) := ite (bind (eEnd n) hk) (hk ())

theorem eOnce {act : E Nat} (h : act.SameEngines) : E.SameEngines (Machine.eOnce act) := by
  intro e
  unfold Machine.eOnce
  split
  · exact .refl e.s
  · split
    · next hs => simpa only [endState] using h.of_ok hs
    · next hs => exact h.of_error hs

theorem eTarget (p : Party) (w : Bool) (rem : Nat) (va : Word) (size : Nat) :
    E.SameEngines (Machine.eTarget p w rem va size) := by
  intro e
  have hx := e.s.xlate_sameEngines p.core p.dxp p.level ⟨if w then 11 else 10, !w, w, false, false, false, size⟩ va
  unfold Machine.eTarget
  dsimp only
  generalize e.s.xlate p.core p.dxp p.level _ va = r at hx ⊢
  obtain ⟨x, u⟩ := r
  split
  · exact .refl e.s
  · cases x with
    | ok | page | access | wait => exact hx

theorem eReadAt (p : Party) (rem : Nat) (va : Word) (n : Nat) : E.SameEngines (Machine.eReadAt p rem va n) := by
  refine bind (eTarget p false rem va n) fun t e => ?_
  split
  · exact .refl e.s
  · split
    · exact .refl e.s
    · split
      · simpa only [endState] using e.s.drain_sameEngines
      · next hline => simpa only [endState] using State.readLine_sameEngines hline

theorem eWriteAt (p : Party) (rem : Nat) (va : Word) (bs : List Byte) (rel : Option Nat) :
    E.SameEngines (Machine.eWriteAt p rem va bs rel) := by
  refine bind (eTarget p true rem va bs.length) fun t e => ?_
  split
  · exact .of_eq rfl rfl
  · split
    · exact .refl e.s
    · split
      · simpa only [endState] using e.s.drain_sameEngines
      · simpa only [endState] using e.s.inject_sameEngines p.die e.cap t.pa bs (e.s.slot t.slot).key rel none

theorem eRead (p : Party) (rem : Nat) (va : Word) (n : Nat) : E.SameEngines (Machine.eRead p rem va n) :=
  bind (eOnce (bind (eReadAt p rem va n) fun _ => pure _)) fun _ => pure _

theorem eWrite (p : Party) (rem : Nat) (va : Word) (bs : List Byte) (rel : Option Nat) :
    E.SameEngines (Machine.eWrite p rem va bs rel) :=
  bind (eOnce (bind (eWriteAt p rem va bs rel) fun _ => pure _)) fun _ => pure _

theorem ePut (p : Party) (rem : Nat) (va : Word) (bs : List Byte) (rel : Option Nat) :
    E.SameEngines (Machine.ePut p rem va bs rel) :=
  bind (eOnce (bind (eWriteAt p rem va bs rel) fun _ e => .refl e.s)) fun _ => pure _

theorem eReadAll (p : Party) (va : Word) (n after : Nat) : E.SameEngines (Machine.eReadAll p va n after) :=
  go n va n
where
  go (fuel : Nat) (va : Word) (n : Nat) : E.SameEngines (Machine.eReadAll.go p after fuel va n) := by
    induction fuel generalizing va n with
    | zero => exact pure _
    | succ fuel ih => exact ite (pure _) (bind (eRead p _ va _) fun _ => bind (ih _ _) fun _ => pure _)

theorem eWriteAll (p : Party) (va : Word) (bs : List Byte) (after : Nat) :
    E.SameEngines (Machine.eWriteAll p va bs after) :=
  go bs.length va bs
where
  go (fuel : Nat) (va : Word) (bs : List Byte) : E.SameEngines (Machine.eWriteAll.go p after fuel va bs) := by
    induction fuel generalizing va bs with
    | zero => exact pure _
    | succ fuel ih => exact ite (pure _) (bind (ePut p _ va _ none) fun _ => ih _ _)

theorem eDword (p : Party) (va : Word) (rem : Nat) : E.SameEngines (Machine.eDword p va rem) :=
  bind (eRead p rem va 8) fun _ => pure _

theorem eSetDword (p : Party) (va v : Word) (rel : Option Nat) (rem : Nat) :
    E.SameEngines (Machine.eSetDword p va v rel rem) := eWrite p rem va _ rel

theorem eSettled : E.SameEngines Machine.eSettled := by
  intro e
  have hdrain : e.s.SameEngines (if e.s.settled then e.s else e.s.drain) := .ite (.refl _) e.s.drain_sameEngines
  unfold Machine.eSettled
  dsimp only
  generalize (if e.s.settled then e.s else e.s.drain) = u at hdrain ⊢
  split
  · exact hdrain
  · exact hdrain

theorem eBolt (p : Party) (va : Word) (op n : Nat) (rel : Option Nat) :
    E.SameEngines (Machine.eBolt p va op n rel) := by
  refine orEnd fun _ => bind eSettled fun _ => eOnce (bind (fun e => ?_) fun t e => ?_)
  · split
    · next hs => simpa only [endState] using (eTarget p true 16 va 16).of_error hs
    · exact eTarget p true 16 va 16 e
  · split
    · exact .refl e.s
    · split
      · exact .refl e.s
      · split
        · simpa only [endState] using e.s.drain_sameEngines
        · simpa only [endState] using e.s.boltSend_sameEngines p.die e.cap t.pa
            ⟨op, n, 0, if op = 1 then e.wrote else e.front⟩ (e.s.slot t.slot).key rel none

end E.SameEngines

end Sys2Proof.Machine

end

section
/-! SUPPORT. The graph walker (O46): a graph whose failed node is completed ends, unless the walker has to wait at the
node's bytes (R146, R148). -/

namespace Sys2Proof.Machine

/-! ## What the driver and the issuers are told (R367, R388, R427) -/

theorem State.event_sameEngines (s : State) (kind die core slot code : Nat) (data addr aux : Word) :
    s.SameEngines (s.event kind die core slot code data addr aux) := by
  unfold State.event
  dsimp only
  split
  · exact .of_eq rfl rfl
  · exact (s.physWrite_sameEngines _ _ _).trans (.ite (.of_eq rfl rfl) (.of_eq rfl rfl))

theorem State.mapThread_sameEngines (s : State) (q r : Nat) (f : Thread → Thread) :
    s.SameEngines (s.mapThread q r f) := by
  rw [State.mapThread_frame]
  exact .of_eq rfl rfl

theorem fillTicket_sameEngines (id : Nat) (v : Word) (front : Stamp) (s : State) :
    s.SameEngines (fillTicket id v front s) := by
  have hraise (t : State) (c : Nat) : t.SameEngines (t.raiseFrontier c front) := .of_eq rfl rfl
  refine .foldl (fun t x => .ite ?_ (.refl t)) _ s
  exact (t.mapThread_sameEngines _ _ _).trans (hraise _ _)

theorem State.finishTicket_sameEngines (s : State) (id : Nat) (v : Word) (front : Stamp) (ticket : Nat) (err : Bool)
    (issuer : Option (Nat × Nat)) (die core : Nat) (pc : Word) :
    s.SameEngines (s.finishTicket id v front ticket err issuer die core pc) := by
  refine .ite (.of_eq rfl rfl) (.ite (fillTicket_sameEngines id v front s) (.ite (.refl s) ?_))
  cases issuer with
  | none => exact s.event_sameEngines _ _ _ _ _ _ _ _
  | some i => exact s.mapThread_sameEngines _ _ _

theorem Completion.write_sameEngines (c : Completion) (p : Party) : E.SameEngines (c.write p) :=
  .bind (.eTarget p true 16 _ 16) fun _ => .orEnd fun _ => .bind (.eWrite p 8 _ _ none) fun _ =>
    .eWrite p 8 _ _ (some 4)

theorem State.completionGo_sameEngines (s : State) (c : Completion) : s.SameEngines (s.completionGo c) := by
  have htold (u : State) : u.SameEngines (if c.irq then u.raiseVector c.vec else u) :=
    .ite (.of_eq rfl rfl) (.refl u)
  have hlater (u : State) (cs : List Completion) : u.SameEngines { u with completions := cs } := .of_eq rfl rfl
  have hfront (u : State) (st : Stamp) : u.SameEngines (u.setDie c.die { u.die c.die with dispatcher := st }) :=
    .setDie rfl
  have hwrite := c.write_sameEngines ⟨c.die, 32 * c.die, c.dxp, .supervisor⟩
  unfold State.completionGo
  dsimp only
  split
  · exact .ite (htold s) (hlater s _)
  · have hdrain := s.drain_sameEngines
    generalize s.drain = u at hdrain ⊢
    refine .ite (htold s) ?_
    split
    · next hs => exact hdrain.trans ((hwrite.of_ok hs).trans ((hfront _ _).trans (.ite (htold _) (hlater _ _))))
    · next hs => exact hdrain.trans ((hwrite.of_error hs).trans (hlater _ _))
    · exact (s.event_sameEngines _ _ _ _ _ _ _ _).trans (htold _)

theorem State.completePacket_sameEngines (s : State) (q : Nat) (idx : BitVec 32) (status : Nat) (info : Word) :
    s.SameEngines (s.completePacket q idx status info) := by
  unfold State.completePacket
  dsimp only
  split
  · exact .refl s
  · exact (s.completionGo_sameEngines _).trans (.of_eq rfl rfl)

theorem State.graphTicket_sameEngines (s : State) (g : Graph) (v : Word) (err : Bool) :
    s.SameEngines (s.graphTicket g v err) := by
  have hfront (st : Stamp) : s.SameEngines (s.setDie 0 { s.die 0 with dispatcher := st }) := .setDie rfl
  unfold State.graphTicket
  split
  · exact (hfront _).trans (State.completePacket_sameEngines _ _ _ _ _)
  · exact s.finishTicket_sameEngines _ _ _ _ _ _ _ _ _

/-! ## The graphs of an identity -/

theorem State.graph_id {s : State} {id : Nat} {g : Graph} (h : s.graph id = some g) : g.id = id :=
  of_decide_eq_true (List.find?_some (p := fun g : Graph => decide (g.id = id)) h)

/-- Every graph of an identity has a property. -/
def State.EachGraph (s : State) (id : Nat) (P : Graph → Prop) : Prop := ∀ g ∈ s.graphs, g.id = id → P g

theorem State.EachGraph.mono {s : State} {id : Nat} {P Q : Graph → Prop} (h : s.EachGraph id P)
    (himp : ∀ g, P g → Q g) : s.EachGraph id Q := fun g hg hid => himp g (h g hg hid)

theorem State.EachGraph.of_graph {s : State} {id : Nat} {P : Graph → Prop} (h : s.EachGraph id P) {g : Graph}
    (hg : s.graph id = some g) : P g :=
  h g (List.mem_of_find?_eq_some hg) (State.graph_id hg)

theorem State.setGraph_eachGraph (s : State) {g : Graph} {P : Graph → Prop} (h : P g) :
    (s.setGraph g).EachGraph g.id P := by
  intro x hx hid
  obtain ⟨y, -, rfl⟩ := List.mem_map.1 hx
  split at hid
  · next hy =>
    rw [if_pos hy]
    exact h
  · next hy => exact absurd hid hy

theorem State.setGraph_graph {s : State} {g h : Graph} (hg : s.graph h.id = some g) :
    (s.setGraph h).graph h.id = some h := by
  have hsome : (s.setGraph h).graph h.id ≠ none := by
    intro hnone
    have hmem : h ∈ (s.setGraph h).graphs :=
      List.mem_map.2 ⟨g, List.mem_of_find?_eq_some hg, if_pos (State.graph_id hg)⟩
    exact List.find?_eq_none.1 hnone h hmem (decide_eq_true rfl)
  obtain ⟨x, hx⟩ := Option.ne_none_iff_exists'.1 hsome
  rw [hx, (s.setGraph_eachGraph (P := (· = h)) rfl).of_graph hx]

/-- What a walker's work keeps of the graphs of one identity: all but the accesses made and the pager's answer. -/
theorem State.walk_eachGraph {α : Type} {s : State} {g : Graph} {act : E α} {P : Graph → Prop}
    (hact : act.SameEngines) (h : s.EachGraph g.id P)
    (hP : ∀ x past asked refused, P x → P { x with past := past, asked := asked, refused := refused }) :
    (s.walk g act).state.EachGraph g.id P := by
  have hput {u : State} (hu : u.graphs = s.graphs) (put : Graph → Graph) (hput : ∀ x, P x → P (put x))
      (d : Sparse Die) : ({ u with dies := d, graphs := u.graphs.map fun x => if x.id = g.id then put x else x } :
        State).EachGraph g.id P := by
    intro x hx hid
    obtain ⟨y, hy, rfl⟩ := List.mem_map.1 hx
    rw [hu] at hy
    split at hid
    · next hyid =>
      rw [if_pos hyid]
      exact hput y (h y hy hyid)
    · next hyid => exact absurd hid hyid
  unfold State.walk
  dsimp only
  split
  · exact hput rfl _ (fun x => hP x _ _ _) _
  · split
    · exact h
    · split
      · next hs => exact hput (hact.of_ok hs).graphs _ (fun x => hP x _ _ _) _
      · next hs => exact hput (hact.of_error hs).graphs _ (fun x => hP x _ _ _) _
      · next hs =>
        split
        · exact hput (hact.of_error hs).graphs _ (fun x => hP x _ _ _) _
        · exact hput (hact.of_error hs).graphs _ (fun x => hP x _ _ _) _
      · next hs => exact hput (hact.of_error hs).graphs _ (fun x => hP x _ _ _) _

/-! ## Tasks, and the end of a graph (R146) -/

theorem Graph.fail_ending (g : Graph) (code k : Nat) : (g.fail code k).ending ≠ none := by
  unfold Graph.fail
  split
  · next h => exact Option.isSome_iff_ne_none.1 h
  · exact Option.some_ne_none _

theorem Graph.fail_todo (g : Graph) (code k : Nat) : (g.fail code k).todo = g.todo := by
  unfold Graph.fail
  split <;> rfl

theorem Graph.fail_id (g : Graph) (code k : Nat) : (g.fail code k).id = g.id := by
  unfold Graph.fail
  split <;> rfl

/-- With nothing to do for a graph a walker does nothing. -/
theorem State.graphTasks_of_todo_nil {s : State} {gid : Nat} (h : ∀ g, s.graph gid = some g → g.todo = [])
    (fuel : Nat) : s.graphTasks gid fuel = s := by
  cases fuel with
  | zero => rfl
  | succ fuel =>
    unfold State.graphTasks
    cases hg : s.graph gid with
    | none => rfl
    | some g =>
      dsimp only
      rw [h g hg]

/-- A graph that neither has anything to do nor is ending is left as it is. -/
theorem State.runGraph_idle {s : State} {gid : Nat} {g : Graph} (hg : s.graph gid = some g) (htodo : g.todo = [])
    (hending : g.ending = none) : s.runGraph gid = s := by
  have htasks := State.graphTasks_of_todo_nil (s := s) (gid := gid)
    fun x hx => Option.some.inj (hg.symm.trans hx) ▸ htodo
  unfold State.runGraph
  dsimp only
  rw [htasks, hg]
  dsimp only
  rw [if_pos htodo, State.endGraph, hg]
  dsimp only
  rw [hending]

/-- An ending graph's accesses change neither the graphs nor the frame engines. -/
theorem graphFin_sameEngines (g : Graph) (code k : Nat) : E.SameEngines (graphFin g code k) := by
  have hset (v w : Word) : E.SameEngines (do
      eSetDword g.party (g.header + 8) v none
      eSettled
      eSetDword g.party (g.header + 8) w (some 4)) :=
    .bind (.eSetDword _ _ _ _ _) fun _ => .bind .eSettled fun _ => .eSetDword _ _ _ _ _
  have harrive : E.SameEngines (do
      let b ← eDword g.party (g.header + 16)
      if b ≠ 0 then
        let _ ← eBolt g.party b 2 0 (some 4)) :=
    .bind (.eDword _ _ _) fun _ => .ite (.bind (.eBolt _ _ _ _ _) fun _ => .pure _) (.pure _)
  unfold graphFin
  refine .bind (fun e => ?_) fun _ e => ?_
  · dsimp only
    split
    · next hs => exact (hset _ _).of_error hs
    · next hs =>
      split
      · exact (hset _ _).of_error hs
      · exact (hset _ _).of_error hs
    · exact hset _ _ e
  · dsimp only
    split
    · next hs => exact harrive.of_error hs
    · next hs =>
      split
      · exact harrive.of_error hs
      · exact harrive.of_error hs
    · exact harrive e

/-- An ending graph stays so until it is gone. -/
theorem State.endGraph_eachGraph {s : State} {gid : Nat} (h : s.EachGraph gid (·.ending ≠ none)) :
    (s.endGraph gid).EachGraph gid (·.ending ≠ none) := by
  have hgone (t : State) (g : Graph) (v : Word) (err : Bool) :
      (({ t with graphs := t.graphs.filter (fun x => x.id ≠ gid) } : State).graphTicket g v err).EachGraph gid
        (·.ending ≠ none) := by
    intro x hx hid
    rw [(State.graphTicket_sameEngines _ _ _ _).graphs] at hx
    exact absurd hid (of_decide_eq_true (List.mem_filter.1 hx).2)
  unfold State.endGraph
  split
  · exact h
  · next g hg =>
    have hid : g.id = gid := State.graph_id hg
    split
    · exact h
    · next code k _ =>
      split
      · exact h
      · have hwalk : (s.walk { g with todo := [] } (graphFin g code k)).state.EachGraph gid (·.ending ≠ none) := by
          subst hid
          exact State.walk_eachGraph (g := { g with todo := [] }) (graphFin_sameEngines g code k) h
            fun _ _ _ _ hx => hx
        generalize s.walk { g with todo := [] } (graphFin g code k) = w at hwalk ⊢
        cases w with
        | done r t => exact hgone t _ _ _
        | fault t => exact hgone t _ _ _
        | wait t => exact hwalk

/-- A failed node completed ends its graph, unless the walker has to wait (R146, R148). -/
theorem State.graphTask_finish_bad {s : State} {g : Graph} {n st : Nat} {rest : List GraphTask}
    (hg : s.EachGraph g.id (· = g)) (hending : g.ending = none) :
    let r := s.graphTask g (.finish n st true) rest
    (r.1 = true ∧ r.2.EachGraph g.id fun x => x.ending ≠ none ∧ x.todo = rest) ∨
      (r.1 = false ∧ r.2.EachGraph g.id fun x => x.todo = g.todo) := by
  have hfail (t : State) (h : Graph) (hid : h.id = g.id) (htodo : h.todo = rest) :
      (t.setGraph (h.fail 3 n)).EachGraph g.id fun x => x.ending ≠ none ∧ x.todo = rest := by
    rw [← hid, ← h.fail_id 3 n]
    exact t.setGraph_eachGraph ⟨h.fail_ending 3 n, (h.fail_todo 3 n).trans htodo⟩
  have hgo : ¬ (g.ending.isSome && !(GraphTask.finish n st true).completes) = true := by
    rw [hending]
    exact Bool.false_ne_true
  have hkept : s.EachGraph g.id fun x => x.todo = g.todo := hg.mono fun x hx => hx ▸ rfl
  unfold State.graphTask
  dsimp only
  rw [if_neg hgo]
  generalize hw : s.walk g _ = w
  have hwalk : w.state.EachGraph g.id fun x => x.todo = g.todo := hw ▸ State.walk_eachGraph
    (.bind (.eReadAll _ _ _ _) fun _ => .bind (.eSetDword _ _ _ _ _) fun _ =>
      .bind (.eSetDword _ _ _ _ _) fun _ => .pure _) hkept fun _ _ _ _ hx => hx
  cases w with
  | done bs t => exact .inl ⟨rfl, hfail t _ rfl rfl⟩
  | fault t => exact .inl ⟨rfl, hfail t _ rfl rfl⟩
  | wait t => exact .inr ⟨rfl, hwalk⟩

section
variable {s : State} {g : Graph} {n st : Nat}

/-- A walker whose one task for a graph is the completion of a failed node: it has ended the graph, or it waits. -/
theorem State.graphTasks_finish_bad (hg : s.graph g.id = some g) (heach : s.EachGraph g.id (· = g))
    (htodo : g.todo = [.finish n st true]) (hending : g.ending = none) (fuel : Nat) :
    (s.graphTasks g.id (fuel + 1)).EachGraph g.id (fun x => x.ending ≠ none ∧ x.todo = []) ∨
      (s.graphTasks g.id (fuel + 1)).EachGraph g.id (fun x => x.todo = [.finish n st true]) := by
  have htask := State.graphTask_finish_bad (n := n) (st := st) (rest := []) heach hending
  rw [State.graphTasks, hg]
  dsimp only
  rw [htodo] at htask ⊢
  dsimp only
  generalize s.graphTask g (.finish n st true) [] = r at htask ⊢
  obtain ⟨b, t⟩ := r
  obtain ⟨rfl, hended⟩ | ⟨rfl, hwaits⟩ := htask
  · dsimp only
    rw [State.graphTasks_of_todo_nil fun x hx => (hended.of_graph hx).2]
    exact .inl hended
  · exact .inr hwaits

/-- The walker then ends the graph where it can, and otherwise leaves it as it is. -/
theorem State.runGraph_finish_bad (hg : s.graph g.id = some g) (heach : s.EachGraph g.id (· = g))
    (htodo : g.todo = [.finish n st true]) (hending : g.ending = none) :
    (s.runGraph g.id).EachGraph g.id fun x => x.ending ≠ none ∨ .finish n st true ∈ x.todo := by
  have hfuel : g.todo.length + 2 * g.nnode + 80 = g.todo.length + 2 * g.nnode + 79 + 1 := rfl
  have htasks := State.graphTasks_finish_bad hg heach htodo hending (g.todo.length + 2 * g.nnode + 79)
  unfold State.runGraph
  dsimp only
  rw [hg]
  dsimp only
  rw [hfuel]
  generalize s.graphTasks g.id _ = t at htasks ⊢
  obtain hended | hwaits := htasks
  · have hends : t.EachGraph g.id (·.ending ≠ none) := hended.mono fun _ hx => hx.1
    split
    · split
      · exact (State.endGraph_eachGraph hends).mono fun _ hx => .inl hx
      · exact hends.mono fun _ hx => .inl hx
    · exact hends.mono fun _ hx => .inl hx
  · have hkept : t.EachGraph g.id fun x => x.ending ≠ none ∨ .finish n st true ∈ x.todo :=
      hwaits.mono fun _ hx => .inr (hx ▸ List.mem_singleton_self _)
    split
    · next x hx =>
      rw [hwaits.of_graph hx, if_neg (List.cons_ne_nil _ _)]
      exact hkept
    · exact hkept

/-- After a failed node's completion its graph is ending, or the walker waits with the completion still to do (R146). -/
theorem State.completeNode_bad (hg : s.graph g.id = some g) (htodo : g.todo = []) (hending : g.ending = none) :
    (s.completeNode g n st true).EachGraph g.id fun x => x.ending ≠ none ∨ .finish n st true ∈ x.todo := by
  unfold State.completeNode
  rw [htodo]
  exact State.runGraph_finish_bad (g := { g with results := _, todo := [.finish n st true] }) (State.setGraph_graph hg)
    (s.setGraph_eachGraph rfl) rfl hending

end

/-- GRAPH_NODE_COMPLETE completes a node whose work is done, where its walker is idle. -/
theorem graphNodeComplete_idle {s : State} {g : Graph} {n st op : Nat} {bad : Bool} (hg : s.graph g.id = some g)
    (hresult : g.results.find? (fun r => r.1 = n) = some (n, st, bad, op)) (hop : s.opDone op = true)
    (htodo : g.todo = []) (hending : g.ending = none) :
    exec (.graphNodeComplete g.id n) s = .next (s.completeNode g n st bad) := by
  have hexec : exec (.graphNodeComplete g.id n) s = execGraphNodeComplete g.id n s := rfl
  rw [hexec, execGraphNodeComplete, State.runGraph_idle hg htodo hending, hg]
  dsimp only
  rw [hresult]
  dsimp only
  rw [if_pos hop]

end Sys2Proof.Machine

end

section
/-! SUPPORT. The frame engines and the format-conversion engine (O46): their queues, what the head of a queue leaves
when its work meets no fault, and with which code that work ends. -/

namespace Sys2Proof.Machine

/-! ## The queues of the units -/

@[simp] theorem State.setFrame_frame_same (s : State) (d g : Nat) (f : FrameEngine) :
    (s.setFrame d g f).frame d g = f := by
  unfold State.frame State.setFrame
  rw [State.setDie_die_same, Sparse.get_set_same]

/-- A queue that was set is read back. -/
theorem State.setUnitQueue_unitQueue (s : State) (u : Nat) (l : List Command) :
    (s.setUnitQueue u l).unitQueue u = l := by
  unfold State.unitQueue State.setUnitQueue
  split
  · rw [State.setCore_core_same]
  · split
    · rw [State.setDie_die_same]
    · split
      · rw [State.setDie_die_same, Sparse.get_set_same]
      · rw [State.setDie_die_same]

theorem State.setUnitQueue_mem (s : State) (u : Nat) (l : List Command) : (s.setUnitQueue u l).mem = s.mem := by
  unfold State.setUnitQueue
  split
  · rfl
  · split
    · rfl
    · split
      · rfl
      · rfl

/-- The queue of a frame engine set changes nothing else of the engine. -/
theorem State.setUnitQueue_frame {d g : Nat} (hd : d < 8) (hg : g < 4) (s : State) (l : List Command) :
    (s.setUnitQueue (264 + 4 * d + g) l).frame d g = { s.frame d g with queue := l } := by
  have hset : s.setUnitQueue (264 + 4 * d + g) l = s.setFrame d g { s.frame d g with queue := l } := by
    have hdie : (264 + 4 * d + g - 264) / 4 = d := by omega
    have heng : (264 + 4 * d + g - 264) % 4 = g := by omega
    rw [State.setUnitQueue, if_neg (by omega), if_neg (by omega), if_pos (by omega), hdie, heng]
    rfl
  rw [hset, State.setFrame_frame_same]

/-! ## The head of a queue -/

/-- The head of a queue once its work has ended without a fault. -/
def Command.ended (c : Command) (e : Eng) : Command :=
  { c with front := e.front, done := e.n, wrote := e.wrote, past := [] }

theorem State.runHead_ok {s : State} {u : Nat} {c c' : Command} {l : List Command} {e : Eng}
    {act : Command → E Command} (hqueue : s.unitQueue u = c :: l) (hstage : c.pagerStage = 0)
    (hact : act c (c.resume s) = .ok c' e) :
    s.runHead u act = some (e.s.setUnitQueue u (c'.ended e :: l)) := by
  unfold Command.resume at hact
  unfold State.runHead
  rw [hqueue]
  dsimp only
  rw [if_neg (not_not_intro hstage), hact]
  rfl

/-- A command at the head of a frame engine's queue that is neither finished nor with the pager. -/
structure State.FrameHead (s : State) (d g : Nat) (c : Command) (l : List Command) : Prop where
  die : d < 8
  eng : g < 4
  queue : s.unitQueue (264 + 4 * d + g) = c :: l
  stage : c.pagerStage = 0
  code : c.code = none

/-- A frame engine's step on a head command of the kind asked for, where its work meets no fault. -/
theorem State.FrameHead.frameStep_ok {s : State} {d g : Nat} {c c' : Command} {l : List Command} {e : Eng}
    {want : Command → Bool} {act : Command → E Command} (h : s.FrameHead d g c l) (hwant : want c = true)
    (hact : act c (c.resume s) = .ok c' e) :
    s.frameStep d g want act = e.s.setUnitQueue (264 + 4 * d + g) (c'.ended e :: l) := by
  have hgo : (c.code.isNone && decide (c.pagerStage = 0) && want c) = true := by rw [h.code, h.stage, hwant]; rfl
  unfold State.frameStep
  rw [Nat.mod_eq_of_lt h.die, Nat.mod_eq_of_lt h.eng]
  dsimp only
  rw [h.queue]
  refine (if_pos hgo).trans ?_
  rw [State.runHead_ok h.queue h.stage hact]
  rfl

theorem State.unitQueue_head_ended (s : State) (u : Nat) (c : Command) (e : Eng) (l : List Command) :
    ((s.setUnitQueue u (c.ended e :: l)).unitQueue u).head?.map (·.code) = some c.code := by
  rw [State.setUnitQueue_unitQueue]
  rfl

/-! ## What a computation of an engine ends with -/

/-- Whatever a computation of an engine, begun in `pre`, ends with when it meets no fault satisfies `post`. -/
def E.Ends {α : Type} (pre : Eng → Prop) (act : E α) (post : α → Eng → Prop) : Prop :=
  ∀ e, pre e → ∀ x e', act e = .ok x e' → post x e'

namespace E.Ends

theorem bind {α β : Type} {pre mid : Eng → Prop} {post : β → Eng → Prop} {a : E α} {f : α → E β}
    (ha : a.Ends pre fun _ => mid) (hf : ∀ x, (f x).Ends mid post) : E.Ends pre (a >>= f) post := by
  intro e he y e'' h
  simp only [Bind.bind, EStateM.bind] at h
  split at h
  · next x e' hs => exact hf x e' (ha e he x e' hs) y e'' h
  · cases h

theorem ite {α : Type} {pre : Eng → Prop} {post : α → Eng → Prop} {c : Prop} [Decidable c] {a b : E α}
    (ha : a.Ends pre post) (hb : b.Ends pre post) : E.Ends pre (if c then a else b) post := by
  split
  · exact ha
  · exact hb

theorem eEnd {α : Type} {pre : Eng → Prop} {post : α → Eng → Prop} (c : Nat) :
    E.Ends pre (Machine.eEnd c : E α) post := by
  intro e _ x e' h
  cases h

theorem pure {α : Type} {pre : Eng → Prop} {post : α → Eng → Prop} {x : α} (h : ∀ e, pre e → post x e) :
    E.Ends pre (Pure.pure x) post := by
  intro e he y e' hy
  cases hy
  exact h e he

/-- A step of which nothing need be known. -/
theorem any {α : Type} (act : E α) : act.Ends (fun _ => True) fun _ _ => True := fun _ _ _ _ _ => trivial

/-- A computation that a check may end. -/
theorem orEnd {α : Type} {pre : Eng → Prop} {post : α → Eng → Prop} {c : Prop} [Decidable c] {n : Nat}
    {k : Unit → E α} (hk : (k ()).Ends pre post) : E.Ends pre (if c then Machine.eEnd n >>= k else k ()) post :=
  ite (bind (mid := pre) (eEnd n) (fun _ => hk)) hk

end E.Ends

/-! ## The codes with which work ends (R375, R378) -/

theorem resizeData_ends (d g : Nat) (c : Command) :
    (resizeData d g c).Ends (fun _ => True) fun c' _ => c'.code = some 0 := by
  unfold resizeData
  refine .bind (.any _) fun s => .orEnd ?_
  split
  · exact .eEnd 1
  · exact .orEnd (.orEnd (.bind (.any _) fun _ => .bind (.any _) fun _ => .bind (.any _) fun _ =>
      .bind (.any _) fun _ => .bind (.any _) fun _ => .pure fun _ _ => rfl))

theorem fcvData_ends (d : Nat) (c : Command) :
    (fcvData d c).Ends (fun _ => True) fun c' _ => c'.code = some 0 := by
  have hrest (n : Nat) : E.Ends (fun _ => True) (do eSettled; pure { c with code := some 0, follow := w64 n })
      fun c' _ => c'.code = some 0 := .bind (.any _) fun _ => .pure fun _ _ => rfl
  unfold fcvData
  refine .bind (.any _) fun s => .orEnd ?_
  split
  · exact .eEnd 1
  · exact .ite (.bind (.any _) hrest) (.bind (.any _) hrest)

/-! ## Access units (R373) -/

theorem E.SameEngines.ends {α : Type} {act : E α} (h : act.SameEngines) (s : State) :
    act.Ends (fun e => s.SameEngines e.s) fun _ e => s.SameEngines e.s :=
  fun _ he _ _ hact => he.trans (h.of_ok hact)

theorem writeContext_sameEngines (p : Party) (base : Word) (l : List (Nat × Byte)) :
    E.SameEngines (writeContext p base l) := by
  induction l with
  | nil => exact .pure _
  | cons x l ih => exact .bind (.eWrite _ _ _ _ _) fun _ => ih

theorem writeCells_sameEngines (p : Party) (l : List (Word × Byte)) : E.SameEngines (writeCells p l) := by
  induction l with
  | nil => exact .pure _
  | cons x l ih => exact .bind (.ePut _ _ _ _ _) fun _ => ih

theorem writeRows_sameEngines (p : Party) (pitch after : Nat) (va : Word) (l : List (List Byte)) :
    E.SameEngines (writeRows p pitch after va l) := by
  induction l generalizing va with
  | nil => exact .pure _
  | cons r l ih => exact .bind (.eWriteAll _ _ _ _) fun _ => ih _

theorem readContext_sameEngines (p : Party) (base : Word) (len : Nat) (l : List Nat) :
    E.SameEngines (readContext p base len l) := by
  induction l with
  | nil => exact .pure _
  | cons i l ih =>
    exact .ite (.bind (.eRead _ _ _ _) fun _ => .bind ih fun _ => .pure _)
      (.bind (.pure _) fun _ => .bind ih fun _ => .pure _)

/-- One access unit of a frame engine is counted, as decoded or as one that could not be. -/
def State.countsUnit (s : State) (d g : Nat) (t : State) : Prop :=
  ((t.frame d g).fecnt, (t.frame d g).feerr) ∈ [((s.frame d g).fecnt + 1, (s.frame d g).feerr),
    ((s.frame d g).fecnt, (s.frame d g).feerr + 1)]

theorem State.countsUnit_setFrame {s t : State} {d g : Nat} (h : s.SameEngines t) (err : Bool)
    (ctxs : List (Nat × FrameCtx)) : s.countsUnit d g (t.setFrame d g { t.frame d g with
      fecnt := if err then (t.frame d g).fecnt else (t.frame d g).fecnt + 1
      feerr := if err then (t.frame d g).feerr + 1 else (t.frame d g).feerr
      ctxs := ctxs }) := by
  rw [State.countsUnit, State.setFrame_frame_same, h.frame]
  cases err with
  | false => exact List.mem_cons_self
  | true => exact List.mem_cons_of_mem _ List.mem_cons_self

/-- The status word of an access unit is written and the unit counted, once its planes are performed (R373). -/
theorem statusWord_ends {s : State} {d g rem : Nat} {p : Party} {va : Word} {v : List Byte}
    {count : State → FrameEngine} {done : Eng → Command}
    (hcount : ∀ t, s.SameEngines t → s.countsUnit d g (t.setFrame d g (count t)))
    (hdone : ∀ e, (done e).code = some 0) :
    E.Ends (fun e => s.SameEngines e.s) (do
      eSettled
      ePut p rem va v none
      eMod fun t => t.setFrame d g (count t)
      fun e => .ok (done e) e) fun c' e => c'.code = some 0 ∧ s.countsUnit d g e.s := by
  refine .bind (E.SameEngines.eSettled.ends s) fun _ => .bind ((E.SameEngines.ePut _ _ _ _ _).ends s) fun _ =>
    .bind (mid := fun e => s.countsUnit d g e.s) (fun e he x e' h => ?_) fun _ e he x e' h => ?_
  · cases h
    exact hcount e.s he
  · cases h
    exact ⟨hdone _, he⟩

theorem decodeStore_ends (s : State) (d g k newseq pitch : Nat) (c : Command) (x : FrameCtx) (bs : List Byte)
    (o : Config.FrameOut) : (decodeStore d g k newseq pitch c x bs o).Ends (fun e => s.SameEngines e.s)
      fun c' e => c'.code = some 0 ∧ s.countsUnit d g e.s := by
  unfold decodeStore
  dsimp only
  refine .bind ((writeContext_sameEngines _ _ _).ends s) fun _ => ?_
  generalize decide (frameReasons x newseq o ≠ []) = err
  refine .ite (.bind ((writeCells_sameEngines _ _).ends s) fun _ => ?_) (.ite
    (.bind ((writeRows_sameEngines _ _ _ _ _).ends s) fun _ => .bind ((writeRows_sameEngines _ _ _ _ _).ends s)
      fun _ => ?_) ?_)
  all_goals exact statusWord_ends (fun t ht => State.countsUnit_setFrame ht err _) fun _ => rfl

theorem decodeUnit_ends (s : State) (d g : Nat) (c : Command) :
    (decodeUnit d g c).Ends (fun e => s.SameEngines e.s) fun c' e => c'.code = some 0 ∧ s.countsUnit d g e.s := by
  unfold decodeUnit
  refine .bind (E.SameEngines.eState.ends s) fun t => ?_
  split
  · exact .eEnd 1
  · next _ k newseq _ _ =>
    refine .orEnd (.orEnd ?_)
    split
    · exact .eEnd 12
    · exact .bind ((E.SameEngines.eReadAll _ _ _ _).ends s) fun _ => .bind ((readContext_sameEngines _ _ _ _).ends s)
        fun _ => decodeStore_ends s d g k newseq _ c _ _ _

/-! ## Stream contexts (R372) -/

theorem frameFields_eq {bs : List Byte} (h : frameFields bs ≠ none) :
    frameFields bs = some ((dwordOf bs 0).toNat / 2 ^ 10 % 4, (dwordOf bs 0).toNat / 2 ^ 4 % 8,
      (dwordOf bs 0).toNat / 2 ^ 9 % 2, (dwordOf bs 0).toNat / 2 ^ 7 % 4) := by
  unfold frameFields at h ⊢
  dsimp only at h ⊢
  split
  · next hbad => exact absurd (if_pos hbad) h
  · simp only [fld_eq]
    rfl

/-- A stream context of a frame engine opened, and one closed. -/
def FrameEngine.openCtx (f : FrameEngine) (k : Nat) (x : FrameCtx) : FrameEngine :=
  { f with ctxs := (k, x) :: f.ctxs.filter (fun y => y.1 ≠ k) }
def FrameEngine.closeCtx (f : FrameEngine) (k : Nat) : FrameEngine :=
  { f with ctxs := f.ctxs.filter (fun y => y.1 ≠ k) }

theorem FrameEngine.closeCtx_ctx_same (f : FrameEngine) (k : Nat) : (f.closeCtx k).ctx k = none := by
  rw [FrameEngine.ctx, Option.map_eq_none_iff, List.find?_eq_none]
  exact fun x hx hk => of_decide_eq_true (List.mem_filter.1 hx).2 (of_decide_eq_true hk)

theorem FrameEngine.closeCtx_ctx_ne (f : FrameEngine) {j k : Nat} (h : j ≠ k) : (f.closeCtx k).ctx j = f.ctx j := by
  rw [FrameEngine.ctx, FrameEngine.closeCtx, List.find?_filter]
  congr 2
  funext x
  by_cases hx : x.1 = j
  · simp [hx, h]
  · simp [hx]

theorem FrameEngine.openCtx_ctx_same (f : FrameEngine) (k : Nat) (x : FrameCtx) : (f.openCtx k x).ctx k = some x := by
  rw [FrameEngine.ctx, FrameEngine.openCtx, List.find?_cons_of_pos (by exact decide_eq_true rfl)]
  rfl

theorem FrameEngine.openCtx_ctx_ne (f : FrameEngine) (x : FrameCtx) {j k : Nat} (h : j ≠ k) :
    (f.openCtx k x).ctx j = f.ctx j := by
  rw [← f.closeCtx_ctx_ne h, FrameEngine.ctx, FrameEngine.openCtx,
    List.find?_cons_of_neg (fun hk => h (of_decide_eq_true hk).symm)]
  rfl

theorem E.bind_ok {α β : Type} {a : E α} {f : α → E β} {e e' : Eng} {x : α} (h : a e = .ok x e') :
    (a >>= f) e = f x e' := by
  simp only [Bind.bind, EStateM.bind, h]

/-- An opening whose descriptor Table 15.10 allows, with memory enough for the context (R372). -/
theorem openCtx_ok {d g op k newseq codec : Nat} {c : Command} {e : Eng}
    (hfields : frameFields c.desc = some (op, k, newseq, codec)) (hlive : (e.s.frame d g).live = true)
    (halign : (dwordOf c.desc 8).toNat % 4096 = 0)
    (hlen : 9 * up64 (fld (dwordOf c.desc 0x28) 63 48) * up64 (fld (dwordOf c.desc 0x28) 47 32) * 3 ≤
      (dwordOf c.desc 0x10).toNat) :
    openCtx d g c e = .ok { c with code := some 0 } { e with
      s := e.s.setFrame d g ((e.s.frame d g).openCtx k ⟨codec, dwordOf c.desc 8, dwordOf c.desc 0x10,
        fld (dwordOf c.desc 0x28) 63 48, fld (dwordOf c.desc 0x28) 47 32, []⟩) } := by
  have hup : (!(e.s.frame d g).live) ≠ true := by rw [hlive]; exact Bool.false_ne_true
  rw [openCtx, E.bind_ok (a := eState) rfl, hfields]
  dsimp only
  rw [if_neg hup, if_neg (by simp [halign, hlen])]
  rfl

/-- The closing of a context that is open (R372). -/
theorem closeCtx_ok {d g op k newseq codec : Nat} {c : Command} {e : Eng}
    (hfields : frameFields c.desc = some (op, k, newseq, codec)) (hlive : (e.s.frame d g).live = true)
    (hopen : (e.s.frame d g).ctx k ≠ none) :
    closeCtx d g c e = .ok { c with code := some 0 } { e with s := e.s.setFrame d g ((e.s.frame d g).closeCtx k) } := by
  have hup : (!(e.s.frame d g).live) ≠ true := by rw [hlive]; exact Bool.false_ne_true
  rw [closeCtx, E.bind_ok (a := eState) rfl, hfields]
  dsimp only
  rw [if_neg hup, if_neg (by rwa [Option.isNone_iff_eq_none])]
  rfl

/-! ## The steps of the frame engines and of the format-conversion engine -/

section
variable {s : State} {d g : Nat} {c : Command} {l : List Command}

theorem exec_frameOpen (h : s.FrameHead d g c l) : exec (.frameOpen d g) s = .next (s.frameStep d g
    (fun c => c.kind = 2 && fld (dwordOf c.desc 0) 11 10 = 1) (openCtx d g)) := by
  have hexec : exec (.frameOpen d g) s = execFrameOpen d g s := rfl
  rw [hexec, execFrameOpen, Nat.mod_eq_of_lt h.die, Nat.mod_eq_of_lt h.eng]

theorem exec_frameClose (h : s.FrameHead d g c l) : exec (.frameClose d g) s = .next (s.frameStep d g
    (fun c => c.kind = 2 && fld (dwordOf c.desc 0) 11 10 = 2) (closeCtx d g)) := by
  have hexec : exec (.frameClose d g) s = execFrameClose d g s := rfl
  rw [hexec, execFrameClose, Nat.mod_eq_of_lt h.die, Nat.mod_eq_of_lt h.eng]

theorem exec_frameDecode (h : s.FrameHead d g c l) : exec (.frameDecode d g) s = .next (s.frameStep d g
    (fun c => c.kind = 2 && fld (dwordOf c.desc 0) 11 10 ∉ [1, 2]) (decodeUnit d g)) := by
  have hexec : exec (.frameDecode d g) s = execFrameDecode d g s := rfl
  rw [hexec, execFrameDecode, Nat.mod_eq_of_lt h.die, Nat.mod_eq_of_lt h.eng]

theorem exec_resizeRun (h : s.FrameHead d g c l) : exec (.resizeRun d g) s = .next (s.frameStep d g
    (fun c => c.kind = 3) (resizeData d g)) := by
  have hexec : exec (.resizeRun d g) s = execResizeRun d g s := rfl
  rw [hexec, execResizeRun, Nat.mod_eq_of_lt h.die, Nat.mod_eq_of_lt h.eng]

/-- A frame engine set while its head command ends: the command's code is read, memory is as it was, and of the engine
all but the queue is what was set. -/
theorem State.setFrame_setUnitQueue (h : s.FrameHead d g c l) (f : FrameEngine) (c' : Command) (e : Eng) :
    let t := (s.setFrame d g f).setUnitQueue (264 + 4 * d + g) (c'.ended e :: l)
    (t.unitQueue (264 + 4 * d + g)).head?.map (·.code) = some c'.code ∧ t.mem = s.mem ∧
      ∀ j, (t.frame d g).ctx j = f.ctx j := by
  refine ⟨State.unitQueue_head_ended _ _ _ _ _, State.setUnitQueue_mem _ _ _, fun j => ?_⟩
  rw [State.setUnitQueue_frame h.die h.eng, State.setFrame_frame_same]
  rfl

/-- FRAME_OPEN. -/
theorem frameOpen_opens (h : s.FrameHead d g c l) {op k newseq codec w hh : Nat} (hkind : c.kind = 2)
    (hfields : frameFields c.desc = some (op, k, newseq, codec)) (hlive : (s.frame d g).live = true)
    (hop : fld (dwordOf c.desc 0) 11 10 = 1) (halign : (dwordOf c.desc 8).toNat % 4096 = 0)
    (hwidth : fld (dwordOf c.desc 0x28) 63 48 = w)
    (hheight : fld (dwordOf c.desc 0x28) 47 32 = hh)
    (hlen : 9 * up64 w * up64 hh * 3 ≤ (dwordOf c.desc 0x10).toNat) :
    Nexts (exec (.frameOpen d g) s) fun t =>
      (t.unitQueue (264 + 4 * d + g)).head?.map (·.code) = some (some 0) ∧ t.mem = s.mem ∧
      (t.frame d g).ctx k = some ⟨codec, dwordOf c.desc 8, dwordOf c.desc 0x10, w, hh, []⟩ ∧
      ∀ j < 8, j ≠ k → (t.frame d g).ctx j = (s.frame d g).ctx j := by
  subst hwidth hheight
  have hact := openCtx_ok (e := c.resume s) hfields hlive halign hlen
  rw [exec_frameOpen h, h.frameStep_ok (by simp [hkind, hop]) hact]
  obtain ⟨hcode, hmem, hctx⟩ := State.setFrame_setUnitQueue h _ { c with code := some 0 } _
  refine ⟨_, rfl, hcode, hmem, ?_, fun j _ hj => ?_⟩
  · exact (hctx k).trans (FrameEngine.openCtx_ctx_same _ _ _)
  · exact (hctx j).trans (FrameEngine.openCtx_ctx_ne _ _ hj)

/-- FRAME_CLOSE. -/
theorem frameClose_closes (h : s.FrameHead d g c l) {op k newseq codec : Nat} (hkind : c.kind = 2)
    (hfields : frameFields c.desc = some (op, k, newseq, codec)) (hlive : (s.frame d g).live = true)
    (hop : fld (dwordOf c.desc 0) 11 10 = 2) (hopen : (s.frame d g).ctx k ≠ none) :
    Nexts (exec (.frameClose d g) s) fun t =>
      (t.unitQueue (264 + 4 * d + g)).head?.map (·.code) = some (some 0) ∧ t.mem = s.mem ∧
      (t.frame d g).ctx k = none ∧ ∀ j < 8, j ≠ k → (t.frame d g).ctx j = (s.frame d g).ctx j := by
  have hact := closeCtx_ok (e := c.resume s) hfields hlive hopen
  rw [exec_frameClose h, h.frameStep_ok (by simp [hkind, hop]) hact]
  obtain ⟨hcode, hmem, hctx⟩ := State.setFrame_setUnitQueue h _ { c with code := some 0 } _
  refine ⟨_, rfl, hcode, hmem, ?_, fun j _ hj => ?_⟩
  · exact (hctx k).trans (FrameEngine.closeCtx_ctx_same _ _)
  · exact (hctx j).trans (FrameEngine.closeCtx_ctx_ne _ hj)

/-- FRAME_DECODE, where the access unit meets no fault. -/
theorem frameDecode_counts (h : s.FrameHead d g c l) (hkind : c.kind = 2) (hop : fld (dwordOf c.desc 0) 11 10 = 0) :
    Nexts (exec (.frameDecode d g) s) fun t => ∀ (c' : Command) (e : Eng),
      decodeUnit d g c (c.resume s) = .ok c' e → t = e.s.setUnitQueue (264 + 4 * d + g) (c'.ended e :: l) ∧
      (t.unitQueue (264 + 4 * d + g)).head?.map (·.code) = some (some 0) ∧ s.countsUnit d g t := by
  rw [exec_frameDecode h]
  refine ⟨_, rfl, fun c' e hact => ?_⟩
  obtain ⟨hcode, hcounts⟩ := decodeUnit_ends s d g c _ (.refl s) c' e hact
  rw [h.frameStep_ok (by simp [hkind, hop]) hact]
  refine ⟨rfl, (State.unitQueue_head_ended _ _ _ _ _).trans (congrArg some hcode), ?_⟩
  rw [State.countsUnit, State.setUnitQueue_frame h.die h.eng]
  exact hcounts

/-- RESIZE_RUN, where the resize meets no fault. -/
theorem resizeRun_ends (h : s.FrameHead d g c l) (hkind : c.kind = 3) {c' : Command} {e : Eng}
    (hact : resizeData d g c (c.resume s) = .ok c' e) :
    Nexts (exec (.resizeRun d g) s) fun t => t = e.s.setUnitQueue (264 + 4 * d + g) (c'.ended e :: l) ∧
      (t.unitQueue (264 + 4 * d + g)).head?.map (·.code) = some (some 0) := by
  rw [exec_resizeRun h, h.frameStep_ok (decide_eq_true hkind) hact]
  refine ⟨_, rfl, rfl, (State.unitQueue_head_ended _ _ _ _ _).trans (congrArg some ?_)⟩
  exact resizeData_ends d g c _ trivial c' e hact

/-- FCV_RUN, where the conversion meets no fault. -/
theorem fcvRun_ends (hd : d < 8) (hqueue : s.unitQueue (296 + d) = c :: l) (hstage : c.pagerStage = 0)
    (hcode : c.code = none) {c' : Command} {e : Eng} (hact : fcvData d c (c.resume s) = .ok c' e) :
    Nexts (exec (.fcvRun d) s) fun t => t = e.s.setUnitQueue (296 + d) (c'.ended e :: l) ∧
      (t.unitQueue (296 + d)).head?.map (·.code) = some (some 0) := by
  have hexec : exec (.fcvRun d) s = execFcvRun d s := rfl
  have hgo : (c.code.isNone && decide (c.pagerStage = 0)) = true := by rw [hcode, hstage]; rfl
  rw [hexec, execFcvRun, Nat.mod_eq_of_lt hd, hqueue]
  dsimp only
  rw [if_pos hgo, State.runHead_ok hqueue hstage hact]
  refine ⟨_, rfl, rfl, (State.unitQueue_head_ended _ _ _ _ _).trans (congrArg some ?_)⟩
  exact fcvData_ends d c _ trivial c' e hact

end

end Sys2Proof.Machine

open Sys2Proof Sys2Proof.Machine

/-- Settles O46: each engine's step by the lemma of its event, a graph's by the task that completes a failed node. -/
theorem frameFormatAndGraph : Obligations.FrameFormatAndGraph := by
  unfold Obligations.FrameFormatAndGraph
  refine ⟨fun s d g c c' l e hd hg hstage hcode => ?_, fun s g n st op bad hg hresult hop htodo hending => ?_⟩
  · intro u op k m w hh up head
    refine ⟨fun hqueue hkind hfields hlive => ?_, fun hqueue hkind hact => ?_,
      fun hqueue hact => fcvRun_ends hd hqueue hstage hcode hact⟩
    · have h : s.FrameHead d g c l := ⟨hd, hg, hqueue, hstage, hcode⟩
      have hdesc := frameFields_eq hfields
      have hopcode : fld (dwordOf c.desc 0) 11 10 = op := fld_eq _ _ _
      have hw : fld (dwordOf c.desc 0x28) 63 48 = w := by
        rw [fld_eq]
        exact Nat.mod_eq_of_lt (by have := (dwordOf c.desc 0x28).isLt; omega)
      exact ⟨fun hop halign hlen =>
          frameOpen_opens h hkind hdesc hlive (hopcode.trans hop) halign hw (fld_eq _ _ _) hlen,
        fun hop hopen => frameClose_closes h hkind hdesc hlive (hopcode.trans hop) hopen,
        fun hop => frameDecode_counts h hkind (hopcode.trans hop)⟩
    · exact resizeRun_ends ⟨hd, hg, hqueue, hstage, hcode⟩ hkind hact
  · rw [graphNodeComplete_idle hg hresult hop htodo hending]
    refine ⟨_, rfl, rfl, fun hbad => ?_⟩
    subst hbad
    exact State.completeNode_bad hg htodo hending

end

section
/-! SUPPORT. Elements packed side by side, and a register gathered over a layout from the threads that own its lanes
(O38): a dword stays at its physical lane and depth (R76). -/

namespace Sys2Proof.Machine

/-! ## Elements side by side -/

/-- `n` elements of width `w` side by side, the first the lowest. -/
def packed (w : Nat) (f : Nat → Nat) (n : Nat) : Nat := (List.range n).foldl (fun r i => r + f i <<< (w * i)) 0

theorem packed_succ (w : Nat) (f : Nat → Nat) (n : Nat) : packed w f (n + 1) = packed w f n + f n <<< (w * n) := by
  rw [packed, List.range_succ, List.foldl_append]
  rfl

theorem packed_lt {w n : Nat} {f : Nat → Nat} (hf : ∀ i < n, f i < 2 ^ w) : packed w f n < 2 ^ (w * n) := by
  induction n with
  | zero => exact Nat.two_pow_pos _
  | succ n ih =>
    have hn := hf n (Nat.lt_succ_self n)
    have hlow := ih fun i hi => hf i (hi.trans (Nat.lt_succ_self n))
    rw [packed_succ, Nat.shiftLeft_eq, Nat.mul_succ, pow_add]
    calc packed w f n + f n * 2 ^ (w * n) < (f n + 1) * 2 ^ (w * n) := by rw [Nat.add_one_mul]; omega
      _ ≤ 2 ^ (w * n) * 2 ^ w := by rw [Nat.mul_comm]; exact Nat.mul_le_mul_left _ hn

theorem elemAt_eq (w x i : Nat) : elemAt w x i = x / 2 ^ (w * i) % 2 ^ w := by
  rw [elemAt, Nat.shiftRight_eq_div_pow]

/-- Each element is read where it was put. -/
theorem elemAt_packed {w n i : Nat} {f : Nat → Nat} (hf : ∀ i < n, f i < 2 ^ w) (hi : i < n) :
    elemAt w (packed w f n) i = f i := by
  induction n with
  | zero => omega
  | succ n ih =>
    have hlow : ∀ i < n, f i < 2 ^ w := fun i hi => hf i (hi.trans (Nat.lt_succ_self n))
    have hlt := packed_lt hlow
    rw [packed_succ, Nat.shiftLeft_eq, elemAt_eq]
    obtain hin | rfl := Nat.lt_succ_iff_lt_or_eq.1 hi
    · obtain ⟨m, rfl⟩ : ∃ m, n = i + 1 + m := ⟨n - (i + 1), by omega⟩
      have hsplit : f (i + 1 + m) * 2 ^ (w * (i + 1 + m)) =
          2 ^ (w * i) * (2 ^ w * (f (i + 1 + m) * 2 ^ (w * m))) := by
        rw [Nat.mul_add, Nat.mul_add, pow_add, pow_add, Nat.mul_one]
        ring
      rw [hsplit, Nat.add_mul_div_left _ _ (Nat.two_pow_pos _), Nat.add_mul_mod_self_left, ← elemAt_eq]
      exact ih hlow hin
    · rw [Nat.add_mul_div_right _ _ (Nat.two_pow_pos _), Nat.div_eq_of_lt hlt, Nat.zero_add,
        Nat.mod_eq_of_lt (hf i hi)]

/-! ## Where a dword lies (R76) -/

theorem laneIndex_eq_some {l : List Nat} {g lane : Nat} (hl : l.Nodup) (h : l[g]? = some lane) :
    laneIndex l lane = some g := by
  obtain ⟨hg, rfl⟩ := List.getElem?_eq_some_iff.1 h
  rw [laneIndex, List.findIdx?_eq_some_iff_getElem]
  refine ⟨hg, decide_eq_true rfl, fun j hj => ?_⟩
  simp only [Bool.not_eq_true, decide_eq_false_iff_not]
  exact fun he => hj.ne ((hl.getElem_inj_iff).1 he)

theorem mem_of_laneIndex {l : List Nat} {g lane : Nat} (h : laneIndex l lane = some g) : lane ∈ l := by
  rw [laneIndex, List.findIdx?_eq_some_iff_getElem] at h
  obtain ⟨hg, he, -⟩ := h
  exact of_decide_eq_true he ▸ List.getElem_mem hg

/-- A dword at a lane that one register alone has is that register's. -/
theorem dwordAt_owner {depth lane j g : Nat} {srcs : List (List Nat × VReg)} {p : List Nat × VReg} (hp : p ∈ srcs)
    (hg : laneIndex p.1 lane = some g) (hown : ∀ q ∈ srcs, lane ∈ q.1 → q = p) (hj : j < depth) :
    (dwordAt depth srcs lane j).1 = elemAt 64 p.2.bits.toNat (g + j * p.1.length) := by
  induction srcs with
  | nil => cases hp
  | cons q srcs ih =>
    obtain ⟨l, r⟩ := q
    rw [dwordAt]
    cases hq : laneIndex l lane with
    | some g' =>
      obtain rfl : (l, r) = p := hown _ List.mem_cons_self (mem_of_laneIndex hq)
      obtain rfl : g' = g := Option.some.inj (hq.symm.trans hg)
      dsimp only
      rw [if_pos hj]
      rfl
    | none =>
      obtain rfl | hrest := List.mem_cons.1 hp
      · rw [hq] at hg
        cases hg
      · exact ih hrest fun q hq => hown q (List.mem_cons_of_mem _ hq)

theorem dwordAt_lt (depth : Nat) (srcs : List (List Nat × VReg)) (lane j : Nat) :
    (dwordAt depth srcs lane j).1 < 2 ^ 64 := by
  induction srcs with
  | nil => exact Nat.two_pow_pos _
  | cons q srcs ih =>
    obtain ⟨l, r⟩ := q
    rw [dwordAt]
    split
    · split
      · exact Nat.mod_lt _ (Nat.two_pow_pos _)
      · exact Nat.two_pow_pos _
    · exact ih

/-- The bits of a register over a layout: the dwords of its lanes side by side. -/
theorem remap_bits (sd d : Nat) (srcs : List (List Nat × VReg)) {dst : List Nat} (hfit : dst.length * d ≤ 512) :
    (remap sd d srcs dst).bits.toNat =
      packed 64 (fun g => (dwordAt sd srcs (dst.getD (g % dst.length) 0) (g / dst.length)).1) (dst.length * d) := by
  have hlt := packed_lt (w := 64) (n := dst.length * d)
    (f := fun g => (dwordAt sd srcs (dst.getD (g % dst.length) 0) (g / dst.length)).1) fun i _ => dwordAt_lt _ _ _ _
  rw [remap]
  dsimp only
  rw [List.foldl_map]
  refine (BitVec.toNat_ofNat _ _).trans (Nat.mod_eq_of_lt (hlt.trans_le ?_))
  exact Nat.pow_le_pow_right (by decide) (by omega)

/-- A register over a layout holds at each lane and depth the dword that lies there. -/
theorem elemAt_remap {sd d g j lane : Nat} {srcs : List (List Nat × VReg)} {dst : List Nat}
    (hfit : dst.length * d ≤ 512) (hg : dst[g]? = some lane) (hj : j < d) :
    elemAt 64 (remap sd d srcs dst).bits.toNat (g + j * dst.length) = (dwordAt sd srcs lane j).1 := by
  obtain ⟨hlt, rfl⟩ := List.getElem?_eq_some_iff.1 hg
  have hin : g + j * dst.length < dst.length * d := by
    calc g + j * dst.length < (j + 1) * dst.length := by rw [Nat.add_one_mul]; omega
      _ ≤ dst.length * d := by rw [Nat.mul_comm]; exact Nat.mul_le_mul_left _ hj
  rw [remap_bits _ _ _ hfit, elemAt_packed (fun i _ => dwordAt_lt _ _ _ _) hin, Nat.add_mul_mod_self_right,
    Nat.mod_eq_of_lt hlt, Nat.add_mul_div_right _ _ (by omega), Nat.div_eq_of_lt hlt, Nat.zero_add,
    List.getD_eq_getElem _ _ hlt]

/-! ## Maps over some keys -/

theorem Sparse.get_unlisted {α : Type} (d : α) {m : Sparse α} {k : Nat} (h : ∀ e ∈ m, e.1 ≠ k) :
    Sparse.get d m k = d := by
  induction m with
  | nil => rfl
  | cons e m ih =>
    obtain ⟨i, v⟩ := e
    rw [Sparse.get, if_neg (h _ List.mem_cons_self).symm]
    exact ih fun e he => h e (List.mem_cons_of_mem _ he)

theorem Sparse.get_keys {α : Type} (d : α) (f : Nat → α) (l : List Nat) (k : Nat) :
    Sparse.get d (l.map fun k => (k, f k)) k = if k ∈ l then f k else d := by
  induction l with
  | nil => rfl
  | cons i l ih =>
    rw [List.map_cons, Sparse.get, ih]
    by_cases h : k = i
    · subst h
      simp
    · simp [h]

theorem mem_regKeys {ts : List Thread} {k : Nat} : k ∈ regKeys ts ↔ k < 1024 ∧ ∃ t ∈ ts, ∃ e ∈ t.v, e.1 = k := by
  simp [regKeys, List.any_eq_true]

/-- The vector registers of some threads, gathered over a layout, of which each thread's are over its own. -/
def gathered (sd d : Nat) (ts : List Thread) (dst : List Nat) : Sparse VReg :=
  (regKeys ts).map fun k => (k, remap sd d (ts.map fun t => (t.layout, t.vreg k)) dst)

/-- A dword of a register stays at its lane and depth: the gathered register has it where the thread that owns the lane
had it. -/
theorem elemAt_gathered {sd d k g g0 j lane : Nat} {ts : List Thread} {t : Thread} {dst : List Nat} (hk : k < 1024)
    (ht : t ∈ ts) (hown : ∀ u ∈ ts, lane ∈ u.layout → u = t) (hnodup : t.layout.Nodup) (hg : t.layout[g]? = some lane)
    (hg0 : dst[g0]? = some lane) (hsd : j < sd) (hd : j < d) (hfit : dst.length * d ≤ 512) :
    elemAt 64 (Sparse.get {} (gathered sd d ts dst) k).bits.toNat (g0 + j * dst.length) =
      elemAt 64 (t.vreg k).bits.toNat (g + j * t.layout.length) := by
  rw [gathered, Sparse.get_keys]
  by_cases hlisted : k ∈ regKeys ts
  · rw [if_pos hlisted, elemAt_remap hfit hg0 hd]
    refine dwordAt_owner (p := (t.layout, t.vreg k)) (List.mem_map_of_mem ht) (laneIndex_eq_some hnodup hg) ?_ hsd
    intro q hq hlane
    obtain ⟨u, hu, rfl⟩ := List.mem_map.1 hq
    rw [hown u hu hlane]
  · have hdefault : t.vreg k = {} := by
      refine Sparse.get_unlisted _ fun e he hek => hlisted (mem_regKeys.2 ⟨hk, t, ht, e, he, hek⟩)
    rw [if_neg hlisted, hdefault]
    simp [elemAt]

end Sys2Proof.Machine

end

section
/-! SUPPORT. A split (O38): what a part has of the thread that is split, and what `vsplit` leaves of each (R156, R334). -/

namespace Sys2Proof.Machine

/-! ## Threads of a sequencer -/

theorem State.setThread_thread_same (s : State) (q i : Nat) (t : Thread) : (s.setThread q i t).thread q i = t :=
  Sparse.get_set_same _ _ _ _

theorem State.setThread_thread_ne (s : State) (q : Nat) {i j : Nat} (t : Thread) (h : j ≠ i) :
    (s.setThread q i t).thread q j = s.thread q j := Sparse.get_set_ne _ _ _ (by omega)

/-- A thread that retires at the next word has made its progress alone. -/
theorem Thread.retired_seq_progress (t : Thread) (cap : Nat) : t.retired cap .seq = t.progress (t.retired cap .seq) := by
  obtain ⟨pc, ldepth, lecnt, leidx, hadvance⟩ := t.advance_seq_frame
  rw [Thread.retired, hadvance]
  dsimp only
  split
  · rfl
  · rfl

theorem Thread.retired_seq_pc (t : Thread) (cap : Nat) : (t.retired cap .seq).pc = (seqNext t t.pc).1 := by
  have hpc : (t.advance .seq).pc = (seqNext t t.pc).1 := rfl
  rw [Thread.retired, ← hpc]
  dsimp only
  split
  · rfl
  · rfl

theorem Thread.retired_seq_fork (t : Thread) (cap : Nat) :
    (t.retired cap .seq).forkAt = t.forkAt ∧ (t.retired cap .seq).doubt = t.doubt := by
  obtain ⟨pc, ldepth, lecnt, leidx, hadvance⟩ := t.advance_seq_frame
  rw [Thread.retired, hadvance]
  dsimp only
  split
  · exact ⟨rfl, rfl⟩
  · exact ⟨rfl, rfl⟩

/-- The next word is a matter of the loop stack alone (R273). -/
theorem seqNext_go_congr (p : Word) (fuel : Nat) {t u : Thread} (hdepth : u.ldepth = t.ldepth)
    (hcnt : u.lecnt = t.lecnt) (hbeg : u.lebeg = t.lebeg) (hend : u.leend = t.leend) :
    (seqNext.go p fuel u).1 = (seqNext.go p fuel t).1 := by
  induction fuel generalizing t u with
  | zero => rfl
  | succ fuel ih =>
    rw [seqNext.go, seqNext.go, hdepth, hcnt, hbeg, hend]
    split
    · rfl
    · split
      · rfl
      · exact ih (t := { t with ldepth := w64 (t.ldepth.toNat - 1) })
          (u := { u with
            ldepth := w64 (t.ldepth.toNat - 1), lecnt := t.lecnt, lebeg := t.lebeg, leend := t.leend }) rfl rfl rfl rfl

theorem seqNext_congr (p : Word) {t u : Thread} (hdepth : u.ldepth = t.ldepth) (hcnt : u.lecnt = t.lecnt)
    (hbeg : u.lebeg = t.lebeg) (hend : u.leend = t.leend) : (seqNext u p).1 = (seqNext t p).1 :=
  seqNext_go_congr p 7 hdepth hcnt hbeg hend

/-! ## The parts of a thread (R156) -/

/-- The position of a part, and the loop stack that says what comes next, are the thread's. -/
theorem Thread.part_flow (t : Thread) (d : BitVec 5) (w i : Nat) (lanes : List Nat) :
    (t.part d w i lanes).pc = t.pc ∧ (t.part d w i lanes).ldepth = t.ldepth ∧ (t.part d w i lanes).lecnt = t.lecnt ∧
    (t.part d w i lanes).lebeg = t.lebeg ∧ (t.part d w i lanes).leend = t.leend := by
  unfold Thread.part
  by_cases hi : i = 0
  · simp only [if_pos hi, Thread.setX_pc, Thread.setX_ldepth, Thread.setX_lecnt, Thread.setX_lebeg, Thread.setX_leend,
      and_self]
  · simp only [if_neg hi, Thread.setX_pc, Thread.setX_ldepth, Thread.setX_lecnt, Thread.setX_lebeg, Thread.setX_leend,
      and_self]

theorem Thread.part_fork (t : Thread) (d : BitVec 5) (w i : Nat) (lanes : List Nat) :
    (t.part d w i lanes).forkAt = t.forkAt ∧ (t.part d w i lanes).doubt = t.doubt := by
  unfold Thread.part
  by_cases hi : i = 0
  · simp only [if_pos hi, Thread.setX_forkAt, Thread.setX_doubt, and_self]
  · simp only [if_neg hi, Thread.setX_forkAt, Thread.setX_doubt, and_self]

theorem Thread.part_getX_number (t : Thread) (d : BitVec 5) (w i : Nat) (lanes : List Nat) :
    (t.part d w i lanes).getX d.toNat = if d = 0 then 0 else BitVec.ofNat 64 i := by
  have hd : d = 0 ↔ d.toNat = 0 := BitVec.toNat_eq
  unfold Thread.part
  dsimp only
  by_cases h : d.toNat = 0
  · rw [if_pos (hd.2 h), h, Thread.getX_zero]
  · rw [if_neg (hd.not.2 h), Thread.getX_setX_same _ _ h]
    rfl

theorem Thread.part_getX (t : Thread) (d : BitVec 5) (w i : Nat) (lanes : List Nat) {q : Nat} (h : q ≠ d.toNat) :
    (t.part d w i lanes).getX q = t.getX q := by
  unfold Thread.part
  dsimp only
  rw [Thread.getX_setX_ne _ _ h]
  by_cases hi : i = 0
  · simp only [if_pos hi, Thread.getX]
  · simp only [if_neg hi, Thread.getX]

/-- A part has its lanes, no vector configuration, and the flags of the thread. -/
theorem Thread.part_config (t : Thread) (d : BitVec 5) (w i : Nat) (lanes : List Nat) :
    (t.part d w i lanes).lanes = lanes ∧ (t.part d w i lanes).vtype = 0x8000000000000000#64 ∧
    (t.part d w i lanes).fflags = t.fflags := by
  unfold Thread.part
  by_cases hi : i = 0
  · simp only [if_pos hi, Thread.setX_lanes, Thread.setX_vtype, Thread.setX_fflags, and_self]
  · simp only [if_neg hi, Thread.setX_lanes, Thread.setX_vtype, Thread.setX_fflags, and_self]

theorem Thread.part_v (t : Thread) (d : BitVec 5) (w i : Nat) (lanes : List Nat) :
    (t.part d w i lanes).v = gathered t.depth t.depth [t] lanes := by
  unfold Thread.part gathered
  by_cases hi : i = 0
  · simp only [if_pos hi, Thread.setX_v, List.map_cons, List.map_nil]
  · simp only [if_neg hi, Thread.setX_v, List.map_cons, List.map_nil]

/-- The i-th fraction of m bits of a mask. -/
def cutMask (m i : Nat) (b : BitVec 4096) : BitVec 4096 := BitVec.ofNat 4096 ((b.toNat >>> (m * i)) % 2 ^ m)

theorem cutMask_zero (m i : Nat) : cutMask m i 0 = 0 := by
  have hzero : (0 : BitVec 4096).toNat = 0 := (BitVec.toNat_ofNat 0 4096).trans (Nat.zero_mod _)
  rw [cutMask, hzero, Nat.zero_shiftRight, Nat.zero_mod]
  rfl

theorem mod_two_pow_lt {x a b : Nat} (h : a ≤ b) : x % 2 ^ a < 2 ^ b :=
  (Nat.mod_lt _ (Nat.two_pow_pos _)).trans_le (Nat.pow_le_pow_right Nat.two_pos h)

/-- A part has its fraction of each mask. -/
theorem Thread.part_mask (t : Thread) (d : BitVec 5) (w i : Nat) (lanes : List Nat) (k : Nat) (hw : 4096 / w ≤ 4096) :
    (t.part d w i lanes).mask k = t.mask k / 2 ^ (4096 / w * i) % 2 ^ (4096 / w) := by
  have hk : (t.part d w i lanes).k = t.k.map fun (j, b) => (j, cutMask (4096 / w) i b) := by
    unfold Thread.part
    by_cases hi : i = 0
    · simp only [if_pos hi, Thread.setX_k]
      rfl
    · simp only [if_neg hi, Thread.setX_k]
      rfl
  have hfit : t.mask k / 2 ^ (4096 / w * i) % 2 ^ (4096 / w) < 2 ^ 4096 :=
    mod_two_pow_lt (b := 4096) hw
  rw [Thread.mask, hk, Sparse.get_map (cutMask_zero _ _), cutMask, BitVec.toNat_ofNat, Nat.shiftRight_eq_div_pow]
  exact Nat.mod_eq_of_lt hfit

/-- A thread is the i-th of the w parts of another, with its number in `d` (R156, R334). -/
structure Thread.IsPart (t : Thread) (d : BitVec 5) (w i : Nat) (lanes : List Nat) (p : Thread) : Prop where
  number : p.getX d.toNat = if d = 0 then 0 else BitVec.ofNat 64 i
  scalars : ∀ q, q ≠ d.toNat → p.getX q = t.getX q
  hasLanes : p.lanes = lanes
  vill : p.vtype = 0x8000000000000000#64
  flags : p.fflags = t.fflags
  masks : ∀ k, p.mask k = t.mask k / 2 ^ (4096 / w * i) % 2 ^ (4096 / w)
  registers : p.v = gathered t.depth t.depth [t] lanes

theorem Thread.part_isPart (t : Thread) (d : BitVec 5) {w : Nat} (i : Nat) (lanes : List Nat) (hw : 4096 / w ≤ 4096) :
    t.IsPart d w i lanes (t.part d w i lanes) := by
  obtain ⟨hlanes, hvtype, hfflags⟩ := t.part_config d w i lanes
  exact ⟨t.part_getX_number d w i lanes, fun q hq => t.part_getX d w i lanes hq, hlanes, hvtype, hfflags,
    fun k => t.part_mask d w i lanes k hw, t.part_v d w i lanes⟩

/-- What a part has is not touched by its retiring. -/
theorem Thread.IsPart.retired {t p : Thread} {d : BitVec 5} {w i : Nat} {lanes : List Nat}
    (h : t.IsPart d w i lanes p) (cap : Nat) : t.IsPart d w i lanes (p.retired cap .seq) := by
  rw [Thread.retired_seq_progress]
  generalize p.retired cap .seq = r
  exact ⟨h.number, h.scalars, h.hasLanes, h.vill, h.flags, h.masks, h.registers⟩

/-- A dword of a register is, in the part that owns its lane, where it was. -/
theorem Thread.IsPart.dword {t p : Thread} {d : BitVec 5} {w i : Nat} {lanes : List Nat}
    (h : t.IsPart d w i lanes p) {k g g0 j lane : Nat} (hk : k < 1024) (hnodup : t.layout.Nodup)
    (hfit : lanes.length * t.depth ≤ 512) (hj : j < t.depth) (hg : lanes[g]? = some lane)
    (hg0 : t.layout[g0]? = some lane) :
    elemAt 64 (p.vreg k).bits.toNat (g + j * lanes.length) =
      elemAt 64 (t.vreg k).bits.toNat (g0 + j * t.layout.length) := by
  have hgather := elemAt_gathered (ts := [t]) hk List.mem_cons_self (fun u hu _ => List.mem_singleton.1 hu) hnodup hg0
    hg hj hj hfit
  rwa [← h.registers] at hgather

/-! ## A split (R156, R334) -/

/-- The thread past its `vsplit`. -/
def Thread.pastSplit (t : Thread) : Thread :=
  { (t.advance .seq) with instret := t.instret + 1, ended := .retired, wait := .none }

/-- The module with the current thread split in `w`, thread 0 still at its `vsplit`. -/
def State.splitInto (s : State) (d : BitVec 5) (w : Nat) : State :=
  let t := s.th.fork s.counts
  let u := putParts d w s.sq.slots.1 s.sq.slots.2 t.pastSplit s (w - 1)
  (u.setSq { u.sq with split := w, splitCounts := [t.instret + 1, t.emucount, t.krmiss, t.krxlat] }).setTh
    (t.part d w 0 (lanesIn t.lanes s.sq.slots.1 (s.sq.slots.2 / w)))

theorem putParts_frame (d : BitVec 5) (w b n : Nat) (t : Thread) (s : State) (m : Nat) :
    putParts d w b n t s m = { s with threads := (putParts d w b n t s m).threads } := by
  induction m with
  | zero => rfl
  | succ m ih =>
    rw [putParts]
    rw [ih]
    rfl

theorem putParts_thread {d : BitVec 5} {w b n : Nat} {t : Thread} {s : State} {m i : Nat} (hpos : 0 < i) (hi : i ≤ m) :
    (putParts d w b n t s m).thread s.cur.seq i = t.part d w i (lanesIn t.lanes (b + i * n / w) (n / w)) := by
  induction m with
  | zero => omega
  | succ m ih =>
    rw [putParts]
    obtain rfl | hlt := hi.eq_or_lt
    · exact State.setThread_thread_same _ _ _ _
    · rw [State.setThread_thread_ne _ _ _ hlt.ne]
      exact ih (by omega)

theorem atIssue_pend {s : State} (hpend : s.th.pend = []) : s.atIssue.th.pend = [] := by
  rw [atIssue_th, Thread.begin_pend, hpend]

/-- With nothing under way there is nothing to land. -/
theorem landAll_atIssue {s : State} (hpend : s.th.pend = []) :
    liftT (modT Thread.landAll) s.atIssue = .ok () s.atIssue :=
  liftT_atIssue (congrArg (EStateM.Result.ok ()) (Thread.landAll_of_pend_nil (atIssue_pend hpend)))

theorem execVsplit_splits {s : State} {d n : BitVec 5} (hq : s.quiet) (hsplit : s.sq.split = 1)
    (hn : n.toNat = 2 ∨ n.toNat = 4) (hfull : s.fullX [d]) (hpend : s.th.pend = [])
    (hlanes : ∀ i < n.toNat,
      lanesIn s.th.lanes (s.sq.slots.1 + i * s.sq.slots.2 / n.toNat) (s.sq.slots.2 / n.toNat) ≠ []) :
    exec (.vsplit d n) s = .next (retire .seq (s.atIssue.splitInto d n.toNat)) := by
  have hexec : exec (.vsplit d n) s = execVsplit d n s := rfl
  have hpend' : s.atIssue.th.pend = [] := atIssue_pend hpend
  have hcount : ¬ (s.atIssue.sq.split ≠ 1 ∨ n.toNat ≠ 2 ∧ n.toNat ≠ 4) := by
    rw [show s.atIssue.sq = s.sq from rfl]
    omega
  have hnone : ¬ ((List.range n.toNat).any fun i => (lanesIn s.atIssue.th.lanes
      (s.sq.slots.1 + i * s.sq.slots.2 / n.toNat) (s.sq.slots.2 / n.toNat)).isEmpty) = true := by
    rw [List.any_eq_true]
    rintro ⟨i, hi, hempty⟩
    rw [atIssue_th, Thread.begin_lanes] at hempty
    exact hlanes i (List.mem_range.1 hi) (List.isEmpty_iff.1 hempty)
  have hdest : destX d s.atIssue.th = .ok () s.atIssue.th := destX_full (by
    rw [State.xFull_atIssue]
    exact hfull d List.mem_cons_self)
  have hclaiming : ¬ s.atIssue.th.claiming = true := by
    rw [Thread.claiming, hpend']
    exact Bool.false_ne_true
  rw [hexec, execVsplit]
  refine run_ok hq ?_
  rw [M.bind_ok (getS_apply _)]
  dsimp only
  rw [if_neg hcount]
  refine (congrFun (if_neg hnone) s.atIssue).trans ?_
  rw [M.bind_ok (liftT_atIssue hdest), if_neg hclaiming, M.bind_ok (landAll_atIssue hpend)]
  rfl

theorem Thread.pastSplit_fork (t : Thread) : t.pastSplit.forkAt = t.forkAt ∧ t.pastSplit.doubt = t.doubt := by
  obtain ⟨pc, ldepth, lecnt, leidx, hadvance⟩ := t.advance_seq_frame
  rw [Thread.pastSplit, hadvance]
  exact ⟨rfl, rfl⟩

theorem Thread.pastSplit_lanes (t : Thread) : t.pastSplit.lanes = t.lanes := by
  obtain ⟨pc, ldepth, lecnt, leidx, hadvance⟩ := t.advance_seq_frame
  rw [Thread.pastSplit, hadvance]

/-- The lanes of the i-th of w parts of the current thread. -/
def State.partLanes (s : State) (w i : Nat) : List Nat :=
  lanesIn s.th.lanes (s.sq.slots.1 + i * s.sq.slots.2 / w) (s.sq.slots.2 / w)

/-- The thread that is split: the one that began the instruction, its lead forked afresh, differs from the one before in
nothing that a part has. -/
theorem Thread.IsPart.of_begun {t p : Thread} {counts : Stamp} {d : BitVec 5} {w i : Nat} {lanes : List Nat}
    (h : (t.begin.fork counts).IsPart d w i lanes p) : t.IsPart d w i lanes p := by
  obtain ⟨opStart, opFirst, opLast, opVl, opMask, past, missed, hbegin⟩ := t.begin_frame
  rw [hbegin] at h
  exact ⟨h.number, h.scalars, h.hasLanes, h.vill, h.flags, h.masks, h.registers⟩

theorem Thread.IsPart.of_pastSplit {t p : Thread} {d : BitVec 5} {w i : Nat} {lanes : List Nat}
    (h : t.pastSplit.IsPart d w i lanes p) : t.IsPart d w i lanes p := by
  obtain ⟨pc, ldepth, lecnt, leidx, hadvance⟩ := t.advance_seq_frame
  rw [Thread.pastSplit, hadvance] at h
  exact ⟨h.number, h.scalars, h.hasLanes, h.vill, h.flags, h.masks, h.registers⟩

theorem Thread.fork_lanes (t : Thread) (counts : Stamp) : (t.fork counts).lanes = t.lanes := rfl
theorem Thread.fork_pc (t : Thread) (counts : Stamp) : (t.fork counts).pc = t.pc := rfl

theorem seqNext_fork (t : Thread) (counts : Stamp) (p : Word) : (seqNext (t.fork counts) p).1 = (seqNext t p).1 :=
  seqNext_congr p rfl rfl rfl rfl

theorem seqNext_begin (t : Thread) (counts : Stamp) : (seqNext (t.begin.fork counts) t.pc).1 = (seqNext t t.pc).1 := by
  refine seqNext_congr _ ?_ ?_ ?_ ?_
  · exact Thread.begin_ldepth t
  · exact Thread.begin_lecnt t
  · exact Thread.begin_lebeg t
  · exact Thread.begin_leend t

/-- What a split leaves of thread i: it is that part of the thread, it goes on at the next word, and its lead is forked
afresh (R162). -/
structure State.SplitThread (s : State) (d : BitVec 5) (w i : Nat) (p : Thread) : Prop where
  part : s.th.IsPart d w i (s.partLanes w i) p
  pc : p.pc = (seqNext s.th s.th.pc).1
  wait : p.wait = .none
  forkAt : p.forkAt = s.counts
  doubt : p.doubt = false

theorem State.splitThread_retired (s : State) (d : BitVec 5) {w : Nat} (cap : Nat) (hw : 4096 / w ≤ 4096) :
    s.SplitThread d w 0 (((s.th.begin.fork s.counts).part d w 0 (s.partLanes w 0)).retired cap .seq) := by
  obtain ⟨hpc, hldepth, hlecnt, hlebeg, hleend⟩ := (s.th.begin.fork s.counts).part_flow d w 0 (s.partLanes w 0)
  obtain ⟨hforkAt, hdoubt⟩ := (s.th.begin.fork s.counts).part_fork d w 0 (s.partLanes w 0)
  obtain ⟨hforkAt', hdoubt'⟩ :=
    Thread.retired_seq_fork ((s.th.begin.fork s.counts).part d w 0 (s.partLanes w 0)) cap
  refine ⟨(((s.th.begin.fork s.counts).part_isPart d 0 _ hw).retired cap).of_begun, ?_, ?_, hforkAt'.trans hforkAt,
    hdoubt'.trans hdoubt⟩
  · have hpc' : (s.th.begin.fork s.counts).pc = s.th.pc := by
      rw [Thread.fork_pc, Thread.begin_pc]
    rw [Thread.retired_seq_pc, hpc, seqNext_congr _ hldepth hlecnt hlebeg hleend, hpc', seqNext_begin]
  · rw [Thread.retired_seq_progress]
    generalize Thread.retired _ cap .seq = r
    rfl

theorem State.splitThread_pastSplit (s : State) (d : BitVec 5) {w : Nat} (i : Nat) (hw : 4096 / w ≤ 4096) :
    s.SplitThread d w i ((s.th.begin.fork s.counts).pastSplit.part d w i (s.partLanes w i)) := by
  obtain ⟨hpc, -⟩ := (s.th.begin.fork s.counts).pastSplit.part_flow d w i (s.partLanes w i)
  obtain ⟨hforkAt, hdoubt⟩ := (s.th.begin.fork s.counts).pastSplit.part_fork d w i (s.partLanes w i)
  obtain ⟨hforkAt', hdoubt'⟩ := (s.th.begin.fork s.counts).pastSplit_fork
  refine ⟨((s.th.begin.fork s.counts).pastSplit.part_isPart d i _ hw).of_pastSplit.of_begun, ?_, ?_, ?_, ?_⟩
  · have hpc' : (s.th.begin.fork s.counts).pc = s.th.pc := by
      rw [Thread.fork_pc, Thread.begin_pc]
    rw [hpc, ← seqNext_begin s.th s.counts, ← hpc']
    rfl
  · unfold Thread.part
    by_cases hi : i = 0
    · simp only [if_pos hi, Thread.setX_wait]
      rfl
    · simp only [if_neg hi, Thread.setX_wait]
      rfl
  · rw [hforkAt, hforkAt']
    rfl
  · rw [hdoubt, hdoubt']
    rfl

theorem State.partLanes_zero (s : State) (w : Nat) :
    s.partLanes w 0 = lanesIn s.th.lanes s.sq.slots.1 (s.sq.slots.2 / w) := by
  rw [State.partLanes, Nat.zero_mul, Nat.zero_div, Nat.add_zero]

theorem State.partLanes_atIssue (s : State) (w i : Nat) : s.atIssue.partLanes w i = s.partLanes w i := by
  rw [State.partLanes, atIssue_th, Thread.begin_lanes]
  rfl

/-- A thread of the current sequencer but the current one stays as it is while that retires. -/
theorem State.setTh_thread_ne (s : State) (t : Thread) {i : Nat} (h : i ≠ s.cur.thr) :
    (s.setTh t).thread s.cur.seq i = s.thread s.cur.seq i := Sparse.get_set_ne _ _ _ (by unfold threadKey; omega)

theorem State.splitInto_th (s : State) (d : BitVec 5) (w : Nat) :
    (s.splitInto d w).th = (s.th.fork s.counts).part d w 0 (s.partLanes w 0) := by
  rw [State.partLanes_zero, State.splitInto, State.setTh_th, Thread.fork_lanes]

theorem State.splitInto_cur (s : State) (d : BitVec 5) (w : Nat) : (s.splitInto d w).cur = s.cur := by
  have hput (b n : Nat) (t : Thread) : (putParts d w b n t s (w - 1)).cur = s.cur := by rw [putParts_frame]
  exact hput _ _ _

theorem State.splitInto_other {s : State} (d : BitVec 5) {w i : Nat} (hcur : s.cur.thr = 0) (hpos : 0 < i)
    (hi : i < w) :
    (s.splitInto d w).thread s.cur.seq i = (s.th.fork s.counts).pastSplit.part d w i (s.partLanes w i) := by
  have hlanes : (s.th.fork s.counts).pastSplit.lanes = s.th.lanes := by
    rw [Thread.pastSplit_lanes, Thread.fork_lanes]
  have hput := putParts_thread (d := d) (w := w) (b := s.sq.slots.1) (n := s.sq.slots.2)
    (t := (s.th.fork s.counts).pastSplit) (s := s) hpos (Nat.le_sub_one_of_lt hi)
  rw [hlanes] at hput
  refine Eq.trans (Sparse.get_set_ne _ _ _ ?_) hput
  rw [putParts_frame]
  show 4 * s.cur.seq + i ≠ 4 * s.cur.seq + s.cur.thr
  omega

/-- A split leaves each thread its part of the thread that was split. -/
theorem State.splitInto_thread {s : State} {d : BitVec 5} {w i : Nat} (hcur : s.cur.thr = 0) (hi : i < w) :
    s.SplitThread d w i ((retire .seq (s.atIssue.splitInto d w)).thread s.cur.seq i) := by
  have hw : 4096 / w ≤ 4096 := Nat.div_le_self _ _
  have hcur' : (s.atIssue.splitInto d w).cur = s.cur := State.splitInto_cur _ d w
  rw [retire_seq]
  obtain rfl | hpos := Nat.eq_zero_or_pos i
  · have hthread : ((s.atIssue.splitInto d w).setTh ((s.atIssue.splitInto d w).th.retired
        (s.atIssue.splitInto d w).sq.histCap .seq)).thread s.cur.seq 0 = _ := State.th_of_cur (by
      rw [State.setTh_cur, hcur', ← hcur])
    rw [hthread, State.setTh_th, State.splitInto_th, atIssue_th, State.partLanes_atIssue]
    exact s.splitThread_retired d _ hw
  · rw [← hcur', State.setTh_thread_ne _ _ (by rw [hcur', hcur]; exact hpos.ne'), hcur']
    have hother := State.splitInto_other (s := s.atIssue) d hcur hpos hi
    rw [atIssue_th, State.partLanes_atIssue] at hother
    rw [show s.cur = s.atIssue.cur from rfl, hother]
    exact s.splitThread_pastSplit d i hw

/-- `vsplit` makes w threads of one (R156, R334). -/
theorem vsplit_splits {s : State} {d n : BitVec 5} (hq : s.quiet) (hsplit : s.sq.split = 1) (hcur : s.cur.thr = 0)
    (hn : n.toNat = 2 ∨ n.toNat = 4) (hfull : s.fullX [d]) (hpend : s.th.pend = [])
    (hlanes : ∀ i < n.toNat, s.partLanes n.toNat i ≠ []) :
    Nexts (exec (.vsplit d n) s) fun t => t.sq.split = n.toNat ∧ t.mem = s.mem ∧ t.host = s.host ∧
      ∀ i < n.toNat, s.SplitThread d n.toNat i (t.thread s.cur.seq i) := by
  refine ⟨_, execVsplit_splits hq hsplit hn hfull hpend hlanes, ?_, ?_, ?_, fun i hi => State.splitInto_thread hcur hi⟩
  · rw [retire_seq, State.setTh_sq, State.splitInto, State.setTh_sq, State.setSq_sq]
  · rw [retire_seq, State.setTh_mem, State.splitInto, State.setTh_mem, State.setSq_mem, putParts_frame]
    rfl
  · rw [retire_seq, State.setTh_host, State.splitInto, State.setTh_host, State.setSq_host, putParts_frame]
    rfl

end Sys2Proof.Machine

end

section
/-! SUPPORT. The threads that join (O38): what a join takes of them, and when `vjoin` waits (R158). -/

namespace Sys2Proof.Machine

/-! ## The threads that join (R158) -/

/-- As an instruction begins, the threads are what they were but for what the current one notes of its issue. -/
theorem State.atIssue_thread (s : State) (q i : Nat) :
    s.atIssue.thread q i = s.thread q i ∨ s.atIssue.thread q i = (s.thread q i).begin := by
  have hbegin : s.atIssue.th = s.th.begin := atIssue_th s
  by_cases h : 4 * q + i = threadKey s.cur
  · refine .inr ?_
    rw [State.th, State.th] at hbegin
    rw [State.thread, State.thread, h]
    exact hbegin
  · exact .inl (Sparse.get_set_ne _ _ _ h)

section
variable (s : State) (q i : Nat)

theorem State.atIssue_thread_getX (r : Nat) : (s.atIssue.thread q i).getX r = (s.thread q i).getX r := by
  obtain h | h := s.atIssue_thread q i
  · rw [h]
  · rw [h, Thread.begin_getX]

theorem State.atIssue_thread_fflags : (s.atIssue.thread q i).fflags = (s.thread q i).fflags := by
  obtain h | h := s.atIssue_thread q i
  · rw [h]
  · rw [h, Thread.begin_fflags]

theorem State.atIssue_thread_latch : (s.atIssue.thread q i).latch = (s.thread q i).latch := by
  obtain h | h := s.atIssue_thread q i
  · rw [h]
  · rw [h, Thread.begin_latch]

theorem State.atIssue_thread_mask (k : Nat) : (s.atIssue.thread q i).mask k = (s.thread q i).mask k := by
  obtain h | h := s.atIssue_thread q i
  · rw [h]
  · rw [h, Thread.mask, Thread.begin_k, Thread.mask]

theorem State.atIssue_thread_layout : (s.atIssue.thread q i).layout = (s.thread q i).layout := by
  obtain h | h := s.atIssue_thread q i
  · rw [h]
  · rw [h, Thread.begin_layout]

theorem State.atIssue_thread_vreg (k : Nat) : (s.atIssue.thread q i).vreg k = (s.thread q i).vreg k := by
  obtain h | h := s.atIssue_thread q i
  · rw [h]
  · rw [h, Thread.vreg, Thread.begin_v, Thread.vreg]

theorem State.atIssue_thread_depth : (s.atIssue.thread q i).depth = (s.thread q i).depth := by
  obtain h | h := s.atIssue_thread q i
  · rw [h]
  · rw [h, Thread.depth, Thread.begin_vdecl, Thread.depth]

theorem State.atIssue_thread_next :
    (seqNext (s.atIssue.thread q i) (s.atIssue.thread q i).pc).1 = (seqNext (s.thread q i) (s.thread q i).pc).1 := by
  obtain h | h := s.atIssue_thread q i
  · rw [h]
  · rw [h, Thread.begin_pc]
    exact seqNext_congr _ (Thread.begin_ldepth _) (Thread.begin_lecnt _) (Thread.begin_lebeg _) (Thread.begin_leend _)

end

/-! ## Threads made one -/

theorem zipIdx_map_range {α : Type} (f : Nat → α) (n : Nat) :
    ((List.range n).map f).zipIdx = (List.range n).map fun i => (f i, i) := by
  refine List.ext_getElem (by simp) fun i h1 h2 => ?_
  simp

theorem headD_map_range {α : Type} (f : Nat → α) (a : α) {n : Nat} (h : 0 < n) : ((List.range n).map f).headD a = f 0 := by
  obtain ⟨m, rfl⟩ := Nat.exists_eq_succ_of_ne_zero h.ne'
  rw [List.range_succ_eq_map]
  rfl

section
variable (f : Nat → Thread) {w : Nat} (base : List Word) (lanes : List Nat)

/-- The masks of the joined thread are those of the threads side by side. -/
theorem joinThreads_mask (hw : 4096 / w * w ≤ 4096) {k i : Nat} (hk : k < 16) (hi : i < w) :
    (joinThreads ((List.range w).map f) base lanes).mask k / 2 ^ (4096 / w * i) % 2 ^ (4096 / w) =
      (f i).mask k % 2 ^ (4096 / w) := by
  have hlt : ∀ i < w, (f i).mask k % 2 ^ (4096 / w) < 2 ^ (4096 / w) := fun i _ => Nat.mod_lt _ (Nat.two_pow_pos _)
  have hmask : (joinThreads ((List.range w).map f) base lanes).mask k =
      packed (4096 / w) (fun i => (f i).mask k % 2 ^ (4096 / w)) w := by
    unfold joinThreads
    dsimp only
    rw [Thread.mask, Sparse.get_keys, if_pos (List.mem_range.2 hk), List.length_map, List.length_range,
      zipIdx_map_range, List.foldl_map]
    refine (BitVec.toNat_ofNat _ _).trans (Nat.mod_eq_of_lt ((packed_lt hlt).trans_le ?_))
    exact Nat.pow_le_pow_right Nat.two_pos hw
  rw [hmask, ← elemAt_eq, elemAt_packed hlt hi]

/-- What the joined thread has of thread 0: scalar registers, position and loop stack. -/
theorem joinThreads_first (hw : 0 < w) :
    (∀ r, (joinThreads ((List.range w).map f) base lanes).getX r = (f 0).getX r) ∧
    (seqNext (joinThreads ((List.range w).map f) base lanes) (joinThreads ((List.range w).map f) base lanes).pc).1 =
      (seqNext (f 0) (f 0).pc).1 := by
  have hhead : ((List.range w).map f).headD {} = f 0 := headD_map_range f {} hw
  unfold joinThreads
  dsimp only
  rw [hhead]
  exact ⟨fun r => by simp only [Thread.getX], seqNext_congr _ rfl rfl rfl rfl⟩

theorem joinThreads_v (hw : 0 < w) : (joinThreads ((List.range w).map f) base lanes).v =
    gathered (f 0).depth (f 0).depth ((List.range w).map f) lanes := by
  have hhead : ((List.range w).map f).headD {} = f 0 := headD_map_range f {} hw
  unfold joinThreads
  dsimp only
  rw [hhead]
  rfl

theorem joinThreads_fflags : (joinThreads ((List.range w).map f) base lanes).fflags =
    (List.range w).foldl (fun r i => r ||| (f i).fflags) 0 := List.foldl_map

theorem joinThreads_latch : (joinThreads ((List.range w).map f) base lanes).latch =
    (List.range w).foldl (fun r i => r ||| (f i).latch) 0 := List.foldl_map

end

/-! ## A join (R158) -/

/-- The threads of the current sequencer given up. -/
def State.clearThreads (s : State) (w : Nat) : State := (List.range w).foldl (fun u i => u.setThread s.cur.seq i {}) s

theorem State.clearThreads_frame (s : State) (w : Nat) :
    s.clearThreads w = { s with threads := (s.clearThreads w).threads } := by
  unfold State.clearThreads
  exact List.foldlRecOn (motive := fun u : State => u = { s with threads := u.threads }) _ _ rfl
    fun u hu i _ => by rw [hu]; rfl

theorem State.clearThreads_thread (s : State) {w i : Nat} (hi : i < w) :
    (s.clearThreads w).thread s.cur.seq i = {} := by
  induction w with
  | zero => omega
  | succ w ih =>
    have hstep : s.clearThreads (w + 1) = (s.clearThreads w).setThread s.cur.seq w {} := by
      rw [State.clearThreads, List.range_succ (n := w), List.foldl_append]
      rfl
    rw [hstep]
    obtain rfl | hlt := (Nat.lt_succ_iff.1 hi).eq_or_lt
    · exact State.setThread_thread_same _ _ _ _
    · rw [State.setThread_thread_ne _ _ _ hlt.ne]
      exact ih hlt

/-- The module with the threads of the current sequencer joined, thread 0 still at its `vjoin`. -/
def State.joined (s : State) : State :=
  let j := joinThreads ((List.range s.sq.split).map (s.thread s.cur.seq)) s.sq.splitCounts (liveLanes s.cp s.sq)
  let u := s.clearThreads s.sq.split
  let v := u.setSq { u.sq with split := 1, splitCounts := [] }
  { v with cur := ⟨s.cur.seq, 0⟩, threads := Sparse.set v.threads (4 * s.cur.seq) (j.fork v.counts) }

theorem performedAllM_of_settled {s : State} (h : s.settled = true) (hpend : s.th.pend = []) :
    performedAllM s = .ok () s := by
  have hclaiming : s.th.claiming = false := by
    rw [Thread.claiming, hpend]
    rfl
  rw [performedAllM, if_neg (Bool.eq_false_iff.1 hclaiming), if_pos h]

theorem performedAllM_atIssue {s : State} (h : s.settled = true) (hpend : s.th.pend = []) :
    performedAllM s.atIssue = .ok () s.atIssue := performedAllM_of_settled (s := s.atIssue) h (atIssue_pend hpend)

section
variable {s : State} (hq : s.quiet) (hsettled : s.settled = true) (hsplit : s.sq.split ≠ 1) (hpend : s.th.pend = [])
include hq hsettled hsplit hpend

/-- A thread that joins while another has not arrived waits. -/
theorem execVjoin_waits (h : ∃ i < s.sq.split, i ≠ s.cur.thr ∧ (s.thread s.cur.seq i).wait ≠ .join) :
    exec .vjoin s = .next (s.setTh { s.th.begin with wait := .join, ended := .waiting }) := by
  have hexec : exec .vjoin s = execVjoin s := rfl
  have hany : ((List.range s.atIssue.sq.split).any fun i =>
      i ≠ s.atIssue.cur.thr && (s.atIssue.thread s.atIssue.cur.seq i).wait ≠ .join) = true := by
    obtain ⟨i, hi, hne, hwait⟩ := h
    refine List.any_eq_true.2 ⟨i, List.mem_range.2 hi, ?_⟩
    have hthread : s.atIssue.thread s.cur.seq i = s.thread s.cur.seq i := s.setTh_thread_ne _ hne
    rw [Bool.and_eq_true, decide_eq_true_iff, decide_eq_true_iff]
    exact ⟨hne, by rw [← hthread] at hwait; exact hwait⟩
  rw [hexec, execVjoin]
  refine (run_error hq (e := .wait .join) (s' := s.atIssue) ?_).trans ?_
  · rw [M.bind_ok (getS_apply _)]
    dsimp only
    rw [if_neg (show ¬ s.atIssue.sq.split = 1 from hsplit), M.bind_ok (performedAllM_atIssue hsettled hpend),
      M.bind_ok (landAll_atIssue hpend), M.bind_ok (getS_apply _)]
    exact congrFun (if_pos hany) s.atIssue
  · rw [finish, atIssue_th, State.atIssue, State.setTh_setTh]

/-- The last thread to arrive joins them all. -/
theorem execVjoin_joins (h : ∀ i < s.sq.split, i ≠ s.cur.thr → (s.thread s.cur.seq i).wait = .join) :
    exec .vjoin s = .next (retire .seq s.atIssue.joined) := by
  have hexec : exec .vjoin s = execVjoin s := rfl
  have hnone : ¬ ((List.range s.atIssue.sq.split).any fun i =>
      i ≠ s.atIssue.cur.thr && (s.atIssue.thread s.atIssue.cur.seq i).wait ≠ .join) = true := by
    rw [List.any_eq_true]
    rintro ⟨i, hi, hwait⟩
    rw [Bool.and_eq_true, decide_eq_true_iff, decide_eq_true_iff] at hwait
    obtain ⟨hne, hwait⟩ := hwait
    have hthread : s.atIssue.thread s.cur.seq i = s.thread s.cur.seq i := s.setTh_thread_ne _ hne
    exact hwait ((congrArg Thread.wait hthread).trans (h i (List.mem_range.1 hi) hne))
  rw [hexec, execVjoin]
  refine run_ok hq ?_
  rw [M.bind_ok (getS_apply _)]
  dsimp only
  rw [if_neg (show ¬ s.atIssue.sq.split = 1 from hsplit), M.bind_ok (performedAllM_atIssue hsettled hpend),
    M.bind_ok (landAll_atIssue hpend), M.bind_ok (getS_apply _)]
  exact congrFun (if_neg hnone) s.atIssue

end

end Sys2Proof.Machine

end

section
/-! SUPPORT. What a join makes of its threads (O38), and the module after it. -/

namespace Sys2Proof.Machine

/-- What a join makes of the w threads `f`, over the lanes given: thread 0 goes on with the registers of all (R158,
R162). -/
structure Thread.IsJoin (f : Nat → Thread) (w : Nat) (lanes : List Nat) (counts : Stamp) (p : Thread) : Prop where
  pc : p.pc = (seqNext (f 0) (f 0).pc).1
  scalars : ∀ r, p.getX r = (f 0).getX r
  vill : p.vtype = 0x8000000000000000#64
  flags : p.fflags = (List.range w).foldl (fun r i => r ||| (f i).fflags) 0
  latches : p.latch = (List.range w).foldl (fun r i => r ||| (f i).latch) 0
  masks : ∀ k < 16, ∀ i < w, p.mask k / 2 ^ (4096 / w * i) % 2 ^ (4096 / w) = (f i).mask k % 2 ^ (4096 / w)
  ownLanes : p.layout = lanes
  forkAt : p.forkAt = counts
  doubt : p.doubt = false
  registers : p.v = gathered (f 0).depth (f 0).depth ((List.range w).map f) lanes

/-- The joined thread, its lead forked afresh, once it has retired. -/
theorem joinThreads_isJoin (f : Nat → Thread) {w : Nat} (base : List Word) (lanes : List Nat) (counts : Stamp)
    (cap : Nat) (hw : 0 < w) (hfit : 4096 / w * w ≤ 4096) :
    Thread.IsJoin f w lanes counts (((joinThreads ((List.range w).map f) base lanes).fork counts).retired cap .seq) := by
  obtain ⟨hscalars, hnext⟩ := joinThreads_first f base lanes hw
  have hpc : (((joinThreads ((List.range w).map f) base lanes).fork counts).retired cap .seq).pc =
      (seqNext (f 0) (f 0).pc).1 := by
    rw [Thread.retired_seq_pc, Thread.fork_pc, ← hnext, seqNext_fork]
  have hforked := Thread.retired_seq_fork ((joinThreads ((List.range w).map f) base lanes).fork counts) cap
  obtain ⟨hforkAt, hdoubt⟩ := hforked
  have hmasks := fun k (hk : k < 16) i hi => joinThreads_mask f base lanes hfit (k := k) (i := i) hk hi
  have hv := joinThreads_v f base lanes hw
  have hfflags := joinThreads_fflags f (w := w) base lanes
  have hlatch := joinThreads_latch f (w := w) base lanes
  have hvtype : (joinThreads ((List.range w).map f) base lanes).vtype = 0x8000000000000000#64 := rfl
  have hlayout : (joinThreads ((List.range w).map f) base lanes).layout = lanes := rfl
  rw [Thread.retired_seq_progress] at hpc hforkAt hdoubt ⊢
  generalize Thread.retired _ cap .seq = r at hpc hforkAt hdoubt ⊢
  generalize joinThreads _ base lanes = j at *
  exact ⟨hpc, hscalars, hvtype, hfflags, hlatch, hmasks, hlayout, hforkAt, hdoubt, hv⟩

/-- The threads as the join begins are, in what it takes of them, those before. -/
theorem Thread.IsJoin.of_atIssue {s : State} {q w : Nat} {lanes : List Nat} {counts : Stamp} {p : Thread}
    (h : Thread.IsJoin (s.atIssue.thread q) w lanes counts p) : Thread.IsJoin (s.thread q) w lanes counts p := by
  obtain ⟨hpc, hscalars, hvill, hflags, hlatches, hmasks, hlanes, hforkAt, hdoubt, hregisters⟩ := h
  refine ⟨?_, fun r => ?_, hvill, ?_, ?_, fun k hk i hi => ?_, hlanes, hforkAt, hdoubt, ?_⟩
  · rw [hpc, State.atIssue_thread_next]
  · rw [hscalars, State.atIssue_thread_getX]
  · simp only [hflags, State.atIssue_thread_fflags]
  · simp only [hlatches, State.atIssue_thread_latch]
  · rw [hmasks k hk i hi, State.atIssue_thread_mask]
  · rw [hregisters, State.atIssue_thread_depth]
    have hkeys : regKeys ((List.range w).map (s.atIssue.thread q)) = regKeys ((List.range w).map (s.thread q)) := by
      unfold regKeys
      simp only [List.any_map]
      congr 1
      funext k
      congr 1
      funext i
      simp only [Function.comp_apply]
      obtain h | h := s.atIssue_thread q i
      · rw [h]
      · rw [h, Thread.begin_v]
    simp only [gathered, hkeys, List.map_map, Function.comp_def, State.atIssue_thread_layout, State.atIssue_thread_vreg]

/-- A dword of a register is, in the joined thread, where the thread that owns its lane left it. -/
theorem Thread.IsJoin.dword {f : Nat → Thread} {w : Nat} {lanes : List Nat} {counts : Stamp} {p : Thread}
    (h : Thread.IsJoin f w lanes counts p) {k i g g0 j lane : Nat} (hk : k < 1024) (hi : i < w)
    (hnodup : (f i).layout.Nodup) (hapart : ∀ i' < w, i' ≠ i → ∀ lane ∈ (f i).layout, lane ∉ (f i').layout)
    (hfit : lanes.length * (f 0).depth ≤ 512) (hj : j < (f 0).depth) (hg : (f i).layout[g]? = some lane)
    (hg0 : lanes[g0]? = some lane) :
    elemAt 64 (p.vreg k).bits.toNat (g0 + j * lanes.length) =
      elemAt 64 ((f i).vreg k).bits.toNat (g + j * (f i).layout.length) := by
  have hown : ∀ u ∈ (List.range w).map f, lane ∈ u.layout → u = f i := by
    intro u hu hlane
    obtain ⟨i', hi', rfl⟩ := List.mem_map.1 hu
    by_contra hne
    exact hapart i' (List.mem_range.1 hi') (fun heq => hne (heq ▸ rfl)) lane (List.mem_of_getElem? hg) hlane
  have hgather := elemAt_gathered hk (List.mem_map_of_mem (List.mem_range.2 hi)) hown hnodup hg hg0 hj hj hfit
  rwa [← h.registers] at hgather

/-! ## The module after a join -/

theorem State.joined_frame (s : State) :
    s.joined = { s with
      seqs := s.joined.seqs
      threads := Sparse.set (s.clearThreads s.sq.split).threads (4 * s.cur.seq)
        ((joinThreads ((List.range s.sq.split).map (s.thread s.cur.seq)) s.sq.splitCounts (liveLanes s.cp s.sq)).fork
          s.counts)
      cur := ⟨s.cur.seq, 0⟩ } := by
  have hclear := s.clearThreads_frame s.sq.split
  unfold State.joined
  rw [hclear]
  rfl

theorem State.joined_sq (s : State) : s.joined.sq.split = 1 := by
  unfold State.joined
  rw [s.clearThreads_frame s.sq.split]
  exact congrArg Seq.split (State.setSq_sq _ _)

theorem State.joined_th (s : State) : s.joined.th =
    (joinThreads ((List.range s.sq.split).map (s.thread s.cur.seq)) s.sq.splitCounts (liveLanes s.cp s.sq)).fork
      s.counts := by
  rw [State.joined_frame]
  exact Sparse.get_set_same _ _ _ _

theorem State.joined_other (s : State) {i : Nat} (hpos : 0 < i) (hi : i < s.sq.split) :
    s.joined.thread s.cur.seq i = {} := by
  rw [State.joined_frame]
  refine Eq.trans (Sparse.get_set_ne _ _ _ (by omega)) ?_
  exact s.clearThreads_thread hi

/-- The last thread to arrive at its `vjoin` makes one thread of all (R158). -/
theorem vjoin_joins {s : State} (hq : s.quiet) (hsettled : s.settled = true) (hsplit : s.sq.split ≠ 1)
    (hpend : s.th.pend = []) (hpos : 0 < s.sq.split) (hfit : 4096 / s.sq.split * s.sq.split ≤ 4096)
    (harrived : ∀ i < s.sq.split, i ≠ s.cur.thr → (s.thread s.cur.seq i).wait = .join) :
    Nexts (exec .vjoin s) fun t => t.sq.split = 1 ∧ t.cur = ⟨s.cur.seq, 0⟩ ∧
      Thread.IsJoin (s.thread s.cur.seq) s.sq.split (liveLanes s.cp s.sq) s.counts t.th ∧
      (∀ i < s.sq.split, 0 < i → t.thread s.cur.seq i = {}) ∧ t.mem = s.mem ∧ t.host = s.host := by
  have hcur : s.atIssue.joined.cur = ⟨s.cur.seq, 0⟩ := by
    rw [State.joined_frame]
    rfl
  refine ⟨_, execVjoin_joins hq hsettled hsplit hpend harrived, ?_, ?_, ?_, fun i hi hi0 => ?_, ?_, ?_⟩
  · rw [retire_seq, State.setTh_sq, State.joined_sq]
  · rw [retire_seq, State.setTh_cur, hcur]
  · rw [retire_seq, State.setTh_th, State.joined_th]
    exact (joinThreads_isJoin _ _ _ _ _ hpos hfit).of_atIssue
  · rw [retire_seq]
    have hother := State.setTh_thread_ne s.atIssue.joined
      (s.atIssue.joined.th.retired s.atIssue.joined.sq.histCap .seq) (i := i) (by rw [hcur]; exact hi0.ne')
    rw [hcur] at hother
    rw [hother]
    exact s.atIssue.joined_other hi0 hi
  · rw [retire_seq, State.setTh_mem, State.joined_frame]
    rfl
  · rw [retire_seq, State.setTh_host, State.joined_frame]
    rfl

end Sys2Proof.Machine

end

section
/-! SUPPORT. Exchange (O38): a send to a peer, to none, and one that waits (R174 to R176, R335, R336). -/

namespace Sys2Proof.Machine

/-! ## Exchange (R174 to R176) -/

theorem vOk_declared {r : BitVec 5} {t : Thread} (h : r.toNat < t.vn) : vOk r t = .ok () t := if_pos h

theorem rv_full {r : BitVec 5} {t : Thread} (p : Bool) (h : t.vFull r.toNat = true) :
    rv r p t = .ok (t.vreg r.toNat).bits.toNat t := if_pos h

theorem Thread.begin_vn (t : Thread) : t.begin.vn = t.vn := by
  rw [Thread.vn, Thread.begin_vdecl, Thread.vn]

theorem State.atIssue_vreg (s : State) (k : Nat) : s.atIssue.th.vreg k = s.th.vreg k := by
  rw [atIssue_th, Thread.vreg, Thread.begin_v, Thread.vreg]

theorem State.atIssue_thread_other (s : State) {q : Nat} (h : q ≠ s.cur.seq) :
    s.atIssue.thread q s.cur.thr = s.thread q s.cur.thr := Sparse.get_set_ne _ _ _ (by unfold threadKey; omega)

/-- `xrecv` leaves its register empty, for a peer to fill (R336). -/
theorem xrecv_empties {s : State} {d : BitVec 5} (hq : s.quiet) (hd : d.toNat < s.th.vn) :
    exec (.xrecv d) s = .next (s.done fun t => t.setVreg d.toNat { t.vreg d.toNat with empty := true }) := by
  have hexec : exec (.xrecv d) s = execXrecv d s := rfl
  have hdeclared : d.toNat < s.th.begin.vn := by rwa [Thread.begin_vn]
  rw [hexec, execXrecv]
  refine runS_done _ hq ?_
  rw [T.bind_ok (vOk_declared hdeclared)]
  rfl

section
variable {s : State} {d a b : BitVec 5} (fa fb : Bool) (ha : s.fullX [a]) (hb : s.readyV [b])
include ha hb

/-- With its operands ready, `xsend` turns to its peer. -/
theorem xsendM_sends : xsendM d a b fa fb s.atIssue = sendM d b (s.gx a) s.atIssue := by
  obtain ⟨hdeclared, hvfull⟩ := hb b List.mem_cons_self
  have hvOk : vOk b s.atIssue.th = .ok () s.atIssue.th := vOk_declared (by rwa [atIssue_th, Thread.begin_vn])
  have hrx : rx a fa s.atIssue.th = .ok (s.gx a) s.atIssue.th := by
    rw [rx_full fa (by rw [State.xFull_atIssue]; exact ha a List.mem_cons_self), atIssue_th, Thread.begin_getX]
    rfl
  have hrv : rv b fb s.atIssue.th = .ok (s.atIssue.th.vreg b.toNat).bits.toNat s.atIssue.th :=
    rv_full fb (by rwa [Thread.vFull, State.atIssue_vreg])
  rw [xsendM, M.bind_ok (liftT_atIssue hvOk), M.bind_ok (liftT_atIssue hrx), M.bind_ok (liftT_atIssue hrv)]

/-- A send to no peer is refused (R335). -/
theorem xsend_noPeer (hq : s.quiet) (hpeer : s.peerOf (s.gx a) = none) (hwait : s.th.wait ≠ .peer) :
    exec (.xsend d a b fa fb) s = .next (takesTrap 0x03 0 0 0 s.atIssue) := by
  have hexec : exec (.xsend d a b fa fb) s = run (xsendM d a b fa fb) s := rfl
  have hwait' : ¬ s.atIssue.th.wait = .peer := by rwa [atIssue_th, Thread.begin_wait]
  have hsend : xsendM d a b fa fb s.atIssue = .error (.trap 0x03 0 0 0) s.atIssue := by
    rw [xsendM_sends fa fb ha hb, sendM, M.bind_ok (getS_apply _), show s.atIssue.peerOf (s.gx a) = none from hpeer]
    exact congrFun (if_neg hwait') s.atIssue
  rw [hexec, run_error hq hsend, finish, takesTrap]
  split
  · rfl
  · rfl

/-- A send that waits goes on waiting where its receiver has left (R176). -/
theorem xsend_receiverGone (hq : s.quiet) (hpeer : s.peerOf (s.gx a) = none) (hwait : s.th.wait = .peer) :
    exec (.xsend d a b fa fb) s = .next (s.setTh { s.th with ended := .waiting }) := by
  have hexec : exec (.xsend d a b fa fb) s = run (xsendM d a b fa fb) s := rfl
  have hbegun : s.th.begin = s.th := if_pos (by rw [hwait]; rfl)
  have hwait' : s.atIssue.th.wait = .peer := by rwa [atIssue_th, Thread.begin_wait]
  have hsend : xsendM d a b fa fb s.atIssue = .error (.wait .peer) s.atIssue := by
    rw [xsendM_sends fa fb ha hb, sendM, M.bind_ok (getS_apply _), show s.atIssue.peerOf (s.gx a) = none from hpeer]
    exact congrFun (if_pos hwait') s.atIssue
  rw [hexec, run_error hq hsend, finish, State.atIssue, hbegun, State.setTh_th, State.setTh_setTh, ← hwait]

/-- A value sent lands in the empty register of its peer (R175). -/
theorem xsendM_lands {q : Nat} (hq : s.quiet) (hpeer : s.peerOf (s.gx a) = some q) (hne : q ≠ s.cur.seq)
    (hd : d.toNat < (s.thread q s.cur.thr).vn) (hempty : (s.thread q s.cur.thr).vFull d.toNat = false) :
    run (xsendM d a b fa fb) s = .next (retire .seq (s.atIssue.land q d.toNat (s.th.vreg b.toNat))) := by
  have hthread : s.atIssue.thread q s.atIssue.cur.thr = s.thread q s.cur.thr := s.atIssue_thread_other hne
  refine run_ok hq ?_
  rw [xsendM_sends fa fb ha hb, sendM, M.bind_ok (getS_apply _), show s.atIssue.peerOf (s.gx a) = some q from hpeer]
  dsimp only
  rw [hthread, if_neg (Nat.not_le.2 hd), if_neg (Bool.eq_false_iff.1 hempty), ← State.atIssue_vreg]
  rfl

end

/-- An `xsend` that waits lands as one that is executed does. -/
theorem xsendLanding_lands {s : State} {u : Nat} (hcur : s.cur = ⟨s.cur.seq, u⟩) (hwait : s.th.wait = .peer) :
    exec (.xsendLanding s.cur.seq u) s = run (xsendM (fieldD s.th.ir) (fieldA s.th.ir) (fieldB s.th.ir)
      (fieldFA s.th.ir) (fieldFB s.th.ir)) s := by
  have hexec : exec (.xsendLanding s.cur.seq u) s = execXsendLanding s.cur.seq u s := rfl
  rw [hexec, execXsendLanding, State.with_cur_self hcur]
  dsimp only
  rw [hwait]

end Sys2Proof.Machine

open Sys2Proof Sys2Proof.Machine

/-- Settles O38. The registers of the threads are packed side by side by lane and depth, so a dword is found where its lane
lies (`elemAt_remap`); a split and a join are then read off field by field, and `xsend` by the answer of `peerOf`. -/
theorem splitAndJoinResults : Obligations.SplitAndJoinResults := by
  unfold Obligations.SplitAndJoinResults
  refine ⟨?split, ?join, ?exchange⟩
  case split =>
    intro s d n hq hsplit hcur hn hfull w sl lanes hlanes hpend hnodup hlayout hfit hfit'
    have hcount : n.toNat = 2 ∨ n.toNat = 4 := by
      obtain rfl | rfl : n = 2 ∨ n = 4 := by simpa using hn
      · exact .inl rfl
      · exact .inr rfl
    obtain ⟨t, ht, hsplit', hmem, hhost, hparts⟩ := vsplit_splits hq hsplit hcur hcount hfull hpend
      fun i hi => hlanes i (by omega) hi
    refine ⟨t, ht, hsplit', hmem, hhost, fun i _ hi => ?_⟩
    obtain ⟨hpart, hpc, hwait, hforkAt, hdoubt⟩ := hparts i hi
    refine ⟨hpc, hpart.number, fun q _ hne => hpart.scalars q hne, hpart.hasLanes, hpart.vill, hpart.flags, hwait, hforkAt,
      hdoubt, fun k _ => hpart.masks k, fun k hk g g0 lane j hj hg hg0 => ?_⟩
    have hlen : (lanes i).length ≤ s.th.lanes.length := List.length_filter_le _ _
    exact hpart.dword hk hlayout ((Nat.mul_le_mul_right _ hlen).trans hfit) hj hg hg0
  case join =>
    intro s hq hplain hsplit hthr w q th hpend apart
    have hcount : w = 2 ∨ w = 4 := by simpa using hsplit
    have hsettled := State.settled_of_plain hplain
    have hone : s.sq.split ≠ 1 := by
      show w ≠ 1
      omega
    have hpend' : s.th.pend = [] := hpend s.cur.thr (by omega) hthr
    refine ⟨fun ⟨i, _, hi, hne, hwait⟩ => execVjoin_waits hq hsettled hone hpend' ⟨i, hi, hne, hwait⟩, fun harrived => ?_⟩
    have hfitMasks : 4096 / s.sq.split * s.sq.split ≤ 4096 := Nat.div_mul_le_self _ _
    obtain ⟨t, ht, hsplit', hcur, hjoin, hothers, hmem, hhost⟩ := vjoin_joins hq hsettled hone hpend' (by omega)
      hfitMasks fun i hi hne => harrived i (by omega) hi hne
    refine ⟨t, ht, hsplit', hcur, hjoin.pc, fun r _ => hjoin.scalars r, hjoin.vill, hjoin.flags, hjoin.latches,
      fun k hk i _ hi => hjoin.masks k hk i hi, hjoin.ownLanes, hjoin.forkAt, hjoin.doubt, ?_,
      fun i _ hpos hi => hothers i hi hpos, hmem, hhost⟩
    intro hapart hfit k hk i hi4 hi g g0 lane j hj hg hg0
    obtain ⟨hnodup, -, hdisjoint⟩ := hapart i hi4 hi
    rw [hjoin.ownLanes] at hfit hg0 ⊢
    exact hjoin.dword hk hi hnodup (fun i' hi' hne => hdisjoint i' (by omega) hi' hne) hfit hj hg hg0
  case exchange =>
    intro s q u d a b fa fb hq
    refine ⟨xrecv_empties hq,
      fun ha hb hpeer => ⟨xsend_noPeer fa fb ha hb hq hpeer, xsend_receiverGone fa fb ha hb hq hpeer⟩, fun ha hb hpeer => ?_⟩
    intro p hne hd hempty
    refine ⟨xsendM_lands fa fb ha hb hq hpeer hne hd hempty, ?_⟩
    rintro hcur hwait rfl rfl rfl
    rw [xsendLanding_lands hcur hwait]
    exact xsendM_lands _ _ ha hb hq hpeer hne hd hempty

end

section
/-! SUPPORT. A queue header in a line that was written under another key than its slot's now (O39): a write of one of its
counts fills the whole line anew (R45). -/

namespace Sys2Proof.Machine

/-- A queue header: TAIL 1, HEAD 0, RESV 1, FREE 0, elements of 4 bytes, 64 entries, READY 1, the ring at 0x10000. -/
def freshHeader : BitVec 1024 :=
  BitVec.ofNat 1024 (2 ^ 32 + 2 ^ 96 + (2 * 2 ^ 56 + 6 * 2 ^ 32 + 1) * 2 ^ 128 + 0x10000 * 2 ^ 192)

/-- What was written under key 5 in the line at 0x3000, where key 7 reads `freshHeader`. -/
def staleLine : BitVec 1024 :=
  142583468449700956958983615463485212858519959656093656019546586553346794105073056033932232598619417102296734789838787243261600254911289194663173366243511442921947201891839544093521359974674184594885565263852896202560049921595060933756878842213070312130681426853589426884388198232007780161910984963485032290583#1024

/-- A module whose thread names a queue header in a line that was written under another key than its slot's now. -/
def staleHeader : State :=
  { State.reset with
    slot0 := { loaded := true, key := 7 }
    seqs := [(0, { dxp := 0xA000000000000001 })]
    threads := [(0, { x := [(1, 0x3000), (2, 1)] })]
    mem := cellsAt 0x1000 (bytesOfNat 2 0x801) ++ cellsAt 0x2000 (bytesOfNat 1 0xDF) ++
      cellsAt 0x3000 (bytesOfNat 128 staleLine.toNat)
    lines := [(0x60, { key := some 5 })] }

/-- The access of a `qnext` to its header. -/
def qnextAcc : Acc := ⟨6, true, true, false, false, true, 64⟩

theorem staleHeader_xlat : (staleHeader.walked qnextAcc 0x3000).1 = .ok ⟨0x3000, 0, 0, .hbm 0⟩ := by rfl

theorem staleHeader_walked : (staleHeader.walked qnextAcc 0x3000).2 = staleHeader.atIssue := by rfl

theorem recrypt_staleLine : recrypt 5 7 (128 * 0x60) staleLine = freshHeader := by decide +kernel

/-- The header in fields. -/
def freshFields : QHeader := ⟨1, 0, 1, 0, false, 0, 2, 6, 1, 0x10000, 0, 0, 0, 0, 0⟩

/-- Under another key than its own a line reads as the cipher makes of it (R45). -/
theorem State.homeBytes_otherKey {s : State} {pa : Nat} {k0 k : BitVec 512} (n : Nat)
    (hkey : (s.line (lineOf pa)).key = some k0) (hne : k0 ≠ k) : s.homeBytes pa n (some k) =
      (List.range n).map fun i =>
        (recrypt k0 k (128 * lineOf pa) (s.lineBits (lineOf pa))).extractLsb' (8 * (pa % 128 + i)) 8 := by
  unfold State.homeBytes
  rw [hkey]
  exact if_neg hne

/-- Under its key now, the line reads as a header. -/
theorem staleHeader_homeBytes : staleHeader.atIssue.homeBytes 0x3000 64 (some 7) =
    (List.range 64).map fun i => freshHeader.extractLsb' (8 * (0x3000 % 128 + i)) 8 := by
  have hbits : staleHeader.atIssue.lineBits (lineOf 0x3000) = staleLine := by decide +kernel
  have hplain : recrypt 5 7 (128 * lineOf 0x3000) staleLine = freshHeader := recrypt_staleLine
  rw [State.homeBytes_otherKey (k0 := 5) 64 rfl (by simp), hbits, hplain]

theorem staleHeader_fields : QHeader.ofBytes (staleHeader.atIssue.homeBytes 0x3000 64 (some 7)) = freshFields := by
  rw [staleHeader_homeBytes]
  decide +kernel

theorem staleHeader_plain : staleHeader.plain := by
  refine ⟨rfl, by decide, by decide, rfl, rfl, fun e he => ?_, fun l hl => ?_⟩
  · interval_cases e <;> exact ⟨rfl, rfl, rfl, by decide⟩
  · rw [show staleHeader.lines = [(0x60, { key := some 5 })] from rfl] at hl
    obtain rfl := List.mem_singleton.1 hl
    rfl

/-- The claim writes HEAD under the key of its slot now, and so fills the whole line anew (R45): the byte of TAIL at
0x3004 is 1 after it. -/
theorem staleHeader_refilled : (match exec (.qnext 3 1 2 false false) staleHeader with
    | .next t => memByte t.mem 0x3004
    | _ => 0) = 1 := by decide +kernel

end Sys2Proof.Machine

open Sys2Proof Sys2Proof.Machine

/-- Refutes O39: a `qnext` changes bytes of its header's line beyond HEAD where the line was written under another key
than its slot's now. The write of HEAD fills the whole line anew under that key (R45), so the byte of TAIL at 0x3004,
0x17 in the cipher before, is 1 afterwards. -/
theorem not_queueInstructionResults : ¬ Obligations.QueueInstructionResults := by
  unfold Obligations.QueueInstructionResults
  rintro ⟨-, hqnext, -⟩
  have hwalked : staleHeader.walkedTo qnextAcc 0x3000 = staleHeader.atIssue := staleHeader_walked
  have hgoes : staleHeader.goesTo qnextAcc 0x3000 = ⟨0x3000, 0, 0, .hbm 0⟩ := by
    rw [State.goesTo, staleHeader_xlat]
    rfl
  have hreaches : staleHeader.reaches qnextAcc 0x3000 := ⟨by decide, by rw [hgoes]; exact staleHeader_xlat⟩
  have hfull : staleHeader.fullX [3, 1, 2] := by decide
  have hclaims := hqnext staleHeader 3 1 2 false false rfl staleHeader_plain hfull
  have hva : staleHeader.gx 1 = 0x3000 := rfl
  have hcount : (staleHeader.gx 2).toNat = 1 := rfl
  rw [hva, hcount] at hclaims
  unfold qnextAcc at hwalked hgoes hreaches
  dsimp only at hclaims
  rw [hwalked, hgoes] at hclaims
  have hheader : staleHeader.atIssue.header (Target.head ⟨0x3000, 0, 0, .hbm 0⟩) = freshFields := staleHeader_fields
  have hheld : QHeader.ofBytes (staleHeader.atIssue.heldAt ⟨0x3000, 0, 0, .hbm 0⟩ 64) = freshFields :=
    staleHeader_fields
  rw [hheader, hheld] at hclaims
  obtain ⟨hclaims, -⟩ := hclaims rfl hreaches rfl rfl rfl rfl (by decide) rfl (by decide) (by decide) rfl rfl rfl
  obtain ⟨t, ht, -, -, -, hmem⟩ := hclaims (.inl (by decide))
  have hbefore : memByte staleHeader.atIssue.mem 0x3004 = 0x17 := by decide +kernel
  have hafter := staleHeader_refilled
  rw [ht] at hafter
  have hsame := hmem 0x3004 (.inr (by decide))
  rw [hbefore] at hsame
  exact absurd (hsame.symm.trans hafter) (by decide)

end

section
/-! SUPPORT. The queue hardware (O53): states that are alike but for the stamps of their lines and dies, and plain states
that follow one another so. -/

namespace Sys2Proof.Machine

/-! ## States that differ in stamps alone -/

/-- Two states differ in the records of lines but for their keys, in the counts of the dies, and in what is numbered next:
in nothing that a translation or a read is made from. -/
structure State.Stamped (s t : State) : Prop where
  frame : t = { s with lines := t.lines, dies := t.dies, nextId := t.nextId }
  key : ∀ n, (t.line n).key = (s.line n).key
  die : ∀ d, ∃ c a, t.die d = { s.die d with count := c, applied := a }

namespace State.Stamped

theorem refl (s : State) : s.Stamped s := ⟨rfl, fun _ => rfl, fun _ => ⟨_, _, rfl⟩⟩

theorem symm {s t : State} (h : s.Stamped t) : t.Stamped s := by
  refine ⟨by rw [h.frame], fun n => (h.key n).symm, fun d => ?_⟩
  obtain ⟨c, a, hdie⟩ := h.die d
  exact ⟨(s.die d).count, (s.die d).applied, by rw [hdie]⟩

theorem trans {s t u : State} (h : s.Stamped t) (h' : t.Stamped u) : s.Stamped u := by
  refine ⟨h'.frame.trans (by rw [h.frame]), fun n => (h'.key n).trans (h.key n), fun d => ?_⟩
  obtain ⟨c, a, hdie⟩ := h.die d
  obtain ⟨c', a', hdie'⟩ := h'.die d
  exact ⟨c', a', by rw [hdie', hdie]⟩

section
variable {s t : State} (h : s.Stamped t)
include h

theorem mem : t.mem = s.mem := by rw [h.frame]
theorem host : t.host = s.host := by rw [h.frame]
theorem sched : t.sched = s.sched := by rw [h.frame]
theorem slot (i : Nat) : t.slot i = s.slot i := by rw [h.frame]; rfl
theorem slotUsable (i : Nat) : t.slotUsable i = s.slotUsable i := by rw [State.slotUsable, h.slot, State.slotUsable]
theorem feature (i : Nat) : t.feature i = s.feature i := by rw [h.frame]; rfl
theorem hostBus (a : Nat) : t.hostBus a = s.hostBus a := by rw [h.frame]; rfl
theorem hostAtomics : t.hostAtomics = s.hostAtomics := by rw [h.frame]

theorem hbmcap (d : Nat) : (t.die d).hbmcap = (s.die d).hbmcap := by
  obtain ⟨c, a, hdie⟩ := h.die d
  rw [hdie]

theorem windowBytes (d : Nat) : (t.die d).windowBytes = (s.die d).windowBytes := by
  obtain ⟨c, a, hdie⟩ := h.die d
  rw [hdie]
  rfl

theorem place (pa : Nat) : t.place pa = s.place pa := by
  simp only [State.place, h.hbmcap, h.windowBytes]

theorem unitFailed (pa : Nat) : t.unitFailed pa = s.unitFailed pa := by
  choose c a hdie using h.die
  simp only [State.unitFailed, State.homeUnits, hdie]

theorem resizing (pa : Nat) : t.resizing pa = s.resizing pa := by
  choose c a hdie using h.die
  simp only [State.resizing, hdie]

theorem replicaOf (d pa : Nat) : t.replicaOf d pa = s.replicaOf d pa := by
  choose c a hdie using h.die
  simp only [State.replicaOf, hdie]

theorem copySliceFailed (d pa : Nat) : t.copySliceFailed d pa = s.copySliceFailed d pa := by
  choose c a hdie using h.die
  simp only [State.copySliceFailed, h.replicaOf, hdie]

theorem headFails (x : Head) : t.headFails x = s.headFails x := by
  rw [State.headFails, h.unitFailed, h.slot, State.headFails]

/-! ### Reads -/

theorem homeBytes (pa n : Nat) (key : Option (BitVec 512)) : t.homeBytes pa n key = s.homeBytes pa n key := by
  simp only [State.homeBytes, State.lineBits, h.mem, h.key]

theorem physRead (pa n : Nat) (key : Option (BitVec 512)) : t.physRead pa n key = s.physRead pa n key := by
  simp only [State.physRead, h.place, h.host, h.mem, h.homeBytes]

theorem pteRead (dxp : Word) (pa : Nat) : t.pteRead dxp pa = s.pteRead dxp pa := by
  simp only [State.pteRead, h.place, h.slotUsable, h.unitFailed, h.slot, h.physRead]

theorem heldAt (x : Target) (n : Nat) (hx : x.place.isMem = true) : t.heldAt x n = s.heldAt x n := by
  obtain ⟨pa, pbmt, slot, place⟩ := x
  cases place with
  | hbm | window => simp only [State.heldAt, State.keyOf, h.homeBytes, h.slot]
  | _ => cases hx

theorem header (x : Head) : t.header x = s.header x := by
  simp only [State.header, State.headKey, h.homeBytes, h.slot]

/-! ### Translation -/

theorem ppnAddr (mode ppn off : Nat) : t.ppnAddr mode ppn off = s.ppnAddr mode ppn off := by
  simp only [State.ppnAddr, h.hostBus]

theorem leafAddr (dxp e : Word) (lvl va : Nat) : t.leafAddr dxp e lvl va = s.leafAddr dxp e lvl va := by
  simp only [State.leafAddr, h.hostBus]

theorem walkLevel (dxp : Word) (va lvl : Nat) (table : Option Nat) (next : Option Nat → WalkEnd) :
    t.walkLevel dxp va lvl table next = s.walkLevel dxp va lvl table next := by
  simp only [State.walkLevel, h.resizing, h.pteRead, h.ppnAddr]

theorem walkFrom (dxp : Word) (va lvl : Nat) (table : Option Nat) :
    t.walkFrom dxp va lvl table = s.walkFrom dxp va lvl table := by
  induction lvl generalizing table with
  | zero => exact h.walkLevel _ _ _ _ _
  | succ lvl ih =>
    rw [State.walkFrom, h.walkLevel, State.walkFrom]
    exact congrArg _ (funext ih)

theorem leafCheck (die : Nat) (dxp : Word) (level : Level) (a : Acc) (va : Nat) (e : Word) (lvl : Nat) :
    t.leafCheck die dxp level a va e lvl = s.leafCheck die dxp level a va e lvl := by
  simp only [State.leafCheck, State.pageTarget, State.servedAt, h.feature, h.leafAddr, h.unitFailed, h.replicaOf,
    h.copySliceFailed, h.resizing, h.place, h.slotUsable]
  rfl

/-! ### Writes -/

theorem setLine {n : Nat} {l l' : Line} (hkey : l'.key = l.key) :
    State.Stamped { s with lines := Sparse.set s.lines n l } { t with lines := Sparse.set t.lines n l' } := by
  refine ⟨by rw [h.frame], fun i => ?_, h.die⟩
  by_cases hi : i = n
  · subst hi
    simp only [State.line, Sparse.get_set_same, hkey]
  · simp only [State.line, Sparse.get_set_ne _ _ _ hi]
    exact h.key i

theorem setMem (m : List Host.Cell) : State.Stamped { s with mem := m } { t with mem := m } :=
  ⟨by rw [h.frame], h.key, h.die⟩

theorem setHost (m : List Host.Cell) : State.Stamped { s with host := m } { t with host := m } :=
  ⟨by rw [h.frame], h.key, h.die⟩

theorem rekey (n : Nat) (key : Option (BitVec 512)) : (s.rekey n key).Stamped (t.rekey n key) := by
  have hbits : t.lineBits n = s.lineBits n := by rw [State.lineBits, h.mem, State.lineBits]
  have hline (k : BitVec 512) := h.setLine (n := n) (l := { s.line n with key := some k })
    (l' := { t.line n with key := some k }) rfl
  unfold State.rekey
  rw [h.key n, hbits]
  cases (s.line n).key with
  | none =>
    cases key with
    | none => exact h
    | some k => exact hline k
  | some k0 =>
    cases key with
    | none => exact h
    | some k =>
      dsimp only
      split
      · exact h
      · rw [h.mem]
        exact (hline k).setMem _

theorem physWrite (hcaching : s.sched.caching = false) (pa : Nat) (bs : List Byte) (key : Option (BitVec 512)) :
    (s.physWrite pa bs key).Stamped (t.physWrite pa bs key) := by
  have hdrop (u : State) (hu : u.sched = s.sched) (n : Nat) : u.dropCopies n = u := if_neg (by rw [hu, hcaching]; decide)
  have hrekey : (s.rekey (lineOf pa) key).sched = s.sched := by rw [State.rekey_frame]
  have hrekey' : (t.rekey (lineOf pa) key).sched = s.sched := by rw [State.rekey_frame]; exact h.sched
  unfold State.physWrite
  rw [h.place]
  cases s.place pa with
  | host a => 
    rw [h.host]
    exact h.setHost _
  | hbm d =>
    dsimp only
    rw [hdrop _ hrekey, hdrop _ hrekey', (h.rekey _ _).mem]
    exact (h.rekey _ _).setMem _
  | window d =>
    dsimp only
    rw [hdrop _ rfl, hdrop _ h.sched, h.mem]
    exact h.setMem _
  | _ => exact h

end

end State.Stamped

/-! ## Plain states -/

/-- A plain state stays plain while its threads, cores and flights stay as they are, its dies go on alike and no line is held by
another die. -/
theorem State.plain_of {s t : State} (h : s.plain)
    (hframe : t = { s with
      mem := t.mem, host := t.host, lines := t.lines, dies := t.dies, nextId := t.nextId, hwqs := t.hwqs, resvs := t.resvs,
      freed := t.freed })
    (hdies : ∀ e < 8, (t.die e).invals = [] ∧ (t.die e).copies = [] ∧ (t.die e).rdir = [] ∧
      ∀ j < 8, (t.die e).applied.comp j = (t.die j).count)
    (hlines : ∀ l ∈ t.lines, l.2.holders = 0) : t.plain := by
  obtain ⟨hsched, hseq, hthr, hflights, hport, -, -⟩ := h
  refine ⟨?_, ?_, ?_, ?_, ?_, hdies, hlines⟩
  · rw [hframe]; exact hsched
  · rw [hframe]; exact hseq
  · rw [hframe]; exact hthr
  · rw [hframe]; exact hflights
  · rw [hframe]; exact hport

/-- No die holds a copy of a line. -/
def Unheld (m : Sparse Line) : Prop := ∀ l ∈ m, l.2.holders = 0

theorem Unheld.line {s : State} (h : Unheld s.lines) (n : Nat) : (s.line n).holders = 0 := by
  obtain hline | hline := Sparse.get_eq_or_mem {} s.lines n
  · rw [State.line, hline]
  · exact h _ hline

theorem Unheld.set {m : Sparse Line} (h : Unheld m) (n : Nat) {l : Line} (hl : l.holders = 0) :
    Unheld (Sparse.set m n l) := fun x hx => by
  obtain rfl | hx := Sparse.mem_of_mem_set hx
  · exact hl
  · exact h x hx

theorem Unheld.rekey {s : State} (h : Unheld s.lines) (n : Nat) (key : Option (BitVec 512)) :
    Unheld (s.rekey n key).lines := by
  have hset (k : BitVec 512) := h.set n (l := { s.line n with key := some k }) (h.line n)
  unfold State.rekey
  split
  · split
    · exact h
    · exact hset _
  · exact hset _
  · exact h

theorem State.unheld_of_plain {s : State} (h : s.plain) : Unheld s.lines := by
  obtain ⟨-, -, -, -, -, -, hlines⟩ := h
  exact hlines

theorem State.rekey_plain {s : State} (h : s.plain) (n : Nat) (key : Option (BitVec 512)) : (s.rekey n key).plain := by
  obtain ⟨-, -, -, -, -, hdies, hlines⟩ := id h
  exact State.plain_of h (by rw [State.rekey_frame]) (by rw [State.rekey_frame]; exact hdies)
    ((State.unheld_of_plain h).rekey n key)

theorem State.caching_of_plain {s : State} (h : s.plain) : s.sched.caching = false := by
  obtain ⟨hsched, -⟩ := h
  rw [hsched]

theorem State.dropCopies_of_plain {s : State} (h : s.plain) (n : Nat) : s.dropCopies n = s :=
  if_neg (by rw [State.caching_of_plain h]; decide)

theorem State.physWrite_plain {s : State} (h : s.plain) (pa : Nat) (bs : List Byte) (key : Option (BitVec 512)) :
    (s.physWrite pa bs key).plain := by
  unfold State.physWrite
  split
  · exact h
  · rw [State.dropCopies_of_plain (State.rekey_plain h _ _)]
    exact State.rekey_plain h _ _
  · rw [State.dropCopies_of_plain h]
    exact h
  · exact h

/-- Two plain states that differ in stamps alone. -/
structure State.Follows (s t : State) : Prop where
  stamped : s.Stamped t
  origin : s.plain
  plain : t.plain

namespace State.Follows

section
variable {s t : State} (h : s.Follows t)
include h

theorem physWrite (pa : Nat) (bs : List Byte) (key : Option (BitVec 512)) :
    (s.physWrite pa bs key).Follows (t.physWrite pa bs key) := by
  exact ⟨h.stamped.physWrite (State.caching_of_plain h.origin) pa bs key, State.physWrite_plain h.origin pa bs key,
    State.physWrite_plain h.plain pa bs key⟩

theorem setAD (dxp e : Word) (at_ : Nat) (a : Acc) :
    (s.setAD dxp e at_ a = none ∧ t.setAD dxp e at_ a = none) ∨
    ∃ s' t', s.setAD dxp e at_ a = some s' ∧ t.setAD dxp e at_ a = some t' ∧ s'.Follows t' := by
  unfold State.setAD
  rw [h.stamped.place, h.stamped.hostAtomics, h.stamped.slot]
  split
  · exact .inr ⟨s, t, rfl, rfl, h⟩
  · split
    · split
      · exact .inr ⟨_, _, rfl, rfl, h.physWrite _ _ _⟩
      · exact .inl ⟨rfl, rfl⟩
    · exact .inr ⟨_, _, rfl, rfl, h.physWrite _ _ _⟩

theorem freshWalk (die : Nat) (dxp : Word) (level : Level) (a : Acc) (va : Nat) (hint : Bool) :
    (t.freshWalk die dxp level a va hint).1 = (s.freshWalk die dxp level a va hint).1 ∧
    (t.freshWalk die dxp level a va hint).2.1 = (s.freshWalk die dxp level a va hint).2.1 ∧
    (s.freshWalk die dxp level a va hint).2.2.Follows (t.freshWalk die dxp level a va hint).2.2 := by
  unfold State.freshWalk
  rw [h.stamped.walkFrom, h.stamped.ppnAddr]
  split
  · exact ⟨rfl, rfl, h⟩
  · exact ⟨rfl, rfl, h⟩
  · exact ⟨rfl, rfl, h⟩
  · next e at_ lvl _ =>
    rw [h.stamped.leafCheck]
    split
    · split
      · exact ⟨rfl, rfl, h⟩
      · obtain ⟨hs, ht⟩ | ⟨s', t', hs, ht, h'⟩ := h.setAD dxp e at_ a
        · rw [hs, ht]
          exact ⟨rfl, rfl, h⟩
        · rw [hs, ht]
          exact ⟨rfl, rfl, h'⟩
    · exact ⟨rfl, rfl, h⟩

end

theorem refl {s : State} (h : s.plain) : s.Follows s := ⟨.refl s, h, h⟩

theorem symm {s t : State} (h : s.Follows t) : t.Follows s := ⟨h.stamped.symm, h.plain, h.origin⟩

theorem trans {s t u : State} (h : s.Follows t) (h' : t.Follows u) : s.Follows u :=
  ⟨h.stamped.trans h'.stamped, h.origin, h'.plain⟩

end State.Follows

/-- In a plain state every translation walks the tables. -/
theorem State.xlate_of_plain {s : State} (h : s.plain) (core : Nat) (dxp : Word) (level : Level) (a : Acc) (va : Word) :
    s.xlate core dxp level a va =
      if fld dxp 63 60 = 0 then (.access, s)
      else ((s.freshWalk (core / 32) dxp level a (va.toNat % 2 ^ 57) false).1,
        (s.freshWalk (core / 32) dxp level a (va.toNat % 2 ^ 57) false).2.2) := by
  obtain ⟨-, -, hafter⟩ := (State.Follows.refl h).freshWalk (core / 32) dxp level a (va.toNat % 2 ^ 57) false
  have hcaching := State.caching_of_plain hafter.plain
  have htlb : s.tlbFind core dxp (va.toNat % 2 ^ 57) = none := if_neg (by rw [State.caching_of_plain h]; decide)
  unfold State.xlate
  dsimp only
  rw [htlb]
  split
  · rfl
  · generalize s.freshWalk (core / 32) dxp level a (va.toNat % 2 ^ 57) false = r at hcaching
    obtain ⟨r, l, u⟩ := r
    cases r with
    | ok tg =>
      cases l with
      | none => rfl
      | some l => exact if_neg (by rw [hcaching]; decide)
    | _ => rfl

namespace State.Follows

section
variable {s t : State} (h : s.Follows t)
include h

/-- A translation, with nothing cached, is the same. -/
theorem xlate (core : Nat) (dxp : Word) (level : Level) (a : Acc) (va : Word) :
    (t.xlate core dxp level a va).1 = (s.xlate core dxp level a va).1 ∧
    (s.xlate core dxp level a va).2.Follows (t.xlate core dxp level a va).2 := by
  obtain ⟨hanswer, -, hafter⟩ := h.freshWalk (core / 32) dxp level a (va.toNat % 2 ^ 57) false
  rw [State.xlate_of_plain h.origin, State.xlate_of_plain h.plain]
  split
  · exact ⟨rfl, h⟩
  · exact ⟨hanswer, hafter⟩

/-- Where a translation that sets no bit goes in the one state, it goes in the other. -/
theorem xlate_of_targetFor {core : Nat} {dxp : Word} {level : Level} {a : Acc} {va : Word} {tg : Target}
    (htarget : s.targetFor core dxp level a va = some tg) :
    canonical va = true ∧ ∃ t', t.xlate core dxp level a va = (.ok tg, t') ∧ s.Follows t' := by
  obtain ⟨hanswer, hafter⟩ := h.xlate core dxp level a va
  unfold State.targetFor at htarget
  split at htarget
  · next hcanonical =>
    generalize s.xlate core dxp level a va = r at htarget hanswer hafter
    obtain ⟨x, s'⟩ := r
    cases x with
    | ok tg' =>
      dsimp only at htarget
      split at htarget
      · next hsame =>
        cases htarget
        subst hsame
        exact ⟨hcanonical, (t.xlate core dxp level a va).2, Prod.ext hanswer rfl, hafter⟩
      · cases htarget
    | _ => cases htarget
  · cases htarget

end

end State.Follows
end Sys2Proof.Machine

end

section
/-! SUPPORT. Where an access that translates to memory lands (O53): its place, its units and its offset in the page (R443). -/

namespace Sys2Proof.Machine

/-! ## Where a translation leads (R443) -/

theorem two_pow_leafBits (e : Word) (lvl : Nat) : ∃ m, 2 ^ leafBits e lvl = 4096 * m := by
  have hbits : ∃ k, leafBits e lvl = 12 + k := by
    unfold leafBits
    split
    · exact ⟨4, rfl⟩
    · exact ⟨9 * lvl, rfl⟩
  obtain ⟨k, hk⟩ := hbits
  exact ⟨2 ^ k, by rw [hk, pow_add]; rfl⟩

/-- A translation keeps the offset in the page. -/
theorem State.leafAddr_offset {s : State} {dxp e : Word} {lvl va pa : Nat} (h : s.leafAddr dxp e lvl va = some pa) :
    pa % 4096 = va % 4096 := by
  obtain ⟨m, hm⟩ := two_pow_leafBits e lvl
  have hlow : va % 2 ^ leafBits e lvl % 4096 = va % 4096 := by rw [hm, Nat.mod_mul_right_mod]
  unfold State.leafAddr at h
  dsimp only at h
  split at h
  · unfold State.hostBus at h
    dsimp only at h
    split_ifs at h with hbar hlow' hhost
    · have hpa := Option.some.inj h
      omega
    · have hpa := Option.some.inj h
      omega
  · have hpa := Option.some.inj h
    omega

/-- What a target in memory is: the address's own place, on units and under a slot that serve, at the offset in the page that
the virtual address has. -/
structure State.Lands (s : State) (a : Acc) (va : Word) (tg : Target) : Prop where
  place : s.place tg.pa = tg.place
  serves : a.w = true → s.headFails tg.head = false
  offset : tg.pa % 4096 = va.toNat % 4096

theorem State.pageTarget_lands {s : State} {die : Nat} {dxp e : Word} {lvl : Nat} {va : Word} {a : Acc} {tg : Target}
    (h : s.pageTarget die dxp e lvl (va.toNat % 2 ^ 57) a = .ok tg) (hmem : tg.place.isMem = true) :
    s.Lands a va tg := by
  have hva : va.toNat % 2 ^ 57 % 4096 = va.toNat % 4096 := by omega
  unfold State.pageTarget at h
  dsimp only at h
  split at h
  · cases h
  · split at h
    · cases h
    · next pa hpa =>
      have hoffset := (State.leafAddr_offset hpa).trans hva
      generalize hfailed : (s.unitFailed (if a.w = true then pa else s.servedAt die pa (fld e 62 61)) ||
        (!a.w && decide (fld e 62 61 = 0) && s.copySliceFailed die pa)) = failed at h
      generalize (if fld dxp 63 60 = 0xB then 0 else fld e 60 54) = slot at h
      have hunit (hw : a.w = true) : s.unitFailed pa = failed := by
        rw [← hfailed, hw]
        simp
      split at h
      · cases h
      · cases hplace : s.place pa with
        | hbm d =>
          rw [hplace] at h
          dsimp only at h
          split at h
          · cases h
          · next hserves =>
            cases h
            simp only [Bool.or_eq_true, not_or, Bool.not_eq_true, Bool.not_eq_false', State.slotUsable,
              Bool.and_eq_true] at hserves
            obtain ⟨⟨-, hfine⟩, hloaded, -⟩ := hserves
            refine ⟨hplace, fun hw => ?_, hoffset⟩
            simp only [State.headFails, Target.head, hunit hw, hfine, hloaded, Bool.not_true, Bool.and_false,
              Bool.or_false]
        | window d =>
          rw [hplace] at h
          dsimp only at h
          split at h
          · cases h
          · next hserves =>
            cases h
            simp only [Bool.or_eq_true, not_or, Bool.not_eq_true] at hserves
            obtain ⟨-, hfine⟩ := hserves
            have hwindow : ¬ pa < 0x8000000000 := fun hlt => by
              rw [State.place, if_pos hlt] at hplace
              dsimp only at hplace
              split at hplace <;> cases hplace
            refine ⟨hplace, fun hw => ?_, hoffset⟩
            simp only [State.headFails, Target.head, hunit hw, hfine, hwindow, decide_false, Bool.false_and,
              Bool.or_false]
        | hole =>
          rw [hplace] at h
          cases h
        | regs | host =>
          rw [hplace] at h
          dsimp only at h
          split at h
          · cases h
          · cases h
            cases hmem

theorem State.targetFor_lands {s : State} (hplain : s.plain) {core : Nat} {dxp : Word} {level : Level} {a : Acc} {va : Word}
    {tg : Target} (h : s.targetFor core dxp level a va = some tg) (hmem : tg.place.isMem = true) : s.Lands a va tg := by
  obtain ⟨-, t, ht, -⟩ := (State.Follows.refl hplain).xlate_of_targetFor h
  rw [State.xlate_of_plain hplain] at ht
  split at ht
  · cases ht
  · have hwalk := congrArg Prod.fst ht
    dsimp only at hwalk
    unfold State.freshWalk at hwalk
    split at hwalk
    · cases hwalk
    · cases hwalk
    · cases hwalk
    · split at hwalk
      · next tg' hcheck =>
        have hsame : tg' = tg := by
          split at hwalk
          · exact Xlat.ok.inj hwalk
          · split at hwalk
            · exact Xlat.ok.inj hwalk
            · cases hwalk
        subst hsame
        unfold State.leafCheck at hcheck
        split_ifs at hcheck
        exact State.pageTarget_lands hcheck hmem
      · next hno => exact absurd hwalk (hno _)

end Sys2Proof.Machine

end

section
/-! SUPPORT. The components of a stamp (O53, R106). -/

namespace Sys2Proof.Machine

/-! ## The components of a stamp (R106) -/

/-- A field of 32 bits replaced in a number. -/
theorem nat_setField (a : Nat) {v : Nat} (p : Nat) (hv : v < 2 ^ 32) :
    let r := a - (a >>> p % 2 ^ 32) <<< p + v <<< p
    r % 2 ^ p = a % 2 ^ p ∧ r / 2 ^ p % 2 ^ 32 = v ∧ r / 2 ^ (p + 32) = a / 2 ^ (p + 32) := by
  intro r
  have hpos : 0 < 2 ^ p := Nat.two_pow_pos p
  have hhigh : a / 2 ^ (p + 32) = a / 2 ^ p / 2 ^ 32 := by rw [pow_add, Nat.div_div_eq_div_mul]
  have ha : a = a % 2 ^ p + 2 ^ p * (a / 2 ^ p) := (Nat.mod_add_div a (2 ^ p)).symm
  have hq : a / 2 ^ p = a / 2 ^ p % 2 ^ 32 + 2 ^ 32 * (a / 2 ^ p / 2 ^ 32) := (Nat.mod_add_div _ _).symm
  have hr : r = a % 2 ^ p + 2 ^ p * (v + 2 ^ 32 * (a / 2 ^ p / 2 ^ 32)) := by
    have hexpand : 2 ^ p * (a / 2 ^ p) = 2 ^ p * (a / 2 ^ p % 2 ^ 32) + 2 ^ p * (2 ^ 32 * (a / 2 ^ p / 2 ^ 32)) := by
      rw [← Nat.mul_add, ← hq]
    show a - (a >>> p % 2 ^ 32) <<< p + v <<< p = _
    rw [Nat.shiftLeft_eq, Nat.shiftLeft_eq, Nat.shiftRight_eq_div_pow, Nat.mul_comm _ (2 ^ p), Nat.mul_comm v, Nat.mul_add]
    omega
  have hlow : a % 2 ^ p < 2 ^ p := Nat.mod_lt _ hpos
  have hdiv : r / 2 ^ p = v + 2 ^ 32 * (a / 2 ^ p / 2 ^ 32) := by
    rw [hr, Nat.add_mul_div_left _ _ hpos, Nat.div_eq_of_lt hlow, Nat.zero_add]
  refine ⟨?_, ?_, ?_⟩
  · rw [hr, Nat.add_mul_mod_self_left, Nat.mod_mod]
  · rw [hdiv, Nat.add_mul_mod_self_left, Nat.mod_eq_of_lt hv]
  · rw [pow_add, ← Nat.div_div_eq_div_mul, hdiv, Nat.add_mul_div_left _ _ (Nat.two_pow_pos 32), Nat.div_eq_of_lt hv,
      Nat.zero_add, ← Nat.div_div_eq_div_mul]

theorem Stamp.comp_toNat (a : Stamp) (d : Nat) : (a.comp d).toNat = a.toNat / 2 ^ (32 * d) % 2 ^ 32 := by
  rw [Stamp.comp, BitVec.extractLsb'_toNat, Nat.shiftRight_eq_div_pow]

/-- What a component set is in numbers. -/
theorem Stamp.setComp_toNat (a : Stamp) {d : Nat} (v : BitVec 32) (hd : d < 8) :
    (a.setComp d v).toNat % 2 ^ (32 * d) = a.toNat % 2 ^ (32 * d) ∧
    (a.setComp d v).toNat / 2 ^ (32 * d) % 2 ^ 32 = v.toNat ∧
    (a.setComp d v).toNat / 2 ^ (32 * d + 32) = a.toNat / 2 ^ (32 * d + 32) := by
  obtain ⟨hlow, hmid, hhigh⟩ := nat_setField a.toNat (32 * d) v.isLt
  have hfit : a.toNat - (a.toNat >>> (32 * d) % 2 ^ 32) <<< (32 * d) + v.toNat <<< (32 * d) < 2 ^ 256 := by
    have hsplit : 2 ^ 256 = 2 ^ (256 - (32 * d + 32)) * 2 ^ (32 * d + 32) := by
      rw [← pow_add]
      congr 1
      omega
    rw [hsplit, ← Nat.div_lt_iff_lt_mul (Nat.two_pow_pos _), hhigh, Nat.div_lt_iff_lt_mul (Nat.two_pow_pos _), ← hsplit]
    exact a.isLt
  have hset : (a.setComp d v).toNat =
      a.toNat - (a.toNat >>> (32 * d) % 2 ^ 32) <<< (32 * d) + v.toNat <<< (32 * d) :=
    (BitVec.toNat_ofNat _ _).trans (Nat.mod_eq_of_lt hfit)
  rw [hset]
  exact ⟨hlow, hmid, hhigh⟩

theorem Stamp.comp_setComp_same (a : Stamp) {d : Nat} (v : BitVec 32) (hd : d < 8) : (a.setComp d v).comp d = v := by
  obtain ⟨-, hmid, -⟩ := a.setComp_toNat v hd
  exact BitVec.eq_of_toNat_eq (by rw [Stamp.comp_toNat, hmid])

theorem Stamp.comp_setComp_ne (a : Stamp) {d j : Nat} (v : BitVec 32) (hd : d < 8) (h : j ≠ d) :
    (a.setComp d v).comp j = a.comp j := by
  obtain ⟨hlow, -, hhigh⟩ := a.setComp_toNat v hd
  refine BitVec.eq_of_toNat_eq ?_
  rw [Stamp.comp_toNat, Stamp.comp_toNat]
  obtain hlt | hgt := h.lt_or_gt
  · obtain ⟨m, hm⟩ : ∃ m, 32 * d = 32 * j + 32 + m := ⟨32 * d - (32 * j + 32), by omega⟩
    have hcut (x : Nat) : x / 2 ^ (32 * j) % 2 ^ 32 = x % 2 ^ (32 * d) / 2 ^ (32 * j) % 2 ^ 32 := by
      rw [hm, Nat.add_assoc, pow_add, Nat.mod_mul_right_div_self, pow_add, Nat.mod_mul_right_mod]
    rw [hcut, hlow, ← hcut]
  · obtain ⟨m, hm⟩ : ∃ m, 32 * j = 32 * d + 32 + m := ⟨32 * j - (32 * d + 32), by omega⟩
    rw [hm, pow_add, ← Nat.div_div_eq_div_mul, ← Nat.div_div_eq_div_mul, hhigh]

end Sys2Proof.Machine

end

section
/-! SUPPORT. A store applied at every die at once (O53, R93, R107). -/

namespace Sys2Proof.Machine

/-! ## A store applied at every die (R93, R107) -/

theorem serialBelow_self (a : BitVec 32) : serialBelow a a = false := by
  simp [serialBelow]

theorem serialBelow_pred (a : BitVec 32) : serialBelow a (a - 1) = false := by
  simp [serialBelow]

theorem serialBelow_of_pred (a : BitVec 32) : serialBelow (a - 1) a = true := by
  simp [serialBelow]

/-- A die that has applied all but the last store of another applies that one. -/
theorem Die.markApplied_last (d : Die) {die : Nat} {st : Stamp} (hdie : die < 8)
    (h : d.applied.comp die = st.comp die ∨ d.applied.comp die = st.comp die - 1) :
    ∃ a, d.markApplied die st = { d with applied := a } ∧ a.comp die = st.comp die ∧
      ∀ j, j ≠ die → a.comp j = d.applied.comp j := by
  obtain hdone | hlast := h
  · refine ⟨d.applied, if_neg ?_, hdone, fun _ _ => rfl⟩
    rw [hdone, serialBelow_self]
    exact Bool.false_ne_true
  · refine ⟨_, if_pos ?_, Stamp.comp_setComp_same _ _ hdie, fun j hj => Stamp.comp_setComp_ne _ _ hdie hj⟩
    rw [hlast]
    exact serialBelow_of_pred _

/-- A state in which the last store of a die may not be applied at some dies, and nothing else is under way. -/
def State.Applying (u : State) (die : Nat) : Prop :=
  ∀ e < 8, (u.die e).invals = [] ∧ (u.die e).copies = [] ∧ (u.die e).rdir = [] ∧
    (∀ j < 8, j ≠ die → (u.die e).applied.comp j = (u.die j).count) ∧
    (u.die e).applied.comp die = (u.die die).count - 1

/-- The state after some dies have applied the last store of a die, among them those of which `P` holds. -/
structure State.Marked (u : State) (die : Nat) (P : Nat → Prop) (v : State) : Prop where
  frame : v = { u with dies := v.dies }
  die : ∀ d, ∃ a, v.die d = { u.die d with applied := a } ∧ (∀ j, j ≠ die → a.comp j = (u.die d).applied.comp j) ∧
    (a.comp die = (u.die die).count ∨ a.comp die = (u.die d).applied.comp die) ∧ (P d → a.comp die = (u.die die).count)

section
variable {u v : State} {die : Nat} {st : Stamp} {P : Nat → Prop} (hu : u.Applying die) (hdie : die < 8)
  (hst : st.comp die = (u.die die).count) (h : u.Marked die P v)
include hu hdie hst h

theorem State.Marked.canApply {e : Nat} (he : e < 8) : v.canApply e die st = true := by
  obtain ⟨-, -, -, hothers, hlast⟩ := hu e he
  obtain ⟨a, hve, hkeep, hmay, -⟩ := h.die e
  have hcount (j : Nat) : (v.die j).count = (u.die j).count := by
    obtain ⟨a', hj, -⟩ := h.die j
    rw [hj]
  refine List.all_eq_true.2 fun j hj => ?_
  rw [State.behind, hcount, hve, Bool.not_eq_true']
  dsimp only
  by_cases hjd : j = die
  · subst hjd
    rw [if_pos rfl, hst]
    obtain hdone | hnot := hmay
    · rw [hdone, serialBelow_pred, Bool.false_and]
    · rw [hnot, hlast, serialBelow_self, Bool.false_and]
  · rw [if_neg hjd, hkeep j hjd, hothers j (List.mem_range.1 hj) hjd, Bool.and_not_self]

theorem State.Marked.mark {e : Nat} (he : e < 8) :
    u.Marked die (fun d => P d ∨ d = e) (v.setDie e ((v.die e).markApplied die st)) := by
  obtain ⟨-, -, -, -, hlast⟩ := hu e he
  obtain ⟨a, hve, hkeep, hmay, hP⟩ := h.die e
  have hready : (v.die e).applied.comp die = st.comp die ∨ (v.die e).applied.comp die = st.comp die - 1 := by
    rw [hve, hst, ← hlast]
    exact hmay
  obtain ⟨a', hmark, hlast', hkeep'⟩ := (v.die e).markApplied_last hdie hready
  refine ⟨?_, fun d => ?_⟩
  · rw [h.frame]
    rfl
  · by_cases hde : d = e
    · subst hde
      rw [State.setDie_die_same]
      refine ⟨a', by rw [hmark, hve], fun j hj => ?_, .inl (hlast'.trans hst), fun _ => hlast'.trans hst⟩
      rw [hkeep' j hj, hve]
      exact hkeep j hj
    · rw [State.setDie_die_ne _ _ hde]
      obtain ⟨b, hvd, hkeepd, hmayd, hPd⟩ := h.die d
      exact ⟨b, hvd, hkeepd, hmayd, fun hor => hPd (hor.resolve_right hde)⟩

end

theorem State.Marked.weaken {u v : State} {die : Nat} {P Q : Nat → Prop} (h : u.Marked die P v) (hQ : ∀ d, Q d → P d) :
    u.Marked die Q v := by
  refine ⟨h.frame, fun d => ?_⟩
  obtain ⟨a, hvd, hkeep, hmay, hP⟩ := h.die d
  exact ⟨a, hvd, hkeep, hmay, fun hq => hP (hQ d hq)⟩

/-- The other dies apply a store, each at once. -/
theorem State.Marked.foldl {u : State} {die home : Nat} {st : Stamp} {l : Line} {n : Nat} (hu : u.Applying die) (hdie : die < 8)
    (hst : st.comp die = (u.die die).count) (hl : l.holders = 0) (es : List Nat) (hes : ∀ e ∈ es, e < 8) {v : State}
    {P : Nat → Prop} (hhome : P home) (h : u.Marked die P v) :
    u.Marked die (fun d => P d ∨ d ∈ es) (es.foldl (fun s e =>
      if e = home then s
      else if (s.die e).invals = [] && !l.holders.getLsbD e && s.canApply e die st then
        s.setDie e ((s.die e).markApplied die st)
      else
        (s.setDie e { s.die e with invals := (s.die e).invals ++ [⟨n, die, st⟩] }).settleDie false e) v) := by
  induction es generalizing v P with
  | nil => exact h.weaken fun d hd => hd.resolve_right (List.not_mem_nil)
  | cons e es ih =>
    have he := hes e List.mem_cons_self
    rw [List.foldl_cons]
    have hstep : u.Marked die (fun d => P d ∨ d = e) (if e = home then v
        else if (v.die e).invals = [] && !l.holders.getLsbD e && v.canApply e die st then
          v.setDie e ((v.die e).markApplied die st)
        else (v.setDie e { v.die e with invals := (v.die e).invals ++ [⟨n, die, st⟩] }).settleDie false e) := by
      split
      · next heq =>
        subst heq
        exact h.weaken fun d hd => hd.elim id fun hde => hde ▸ hhome
      · have hidle : (v.die e).invals = [] := by
          obtain ⟨hinvals, -⟩ := hu e he
          obtain ⟨a, hve, -⟩ := h.die e
          rw [hve]
          exact hinvals
        have hready := State.Marked.canApply hu hdie hst h he
        rw [if_pos (by rw [hl, hready, decide_eq_true hidle]; simp)]
        exact State.Marked.mark hu hdie hst h he
    refine (ih (fun e' he' => hes e' (List.mem_cons_of_mem _ he')) (.inl hhome) hstep).weaken fun d hd => ?_
    obtain hP | hmem := hd
    · exact .inl (.inl hP)
    · obtain rfl | hmem := List.mem_cons.1 hmem
      · exact .inl (.inr rfl)
      · exact .inr hmem

end Sys2Proof.Machine

end

section
/-! SUPPORT. A stamped write to memory leaves the bytes in place and differs in stamps alone otherwise (O53, R106, R107). -/

namespace Sys2Proof.Machine

/-! ## A stamped write to memory (R106, R107) -/

/-- Cells of one line put in memory under key bits, the line re-filled where it was under others (R45). -/
def State.written (s : State) (pa : Nat) (cells : List Host.Cell) (key : BitVec 512) : State :=
  { s.rekey (lineOf pa) (lineKeyBits pa key) with
    mem := memPutAll (s.rekey (lineOf pa) (lineKeyBits pa key)).mem cells }

theorem State.written_frame (s : State) (pa : Nat) (cells : List Host.Cell) (key : BitVec 512) :
    s.written pa cells key = { s with mem := (s.written pa cells key).mem, lines := (s.written pa cells key).lines } := by
  rw [State.written, State.rekey_frame]

theorem State.written_plain {s : State} (h : s.plain) (pa : Nat) (cells : List Host.Cell) (key : BitVec 512) :
    (s.written pa cells key).plain := State.rekey_plain h _ _

theorem State.Follows.written {s t : State} (h : s.Follows t) (pa : Nat) (cells : List Host.Cell) (key : BitVec 512) :
    (s.written pa cells key).Follows (t.written pa cells key) := by
  have hrekey := h.stamped.rekey (lineOf pa) (lineKeyBits pa key)
  refine ⟨?_, State.written_plain h.origin pa cells key, State.written_plain h.plain pa cells key⟩
  rw [State.written, State.written, hrekey.mem]
  exact hrekey.setMem _

/-- The state as a store of a die has been counted there. -/
def State.counted (s : State) (die id : Nat) : State :=
  { s.setDie die { s.die die with count := (s.die die).count + 1 } with nextId := id }

/-- The state of a store at its home slice before any die has noted it. -/
def State.atHome (s : State) (f : Flight) : State :=
  let u := s.written f.pa f.cells f.key
  let l := u.line (lineOf f.pa)
  { u with lines := Sparse.set u.lines (lineOf f.pa) { l with stamp := f.stamp, record := l.recordAfter f, holders := 0 } }

theorem State.applyHome_eq {s : State} (hcaching : s.sched.caching = false) {f : Flight}
    (hholders : ((s.rekey (lineOf f.pa) (lineKeyBits f.pa f.key)).line (lineOf f.pa)).holders = 0) :
    ∃ l : Line, l.holders = 0 ∧ s.applyHome f = (List.range 8).foldl (fun s e =>
      if e = homeDie f.pa then s
      else if (s.die e).invals = [] && !l.holders.getLsbD e && s.canApply e f.die f.stamp then
        s.setDie e ((s.die e).markApplied f.die f.stamp)
      else
        (s.setDie e { s.die e with invals := (s.die e).invals ++ [⟨lineOf f.pa, f.die, f.stamp⟩] }).settleDie false e)
      ((s.atHome f).setDie (homeDie f.pa) (((s.atHome f).die (homeDie f.pa)).markApplied f.die f.stamp)) := by
  refine ⟨_, hholders, ?_⟩
  have hkey : (if f.pa < 0x8000000000 then s.rekey (lineOf f.pa) (some f.key) else s) =
      s.rekey (lineOf f.pa) (lineKeyBits f.pa f.key) := by
    unfold lineKeyBits
    split
    · rfl
    · unfold State.rekey
      cases (s.line (lineOf f.pa)).key <;> rfl
  have hdrop (u : State) (hu : u.sched = s.sched) (e : Nat) (p : Nat → Bool) : u.dropTile e p = u :=
    if_neg (by rw [hu, hcaching]; decide)
  unfold State.applyHome
  dsimp only
  rw [hkey, hdrop _ (by rw [State.rekey_frame]; rfl)]
  rfl

theorem State.counted_die_same (s : State) (die id : Nat) :
    (s.counted die id).die die = { s.die die with count := (s.die die).count + 1 } := s.setDie_die_same die _

theorem State.counted_stamped (s : State) (die id : Nat) : s.Stamped (s.counted die id) := by
  refine ⟨rfl, fun _ => rfl, fun d => ?_⟩
  by_cases hd : d = die
  · subst hd
    exact ⟨_, (s.die d).applied, s.setDie_die_same d _⟩
  · exact ⟨(s.die d).count, (s.die d).applied, s.setDie_die_ne _ hd⟩

theorem State.counted_applying {s : State} (h : s.plain) {die : Nat} (hdie : die < 8) (id : Nat) :
    (s.counted die id).Applying die := by
  obtain ⟨-, -, -, -, -, hdies, -⟩ := h
  have hsame := s.counted_die_same die id
  have hcount (j : Nat) (hj : j ≠ die) : ((s.counted die id).die j).count = (s.die j).count :=
    congrArg Die.count (s.setDie_die_ne _ hj)
  have happlied (e : Nat) : ((s.counted die id).die e).applied = (s.die e).applied ∧
      ((s.counted die id).die e).invals = (s.die e).invals ∧ ((s.counted die id).die e).copies = (s.die e).copies ∧
      ((s.counted die id).die e).rdir = (s.die e).rdir := by
    by_cases he : e = die
    · subst he
      rw [hsame]
      exact ⟨rfl, rfl, rfl, rfl⟩
    · rw [show (s.counted die id).die e = s.die e from s.setDie_die_ne _ he]
      exact ⟨rfl, rfl, rfl, rfl⟩
  intro e he
  obtain ⟨hap, hin, hco, hrd⟩ := happlied e
  obtain ⟨hinvals, hcopies, hrdir, hcounts⟩ := hdies e he
  refine ⟨hin.trans hinvals, hco.trans hcopies, hrd.trans hrdir, fun j hj hne => ?_, ?_⟩
  · rw [hap, hcounts j hj, hcount j hne]
  · rw [hap, hcounts die hdie, hsame]
    exact (add_sub_cancel_right _ _).symm

theorem State.atHome_stamped {s t : State} (h : s.Stamped t) (f : Flight) :
    (s.written f.pa f.cells f.key).Stamped (t.atHome f) := by
  have hrekey := h.rekey (lineOf f.pa) (lineKeyBits f.pa f.key)
  have hwritten : (s.written f.pa f.cells f.key).Stamped (t.written f.pa f.cells f.key) := by
    rw [State.written, State.written, hrekey.mem]
    exact hrekey.setMem _
  refine hwritten.trans ⟨rfl, fun n => ?_, fun d => ⟨_, _, rfl⟩⟩
  by_cases hn : n = lineOf f.pa
  · subst hn
    rw [State.line, State.atHome, Sparse.get_set_same]
  · rw [State.line, State.atHome, Sparse.get_set_ne _ _ _ hn, State.line]

/-- A store of a plain state, once counted, is applied at every die: it leaves its bytes under its key, and stamps. -/
theorem State.applyHome_follows {s : State} (h : s.plain) {die : Nat} (hdie : die < 8) (id : Nat) {f : Flight}
    (hf : f.die = die) (hst : f.stamp.comp die = (s.die die).count + 1) (hhome : homeDie f.pa < 8) :
    (s.written f.pa f.cells f.key).Follows ((s.counted die id).applyHome f) := by
  subst hf
  have hunheld : Unheld (s.counted f.die id).lines := State.unheld_of_plain (s := s) h
  have hrekeyed := hunheld.rekey (lineOf f.pa) (lineKeyBits f.pa f.key)
  have hwritten := State.atHome_stamped (s.counted_stamped f.die id) f
  have hlist : Unheld ((s.counted f.die id).atHome f).lines := hrekeyed.set _ rfl
  have hdies : ((s.counted f.die id).atHome f).dies = (s.counted f.die id).dies := by
    rw [State.atHome, State.written_frame]
  have hdie' (d : Nat) : ((s.counted f.die id).atHome f).die d = (s.counted f.die id).die d := by
    rw [State.die, hdies, State.die]
  have happlying : ((s.counted f.die id).atHome f).Applying f.die := by
    have hcounted := State.counted_applying h hdie id
    unfold State.Applying at hcounted ⊢
    simp only [hdie']
    exact hcounted
  have hst' : f.stamp.comp f.die = (((s.counted f.die id).atHome f).die f.die).count := by
    rw [hdie', hst]
    exact (congrArg Die.count (s.counted_die_same f.die id)).symm
  have hcaching : (s.counted f.die id).sched.caching = false := State.caching_of_plain (s := s) h
  obtain ⟨l, hl, happly⟩ := State.applyHome_eq hcaching (hrekeyed.line _)
  have hnone : ((s.counted f.die id).atHome f).Marked f.die (fun _ => False) ((s.counted f.die id).atHome f) :=
    ⟨rfl, fun d => ⟨_, rfl, fun _ _ => rfl, .inr rfl, False.elim⟩⟩
  have hhomed := State.Marked.mark happlying hdie hst' hnone hhome
  have hmarked := State.Marked.foldl (n := lineOf f.pa) happlying hdie hst' hl (List.range 8)
    (fun e he => List.mem_range.1 he) (.inr rfl) hhomed
  rw [← happly] at hmarked
  generalize (s.counted f.die id).applyHome f = t at hmarked
  have hstamped : ((s.counted f.die id).atHome f).Stamped t := by
    refine ⟨by rw [hmarked.frame], fun n => by rw [hmarked.frame]; rfl, fun d => ?_⟩
    obtain ⟨a, hd, -⟩ := hmarked.die d
    exact ⟨_, a, hd⟩
  refine ⟨hwritten.trans hstamped, State.written_plain h _ _ _, ?_⟩
  refine State.plain_of h ?_ (fun e he => ?_) (by rw [hmarked.frame]; exact hlist)
  · rw [hmarked.frame, State.atHome, State.written_frame]
    rfl
  · obtain ⟨hinvals, hcopies, hrdir, hothers, -⟩ := happlying e he
    obtain ⟨a, hd, hkeep, -, hdone⟩ := hmarked.die e
    have hcount (j : Nat) : (t.die j).count = (((s.counted f.die id).atHome f).die j).count := by
      obtain ⟨a', hj, -⟩ := hmarked.die j
      rw [hj]
    refine ⟨by rw [hd]; exact hinvals, by rw [hd]; exact hcopies, by rw [hd]; exact hrdir, fun j hj => ?_⟩
    rw [hcount, hd]
    by_cases hjd : j = f.die
    · subst hjd
      exact hdone (.inr (List.mem_range.2 he))
    · exact (hkeep j hjd).trans (hothers j hj hjd)

/-- A count of a header is such a store. -/
theorem State.setCount_counted (s : State) {die : Nat} (hdie : die < 8) (front : Stamp) (x : Head) (off : Nat)
    (v : BitVec 32) (rel : Option Nat) : ∃ f : Flight,
      (s.setCount die front x off v rel).2 = (s.counted die (s.nextId + 1)).applyHome f ∧ f.die = die ∧
      f.stamp.comp die = (s.die die).count + 1 ∧ f.pa = x.pa + off ∧
      f.cells = cellsAt (x.pa + off) (bytesOfNat 4 v.toNat) ∧ f.key = s.headKey x := by
  refine ⟨{
      id := s.nextId + 1, die, pa := x.pa + off, cells := cellsAt (x.pa + off) (bytesOfNat 4 v.toNat)
      stamp := (front.join (s.line (lineOf x.pa)).stamp).setComp die ((s.die die).count + 1)
      key := s.headKey x, rel, held := false, page := none, seq := none, op := none },
    ?_, rfl, Stamp.comp_setComp_same _ _ hdie, rfl, rfl, rfl⟩
  unfold State.setCount State.setHeader State.takeStamp State.fresh State.counted
  dsimp only
  congr 1

theorem State.setCount_follows {s : State} (h : s.plain) {die : Nat} (hdie : die < 8) (front : Stamp) (x : Head) (off : Nat)
    (v : BitVec 32) (rel : Option Nat) (hhome : homeDie (x.pa + off) < 8) :
    (s.written (x.pa + off) (cellsAt (x.pa + off) (bytesOfNat 4 v.toNat)) (s.headKey x)).Follows
      (s.setCount die front x off v rel).2 := by
  obtain ⟨f, hset, hf, hst, hpa, hcells, hkey⟩ := s.setCount_counted hdie front x off v rel
  rw [hset, ← hcells, ← hkey, ← hpa]
  exact State.applyHome_follows h hdie _ hf hst (by rwa [hpa])

theorem State.counted_canApply {s : State} (h : s.plain) {die : Nat} (hdie : die < 8) (id : Nat) {st : Stamp}
    (hst : st.comp die = (s.die die).count + 1) {e : Nat} (he : e < 8) : (s.counted die id).canApply e die st = true := by
  have hnone : (s.counted die id).Marked die (fun _ => False) (s.counted die id) :=
    ⟨rfl, fun d => ⟨_, rfl, fun _ _ => rfl, .inr rfl, False.elim⟩⟩
  have hcount : st.comp die = ((s.counted die id).die die).count := by
    rw [hst, s.counted_die_same]
  exact State.Marked.canApply (State.counted_applying h hdie id) hdie hcount hnone he

/-- In a plain state a store injected is applied at once. -/
theorem State.inject_follows {s : State} (h : s.plain) {die : Nat} (hdie : die < 8) (front : Stamp) (pa : Nat) (bs : List Byte)
    (key : BitVec 512) (rel seq : Option Nat) (hhome : homeDie pa < 8) :
    (s.written pa (cellsAt pa bs) key).Follows (s.inject die front pa bs key rel seq).2 := by
  let f : Flight := { id := s.nextId + 1, die, stamp := front.setComp die ((s.die die).count + 1), pa
                      cells := cellsAt pa bs, key, rel, held := false, page := none, seq, op := none }
  have hst : f.stamp.comp die = (s.die die).count + 1 := Stamp.comp_setComp_same _ _ hdie
  have hsend : (s.counted die (s.nextId + 1)).sendFlight f = (s.counted die (s.nextId + 1)).applyHome f := by
    have hrdir : ((s.counted die (s.nextId + 1)).die (homeDie pa)).rdir = [] := by
      obtain ⟨-, -, hrdir, -⟩ := State.counted_applying h hdie (s.nextId + 1) _ hhome
      exact hrdir
    have hentry : (s.counted die (s.nextId + 1)).homeEntry f.pa = none := by
      rw [State.homeEntry, hrdir]
      rfl
    have hholders : (s.counted die (s.nextId + 1)).holders f.pa = 0 := by rw [State.holders, hentry]
    have hcollapsing : (s.counted die (s.nextId + 1)).collapsing f.pa = none := by rw [State.collapsing, hentry]
    have hready : (s.counted die (s.nextId + 1)).flightReady f = true := by
      have happly := State.counted_canApply h hdie (s.nextId + 1) hst hhome
      unfold State.flightReady
      rw [show (s.counted die (s.nextId + 1)).canApply (homeDie f.pa) f.die f.stamp = true from happly]
      rfl
    have hlazy : (s.counted die (s.nextId + 1)).sched.lazy = false := by
      obtain ⟨hsched, -⟩ := h
      exact congrArg Sched.lazy hsched
    unfold State.sendFlight
    have hfree : ((0 : BitVec 8) != 0 || (none : Option Nat).isSome) = false := rfl
    simp only [hholders, hcollapsing, hfree, Bool.false_eq_true, if_false, hlazy]
    exact if_pos hready
  have hinject : (s.inject die front pa bs key rel seq).2 = (s.counted die (s.nextId + 1)).sendFlight f := rfl
  rw [hinject, hsend]
  exact State.applyHome_follows h hdie _ (f := f) rfl hst hhome

/-- The device's own writes to memory leave the same bytes under the same key. -/
theorem State.physWrite_eq_written {s : State} (h : s.plain) {pa : Nat} (hmem : (s.place pa).isMem = true) (bs : List Byte)
    (key : BitVec 512) : s.physWrite pa bs (lineKeyBits pa key) = s.written pa (cellsAt pa bs) key := by
  unfold State.physWrite
  cases hplace : s.place pa with
  | hbm d =>
    dsimp only
    rw [State.dropCopies_of_plain (State.rekey_plain h _ _), State.written]
  | window d =>
    have hbits := State.lineKeyBits_of_window hplace key
    have hrekey : s.rekey (lineOf pa) none = s := by
      unfold State.rekey
      cases (s.line (lineOf pa)).key <;> rfl
    dsimp only
    rw [State.dropCopies_of_plain h, State.written, hbits, hrekey]
  | hole | regs | host => rw [hplace] at hmem; cases hmem

end Sys2Proof.Machine

end

section
/-! SUPPORT. What the work of an engine gives and makes, action by action (O53): accesses of the queue hardware. -/

namespace Sys2Proof.Machine

/-! ## What an engine's work gives and makes -/

/-- An engine works on a module that is another but for stamps, and what it has given it has passed. -/
structure Eng.At (e : Eng) (u : State) : Prop where
  follows : u.Follows e.s
  passed : e.past.length = e.made

/-- From a module, whatever its frontiers, an engine's work gives an answer and makes another. -/
def E.Makes {α : Type} (act : E α) (u : State) (x : α) (v : State) : Prop :=
  ∀ e : Eng, e.At u → ∃ e', act e = .ok x e' ∧ e'.At v

/-- The same of work that is one access, which passes nothing by itself. -/
def E.Gives {α : Type} (act : E α) (u : State) (x : α) (v : State) : Prop :=
  ∀ e : Eng, u.Follows e.s → ∃ e', act e = .ok x e' ∧ v.Follows e'.s ∧ e'.past = e.past ∧ e'.made = e.made

section
variable {α β : Type} {act : E α} {f : α → E β} {u v w : State} {x : α} {y : β}

theorem E.Makes.bind (h : act.Makes u x v) (h' : (f x).Makes v y w) : (act >>= f).Makes u y w := fun e he => by
  obtain ⟨e', hact, he'⟩ := h e he
  rw [E.bind_ok hact]
  exact h' e' he'

theorem E.Gives.bind (h : act.Gives u x v) (h' : (f x).Gives v y w) : (act >>= f).Gives u y w := fun e he => by
  obtain ⟨e', hact, hv, hpast, hmade⟩ := h e he
  obtain ⟨e'', hact', hw, hpast', hmade'⟩ := h' e' hv
  exact ⟨e'', by rw [E.bind_ok hact, hact'], hw, hpast'.trans hpast, hmade'.trans hmade⟩

theorem E.Makes.pure (u : State) (x : α) : (Pure.pure x : E α).Makes u x u := fun e he => ⟨e, rfl, he⟩

theorem E.Gives.pure (u : State) (x : α) : (Pure.pure x : E α).Gives u x u := fun e he => ⟨e, rfl, he, rfl, rfl⟩

theorem E.Gives.makes (h : act.Gives u x v) : act.Makes u x v := fun e he => by
  obtain ⟨e', hact, hv, hpast, hmade⟩ := h e he.follows
  exact ⟨e', hact, hv, by rw [hpast, hmade, he.passed]⟩

end

/-- An access given once is given, and passed. -/
theorem E.Gives.once {act : E Nat} {u v : State} {x : Nat} (h : act.Gives u x v) : (eOnce act).Makes u x v := fun e he => by
  obtain ⟨e', hact, hv, hpast, hmade⟩ := h e he.follows
  have hnone : e.past[e.made]? = none := List.getElem?_eq_none he.passed.le
  refine ⟨{ e' with past := e'.past ++ [x], made := e.made + 1 }, ?_, hv, ?_⟩
  · unfold eOnce
    rw [hnone, hact]
  · show (e'.past ++ [x]).length = e.made + 1
    rw [List.length_append, hpast, he.passed]
    rfl

theorem bytesOfNat_natOfBytes (l : List Byte) : bytesOfNat l.length (natOfBytes l) = l := by
  induction l with
  | nil => rfl
  | cons b l ih =>
    have hb : (b.toNat + 256 * natOfBytes l) / 256 = natOfBytes l := by have := b.isLt; omega
    have hlow : BitVec.ofNat 8 (b.toNat + 256 * natOfBytes l) = b := BitVec.eq_of_toNat_eq (by
      rw [BitVec.toNat_ofNat]
      have := b.isLt
      omega)
    rw [List.length_cons, natOfBytes, bytesOfNat, hb, ih, hlow]

theorem State.heldAt_of_isMem (s : State) {t : Target} (h : t.place.isMem = true) (n : Nat) :
    s.heldAt t n = s.homeBytes t.pa n (lineKeyBits t.pa (s.slot t.slot).key) := by
  obtain ⟨pa, pbmt, slot, place⟩ := t
  cases place with
  | hbm | window => rfl
  | _ => cases h

theorem State.homeBytes_length (s : State) (pa n : Nat) (key : Option (BitVec 512)) :
    (s.homeBytes pa n key).length = n := by
  unfold State.homeBytes
  dsimp only
  split
  · split
    · exact memBytes_length _ _ _
    · rw [List.length_map, List.length_range]
  · exact memBytes_length _ _ _

/-! ## Accesses of an engine -/

/-- The bytes that an engine of a die reads within one line are those of memory. -/
theorem State.readLine_of_plain {s : State} (h : s.plain) {d : Nat} (hd : d < 8) (front : Stamp) {pa : Nat}
    (hhome : homeDie pa < 8) (n : Nat) (key : BitVec 512) (pbmt : Nat) :
    ∃ st, s.readLine d front pa n key pbmt = some (s.homeBytes pa n (lineKeyBits pa key), st, s) := by
  obtain ⟨-, -, -, hflights, -, hdies, -⟩ := id h
  have hcaching := State.caching_of_plain h
  have hcovers {e : Nat} (he : e < 8) : s.dieCovers e front = true := by
    obtain ⟨hinvals, -⟩ := hdies e he
    rw [State.dieCovers, hflights, hinvals]
    rfl
  have hdie : (if pbmt = 1 then homeDie pa else d) < 8 := by
    split
    · exact hhome
    · exact hd
  have hat : s.servedAt d pa pbmt = pa := by
    obtain ⟨-, -, hrdir, -⟩ := hdies d hd
    rw [State.servedAt, State.replicaOf, hrdir]
    exact ite_self _
  have hserved : s.served d pa n key pbmt =
      (s.homeBytes pa n (lineKeyBits pa key), (s.line (lineOf pa)).stamp) := by
    unfold State.served
    rw [hcaching, hat]
    rfl
  have hkeep : s.keepCopy d pa key pbmt = s := by
    unfold State.keepCopy
    rw [hcaching]
    rfl
  refine ⟨front.join (s.line (lineOf pa)).stamp, ?_⟩
  unfold State.readLine
  dsimp only
  simp only [hcovers hdie, if_true, hserved, hkeep, Bool.not_true, Bool.false_eq_true, if_false]

section
variable {u : State} {p : Party} {va : Word} {n : Nat} {t : Target}

theorem eTarget_gives {w : Bool} (rem : Nat) (h : u.targetFor p.core p.dxp p.level
    ⟨if w then 11 else 10, !w, w, false, false, false, n⟩ va = some t) : (eTarget p w rem va n).Gives u t u := fun e he => by
  obtain ⟨hcanonical, s', hxlate, hfollows⟩ := he.xlate_of_targetFor h
  refine ⟨{ e with s := s' }, ?_, hfollows, rfl, rfl⟩
  unfold eTarget
  rw [hcanonical]
  simp only [Bool.not_true, Bool.false_eq_true, if_false]
  rw [hxlate]

section
variable (hplain : u.plain) (hdie : p.die < 8) (hmem : t.place.isMem = true)
include hplain hdie hmem

theorem eReadAt_gives (rem : Nat)
    (h : u.targetFor p.core p.dxp p.level ⟨10, true, false, false, false, false, n⟩ va = some t) :
    (eReadAt p rem va n).Gives u (u.heldAt t n) u := by
  obtain ⟨hplace, -, -⟩ := State.targetFor_lands hplain h hmem
  refine (eTarget_gives (w := false) rem h).bind fun e he => ?_
  have hhome : homeDie t.pa < 8 := State.homeDie_lt_of_isMem (s := u) (by rwa [hplace])
  obtain ⟨st, hread⟩ := State.readLine_of_plain he.plain hdie e.front hhome n (e.s.slot t.slot).key t.pbmt
  refine ⟨{ e with front := st }, ?_, he, rfl, rfl⟩
  rw [← he.stamped.heldAt t n hmem, State.heldAt_of_isMem _ hmem]
  obtain ⟨pa, pbmt, slot, place⟩ := t
  cases place with
  | hbm | window =>
    dsimp only at hread ⊢
    rw [State.poisoned_of_plain he.plain hdie, hread]
    rfl
  | _ => cases hmem

theorem eRead_makes (rem : Nat)
    (h : u.targetFor p.core p.dxp p.level ⟨10, true, false, false, false, false, n⟩ va = some t) :
    (eRead p rem va n).Makes u (u.heldAt t n) u := by
  have honce : (eOnce (eReadAt p rem va n >>= fun bs => pure (natOfBytes bs))).Makes u (natOfBytes (u.heldAt t n)) u :=
    ((eReadAt_gives hplain hdie hmem rem h).bind (f := fun bs => pure (natOfBytes bs)) (.pure u _)).once
  have hlength : (u.heldAt t n).length = n := by rw [State.heldAt_of_isMem _ hmem, State.homeBytes_length]
  refine honce.bind ?_
  have hback := bytesOfNat_natOfBytes (u.heldAt t n)
  rw [hlength] at hback
  rw [hback]
  exact .pure u _

/-- A row that lies within a line is read in one access. -/
theorem eReadAll_makes (hn : 0 < n) (hline : va.toNat % 128 + n ≤ 128)
    (h : u.targetFor p.core p.dxp p.level ⟨10, true, false, false, false, false, n⟩ va = some t) :
    (eReadAll p va n).Makes u (u.heldAt t n) u := by
  have hmin : min n (128 - va.toNat % 128) = n := by omega
  obtain ⟨m, rfl⟩ := Nat.exists_eq_succ_of_ne_zero hn.ne'
  unfold eReadAll
  rw [eReadAll.go, if_neg (Nat.succ_ne_zero m)]
  dsimp only
  rw [hmin, Nat.sub_self]
  have hrest (va : Word) : (eReadAll.go p 0 m va 0).Makes u [] u := by
    cases m with
    | zero => exact .pure u _
    | succ m =>
      rw [eReadAll.go, if_pos rfl]
      exact .pure u _
  refine (eRead_makes hplain hdie hmem _ h).bind ((hrest _).bind ?_)
  rw [List.append_nil]
  exact .pure u _

/-- Bytes written at a target, under its key. -/
theorem eWriteAt_gives (rem : Nat) (bs : List Byte) (rel : Option Nat)
    (h : u.targetFor p.core p.dxp p.level ⟨11, false, true, false, false, false, bs.length⟩ va = some t) :
    (eWriteAt p rem va bs rel).Gives u () (u.written t.pa (cellsAt t.pa bs) (u.slot t.slot).key) := by
  obtain ⟨hplace, -, -⟩ := State.targetFor_lands hplain h hmem
  have hhome : homeDie t.pa < 8 := State.homeDie_lt_of_isMem (s := u) (by rwa [hplace])
  refine (eTarget_gives (w := true) rem h).bind fun e he => ?_
  have hput := (he.written t.pa (cellsAt t.pa bs) (u.slot t.slot).key).trans
    (State.inject_follows he.plain hdie e.cap t.pa bs (u.slot t.slot).key rel none hhome)
  rw [he.stamped.slot]
  generalize e.s.inject p.die e.cap t.pa bs (u.slot t.slot).key rel none = r at hput
  obtain ⟨st, s'⟩ := r
  refine ⟨{ e with s := s', front := e.front.join st, wrote := e.wrote.join st }, ?_, hput, rfl, rfl⟩
  obtain ⟨pa, pbmt, slot, place⟩ := t
  cases place with
  | hbm | window =>
    dsimp only
    rw [State.poisoned_of_plain he.plain hdie, State.overdue_of_plain he.plain]
    rfl
  | _ => cases hmem

/-- A row that lies within a line is written in one access. -/
theorem eWriteAll_makes {bs : List Byte} (hn : bs ≠ []) (hline : va.toNat % 128 + bs.length ≤ 128)
    (h : u.targetFor p.core p.dxp p.level ⟨11, false, true, false, false, false, bs.length⟩ va = some t) :
    (eWriteAll p va bs).Makes u () (u.written t.pa (cellsAt t.pa bs) (u.slot t.slot).key) := by
  have hpos := List.length_pos_of_ne_nil hn
  have hmin : min bs.length (128 - va.toNat % 128) = bs.length := by omega
  have hrest (v : State) (m : Nat) (va : Word) : (eWriteAll.go p 0 m va []).Makes v () v := by
    cases m with
    | zero => exact .pure v _
    | succ m =>
      rw [eWriteAll.go, if_pos rfl]
      exact .pure v _
  have hput (rem : Nat) : (ePut p rem va bs none).Makes u () (u.written t.pa (cellsAt t.pa bs) (u.slot t.slot).key) := by
    unfold ePut
    refine (((eWriteAt_gives hplain hdie hmem rem bs none h).bind (x := ()) (y := 0) fun e he => ?_).once).bind (.pure _ _)
    exact ⟨_, rfl, he, rfl, rfl⟩
  unfold eWriteAll
  cases hlen : bs.length with
  | zero => omega
  | succ m =>
    rw [eWriteAll.go, if_neg hn]
    dsimp only
    rw [hmin, List.take_length, List.drop_length]
    exact (hput _).bind (hrest _ m _)

end

end

/-! ## The rows of a queue (R171, R172) -/

section
variable {u : State} {p : Party} {h : QHeader} (hplain : u.plain) (hdie : p.die < 8)
include hplain hdie

theorem readEntry_makes {e : Nat} {et : Target} (hmem : et.place.isMem = true)
    (ht : u.targetFor p.core p.dxp p.level ⟨10, true, false, false, false, false, 2 ^ h.esz⟩
      (h.base + BitVec.ofNat 64 (e % 2 ^ h.lcap * 2 ^ h.esz)) = some et) :
    (readEntry p h e).Makes u (natOfBytes (u.heldAt et (2 ^ h.esz))) u :=
  (eRead_makes hplain hdie hmem _ ht).bind (.pure u _)

/-- A row copied: the bytes that its source holds are put at its destination. -/
theorem copyRow_makes {src dst : Word} {st dt : Target} (hrow : 0 < h.rowb)
    (hsrc : u.targetFor p.core p.dxp p.level ⟨10, true, false, false, false, false, h.rowb⟩ src = some st)
    (hst : st.place.isMem = true) (hsrcLine : src.toNat % 128 + h.rowb ≤ 128)
    (hdst : u.targetFor p.core p.dxp p.level ⟨11, false, true, false, false, false, h.rowb⟩ dst = some dt)
    (hdt : dt.place.isMem = true) (hdstLine : dst.toNat % 128 + h.rowb ≤ 128) :
    (copyRow p h src dst).Makes u ()
      (u.written dt.pa (cellsAt dt.pa (u.heldAt st h.rowb)) (u.slot dt.slot).key) := by
  have hlength : (u.heldAt st h.rowb).length = h.rowb := by rw [State.heldAt_of_isMem _ hst, State.homeBytes_length]
  refine (eReadAll_makes hplain hdie hst hrow hsrcLine hsrc).bind ?_
  refine eWriteAll_makes hplain hdie hdt ?_ (by rwa [hlength]) (by rwa [hlength])
  exact List.ne_nil_of_length_pos (by rwa [hlength])

end

end Sys2Proof.Machine

end

section
/-! SUPPORT. The steps of the queue hardware (O53): rows copied, headers checked, the wait for a settled front. -/

namespace Sys2Proof.Machine

/-! ## The steps of the queue hardware -/

theorem State.Stamped.headReads {s t : State} (h : s.Stamped t) (x : Head) : t.headReads x = s.headReads x := by
  rw [State.headReads, h.headFails, State.headReads]

/-- The next copy of a slot: the entry's row, and the rest. -/
theorem HwQueue.copies_succ {k : HwQueue} {h : QHeader} {j n : Nat} {u v : State} (hplain : u.plain)
    (hcopies : k.copies h j (n + 1) u = some v) : ∃ et st dt : Target,
      let e := 2 ^ h.esz
      let src := h.src + BitVec.ofNat 64 (natOfBytes (u.heldAt et e) * h.rowb)
      let dst := h.dst + BitVec.ofNat 64 ((k.slot * 128 + j) * h.rowb)
      k.mayRead u e (h.base + BitVec.ofNat 64 ((h.head.toNat + j) % 2 ^ h.lcap * e)) et ∧
      k.mayRead u h.rowb src st ∧ k.mayWrite u h.rowb dst dt ∧
      src.toNat % 128 + h.rowb ≤ 128 ∧ dst.toNat % 128 + h.rowb ≤ 128 ∧
      k.copies h (j + 1) n (u.written dt.pa (cellsAt dt.pa (u.heldAt st h.rowb)) (u.slot dt.slot).key) = some v := by
  rw [HwQueue.copies] at hcopies
  dsimp only at hcopies
  split at hcopies
  · cases hcopies
  · next et het =>
    split at hcopies
    · next st dt hst hdt =>
      split at hcopies
      · next hgood =>
        simp only [Bool.and_eq_true, decide_eq_true_eq] at hgood
        obtain ⟨⟨⟨⟨hetMem, hstMem⟩, hdtMem⟩, hsrcLine⟩, hdstLine⟩ := hgood
        obtain ⟨hplace, -, -⟩ := State.targetFor_lands hplain hdt hdtMem
        have hkey : u.keyOf dt = lineKeyBits dt.pa (u.slot dt.slot).key := rfl
        rw [hkey, State.physWrite_eq_written hplain (by rwa [hplace])] at hcopies
        exact ⟨et, st, dt, ⟨het, hetMem⟩, ⟨hst, hstMem⟩, ⟨hdt, hdtMem⟩, hsrcLine, hdstLine, hcopies⟩
      · cases hcopies
    · cases hcopies

theorem HwQueue.copies_keeps {k : HwQueue} {h : QHeader} {j n : Nat} {u v : State} (hplain : u.plain)
    (hcopies : k.copies h j n u = some v) : v.plain ∧ v = { u with mem := v.mem, lines := v.lines } := by
  induction n generalizing j u with
  | zero =>
    cases hcopies
    exact ⟨hplain, rfl⟩
  | succ n ih =>
    obtain ⟨et, st, dt, -, -, -, -, -, hrest⟩ := HwQueue.copies_succ hplain hcopies
    obtain ⟨hv, hframe⟩ := ih (State.written_plain hplain _ _ _) hrest
    exact ⟨hv, by rw [hframe, State.written_frame]⟩

/-- A slot is filled as `copies` says. -/
theorem copySlot_makes {k : HwQueue} {h : QHeader} {j n : Nat} {u v : State} (hplain : u.plain) (hdie : k.die < 8)
    (hrow : 0 < h.rowb) (hcopies : k.copies h j n u = some v) :
    (copySlot k.party h k.slot h.head.toNat n j).Makes u () v := by
  induction n generalizing j u with
  | zero =>
    cases hcopies
    exact .pure _ _
  | succ n ih =>
    obtain ⟨et, st, dt, ⟨het, hetMem⟩, ⟨hst, hstMem⟩, ⟨hdt, hdtMem⟩, hsrcLine, hdstLine, hrest⟩ :=
      HwQueue.copies_succ hplain hcopies
    refine (readEntry_makes (p := k.party) hplain hdie hetMem het).bind ?_
    refine (copyRow_makes (p := k.party) hplain hdie hrow hst hstMem hsrcLine hdt hdtMem hdstLine).bind ?_
    exact ih (State.written_plain hplain _ _ _) hrest

section
variable {u : State} {k : HwQueue}

theorem eSettled_makes : eSettled.Makes u () u := fun e he => by
  obtain ⟨-, -, -, hflights, -, hdies, -⟩ := id he.follows.plain
  have hsettled := State.settled_of_plain he.follows.plain
  have happlied : e.s.appliedUnder e.front = true := by
    rw [State.appliedUnder, hflights, Bool.and_eq_true]
    refine ⟨rfl, List.all_eq_true.2 fun d hd => ?_⟩
    obtain ⟨hinvals, -⟩ := hdies d (List.mem_range.1 hd)
    rw [hinvals]
    rfl
  refine ⟨e, ?_, he⟩
  unfold eSettled
  simp only [hsettled, if_true, happlied]

theorem HwQueue.headerAt_makes {ht : Target} (h : k.mayWrite u 64 k.va ht) : k.headerAt.Makes u () u := by
  refine (eTarget_gives (p := k.party) (w := true) 64 h.1).makes.bind fun e he => ?_
  exact ⟨_, rfl, he.follows, he.passed⟩

theorem HwQueue.canCount_gives {x : Head} (hmem : (u.place x.pa).isMem = true) (hread : u.headReads x = true) :
    (k.canCount x).Gives u () u := fun e he => by
  refine ⟨e, ?_, he, rfl, rfl⟩
  have hready := State.countReady_of_plain he.plain (hd := x) (by rw [he.stamped.place, hmem])
    (by rw [he.stamped.headReads, hread]) k.die e.front
  unfold HwQueue.canCount
  rw [hready]
  rfl

/-- The header of the output queue is read as it stands. -/
theorem HwQueue.outq_makes {h : QHeader} {ot : Target} (hplain : u.plain) (hdie : k.die < 8) (halign : h.outq.toNat % 64 = 0)
    (hwrite : k.mayWrite u 64 h.outq ot) (hread : k.mayRead u 64 h.outq ot) (hpbmt : ot.pbmt ≠ 2)
    (hfault : (QHeader.ofBytes (u.heldAt ot 64)).fault true = none)
    (hesz : (QHeader.ofBytes (u.heldAt ot 64)).esz = 3) :
    (k.outq h).Makes u (ot.head, QHeader.ofBytes (u.heldAt ot 64)) u := by
  obtain ⟨hwrite, hmem⟩ := hwrite
  obtain ⟨hread, -⟩ := hread
  unfold HwQueue.outq
  rw [if_neg (by omega)]
  refine (eTarget_gives (p := k.party) (w := true) 64 hwrite).makes.bind ?_
  refine (eReadAt_gives (p := k.party) hplain hdie hmem 64 hread).makes.bind ?_
  dsimp only
  rw [hmem, hfault, if_neg (by simp [hpbmt, hesz])]
  exact .pure _ _

end

end Sys2Proof.Machine

end

section
/-! SUPPORT. The counts of a queue header in bytes, and what a write leaves of headers and other lines (O53, Table 7.6). -/

namespace Sys2Proof.Machine

/-! ## The counts of a header in bytes (Table 7.6) -/

/-- A header with the count at an offset replaced. -/
def QHeader.withCount (h : QHeader) (off : Nat) (v : BitVec 32) : QHeader :=
  if off = offHead then { h with head := v }
  else if off = offTail then { h with tail := v }
  else if off = offFree then { h with free := v }
  else { h with resv := v }

theorem dwordOf_append_right {l : List Byte} (r : List Byte) {n : Nat} (hl : l.length = n) (off : Nat) :
    dwordOf (l ++ r) (n + off) = dwordOf r off := by
  rw [dwordOf, List.drop_append, hl, List.drop_of_length_le (by omega), List.nil_append, Nat.add_sub_cancel_left, dwordOf]

theorem dwordOf_pair {a b : List Byte} (r : List Byte) (ha : a.length = 4) (hb : b.length = 4) :
    dwordOf (a ++ (b ++ r)) 0 = w64 (natOfBytes a + 2 ^ 32 * natOfBytes b) := by
  rw [dwordOf_first _ _ ha, List.take_left' hb]

theorem natOfBytes_lt_of_four {l : List Byte} (h : l.length = 4) : natOfBytes l < 2 ^ 32 :=
  (natOfBytes_lt l).trans_eq (by rw [h]; rfl)

/-- A header's counts are its first sixteen bytes. -/
theorem QHeader.ofBytes_counts {a b c d : List Byte} (r : List Byte) (ha : a.length = 4) (hb : b.length = 4)
    (hc : c.length = 4) (hd : d.length = 4) : QHeader.ofBytes (a ++ (b ++ (c ++ (d ++ r)))) =
      { QHeader.ofBytes (List.replicate 16 0 ++ r) with
        head := BitVec.ofNat 32 (natOfBytes a), tail := BitVec.ofNat 32 (natOfBytes b),
        free := BitVec.ofNat 32 (natOfBytes c), resv := BitVec.ofNat 32 (natOfBytes d) } := by
  have hfirst : dwordOf (a ++ (b ++ (c ++ (d ++ r)))) 0 = w64 (natOfBytes a + 2 ^ 32 * natOfBytes b) :=
    dwordOf_pair _ ha hb
  have hsecond : dwordOf (a ++ (b ++ (c ++ (d ++ r)))) 8 = w64 (natOfBytes c + 2 ^ 32 * natOfBytes d) := by
    have hab : (a ++ b).length = 8 := by rw [List.length_append, ha, hb]
    rw [← List.append_assoc, dwordOf_append_right (n := 8) _ hab 0]
    exact dwordOf_pair _ hc hd
  have hlater (off : Nat) : dwordOf (a ++ (b ++ (c ++ (d ++ r)))) (16 + off) =
      dwordOf (List.replicate 16 0 ++ r) (16 + off) := by
    have habcd : (a ++ (b ++ (c ++ d))).length = 16 := by simp only [List.length_append, ha, hb, hc, hd]
    have hassoc : a ++ (b ++ (c ++ (d ++ r))) = (a ++ (b ++ (c ++ d))) ++ r := by simp only [List.append_assoc]
    rw [hassoc, dwordOf_append_right _ habcd, dwordOf_append_right _ List.length_replicate]
  unfold QHeader.ofBytes
  simp only [Nat.mul_zero, Nat.mul_one, hfirst, hsecond, hlater 0, hlater 8, hlater 16, hlater 24, hlater 32, hlater 40, w64_low,
    w64_high _ (natOfBytes_lt_of_four ha), w64_high _ (natOfBytes_lt_of_four hc)]

/-- Bytes beside those stored are as they were. -/
theorem memBytes_cellsAt_apart (m : List Host.Cell) {a b n : Nat} (bs : List Byte) (h : b + n ≤ a ∨ a + bs.length ≤ b) :
    memBytes (memPutAll m (cellsAt a bs)) b n = memBytes m b n := by
  rw [memBytes_eq_map, memBytes_eq_map]
  refine List.map_congr_left fun i hi => ?_
  have hi := List.mem_range.1 hi
  rw [memByte_cellsAt, if_neg (by omega)]

theorem memBytes_header (m : List Host.Cell) (pa : Nat) : memBytes m pa 64 =
    memBytes m pa 4 ++ (memBytes m (pa + 4) 4 ++ (memBytes m (pa + 8) 4 ++ (memBytes m (pa + 12) 4 ++
      memBytes m (pa + 16) 48))) := by
  rw [show (64 : Nat) = 4 + (4 + (4 + (4 + 48))) from rfl, memBytes_add, memBytes_add, memBytes_add, memBytes_add]

/-- A count put in memory is that count of the header. -/
theorem QHeader.ofBytes_put (m : List Host.Cell) (pa : Nat) {off : Nat} (v : BitVec 32)
    (hoff : off = offHead ∨ off = offTail ∨ off = offFree ∨ off = offResv) :
    QHeader.ofBytes (memBytes (memPutAll m (cellsAt (pa + off) (bytesOfNat 4 v.toNat))) pa 64) =
      (QHeader.ofBytes (memBytes m pa 64)).withCount off v := by
  have hlen : (bytesOfNat 4 v.toNat).length = 4 := bytesOfNat_length _ _
  have hlength (a : Nat) : (memBytes m a 4).length = 4 := memBytes_length _ _ _
  have hput (a : Nat) : memBytes (memPutAll m (cellsAt a (bytesOfNat 4 v.toNat))) a 4 = bytesOfNat 4 v.toNat := by
    have h := memBytes_cellsAt m a (bytesOfNat 4 v.toNat)
    rwa [hlen] at h
  have hkeep {a b n : Nat} (h : b + n ≤ a ∨ a + 4 ≤ b) :
      memBytes (memPutAll m (cellsAt a (bytesOfNat 4 v.toNat))) b n = memBytes m b n :=
    memBytes_cellsAt_apart m _ (by rwa [hlen])
  have hv : BitVec.ofNat 32 (natOfBytes (bytesOfNat 4 v.toNat)) = v := by
    rw [natOfBytes_bytesOfNat, Nat.mod_eq_of_lt (b := 256 ^ 4) v.isLt, BitVec.ofNat_toNat, BitVec.setWidth_eq]
  rw [memBytes_header, memBytes_header m]
  obtain rfl | rfl | rfl | rfl := hoff
  · rw [show pa + offHead = pa from rfl, hput, hkeep (by omega), hkeep (by omega), hkeep (by omega), hkeep (by omega),
      QHeader.ofBytes_counts _ hlen (hlength _) (hlength _) (hlength _),
      QHeader.ofBytes_counts _ (hlength _) (hlength _) (hlength _) (hlength _), hv]
    rfl
  · rw [show pa + offTail = pa + 4 from rfl, hput, hkeep (by omega), hkeep (by omega), hkeep (by omega), hkeep (by omega),
      QHeader.ofBytes_counts _ (hlength _) hlen (hlength _) (hlength _),
      QHeader.ofBytes_counts _ (hlength _) (hlength _) (hlength _) (hlength _), hv]
    rfl
  · rw [show pa + offFree = pa + 8 from rfl, hput, hkeep (by omega), hkeep (by omega), hkeep (by omega), hkeep (by omega),
      QHeader.ofBytes_counts _ (hlength _) (hlength _) hlen (hlength _),
      QHeader.ofBytes_counts _ (hlength _) (hlength _) (hlength _) (hlength _), hv]
    rfl
  · rw [show pa + offResv = pa + 12 from rfl, hput, hkeep (by omega), hkeep (by omega), hkeep (by omega), hkeep (by omega),
      QHeader.ofBytes_counts _ (hlength _) (hlength _) (hlength _) hlen,
      QHeader.ofBytes_counts _ (hlength _) (hlength _) (hlength _) (hlength _), hv]
    rfl

/-! ## What is read after a write (R45) -/

section
variable (s : State) (pa : Nat) (key : BitVec 512)

/-- In the line written, under the key it was written under, are the bytes put among those that were seen. -/
theorem State.homeBytes_written {cells : List Host.Cell} {x n : Nat} (hline : lineOf x = lineOf pa) :
    (s.written pa cells key).homeBytes x n (lineKeyBits x key) =
      memBytes (memPutAll (s.rekey (lineOf x) (lineKeyBits x key)).mem cells) x n := by
  have hbits : lineKeyBits pa key = lineKeyBits x key := by
    have hside : pa < 0x8000000000 ↔ x < 0x8000000000 := by unfold lineOf at hline; omega
    simp only [lineKeyBits, hside]
  have hkey : lineKeyBits x key = none ∨
      ((s.written pa cells key).line (lineOf x)).key = lineKeyBits x key := by
    cases hk : lineKeyBits x key with
    | none => exact .inl rfl
    | some k =>
      refine .inr ?_
      have hrekey := s.rekey_key (lineOf x) k
      unfold State.written
      rw [← hline, hbits, hk]
      exact hrekey
  rw [State.homeBytes_of_key n hkey, State.written, hline, hbits]

/-- Of another line nothing changes. -/
theorem State.homeBytes_written_apart {bs : List Byte} {x n : Nat} (k : Option (BitVec 512)) (hline : lineOf x ≠ lineOf pa)
    (hfit : pa % 128 + bs.length ≤ 128) (hx : x % 128 + n ≤ 128) :
    (s.written pa (cellsAt pa bs) key).homeBytes x n k = s.homeBytes x n k := by
  unfold lineOf at hline
  have hmem {a m : Nat} (ha : a / 128 = x / 128) (hm : a % 128 + m ≤ 128) :
      memBytes (s.written pa (cellsAt pa bs) key).mem a m = memBytes s.mem a m := by
    rw [State.written]
    dsimp only
    rw [memBytes_cellsAt_apart _ _ (by omega), memBytes_eq_map, memBytes_eq_map]
    refine List.map_congr_left fun i hi => ?_
    have hi := List.mem_range.1 hi
    exact s.memByte_rekey_ne _ (by unfold lineOf; omega)
  have hrecord : (s.written pa (cellsAt pa bs) key).line (lineOf x) = s.line (lineOf x) := by
    have hne : lineOf x ≠ lineOf pa := hline
    unfold State.written State.rekey
    split
    · split
      · rfl
      · exact Sparse.get_set_ne _ _ _ hne
    · exact Sparse.get_set_ne _ _ _ hne
    · rfl
  have hbits : (s.written pa (cellsAt pa bs) key).lineBits (lineOf x) = s.lineBits (lineOf x) := by
    rw [State.lineBits, hmem (by unfold lineOf; omega) (by omega), State.lineBits]
  simp only [State.homeBytes, hrecord, hbits, hmem rfl hx]

end

section
variable {s : State}

theorem State.written_slot (s : State) (pa : Nat) (cells : List Host.Cell) (key : BitVec 512) (i : Nat) :
    (s.written pa cells key).slot i = s.slot i := by
  rw [State.written_frame]
  rfl

theorem State.written_headKey (s : State) (pa : Nat) (cells : List Host.Cell) (key : BitVec 512) (x : Head) :
    (s.written pa cells key).headKey x = s.headKey x := by
  rw [State.headKey, State.written_slot, State.headKey]

/-- A count written reads as written, and the rest of the header as before. -/
theorem State.header_written {x : Head} (halign : x.pa % 64 = 0) {off : Nat} (v : BitVec 32)
    (hoff : off = offHead ∨ off = offTail ∨ off = offFree ∨ off = offResv) :
    (s.written (x.pa + off) (cellsAt (x.pa + off) (bytesOfNat 4 v.toNat)) (s.headKey x)).header x =
      (s.header x).withCount off v := by
  have hline : lineOf x.pa = lineOf (x.pa + off) := by
    have hlt : off < 64 := by obtain rfl | rfl | rfl | rfl := hoff <;> decide
    unfold lineOf
    omega
  rw [State.header, State.written_headKey, State.homeBytes_written _ _ _ hline,
    QHeader.ofBytes_put _ _ _ hoff, State.memBytes_rekey _ _ _ _ (by omega), State.header]

/-- A header in another line than the one written reads as before. -/
theorem State.header_written_apart {x : Head} (halign : x.pa % 64 = 0) {pa : Nat} {bs : List Byte} (key : BitVec 512)
    (hline : lineOf x.pa ≠ lineOf pa) (hfit : pa % 128 + bs.length ≤ 128) :
    (s.written pa (cellsAt pa bs) key).header x = s.header x := by
  rw [State.header, State.written_headKey,
    State.homeBytes_written_apart _ _ _ _ hline hfit (by omega), State.header]

/-- Bytes written at a target are what it holds. -/
theorem State.heldAt_written {t : Target} (hmem : t.place.isMem = true) (bs : List Byte) :
    (s.written t.pa (cellsAt t.pa bs) (s.slot t.slot).key).heldAt t bs.length = bs := by
  rw [State.heldAt_of_isMem _ hmem, State.written_slot, State.homeBytes_written _ _ _ rfl, memBytes_cellsAt]

/-- A target in another line than the one written holds what it held. -/
theorem State.heldAt_written_apart {t : Target} (hmem : t.place.isMem = true) {pa n : Nat} {bs : List Byte} (key : BitVec 512)
    (hline : lineOf t.pa ≠ lineOf pa) (hfit : pa % 128 + bs.length ≤ 128) (ht : t.pa % 128 + n ≤ 128) :
    (s.written pa (cellsAt pa bs) key).heldAt t n = s.heldAt t n := by
  rw [State.heldAt_of_isMem _ hmem, State.heldAt_of_isMem _ hmem, State.written_slot,
    State.homeBytes_written_apart _ _ _ _ hline hfit ht]

end

end Sys2Proof.Machine

end

section
/-! SUPPORT. The lists of the queue hardware, a queue that runs, and HEAD moved on (O53). -/

namespace Sys2Proof.Machine

/-! ## The lists of the queue hardware -/

/-- A state with other queues, reservations and freed ranges. -/
def State.withLists (s : State) (hwqs : List HwQueue) (resvs : List Resv) (freed : List Claim) : State :=
  { s with hwqs := hwqs, resvs := resvs, freed := freed }

theorem State.rekey_withLists (s : State) (a : List HwQueue) (b : List Resv) (c : List Claim) (n : Nat)
    (key : Option (BitVec 512)) : (s.withLists a b c).rekey n key = (s.rekey n key).withLists a b c := by
  have hline : (s.withLists a b c).line n = s.line n := rfl
  have hbits : (s.withLists a b c).lineBits n = s.lineBits n := rfl
  unfold State.rekey
  rw [hline, hbits]
  split
  · split
    · rfl
    · unfold State.withLists
      rfl
  · unfold State.withLists
    rfl
  · rfl

theorem State.written_withLists (s : State) (a : List HwQueue) (b : List Resv) (c : List Claim) (pa : Nat)
    (cells : List Host.Cell) (key : BitVec 512) :
    (s.withLists a b c).written pa cells key = (s.written pa cells key).withLists a b c := by
  rw [State.written, State.rekey_withLists]
  rfl

section
variable {s t : State} (h : s.Follows t)
include h

theorem State.Follows.withLists (a : List HwQueue) (b : List Resv) (c : List Claim) :
    (s.withLists a b c).Follows (t.withLists a b c) :=
  ⟨⟨by rw [h.stamped.frame]; rfl, h.stamped.key, h.stamped.die⟩, h.origin, h.plain⟩

theorem State.Follows.withNextId (i : Nat) : s.Follows { t with nextId := i } :=
  ⟨⟨by rw [h.stamped.frame], h.stamped.key, h.stamped.die⟩, h.origin, h.plain⟩

theorem State.Follows.hwqs : t.hwqs = s.hwqs := by rw [h.stamped.frame]
theorem State.Follows.resvs : t.resvs = s.resvs := by rw [h.stamped.frame]
theorem State.Follows.freed : t.freed = s.freed := by rw [h.stamped.frame]

end

/-- The queues with one at its address replaced. -/
def replaceHw (l : List HwQueue) (k : HwQueue) : List HwQueue := l.map fun x => if x.header.pa = k.header.pa then k else x

theorem replaceHw_getElem? {l : List HwQueue} {n : Nat} {k k' : HwQueue} (h : l[n]? = some k)
    (hpa : k.header.pa = k'.header.pa) : (replaceHw l k')[n]? = some k' := by
  rw [replaceHw, List.getElem?_map, h]
  exact congrArg some (if_pos hpa)

/-- A queue replaced is the one found at its address. -/
theorem replaceHw_find? {l : List HwQueue} {n : Nat} {k k' : HwQueue} (h : l[n]? = some k)
    (hpa : k.header.pa = k'.header.pa) :
    ((replaceHw l k').find? fun x => x.header.pa = k.header.pa) = some k' := by
  have hmem : k' ∈ replaceHw l k' := List.mem_of_getElem? (replaceHw_getElem? h hpa)
  obtain ⟨x, hx⟩ : ∃ x, ((replaceHw l k').find? fun x => x.header.pa = k.header.pa) = some x := by
    rw [← Option.isSome_iff_exists, List.find?_isSome]
    exact ⟨k', hmem, decide_eq_true hpa.symm⟩
  have hxpa := List.find?_some hx
  rw [decide_eq_true_eq] at hxpa
  obtain ⟨y, -, hy⟩ := List.mem_map.1 (List.mem_of_find?_eq_some hx)
  rw [hx]
  split at hy
  · rw [hy]
  · next hne =>
    rw [← hy, hpa] at hxpa
    exact absurd hxpa hne

/-! ## A queue that the hardware serves -/

/-- The n-th queue is one whose header is in memory and can be read, and that is not stopped. -/
structure HwQueue.Runs (k : HwQueue) (s : State) (n : Nat) : Prop where
  plain : s.plain
  listed : s.hwqs[n]? = some k
  die : k.die < 8
  past : k.past = []
  started : k.stopped = false
  align : k.header.pa % 64 = 0
  memory : (s.place k.header.pa).isMem = true
  reads : s.headReads k.header = true

theorem State.lostAddr_not_memory (s : State) : (s.place lostAddr).isMem = false := rfl

/-- The target of a write in memory is a header that can be read and counted. -/
theorem State.Lands.header {s : State} {a : Acc} {va : Word} {t : Target} (h : s.Lands a va t) (hw : a.w = true)
    (hmem : t.place.isMem = true) : (s.place t.head.pa).isMem = true ∧ s.headReads t.head = true := by
  have hplace : (s.place t.head.pa).isMem = true := by
    rw [show t.head.pa = t.pa from rfl, h.place, hmem]
  refine ⟨hplace, ?_⟩
  have hlost : t.head.pa ≠ lostAddr := fun heq => by
    rw [heq, s.lostAddr_not_memory] at hplace
    cases hplace
  rw [State.headReads, h.serves hw, decide_eq_true hlost]
  rfl

theorem HwQueue.runs_of_mayWrite {k : HwQueue} {s : State} {n : Nat} {ht : Target} (hplain : s.plain)
    (hlisted : s.hwqs[n]? = some k) (hdie : k.die < 8) (hpast : k.past = []) (hstarted : k.stopped = false)
    (halign : k.header.pa % 64 = 0) (hwrite : k.mayWrite s 64 k.va ht) (hhead : ht.head = k.header) : k.Runs s n := by
  obtain ⟨htarget, hmem⟩ := hwrite
  obtain ⟨hmemory, hreads⟩ := (State.targetFor_lands hplain htarget hmem).header rfl hmem
  rw [hhead] at hmemory hreads
  exact ⟨hplain, hlisted, hdie, hpast, hstarted, halign, hmemory, hreads⟩

theorem HwQueue.Runs.serves {k : HwQueue} {s : State} {n : Nat} (h : k.Runs s n)
    (act : HwQueue → Host.Outcome State Fault Refusal) : s.hwServes n act = act k := by
  have hreads := h.reads
  rw [State.headReads, Bool.and_eq_true, decide_eq_true_eq, Bool.not_eq_true'] at hreads
  obtain ⟨hlost, hfails⟩ := hreads
  unfold State.hwServes
  simp only [h.listed, h.started, hlost, hfails, decide_false, Bool.or_self, Bool.false_eq_true, if_false]

/-- The hardware's work for a queue is done with what its accesses give, and on the module they make. -/
theorem HwQueue.Runs.byHw {k : HwQueue} {s v : State} {n : Nat} (h : k.Runs s n) {act : E (State → State)}
    {f : State → State} (hact : act.Makes s f v) : ∃ (e : State) (front : Stamp), v.Follows e ∧
      s.byHw k act = f { e with hwqs := replaceHw e.hwqs { k with front, past := [] } } := by
  obtain ⟨e, hrun, he⟩ := hact ⟨s, k.front, 0, k.front, 0, k.past, 0⟩ ⟨.refl h.plain, by rw [h.past]; rfl⟩
  refine ⟨e.s, e.front, he.follows, ?_⟩
  unfold State.byHw
  rw [hrun]
  rfl


/-! ## Counts written by the hardware -/

theorem State.written_place (s : State) (pa : Nat) (cells : List Host.Cell) (key : BitVec 512) (x : Nat) :
    (s.written pa cells key).place x = s.place x := by
  rw [State.written_frame]
  rfl

theorem State.written_headReads (s : State) (pa : Nat) (cells : List Host.Cell) (key : BitVec 512) (x : Head) :
    (s.written pa cells key).headReads x = s.headReads x := by
  rw [State.written_frame]
  rfl

theorem homeDie_count {s : State} {x : Head} (halign : x.pa % 64 = 0) (hmem : (s.place x.pa).isMem = true) {off : Nat}
    (hoff : off < 64) : homeDie (x.pa + off) < 8 := by
  have h := State.homeDie_lt_of_isMem hmem
  by_cases hlow : x.pa < 0x8000000000
  · have hlow' : x.pa + off < 0x8000000000 := by omega
    rw [homeDie, if_pos hlow']
    omega
  · have hlow' : ¬ x.pa + off < 0x8000000000 := by omega
    rw [homeDie, if_neg hlow] at h
    rw [homeDie, if_neg hlow']
    rw [Nat.div_lt_iff_lt_mul (by decide)] at h ⊢
    have hle : x.pa ≤ 0x7FFFFFFFF + 0x10000000000 := tsub_le_iff_right.1 (Nat.le_of_lt_succ h)
    have hle' : x.pa + off ≤ 0x7FFFFFFFF + 0x10000000000 := by omega
    exact Nat.lt_succ_of_le (tsub_le_iff_right.2 hle')

/-- The bytes of a count put in a header. -/
def State.withCount (s : State) (x : Head) (off : Nat) (v : BitVec 32) : State :=
  s.written (x.pa + off) (cellsAt (x.pa + off) (bytesOfNat 4 v.toNat)) (s.headKey x)

theorem State.withCount_lists (s : State) (x : Head) (off : Nat) (v : BitVec 32) :
    (s.withCount x off v).hwqs = s.hwqs ∧ (s.withCount x off v).resvs = s.resvs ∧ (s.withCount x off v).freed = s.freed := by
  rw [State.withCount, State.written_frame]
  exact ⟨rfl, rfl, rfl⟩

theorem State.setCount_makes {s t : State} (h : s.Follows t) {die : Nat} (hdie : die < 8) (front : Stamp) {x : Head}
    (halign : x.pa % 64 = 0) (hmem : (s.place x.pa).isMem = true) {off : Nat} (hoff : off < 64) (v : BitVec 32)
    (rel : Option Nat) : (s.withCount x off v).Follows (t.setCount die front x off v rel).2 := by
  have hset := State.setCount_follows h.plain hdie front x off v rel (homeDie_count halign hmem hoff)
  rw [State.headKey, h.stamped.slot, ← State.headKey] at hset
  exact (h.written _ _ _).trans hset

theorem State.withCount_withLists (s : State) (a : List HwQueue) (b : List Resv) (c : List Claim) (x : Head) (off : Nat)
    (v : BitVec 32) : (s.withLists a b c).withCount x off v = (s.withCount x off v).withLists a b c :=
  s.written_withLists a b c _ _ _

/-- HEAD moves on over what is claimed. -/
theorem HwQueue.hwClaim_makes {k k' : HwQueue} {s t : State} {n : Nat} (h : s.Follows t) (hlisted : s.hwqs[n]? = some k)
    (hheader : k'.header = k.header) (hdie : k'.die < 8) (halign : k.header.pa % 64 = 0)
    (hmem : (s.place k.header.pa).isMem = true) (x : QHeader) (r : Nat) (f : HwQueue → HwQueue) : ∃ st,
      ((s.withCount k.header offHead (x.head + BitVec.ofNat 32 r)).withLists
          (replaceHw (replaceHw s.hwqs k') (f { k' with front := st })) s.resvs s.freed).Follows
        ((t.withLists (replaceHw t.hwqs k') t.resvs t.freed).hwClaim k x r f) := by
  have hfind : ((replaceHw t.hwqs k').find? fun x => x.header.pa = k.header.pa) = some k' :=
    replaceHw_find? (by rw [h.hwqs]; exact hlisted) (by rw [hheader])
  have hlists := h.withLists (replaceHw t.hwqs k') t.resvs t.freed
  have hset := State.setCount_makes hlists hdie k'.front halign hmem (off := offHead) (by decide)
    (x.head + BitVec.ofNat 32 r) none
  rw [State.withCount_withLists, ← hheader] at hset
  have hclaim : (t.withLists (replaceHw t.hwqs k') t.resvs t.freed).hwClaim k x r f =
      let c := (t.withLists (replaceHw t.hwqs k') t.resvs t.freed).setCount k'.die k'.front k'.header offHead
        (x.head + BitVec.ofNat 32 r) none
      c.2.withLists (replaceHw c.2.hwqs (f { k' with front := k'.front.join c.1 })) c.2.resvs c.2.freed := by
    unfold State.hwClaim
    rw [show (t.withLists (replaceHw t.hwqs k') t.resvs t.freed).hwqs = replaceHw t.hwqs k' from rfl, hfind]
    rfl
  rw [hclaim]
  dsimp only
  generalize (t.withLists (replaceHw t.hwqs k') t.resvs t.freed).setCount k'.die k'.front k'.header offHead
    (x.head + BitVec.ofNat 32 r) none = c at hset ⊢
  refine ⟨k'.front.join c.1, ?_⟩
  rw [hset.hwqs, hset.resvs, hset.freed, ← hheader, ← h.hwqs, ← h.resvs, ← h.freed]
  exact hset.withLists _ _ _

end Sys2Proof.Machine

end

section
/-! SUPPORT. A range freed (R169), and a bypass queue (O53, R171). -/

namespace Sys2Proof.Machine

/-! ## A range freed (R169) -/

/-- A range freed at once, where FREE stands at its first entry: FREE moves on over it. -/
theorem State.freeClaims_makes {s t : State} (h : s.Follows t) (c : Claim) (hfreed : s.freed = [])
    (halign : c.header.pa % 64 = 0) (hmem : (s.place c.header.pa).isMem = true) (hreads : s.headReads c.header = true)
    (hfree : (s.header c.header).free = BitVec.ofNat 32 c.first) :
    (s.withCount c.header offFree (BitVec.ofNat 32 (c.first + c.count))).Follows (t.freeClaims [c]) := by
  have hlists := h.withLists s.hwqs s.resvs [c]
  have hstart : { t with freed := t.freed ++ [c] } = t.withLists s.hwqs s.resvs [c] := by
    rw [← h.hwqs, ← h.resvs, h.freed, hfreed]
    rfl
  have hready := State.countReady_of_plain hlists.plain (hd := c.header) (by rw [hlists.stamped.place]; exact hmem)
    (by rw [hlists.stamped.headReads]; exact hreads) (homeDie c.header.pa) 0
  have hheader : (t.withLists s.hwqs s.resvs [c]).header c.header = s.header c.header := by
    rw [hlists.stamped.header]
    exact State.header_congr rfl rfl rfl rfl _
  have hset := State.setCount_makes hlists (State.homeDie_lt_of_isMem hmem) 0 halign hmem (off := offFree) (by decide)
    (BitVec.ofNat 32 (c.first + c.count)) none
  rw [State.withCount_withLists] at hset
  have hfind : (t.withLists s.hwqs s.resvs [c]).freed.find? (fun x =>
      (t.withLists s.hwqs s.resvs [c]).countReady (homeDie x.header.pa) 0 x.header &&
        ((t.withLists s.hwqs s.resvs [c]).header x.header).free = BitVec.ofNat 32 x.first) = some c := by
    refine List.find?_cons_of_pos ?_
    rw [hready, hheader, hfree, decide_eq_true rfl]
    rfl
  have hdone : t.freeClaims [c] =
      let r := ((t.withLists s.hwqs s.resvs [c]).setCount (homeDie c.header.pa) 0 c.header offFree
        (BitVec.ofNat 32 (c.first + c.count)) none).2
      r.withLists r.hwqs r.resvs [] := by
    have hlast : ((t.withLists s.hwqs s.resvs [c]).setCount (homeDie c.header.pa) 0 c.header offFree
        (BitVec.ofNat 32 (c.first + c.count)) none).2.freed = [c] := hset.freed
    have hfilter : [c].filter (fun x => decide (x ≠ c)) = [] := by simp
    unfold State.freeClaims
    rw [hstart]
    dsimp only
    rw [show (t.withLists s.hwqs s.resvs [c]).freed.length = 1 from rfl, State.advanceFree, hfind]
    dsimp only
    rw [hlast, hfilter]
    rfl
  rw [hdone]
  dsimp only
  rw [hset.hwqs, hset.resvs]
  have hend := hset.withLists s.hwqs s.resvs []
  have hback : ((s.withCount c.header offFree (BitVec.ofNat 32 (c.first + c.count))).withLists s.hwqs s.resvs [c]).withLists
      s.hwqs s.resvs [] = s.withCount c.header offFree (BitVec.ofNat 32 (c.first + c.count)) := by
    rw [State.withCount, State.written_frame, ← hfreed]
    rfl
  rwa [hback] at hend

/-! ## What is read after a count -/

section
variable (s : State)

theorem State.withLists_header (a : List HwQueue) (b : List Resv) (c : List Claim) (x : Head) :
    (s.withLists a b c).header x = s.header x := State.header_congr rfl rfl rfl rfl x

theorem State.withLists_heldAt (a : List HwQueue) (b : List Resv) (c : List Claim) {t : Target}
    (hmem : t.place.isMem = true) (n : Nat) : (s.withLists a b c).heldAt t n = s.heldAt t n := by
  rw [State.heldAt_of_isMem _ hmem, State.heldAt_of_isMem _ hmem]
  exact State.homeBytes_congr rfl rfl _ _ _

theorem State.withLists_place (a : List HwQueue) (b : List Resv) (c : List Claim) (pa : Nat) :
    (s.withLists a b c).place pa = s.place pa := rfl

theorem State.withLists_headReads (a : List HwQueue) (b : List Resv) (c : List Claim) (x : Head) :
    (s.withLists a b c).headReads x = s.headReads x := rfl

theorem State.withCount_place (x : Head) (off : Nat) (v : BitVec 32) (pa : Nat) :
    (s.withCount x off v).place pa = s.place pa := s.written_place _ _ _ _

theorem State.withCount_headReads (x : Head) (off : Nat) (v : BitVec 32) (y : Head) :
    (s.withCount x off v).headReads y = s.headReads y := s.written_headReads _ _ _ _

variable {s} {x : Head} (halign : x.pa % 64 = 0) {off : Nat} (v : BitVec 32)
  (hoff : off = offHead ∨ off = offTail ∨ off = offFree ∨ off = offResv)
include halign hoff

theorem State.withCount_header : (s.withCount x off v).header x = (s.header x).withCount off v :=
  State.header_written halign v hoff

theorem lineOf_count : lineOf (x.pa + off) = x.pa / 128 ∧ (x.pa + off) % 128 + (bytesOfNat 4 v.toNat).length ≤ 128 := by
  have hlt : off ≤ 12 := by obtain rfl | rfl | rfl | rfl := hoff <;> decide
  rw [bytesOfNat_length]
  unfold lineOf
  omega

theorem State.withCount_header_apart {y : Head} (hy : y.pa % 64 = 0) (hline : y.pa / 128 ≠ x.pa / 128) :
    (s.withCount x off v).header y = s.header y := by
  obtain ⟨hcount, hfit⟩ := lineOf_count halign v hoff
  exact State.header_written_apart hy _ (by rw [hcount]; exact hline) hfit

theorem State.withCount_heldAt_apart {t : Target} (hmem : t.place.isMem = true) {n : Nat} (hline : t.pa / 128 ≠ x.pa / 128)
    (ht : t.pa % 128 + n ≤ 128) : (s.withCount x off v).heldAt t n = s.heldAt t n := by
  obtain ⟨hcount, hfit⟩ := lineOf_count halign v hoff
  exact State.heldAt_written_apart hmem _ (by rw [hcount]; exact hline) hfit ht

end

/-! ## A bypass queue (R171) -/

/-- What holds of the state after the hardware's work for a queue. -/
theorem HwQueue.Runs.nexts {k : HwQueue} {s v : State} {n : Nat} {P : State → Prop} (h : k.Runs s n)
    {act : E (State → State)} {f : State → State} (hact : act.Makes s f v)
    (hP : ∀ (e : State) (front : Stamp), v.Follows e →
      P (f (e.withLists (replaceHw e.hwqs { k with front, past := [] }) e.resvs e.freed))) :
    Nexts (.next (s.byHw k act)) P := by
  obtain ⟨e, front, he, hrun⟩ := h.byHw hact
  exact ⟨_, congrArg Host.Outcome.next hrun, hP e front he⟩

/-- A row put at its destination, in another line than a header. -/
theorem HwQueue.rowWritten {k : HwQueue} {s : State} {m : Nat} {dst : Word} {st dt : Target} {x : Head} (hplain : s.plain)
    (hdt : k.mayWrite s m dst dt) (hst : st.place.isMem = true) (hfit : dst.toNat % 128 + m ≤ 128)
    (halign : x.pa % 64 = 0) (hline : dt.pa / 128 ≠ x.pa / 128) :
    let v := s.written dt.pa (cellsAt dt.pa (s.heldAt st m)) (s.slot dt.slot).key
    dt.pa % 128 + m ≤ 128 ∧ v.header x = s.header x ∧ v.heldAt dt m = s.heldAt st m := by
  intro v
  obtain ⟨htarget, hmem⟩ := hdt
  have hoffset := (State.targetFor_lands hplain htarget hmem).offset
  have hlength : (s.heldAt st m).length = m := by rw [State.heldAt_of_isMem _ hst, State.homeBytes_length]
  have hfit' : dt.pa % 128 + m ≤ 128 := by omega
  have hheld := State.heldAt_written (s := s) hmem (s.heldAt st m)
  rw [hlength] at hheld
  exact ⟨hfit', State.header_written_apart halign _ (Ne.symm hline) (by rwa [hlength]), hheld⟩

/-- The first entry of a queue claimed and freed: HEAD and FREE move on, and other lines hold what they held. -/
theorem HwQueue.claimFree {k k' : HwQueue} {v e : State} {n : Nat} (he : v.Follows e) (hlisted : v.hwqs[n]? = some k)
    (hheader : k'.header = k.header) (hdie : k'.die < 8) (halign : k.header.pa % 64 = 0)
    (hmem : (v.place k.header.pa).isMem = true) (hreads : v.headReads k.header = true) (hfreed : v.freed = [])
    (hfree : (v.header k.header).free = (v.header k.header).head) :
    let h := v.header k.header
    let t := ((e.withLists (replaceHw e.hwqs k') e.resvs e.freed).hwClaim k h 1 id).freeClaims
      [⟨k.header, k.va, k.dxp, h.head.toNat, 1⟩]
    t.header k.header = { h with head := h.head + 1, free := h.free + 1 } ∧
    ∀ (dt : Target) (m : Nat), dt.place.isMem = true → dt.pa / 128 ≠ k.header.pa / 128 → dt.pa % 128 + m ≤ 128 →
      t.heldAt dt m = v.heldAt dt m := by
  intro h t
  obtain ⟨st, hclaim⟩ := HwQueue.hwClaim_makes he hlisted hheader hdie halign hmem h 1 id
  generalize replaceHw (replaceHw v.hwqs k') (id { k' with front := st }) = l at hclaim
  generalize hu : (v.withCount k.header offHead (h.head + BitVec.ofNat 32 1)).withLists l v.resvs v.freed = u at hclaim
  have huHeader : u.header k.header = { h with head := h.head + 1 } := by
    rw [← hu, State.withLists_header, State.withCount_header halign _ (.inl rfl)]
    rfl
  have huMem : (u.place k.header.pa).isMem = true := by
    rw [← hu, State.withLists_place, State.withCount_place, hmem]
  have huReads : u.headReads k.header = true := by
    rw [← hu, State.withLists_headReads, State.withCount_headReads, hreads]
  have huFreed : u.freed = [] := by rw [← hu]; exact hfreed
  have hnumber : BitVec.ofNat 32 h.head.toNat = h.head := by simp
  have hdone := State.freeClaims_makes hclaim ⟨k.header, k.va, k.dxp, h.head.toNat, 1⟩ huFreed halign huMem huReads (by
    rw [huHeader]
    exact hfree.trans hnumber.symm)
  refine ⟨?_, fun dt m hdt hline hfit => ?_⟩
  · rw [hdone.stamped.header, State.withCount_header halign _ (.inr (.inr (.inl rfl))), huHeader]
    have hnext : BitVec.ofNat 32 (h.head.toNat + 1) = h.free + 1 := by
      rw [BitVec.ofNat_add, hnumber, hfree]
      rfl
    show QHeader.withCount _ offFree (BitVec.ofNat 32 (h.head.toNat + 1)) = _
    rw [hnext]
    rfl
  · rw [hdone.stamped.heldAt _ _ hdt, State.withCount_heldAt_apart halign _ (.inr (.inr (.inl rfl))) hdt hline hfit, ← hu,
      State.withLists_heldAt _ _ _ _ hdt, State.withCount_heldAt_apart halign _ (.inl rfl) hdt hline hfit]

/-- The next entry's row is copied, and the entry is claimed and freed. -/
theorem bypassCopy_copies {s : State} {n : Nat} {k : HwQueue} {ht et st dt : Target} (hk : k.Runs s n) :
    let h := s.header k.header
    let i := natOfBytes (s.heldAt et (2 ^ h.esz))
    let src := h.src + BitVec.ofNat 64 (i * h.rowb)
    let dst := h.dst + BitVec.ofNat 64 (i * h.rowb)
    k.mayWrite s 64 k.va ht → 0 < h.rowb → h.rowb % 4 = 0 →
    k.mayRead s (2 ^ h.esz) (h.base + BitVec.ofNat 64 (h.head.toNat % 2 ^ h.lcap * 2 ^ h.esz)) et →
    k.mayRead s h.rowb src st → src.toNat % 128 + h.rowb ≤ 128 → h.mode = 2 → h.avail ≠ 0 → s.freed = [] →
    h.free = h.head → k.mayWrite s h.rowb dst dt → dst.toNat % 128 + h.rowb ≤ 128 → dt.pa / 128 ≠ k.header.pa / 128 →
    Nexts (exec (.bypassCopy n) s) fun t =>
      t.heldAt dt h.rowb = s.heldAt st h.rowb ∧
      t.header k.header = { h with head := h.head + 1, free := h.free + 1 } := by
  intro h i src dst hwrite hrow hrow4 ⟨het, hetMem⟩ ⟨hst, hstMem⟩ hsrcLine hmode havail hfreed hfree ⟨hdt, hdtMem⟩ hdstLine
    hline
  have hexec : exec (.bypassCopy n) s = execBypassCopy n s := rfl
  have hplain := hk.plain
  let bs := s.heldAt st h.rowb
  let v := s.written dt.pa (cellsAt dt.pa bs) (s.slot dt.slot).key
  have hvMem : (v.place k.header.pa).isMem = true := by rw [State.written_place, hk.memory]
  have hvReads : v.headReads k.header = true := by rw [State.written_headReads, hk.reads]
  rw [hexec, execBypassCopy, hk.serves]
  dsimp only
  rw [if_neg (not_not.2 hmode), if_neg havail]
  refine hk.nexts (v := v)
    (f := fun s => (s.hwClaim k h 1 id).freeClaims [⟨k.header, k.va, k.dxp, h.head.toNat, 1⟩]) ?makes fun e front he => ?after
  case makes =>
    rw [if_neg (not_not.2 hrow4)]
    refine (HwQueue.headerAt_makes hwrite).bind ?_
    refine (readEntry_makes (p := k.party) hplain hk.die hetMem het).bind ?_
    refine (copyRow_makes (p := k.party) hplain hk.die hrow hst hstMem hsrcLine hdt hdtMem hdstLine).bind ?_
    refine eSettled_makes.bind ?_
    exact (HwQueue.canCount_gives hvMem hvReads).makes.bind (.pure _ _)
  case after =>
    obtain ⟨hfit, hheader, hheld⟩ := HwQueue.rowWritten hplain ⟨hdt, hdtMem⟩ hstMem hdstLine hk.align hline
    have hlisted : v.hwqs[n]? = some k := by rw [show v = s.written _ _ _ from rfl, State.written_frame]; exact hk.listed
    have hvFreed : v.freed = [] := by rw [show v = s.written _ _ _ from rfl, State.written_frame]; exact hfreed
    have hvHeader : v.header k.header = h := hheader
    obtain ⟨hafter, hothers⟩ := HwQueue.claimFree (k' := { k with front, past := [] }) he hlisted rfl hk.die hk.align hvMem
      hvReads hvFreed (by rw [hvHeader]; exact hfree)
    rw [hvHeader] at hafter hothers
    exact ⟨(hothers dt _ hdtMem hline hfit).trans hheld, hafter⟩

end Sys2Proof.Machine

end

section
/-! SUPPORT. A compaction queue claims, or has too few entries to claim (O53, R172). -/

namespace Sys2Proof.Machine

/-! ## A compaction queue claims (R172) -/

/-- A queue restarted is stopped no more. -/
theorem queueHardwareRestart_starts {s : State} {n : Nat} {k : HwQueue} (h : s.hwqs[n]? = some k) :
    exec (.queueHardwareRestart n) s = .next { s with hwqs := s.hwqs.map fun x =>
      if x.header.pa = k.header.pa then { k with stopped := false } else x } := by
  have hexec : exec (.queueHardwareRestart n) s = execQueueHardwareRestart n s := rfl
  rw [hexec, execQueueHardwareRestart, h]
  rfl

/-- What a compaction queue needs to claim: its slots and rows, and an output queue whose header is in order. -/
structure HwQueue.Compacts (k : HwQueue) (s : State) (ht ot : Target) : Prop where
  header : k.mayWrite s 64 k.va ht
  rows : 0 < (s.header k.header).rowb
  rowsWhole : (s.header k.header).rowb % 4 = 0
  mode : (s.header k.header).mode = 1
  unclaimed : k.claimed = none
  slots : (s.header k.header).nslot ≠ 0
  outAlign : (s.header k.header).outq.toNat % 64 = 0
  outWrite : k.mayWrite s 64 (s.header k.header).outq ot
  outRead : k.mayRead s 64 (s.header k.header).outq ot
  outCached : ot.pbmt ≠ 2
  outFault : (QHeader.ofBytes (s.heldAt ot 64)).fault true = none
  outEsz : (QHeader.ofBytes (s.heldAt ot 64)).esz = 3
  unnamed : k.named = []

/-- An open queue with fewer than 128 entries claims none. -/
theorem compactionClaim_idle {s : State} {n : Nat} {k : HwQueue} (hk : k.Runs s n) (hfew : (s.header k.header).avail < 128)
    (hopen : (s.header k.header).closed = false) : exec (.compactionClaim n) s = .next s := by
  have hexec : exec (.compactionClaim n) s = execCompactionClaim n s := rfl
  have hmin : min tdim (s.header k.header).avail < tdim := (Nat.min_le_right _ _).trans_lt hfew
  rw [hexec, execCompactionClaim, hk.serves]
  dsimp only
  rw [if_pos (by rw [hopen, decide_eq_true hmin]; simp)]

/-- A queue with 128 entries, or a closed one with some, copies their rows to a slot and claims them. -/
theorem compactionClaim_claims {s u : State} {n : Nat} {k : HwQueue} {ht ot : Target} (hk : k.Runs s n)
    (hc : k.Compacts s ht ot) :
    let h := s.header k.header
    let r := min 128 h.avail
    (128 ≤ h.avail ∨ (h.closed = true ∧ 0 < h.avail)) → k.copies h 0 r s = some u →
    Nexts (exec (.compactionClaim n) s) fun t => ∃ l : List HwQueue,
      ((u.withCount k.header offHead (h.head + BitVec.ofNat 32 r)).withLists l s.resvs s.freed).Follows t ∧
      l[n]?.map (·.claimed) = some (some (h.head.toNat, r)) := by
  intro h r hwork hcopies
  have hexec : exec (.compactionClaim n) s = execCompactionClaim n s := rfl
  obtain ⟨hu, hframe⟩ := HwQueue.copies_keeps hk.plain hcopies
  have huMem : (u.place k.header.pa).isMem = true := by rw [hframe]; exact hk.memory
  have huReads : u.headReads k.header = true := by rw [hframe]; exact hk.reads
  have hlisted : u.hwqs[n]? = some k := by rw [hframe]; exact hk.listed
  have hfree : k.slotFree (QHeader.ofBytes (s.heldAt ot 64)) = true := by
    rw [HwQueue.slotFree, hc.unnamed]
    rfl
  have hgo : ¬ (k.claimed.isSome || decide (h.mode ≠ 1) || decide (r = 0) || (decide (r < 128) && !h.closed)) = true := by
    have hmode : h.mode = 1 := hc.mode
    have hr : r = min 128 h.avail := rfl
    simp only [hc.unclaimed, hmode, Option.isSome_none, ne_eq, not_true_eq_false, decide_false, Bool.false_or, Bool.or_eq_true,
      Bool.and_eq_true, decide_eq_true_eq, Bool.not_eq_true', not_or, not_and, Bool.not_eq_false]
    obtain hmany | ⟨hclosed, hsome⟩ := hwork
    · exact ⟨by omega, fun hlt => absurd hlt (by omega)⟩
    · exact ⟨by omega, fun _ => hclosed⟩
  rw [hexec, execCompactionClaim, hk.serves]
  dsimp only
  rw [show tdim = 128 from rfl, if_neg hgo]
  refine hk.nexts (v := u) (f := fun s => s.hwClaim k h r fun x => { x with claimed := some (h.head.toNat, r) })
    ?makes fun e front he => ?after
  case makes =>
    have hslots : h.nslot ≠ 0 := hc.slots
    have hwhole : h.rowb % 4 = 0 := hc.rowsWhole
    have hshape : ¬ (decide (h.nslot = 0) || decide (h.rowb % 4 ≠ 0)) = true := by simp [hslots, hwhole]
    rw [if_neg hshape]
    refine (HwQueue.headerAt_makes hc.header).bind ?_
    refine (HwQueue.outq_makes hk.plain hk.die hc.outAlign hc.outWrite hc.outRead hc.outCached hc.outFault hc.outEsz).bind ?_
    dsimp only
    rw [hfree, if_neg (by decide)]
    refine (copySlot_makes hk.plain hk.die hc.rows hcopies).bind ?_
    refine eSettled_makes.bind ?_
    exact (HwQueue.canCount_gives huMem huReads).makes.bind (.pure _ _)
  case after =>
    obtain ⟨st, hclaim⟩ := HwQueue.hwClaim_makes (k' := { k with front, past := [] }) he hlisted rfl hk.die hk.align huMem h r
      fun x => { x with claimed := some (h.head.toNat, r) }
    rw [show u.resvs = s.resvs by rw [hframe], show u.freed = s.freed by rw [hframe]] at hclaim
    have hfront := replaceHw_getElem? (k' := { k with front, past := [] }) hlisted rfl
    have hlast := replaceHw_getElem? (k' := { k with front := st, past := [], claimed := some (h.head.toNat, r) }) hfront rfl
    exact ⟨_, hclaim, congrArg (Option.map (·.claimed)) hlast⟩

end Sys2Proof.Machine

end

section
/-! SUPPORT. A reservation published (R166), and a range freed after it (O53, R172). -/

namespace Sys2Proof.Machine

/-! ## A slot appended to the output queue (R166, R172) -/

/-- A reservation published at once, where TAIL stands at its first entry: TAIL moves on over it (R166). -/
theorem State.publishAll_makes {s t : State} (h : s.Follows t) (rv : Resv) (hresvs : s.resvs = []) (hseq : rv.seq = none)
    (hdie : rv.die < 8) (halign : rv.header.pa % 64 = 0) (hmem : (s.place rv.header.pa).isMem = true)
    (hreads : s.headReads rv.header = true) (htail : (s.header rv.header).tail = BitVec.ofNat 32 rv.first) :
    (s.withCount rv.header offTail (BitVec.ofNat 32 (rv.first + rv.count))).Follows
      ((t.withLists t.hwqs (t.resvs ++ [rv]) t.freed).publishAll 1) := by
  have hlists := h.withLists s.hwqs [rv] s.freed
  have hstart : t.withLists t.hwqs (t.resvs ++ [rv]) t.freed = t.withLists s.hwqs [rv] s.freed := by
    rw [h.hwqs, h.resvs, h.freed, hresvs]
    rfl
  have hready := State.countReady_of_plain hlists.plain (hd := rv.header) (by rw [hlists.stamped.place]; exact hmem)
    (by rw [hlists.stamped.headReads]; exact hreads) rv.die rv.front
  have hheader : (t.withLists s.hwqs [rv] s.freed).header rv.header = s.header rv.header := by
    rw [hlists.stamped.header, State.withLists_header]
  have hset := State.setCount_makes hlists hdie rv.front halign hmem (off := offTail) (by decide)
    (BitVec.ofNat 32 (rv.first + rv.count)) (some 4)
  rw [State.withCount_withLists] at hset
  have hcan : (t.withLists s.hwqs [rv] s.freed).canPublish rv = true := by
    obtain ⟨-, -, -, hflights, -, hdies, -⟩ := id hlists.plain
    unfold State.canPublish
    rw [hready, hheader, htail, hflights, decide_eq_true rfl, Bool.and_eq_true]
    refine ⟨rfl, List.all_eq_true.2 fun d hd => ?_⟩
    obtain ⟨hinvals, -⟩ := hdies d (List.mem_range.1 hd)
    rw [hinvals]
    rfl
  have hfind : (t.withLists s.hwqs [rv] s.freed).resvs.find? (t.withLists s.hwqs [rv] s.freed).canPublish = some rv :=
    List.find?_cons_of_pos hcan
  have hdone : (t.withLists s.hwqs [rv] s.freed).publishAll 1 =
      let r := ((t.withLists s.hwqs [rv] s.freed).setCount rv.die rv.front rv.header offTail
        (BitVec.ofNat 32 (rv.first + rv.count)) (some 4)).2
      r.withLists r.hwqs [] r.freed := by
    have hlast : ((t.withLists s.hwqs [rv] s.freed).setCount rv.die rv.front rv.header offTail
        (BitVec.ofNat 32 (rv.first + rv.count)) (some 4)).2.resvs = [rv] := hset.resvs
    have hfilter : [rv].filter (fun x => decide (x.id ≠ rv.id)) = [] := by simp
    rw [State.publishAll, hfind]
    dsimp only
    rw [State.publishAll, State.publish]
    dsimp only
    rw [hlast, hfilter, hseq]
    rfl
  rw [hstart, hdone]
  dsimp only
  rw [hset.hwqs, hset.freed]
  have hend := hset.withLists s.hwqs [] s.freed
  have hback : ((s.withCount rv.header offTail (BitVec.ofNat 32 (rv.first + rv.count))).withLists s.hwqs [rv] s.freed).withLists
      s.hwqs [] s.freed = s.withCount rv.header offTail (BitVec.ofNat 32 (rv.first + rv.count)) := by
    rw [State.withCount, State.written_frame, ← hresvs]
    rfl
  rwa [hback] at hend

/-- What a compaction queue needs to append a slot: an output queue whose header is in order and has room. -/
structure HwQueue.Appends (k : HwQueue) (s : State) (ot : Target) : Prop where
  outAlign : (s.header k.header).outq.toNat % 64 = 0
  outWrite : k.mayWrite s 64 (s.header k.header).outq ot
  outRead : k.mayRead s 64 (s.header k.header).outq ot
  outCached : ot.pbmt ≠ 2
  outFault : (QHeader.ofBytes (s.heldAt ot 64)).fault true = none
  outEsz : (QHeader.ofBytes (s.heldAt ot 64)).esz = 3
  room : ((QHeader.ofBytes (s.heldAt ot 64)).resv - (QHeader.ofBytes (s.heldAt ot 64)).free).toNat <
    2 ^ (QHeader.ofBytes (s.heldAt ot 64)).lcap

section
variable {s : State} {n : Nat} {k : HwQueue} {ot : Target} (hk : k.Runs s n) (ha : k.Appends s ot)
include hk ha

theorem HwQueue.Appends.header : ot.head.pa % 64 = 0 ∧ (s.place ot.head.pa).isMem = true ∧ s.headReads ot.head = true := by
  obtain ⟨htarget, hmem⟩ := ha.outWrite
  have hlands := State.targetFor_lands hk.plain htarget hmem
  have halign := ha.outAlign
  have hoffset := hlands.offset
  refine ⟨?_, hlands.header rfl hmem⟩
  show ot.pa % 64 = 0
  omega

/-- The output queue's entry is reserved: RESV moves on, and the state is what that leaves, but for stamps. -/
theorem HwQueue.reserve_makes {u : State}
    (hu : (s.withCount ot.head offResv ((QHeader.ofBytes (s.heldAt ot 64)).resv + 1)).Follows u) :
    (k.reserve (s.header k.header)).Makes s
      ((QHeader.ofBytes (s.heldAt ot 64)).resv.toNat, ot.head, QHeader.ofBytes (s.heldAt ot 64)) u := by
  obtain ⟨halign, hmem, hreads⟩ := ha.header hk
  have hroom := ha.room
  unfold HwQueue.reserve
  refine (HwQueue.outq_makes hk.plain hk.die ha.outAlign ha.outWrite ha.outRead ha.outCached ha.outFault ha.outEsz).bind ?_
  dsimp only
  refine E.Makes.bind (E.Gives.once ?_) (.pure u _)
  rw [if_neg (by omega)]
  refine (HwQueue.canCount_gives hmem hreads).bind fun e he => ?_
  have hset := State.setCount_makes he hk.die e.front halign hmem (off := offResv) (by decide)
    ((QHeader.ofBytes (s.heldAt ot 64)).resv + 1) none
  exact ⟨_, rfl, hu.symm.trans hset, rfl, rfl⟩

end

/-- What the hardware does once a slot's entry is written: it publishes the entry, and frees the range it was made from. -/
def HwQueue.finish (k : HwQueue) (h : QHeader) (first r e : Nat) (out : Head) (s : State) : State :=
  match s.hwqs.find? (fun x => x.header.pa = k.header.pa) with
  | some x =>
    let (id, s) := s.fresh
    let s := { s with resvs := s.resvs ++ [(⟨id, out, e, 1, none, 0, k.die, x.front, 0, h.outq, k.dxp⟩ : Resv)] }
    let s := if s.sched.lazy then s else s.publishAll s.resvs.length
    let s := s.freeClaims [⟨k.header, k.va, k.dxp, first, r⟩]
    s.setHw { x with
      claimed := none, slot := (k.slot + 1) % h.nslot, named := (k.slot, e) :: k.named.filter fun n => n.1 ≠ k.slot }
  | none => s

/-- The entry is published and the range freed, and other lines hold what they held. -/
theorem HwQueue.finish_makes {k k' : HwQueue} {v e : State} {n : Nat} {out : Head} {h : QHeader} {first r i : Nat}
    (he : v.Follows e) (hlisted : v.hwqs[n]? = some k) (hheader : k'.header = k.header) (hdie : k.die < 8)
    (hresvs : v.resvs = []) (hfreed : v.freed = [])
    (halign : k.header.pa % 64 = 0) (hmem : (v.place k.header.pa).isMem = true) (hreads : v.headReads k.header = true)
    (houtAlign : out.pa % 64 = 0) (houtMem : (v.place out.pa).isMem = true) (houtReads : v.headReads out = true)
    (hapart : out.pa / 128 ≠ k.header.pa / 128) (htail : (v.header out).tail = BitVec.ofNat 32 i)
    (hfree : (v.header k.header).free = BitVec.ofNat 32 first) :
    let t := k.finish h first r i out (e.withLists (replaceHw e.hwqs k') e.resvs e.freed)
    t.header out = { v.header out with tail := BitVec.ofNat 32 (i + 1) } ∧
    t.header k.header = { v.header k.header with free := BitVec.ofNat 32 (first + r) } ∧
    (t.hwqs[n]?.map fun x => (x.claimed, x.slot)) = some (none, (k.slot + 1) % h.nslot) ∧
    ∀ (dt : Target) (m : Nat), dt.place.isMem = true → dt.pa / 128 ≠ k.header.pa / 128 → dt.pa / 128 ≠ out.pa / 128 →
      dt.pa % 128 + m ≤ 128 → t.heldAt dt m = v.heldAt dt m := by
  intro t
  have hfind : ((replaceHw e.hwqs k').find? fun x => x.header.pa = k.header.pa) = some k' :=
    replaceHw_find? (by rw [he.hwqs]; exact hlisted) (by rw [hheader])
  let rv : Resv := ⟨e.nextId + 1, out, i, 1, none, 0, k.die, k'.front, 0, h.outq, k.dxp⟩
  let w : State := { e.withLists (replaceHw e.hwqs k') e.resvs e.freed with nextId := e.nextId + 1 }
  let p := (w.withLists w.hwqs (w.resvs ++ [rv]) w.freed).publishAll 1
  let q := p.freeClaims [⟨k.header, k.va, k.dxp, first, r⟩]
  let last : HwQueue := { k' with
    claimed := none, slot := (k.slot + 1) % h.nslot, named := (k.slot, i) :: k.named.filter fun n => n.1 ≠ k.slot }
  have hw : (v.withLists (replaceHw e.hwqs k') e.resvs e.freed).Follows w :=
    (he.withLists (replaceHw e.hwqs k') e.resvs e.freed).withNextId (e.nextId + 1)
  have hwResvs : w.resvs = [] := he.resvs.trans hresvs
  have hlazy : w.sched.lazy = false := by
    obtain ⟨hsched, -⟩ := he.plain
    exact congrArg Sched.lazy hsched
  have hfinish : t = q.withLists (replaceHw q.hwqs last) q.resvs q.freed := by
    have hlength : (w.resvs ++ [rv]).length = 1 := by rw [hwResvs]; rfl
    show k.finish h first r i out (e.withLists (replaceHw e.hwqs k') e.resvs e.freed) = _
    unfold HwQueue.finish
    rw [show (e.withLists (replaceHw e.hwqs k') e.resvs e.freed).hwqs = replaceHw e.hwqs k' from rfl, hfind]
    show ((if w.sched.lazy then w.withLists w.hwqs (w.resvs ++ [rv]) w.freed
      else (w.withLists w.hwqs (w.resvs ++ [rv]) w.freed).publishAll (w.resvs ++ [rv]).length).freeClaims
        [⟨k.header, k.va, k.dxp, first, r⟩]).setHw last = _
    rw [hlazy, hlength]
    rfl
  let v1 := v.withLists (replaceHw e.hwqs k') e.resvs e.freed
  let v2 := v1.withCount out offTail (BitVec.ofNat 32 (i + 1))
  have hv1 (x : Head) : v1.header x = v.header x := v.withLists_header _ _ _ x
  have hp : v2.Follows p := State.publishAll_makes hw rv hwResvs rfl hdie houtAlign houtMem houtReads (by
    rw [hv1]
    exact htail)
  have hv2Header : v2.header k.header = v.header k.header := by
    rw [State.withCount_header_apart houtAlign _ (.inr (.inl rfl)) halign (Ne.symm hapart), hv1]
  have hv2Freed : v2.freed = [] := by
    obtain ⟨-, -, hkeep⟩ := v1.withCount_lists out offTail (BitVec.ofNat 32 (i + 1))
    exact hkeep.trans (he.freed.trans hfreed)
  have hq := State.freeClaims_makes hp ⟨k.header, k.va, k.dxp, first, r⟩ hv2Freed halign
    (by rw [State.withCount_place]; exact hmem) (by rw [State.withCount_headReads]; exact hreads)
    (by rw [hv2Header]; exact hfree)
  have hqHwqs : q.hwqs = replaceHw e.hwqs k' := by
    obtain ⟨hkeep, -⟩ := v1.withCount_lists out offTail (BitVec.ofNat 32 (i + 1))
    obtain ⟨hkeep', -⟩ := v2.withCount_lists k.header offFree (BitVec.ofNat 32 (first + r))
    exact hq.hwqs.trans (hkeep'.trans hkeep)
  have hlisted' : e.hwqs[n]? = some k := by rw [he.hwqs, hlisted]
  refine ⟨?_, ?_, ?_, fun dt m hdt hline hline' hfit => ?_⟩
  · rw [hfinish, State.withLists_header, hq.stamped.header,
      State.withCount_header_apart halign _ (.inr (.inr (.inl rfl))) houtAlign hapart,
      State.withCount_header houtAlign _ (.inr (.inl rfl)), hv1]
    rfl
  · rw [hfinish, State.withLists_header, hq.stamped.header, State.withCount_header halign _ (.inr (.inr (.inl rfl))), hv2Header]
    rfl
  · have hfront := replaceHw_getElem? (k' := k') hlisted' (by rw [hheader])
    have hlast := replaceHw_getElem? (k' := last) hfront rfl
    rw [← hqHwqs] at hlast
    rw [hfinish]
    exact congrArg (Option.map fun x => (x.claimed, x.slot)) hlast
  · rw [hfinish, State.withLists_heldAt _ _ _ _ hdt, hq.stamped.heldAt _ _ hdt,
      State.withCount_heldAt_apart halign _ (.inr (.inr (.inl rfl))) hdt hline hfit,
      State.withCount_heldAt_apart houtAlign _ (.inr (.inl rfl)) hdt hline' hfit, State.withLists_heldAt _ _ _ _ hdt]

end Sys2Proof.Machine

end

section
/-! SUPPORT. A slot appended to the output queue (O53, R171, R173). -/

namespace Sys2Proof.Machine

theorem QHeader.base_aligned {o : QHeader} (h : o.fault true = none) : o.base.toNat % 64 = 0 := by
  unfold QHeader.fault at h
  split_ifs at h with h1 h2 h3
  omega

/-- An entry of a dword lies within a line. -/
theorem QHeader.entry_fits {o : QHeader} (h : o.fault true = none) (i : Nat) :
    (o.base + BitVec.ofNat 64 (i * 8)).toNat % 128 + 8 ≤ 128 := by
  have hbase := QHeader.base_aligned h
  rw [BitVec.toNat_add, BitVec.toNat_ofNat]
  omega

/-- A claimed slot is appended to the output queue, and its range is freed. -/
theorem compactionSlotDone_appends {s : State} {n first r : Nat} {k : HwQueue} {ot dt : Target} (hk : k.Runs s n)
    (ha : k.Appends s ot) :
    let h := s.header k.header
    let o := QHeader.ofBytes (s.heldAt ot 64)
    let u := (s.setCount k.die 0 ot.head offResv (o.resv + 1) none).2
    h.mode = 1 → k.claimed = some (first, r) → s.header ot.head = o → o.resv = o.tail → s.resvs = [] → s.freed = [] →
    h.free = BitVec.ofNat 32 first →
    k.mayWrite u 8 (o.base + BitVec.ofNat 64 (o.resv.toNat % 2 ^ o.lcap * 8)) dt → dt.pa / 128 ≠ k.header.pa / 128 →
    dt.pa / 128 ≠ ot.pa / 128 → ot.pa / 128 ≠ k.header.pa / 128 →
    Nexts (exec (.compactionSlotDone n) s) fun t =>
      natOfBytes (t.heldAt dt 8) = (r * 2 ^ 48 + k.slot) % 2 ^ 64 ∧
      t.header ot.head = { o with tail := o.tail + 1, resv := o.resv + 1 } ∧
      t.header k.header = { h with free := BitVec.ofNat 32 (first + r) } ∧
      (t.hwqs[n]?.map fun x => (x.claimed, x.slot)) = some (none, (k.slot + 1) % h.nslot) := by
  intro h o u hmode hclaimed hout htail hresvs hfreed hfree ⟨hdt, hdtMem⟩ hdtHeader hdtOut houtHeader
  have hexec : exec (.compactionSlotDone n) s = execCompactionSlotDone n s := rfl
  obtain ⟨houtAlign, houtMem, houtReads⟩ := ha.header hk
  have hu : (s.withCount ot.head offResv (o.resv + 1)).Follows u :=
    State.setCount_makes (.refl hk.plain) hk.die 0 houtAlign houtMem (by decide) _ _
  let bs := bytesOfNat 8 (r * 2 ^ 48 + k.slot)
  have hbs : bs.length = 8 := bytesOfNat_length _ _
  let v := u.written dt.pa (cellsAt dt.pa bs) (u.slot dt.slot).key
  have hfits : (o.base + BitVec.ofNat 64 (o.resv.toNat % 2 ^ o.lcap * 8)).toNat % 128 + 8 ≤ 128 :=
    QHeader.entry_fits ha.outFault _
  have hoffset := (State.targetFor_lands hu.plain hdt hdtMem).offset
  have hdtFits : dt.pa % 128 + 8 ≤ 128 := by omega
  rw [hexec, execCompactionSlotDone, hk.serves]
  dsimp only
  rw [if_neg (not_not.2 hmode), hclaimed]
  refine hk.nexts (v := v) (f := k.finish h first r o.resv.toNat ot.head) ?makes fun e front he => ?after
  case makes =>
    refine eSettled_makes.bind ((HwQueue.reserve_makes hk ha hu).bind ?_)
    refine E.Makes.bind (eWriteAll_makes (p := k.party) hu.plain hk.die hdtMem (bs := bs) ?_ ?_ ?_) (.pure _ _)
    · exact List.ne_nil_of_length_pos (by rw [hbs]; decide)
    · rw [hbs]
      exact hfits
    · rw [hbs]
      exact hdt
  case after =>
    have hfit : dt.pa % 128 + bs.length ≤ 128 := by rw [hbs]; exact hdtFits
    have huOut : u.header ot.head = { o with resv := o.resv + 1 } := by
      rw [hu.stamped.header, State.withCount_header houtAlign _ (.inr (.inr (.inr rfl))), hout]
      rfl
    have huHeader : u.header k.header = h := by
      rw [hu.stamped.header, State.withCount_header_apart houtAlign _ (.inr (.inr (.inr rfl))) hk.align (Ne.symm houtHeader)]
    have hvOut : v.header ot.head = { o with resv := o.resv + 1 } :=
      (State.header_written_apart houtAlign _ (Ne.symm hdtOut) hfit).trans huOut
    have hvHeader : v.header k.header = h := (State.header_written_apart hk.align _ (Ne.symm hdtHeader) hfit).trans huHeader
    have hvHeld : v.heldAt dt 8 = bs := by
      have hheld := State.heldAt_written (s := u) hdtMem bs
      rwa [hbs] at hheld
    have hvPlace (pa : Nat) : v.place pa = s.place pa := by
      rw [u.written_place, hu.stamped.place, State.withCount_place]
    have hvReads (x : Head) : v.headReads x = s.headReads x := by
      rw [u.written_headReads, hu.stamped.headReads, State.withCount_headReads]
    have hvLists : v.hwqs = s.hwqs ∧ v.resvs = s.resvs ∧ v.freed = s.freed := by
      obtain ⟨h1, h2, h3⟩ := s.withCount_lists ot.head offResv (o.resv + 1)
      rw [show v = u.written _ _ _ from rfl, State.written_frame]
      exact ⟨hu.hwqs.trans h1, hu.resvs.trans h2, hu.freed.trans h3⟩
    obtain ⟨hvHwqs, hvResvs, hvFreed⟩ := hvLists
    have hnumber : BitVec.ofNat 32 o.resv.toNat = o.resv := by simp
    obtain ⟨hafterOut, hafterHeader, hafterQueue, hothers⟩ := HwQueue.finish_makes (k := k) (n := n)
      (k' := { k with front, past := [] })
      (out := ot.head) (h := h) (r := r) (i := o.resv.toNat) he (by rw [hvHwqs]; exact hk.listed) rfl hk.die
      (hvResvs.trans hresvs) (hvFreed.trans hfreed) hk.align (by rw [hvPlace]; exact hk.memory) (by rw [hvReads]; exact hk.reads)
      houtAlign (by rw [hvPlace]; exact houtMem) (by rw [hvReads]; exact houtReads) houtHeader
      (by rw [hvOut, hnumber]; exact htail.symm) (by rw [hvHeader]; exact hfree)
    refine ⟨?_, ?_, ?_, hafterQueue⟩
    · rw [hothers dt 8 hdtMem hdtHeader hdtOut hdtFits, hvHeld, natOfBytes_bytesOfNat]
      rfl
    · rw [hafterOut, hvOut, BitVec.ofNat_add, hnumber, htail]
      rfl
    · rw [hafterHeader, hvHeader]

end Sys2Proof.Machine

end

section
/-! SUPPORT. What a claim leaves in memory (O53, R172), and the four clauses of O53. -/

namespace Sys2Proof.Machine

/-! ## What a claim leaves in memory (R172) -/

/-- A row copied alone is its bytes put at its destination. -/
theorem HwQueue.copies_one {k : HwQueue} {h : QHeader} {s : State} {et st dt : Target} (hplain : s.plain)
    (het : k.mayRead s (2 ^ h.esz) (h.base + BitVec.ofNat 64 (h.head.toNat % 2 ^ h.lcap * 2 ^ h.esz)) et) :
    let src := h.src + BitVec.ofNat 64 (natOfBytes (s.heldAt et (2 ^ h.esz)) * h.rowb)
    let dst := h.dst + BitVec.ofNat 64 (k.slot * 128 * h.rowb)
    k.mayRead s h.rowb src st → k.mayWrite s h.rowb dst dt → src.toNat % 128 + h.rowb ≤ 128 →
    dst.toNat % 128 + h.rowb ≤ 128 →
    k.copies h 0 1 s = some (s.written dt.pa (cellsAt dt.pa (s.heldAt st h.rowb)) (s.slot dt.slot).key) := by
  intro src dst ⟨hst, hstMem⟩ ⟨hdt, hdtMem⟩ hsrcLine hdstLine
  obtain ⟨het, hetMem⟩ := het
  have hplace := (State.targetFor_lands hplain hdt hdtMem).place
  have hkey : s.keyOf dt = lineKeyBits dt.pa (s.slot dt.slot).key := rfl
  have hgood : (et.place.isMem && st.place.isMem && dt.place.isMem && decide (src.toNat % 128 + h.rowb ≤ 128) &&
      decide (dst.toNat % 128 + h.rowb ≤ 128)) = true := by
    rw [hetMem, hstMem, hdtMem, decide_eq_true hsrcLine, decide_eq_true hdstLine]
    rfl
  rw [HwQueue.copies]
  dsimp only
  rw [Nat.add_zero, Nat.add_zero, het]
  dsimp only
  rw [hst, hdt]
  dsimp only
  rw [if_pos hgood, HwQueue.copies, hkey, State.physWrite_eq_written hplain (by rw [hplace]; exact hdtMem)]

/-- The bytes of HEAD are those of its number, as far as 32 bits go. -/
theorem bytesOfNat_add_ofNat (a : BitVec 32) (r : Nat) :
    bytesOfNat 4 (a + BitVec.ofNat 32 r).toNat = bytesOfNat 4 (a.toNat + r) := by
  have hback := bytesOfNat_natOfBytes (bytesOfNat 4 (a.toNat + r))
  rw [bytesOfNat_length, natOfBytes_bytesOfNat] at hback
  rw [BitVec.toNat_add, BitVec.toNat_ofNat, Nat.add_mod_mod]
  exact hback

/-- HEAD written is the bytes of its number put in the header. -/
theorem State.withCount_eq_physWrite {u : State} (hplain : u.plain) {x : Head} (hmem : (u.place x.pa).isMem = true)
    (a : BitVec 32) (r : Nat) :
    u.withCount x offHead (a + BitVec.ofNat 32 r) =
      u.physWrite x.pa (bytesOfNat 4 (a.toNat + r)) (lineKeyBits x.pa (u.headKey x)) := by
  rw [State.withCount, bytesOfNat_add_ofNat, State.physWrite_eq_written hplain hmem]
  rfl

section
variable {s : State} {n : Nat} {k : HwQueue} {ht ot : Target} (hk : k.Runs s n) (hc : k.Compacts s ht ot)
include hk hc

/-- A closed queue with one entry left claims it and copies its row to the next slot. -/
theorem compactionClaim_copiesOne {et st dt : Target} :
    let h := s.header k.header
    let src := h.src + BitVec.ofNat 64 (natOfBytes (s.heldAt et (2 ^ h.esz)) * h.rowb)
    let dst := h.dst + BitVec.ofNat 64 (k.slot * 128 * h.rowb)
    k.mayRead s (2 ^ h.esz) (h.base + BitVec.ofNat 64 (h.head.toNat % 2 ^ h.lcap * 2 ^ h.esz)) et →
    k.mayRead s h.rowb src st → src.toNat % 128 + h.rowb ≤ 128 → h.avail = 1 → h.closed = true →
    k.mayWrite s h.rowb dst dt → dst.toNat % 128 + h.rowb ≤ 128 → dt.pa / 128 ≠ k.header.pa / 128 →
    Nexts (exec (.compactionClaim n) s) fun t =>
      t.heldAt dt h.rowb = s.heldAt st h.rowb ∧ (t.header k.header).head = h.head + 1 ∧
      t.hwqs[n]?.map (·.claimed) = some (some (h.head.toNat, 1)) := by
  intro h src dst het hst hsrcLine havail hclosed hdt hdstLine hline
  have hone : min 128 h.avail = 1 := by rw [havail]; rfl
  have hsome : 0 < h.avail := by rw [havail]; decide
  have hcopies := HwQueue.copies_one hk.plain het hst hdt hsrcLine hdstLine
  obtain ⟨-, hstMem⟩ := hst
  obtain ⟨hfit, hheader, hheld⟩ := HwQueue.rowWritten hk.plain hdt hstMem hdstLine hk.align hline
  obtain ⟨-, hdtMem⟩ := hdt
  rw [← hone] at hcopies
  obtain ⟨t, hrun, l, ht, hclaimed⟩ := compactionClaim_claims hk hc (.inr ⟨hclosed, hsome⟩) hcopies
  have hhead : (t.header k.header).head = h.head + BitVec.ofNat 32 (min 128 h.avail) := by
    rw [ht.stamped.header, State.withLists_header, State.withCount_header hk.align _ (.inl rfl)]
    rfl
  refine ⟨t, hrun, ?_, ?_, ?_⟩
  · rw [ht.stamped.heldAt _ _ hdtMem, State.withLists_heldAt _ _ _ _ hdtMem,
      State.withCount_heldAt_apart hk.align _ (.inl rfl) hdtMem hline hfit, hheld]
  · rw [hhead, hone]
    rfl
  · rw [ht.hwqs, ← hone]
    exact hclaimed

/-- What a claim leaves in memory: the rows copied, and HEAD moved on over the entries. -/
theorem compactionClaim_leaves {u : State} (hhead : ht.head = k.header) :
    let h := s.header k.header
    let r := min 128 h.avail
    (128 ≤ h.avail ∨ (h.closed = true ∧ 0 < h.avail)) → k.copies h 0 r s = some u →
    Nexts (exec (.compactionClaim n) s) fun t =>
      t.mem = (u.physWrite k.header.pa (bytesOfNat 4 (h.head.toNat + r)) (s.keyOf ht)).mem ∧ t.host = s.host ∧
      t.hwqs[n]?.map (·.claimed) = some (some (h.head.toNat, r)) := by
  intro h r hwork hcopies
  obtain ⟨hu, hframe⟩ := HwQueue.copies_keeps hk.plain hcopies
  obtain ⟨t, hrun, l, ht', hclaimed⟩ := compactionClaim_claims hk hc hwork hcopies
  have huMem : (u.place k.header.pa).isMem = true := by rw [hframe]; exact hk.memory
  have hkey : s.keyOf ht = lineKeyBits k.header.pa (u.headKey k.header) := by
    rw [hframe, ← hhead]
    rfl
  have hcount := State.withCount_eq_physWrite hu huMem h.head r
  have huHost : (u.withCount k.header offHead (h.head + BitVec.ofNat 32 r)).host = s.host := by
    rw [State.withCount, State.written_frame, hframe]
  refine ⟨t, hrun, ?_, ht'.stamped.host.trans huHost, ?_⟩
  · rw [hkey, ← hcount]
    exact ht'.stamped.mem
  · rw [ht'.hwqs]
    exact hclaimed

end

end Sys2Proof.Machine

open Sys2Proof Sys2Proof.Machine

/-- Settles O53: the hardware's accesses are the model's own in a state that is plain, what each makes follows from the one
before, and the counts go to their headers alone. -/
theorem queueHardware : Obligations.QueueHardware := by
  unfold Obligations.QueueHardware
  refine ⟨?bypass, ?claimOne, ?claim, ?append⟩
  case bypass =>
    intro s n k ht et st dt hplain hlisted hdie hpast h e i src dst
    refine ⟨queueHardwareRestart_starts hlisted, ?_⟩
    intro _ hstarted halign hwrite hhead hrow hrow4 het hst hsrcLine hmode havail hfreed hfree hdt hdstLine hline
    have hk := HwQueue.runs_of_mayWrite hplain hlisted hdie hpast hstarted halign hwrite hhead
    exact bypassCopy_copies hk hwrite hrow hrow4 het hst hsrcLine hmode havail hfreed hfree hdt hdstLine hline
  case claimOne =>
    intro s n k ht et ot st dt hplain hlisted hdie hpast h e i src dst _ hstarted halign hwrite hhead hrow hrow4 het hst
      hsrcLine hmode hunclaimed havail hclosed hslots houtAlign houtWrite houtRead hcached hfault hesz hunnamed hdt hdstLine
      hline
    have hk := HwQueue.runs_of_mayWrite hplain hlisted hdie hpast hstarted halign hwrite hhead
    have hc : k.Compacts s ht ot := ⟨hwrite, hrow, hrow4, hmode, hunclaimed, hslots, houtAlign, houtWrite, houtRead, hcached,
      hfault, hesz, hunnamed⟩
    exact compactionClaim_copiesOne hk hc het hst hsrcLine havail hclosed hdt hdstLine hline
  case claim =>
    intro s u n k ht ot hplain hlisted hdie hpast h r _ hstarted halign hwrite hhead hrow hrow4 hmode hunclaimed hslots
      houtAlign houtWrite houtRead hcached hfault hesz hunnamed
    have hk := HwQueue.runs_of_mayWrite hplain hlisted hdie hpast hstarted halign hwrite hhead
    have hc : k.Compacts s ht ot := ⟨hwrite, hrow, hrow4, hmode, hunclaimed, hslots, houtAlign, houtWrite, houtRead, hcached,
      hfault, hesz, hunnamed⟩
    exact ⟨compactionClaim_leaves hk hc hhead, compactionClaim_idle hk⟩
  case append =>
    intro s n first r k ht ot dt hplain hlisted hdie hpast h o u _ hstarted halign hmode hclaimed houtAlign hwrite hhead
      houtWrite houtRead hcached hfault hesz hout hroom htail hresvs hfreed hfree hdt hdtHeader hdtOut houtHeader
    have hk := HwQueue.runs_of_mayWrite hplain hlisted hdie hpast hstarted halign hwrite hhead
    have ha : k.Appends s ot := ⟨houtAlign, houtWrite, houtRead, hcached, hfault, hesz, hroom⟩
    exact compactionSlotDone_appends hk ha hmode hclaimed hout htail hresvs hfreed hfree hdt hdtHeader hdtOut houtHeader

end

section
/-! SUPPORT. The fields of a word (Table 8.1), for O1 and O2: each field of a packed word is what was packed there, and a
word is the packing of its fields, in each of the four shapes. -/

namespace Sys2Proof

section

variable (op : BitVec 7) (d a b : BitVec 5) (fa fb xm : Bool) (fn : BitVec 7)

@[simp] theorem fieldOP_packFR : fieldOP (packFR op d a b fa fb xm fn) = op := by
  unfold fieldOP packFR
  grind

@[simp] theorem fieldD_packFR : fieldD (packFR op d a b fa fb xm fn) = d := by
  unfold fieldD packFR
  grind

@[simp] theorem fieldA_packFR : fieldA (packFR op d a b fa fb xm fn) = a := by
  unfold fieldA packFR
  grind

@[simp] theorem fieldB_packFR : fieldB (packFR op d a b fa fb xm fn) = b := by
  unfold fieldB packFR
  grind

@[simp] theorem fieldFA_packFR : fieldFA (packFR op d a b fa fb xm fn) = fa := by
  unfold fieldFA packFR
  grind

@[simp] theorem fieldFB_packFR : fieldFB (packFR op d a b fa fb xm fn) = fb := by
  unfold fieldFB packFR
  grind

@[simp] theorem fieldXM_packFR : fieldXM (packFR op d a b fa fb xm fn) = xm := by
  unfold fieldXM packFR
  grind

@[simp] theorem fieldFN_packFR : fieldFN (packFR op d a b fa fb xm fn) = fn := by
  unfold fieldFN packFR
  grind

theorem packFR_fields (w : IWord) :
    packFR (fieldOP w) (fieldD w) (fieldA w) (fieldB w) (fieldFA w) (fieldFB w) (fieldXM w) (fieldFN w) = w := by
  unfold packFR fieldOP fieldD fieldA fieldB fieldFA fieldFB fieldXM fieldFN
  ext i hi
  grind

variable (imm : BitVec 14) (imm20 : BitVec 20) (off : BitVec 25)

@[simp] theorem fieldOP_packFI : fieldOP (packFI op d a fa imm) = op := by
  unfold fieldOP packFI
  grind

@[simp] theorem fieldD_packFI : fieldD (packFI op d a fa imm) = d := by
  unfold fieldD packFI
  grind

@[simp] theorem fieldA_packFI : fieldA (packFI op d a fa imm) = a := by
  unfold fieldA packFI
  grind

@[simp] theorem fieldFA14_packFI : fieldFA14 (packFI op d a fa imm) = fa := by
  unfold fieldFA14 packFI
  grind

@[simp] theorem fieldImm_packFI : fieldImm (packFI op d a fa imm) = imm := by
  unfold fieldImm packFI
  grind

theorem packFI_fields (w : IWord) : packFI (fieldOP w) (fieldD w) (fieldA w) (fieldFA14 w) (fieldImm w) = w := by
  unfold packFI fieldOP fieldD fieldA fieldFA14 fieldImm
  ext i hi
  grind

@[simp] theorem fieldOP_packFU : fieldOP (packFU op d imm20) = op := by
  unfold fieldOP packFU
  grind

@[simp] theorem fieldD_packFU : fieldD (packFU op d imm20) = d := by
  unfold fieldD packFU
  grind

@[simp] theorem fieldImm20_packFU : fieldImm20 (packFU op d imm20) = imm20 := by
  unfold fieldImm20 packFU
  grind

theorem packFU_fields (w : IWord) : packFU (fieldOP w) (fieldD w) (fieldImm20 w) = w := by
  unfold packFU fieldOP fieldD fieldImm20
  ext i hi
  grind

@[simp] theorem fieldOP_packFJ : fieldOP (packFJ op off) = op := by
  unfold fieldOP packFJ
  grind

@[simp] theorem fieldOff25_packFJ : fieldOff25 (packFJ op off) = off := by
  unfold fieldOff25 packFJ
  grind

theorem packFJ_fields (w : IWord) : packFJ (fieldOP w) (fieldOff25 w) = w := by
  unfold packFJ fieldOP fieldOff25
  ext i hi
  grind

end

/-! ## Words written field by field, from the left -/

theorem packFR_eq_append (op : BitVec 7) (d a b : BitVec 5) (fa fb xm : Bool) (fn : BitVec 7) :
    op ++ d ++ a ++ b ++ BitVec.ofBool fa ++ BitVec.ofBool fb ++ BitVec.ofBool xm ++ fn = packFR op d a b fa fb xm fn := by
  unfold packFR
  ext i hi
  grind

theorem packFI_eq_append (op : BitVec 7) (d a : BitVec 5) (fa : Bool) (imm : BitVec 14) :
    op ++ d ++ a ++ BitVec.ofBool fa ++ imm = packFI op d a fa imm := by
  unfold packFI
  ext i hi
  grind

theorem packFI_eq_append_csr (op : BitVec 7) (d a : BitVec 5) (fa : Bool) (form : BitVec 2) (csr : BitVec 12) :
    op ++ d ++ a ++ BitVec.ofBool fa ++ form ++ csr = packFI op d a fa (form ++ csr) := by
  rw [← packFI_eq_append]
  ext i hi
  grind

theorem packFR_eq_append_unary (op : BitVec 7) (d a b : BitVec 5) (fa : Bool) (fn : BitVec 7) :
    op ++ d ++ a ++ b ++ BitVec.ofBool fa ++ 0#2 ++ fn = packFR op d a b fa false false fn := by
  rw [← packFR_eq_append]
  ext i hi
  grind

theorem packFR_eq_append_plain (op : BitVec 7) (d a b : BitVec 5) (fn : BitVec 7) :
    op ++ d ++ a ++ b ++ 0#3 ++ fn = packFR op d a b false false false fn := by
  rw [← packFR_eq_append]
  ext i hi
  grind

end Sys2Proof

end

section
/-! SUPPORT. The decoder as a relation (R180 to R185, R193, R195), for O1 and O2: a word decodes to an instruction just
where it stands in the instruction's row and the instruction is well formed. -/

namespace Sys2Proof

theorem eq_ofNat_of_toNat {w n : Nat} {x : BitVec w} (h : x.toNat = n) : x = BitVec.ofNat w n := by
  rw [← h, BitVec.ofNat_toNat, BitVec.setWidth_eq]

/-- Table 8.7: the majors of format F-R, with the rows of each. -/
noncomputable def decFR : Nat → Option (BitVec 5 → BitVec 5 → BitVec 5 → Bool → Bool → Bool → BitVec 7 → Option Instr)
  | 0x01 => some decMajor01
  | 0x03 => some decMajor03
  | 0x04 => some decMajor04
  | 0x05 => some decMajor05
  | 0x06 => some decMajor06
  | 0x1b => some decMajor1B
  | 0x2c => some decMajor2C
  | 0x2d => some decMajor2D
  | 0x2e => some decMajor2E
  | 0x30 => some decMajor30
  | 0x31 => some decMajor31
  | 0x32 => some decMajor32
  | 0x33 => some decMajor33
  | 0x34 => some decMajor34
  | 0x35 => some decMajor35
  | 0x36 => some decMajor36
  | 0x37 => some decMajor37
  | 0x38 => some decMajor38
  | 0x39 => some decMajor39
  | 0x3a => some decMajor3A
  | 0x3b => some decMajor3B
  | 0x3c => some decMajor3C
  | 0x3d => some decMajor3D
  | 0x40 => some decMajor40
  | 0x41 => some decMajor41
  | 0x42 => some decMajor42
  | 0x43 => some decMajor43
  | 0x44 => some decMajor44
  | _ => none

/-- Table 8.7: the majors of formats F-I, F-M and F-B, with the rows of each. -/
noncomputable def decFI : Nat → Option (BitVec 5 → BitVec 5 → Bool → BitVec 14 → Option Instr)
  | 0x02 => some decMajor02
  | 0x08 => some decMajor08
  | 0x09 => some decMajor09
  | 0x0a => some decMajor0A
  | 0x0b => some decMajor0B
  | 0x0c => some decMajor0C
  | 0x0d => some decMajor0D
  | 0x0e => some decMajor0E
  | 0x0f => some decMajor0F
  | 0x13 => some decMajor13
  | 0x14 => some fun a b fa off => some (.beq a b fa off)
  | 0x15 => some fun a b fa off => some (.bne a b fa off)
  | 0x16 => some fun a b fa off => some (.blt a b fa off)
  | 0x17 => some fun a b fa off => some (.bge a b fa off)
  | 0x18 => some fun a b fa off => some (.bltn a b fa off)
  | 0x19 => some fun a b fa off => some (.bgen a b fa off)
  | 0x1a => some decMajor1A
  | 0x20 => some decMajor20
  | 0x21 => some decMajor21
  | 0x22 => some decMajor22
  | 0x23 => some decMajor23
  | 0x24 => some decMajor24
  | 0x25 => some decMajor25
  | 0x26 => some decMajor26
  | 0x27 => some decMajor27
  | 0x28 => some decMajor28
  | 0x29 => some decMajor29
  | 0x2a => some decMajor2A
  | 0x2b => some decMajor2B
  | 0x2f => some decMajor2F
  | _ => none

/-- The word stands in the row of the instruction: Table 8.7 with the tables of its majors, as a relation. The three rows
of formats F-U and F-J have a major each. -/
inductive Row : IWord → Instr → Prop
  | fr {op d a b fa fb xm fn dec i} : decFR op.toNat = some dec → dec d a b fa fb xm fn = some i →
      Row (packFR op d a b fa fb xm fn) i
  | fi {op d a fa imm dec i} : decFI op.toNat = some dec → dec d a fa imm = some i → Row (packFI op d a fa imm) i
  | ldhi {w d imm} : w = packFU 0x10#7 d imm → Row w (.ldhi d imm)
  | pcadd {w d imm} : w = packFU 0x11#7 d imm → Row w (.pcadd d imm)
  | jal {w off} : w = packFJ 0x12#7 off → Row w (.jal off)

theorem orReject_eq_ok {r : Option Instr} {i : Instr} : orReject r = .ok i ↔ r = some i := by
  cases r <;> simp [orReject]

theorem decodeRow_of_decFR {w : IWord} {dec} (h : decFR (fieldOP w).toNat = some dec) :
    decodeRow w = orReject
      (dec (fieldD w) (fieldA w) (fieldB w) (fieldFA w) (fieldFB w) (fieldXM w) (fieldFN w)) := by
  unfold decFR at h
  split at h <;> cases h
  all_goals
    next hop =>
    rw [decodeRow, hop]
    rfl

theorem decodeRow_of_decFI {w : IWord} {dec} (h : decFI (fieldOP w).toNat = some dec) :
    decodeRow w = orReject (dec (fieldD w) (fieldA w) (fieldFA14 w) (fieldImm w)) := by
  unfold decFI at h
  split at h <;> cases h
  all_goals
    next hop =>
    rw [decodeRow, hop]
    rfl

/-- The majors that are in neither table of rows are 0x10, 0x11 and 0x12 of formats F-U and F-J, and the reserved ones. -/
theorem row_of_decodeRow {w : IWord} {i : Instr} (h : decodeRow w = .ok i) : Row w i := by
  cases hfr : decFR (fieldOP w).toNat with
  | some dec =>
    rw [decodeRow_of_decFR hfr, orReject_eq_ok] at h
    exact packFR_fields w ▸ .fr hfr h
  | none =>
    cases hfi : decFI (fieldOP w).toNat with
    | some dec =>
      rw [decodeRow_of_decFI hfi, orReject_eq_ok] at h
      exact packFI_fields w ▸ .fi hfi h
    | none =>
      unfold decodeRow at h
      split at h
      case h_15 hop => cases h; exact .ldhi (by rw [← eq_ofNat_of_toNat hop, packFU_fields])
      case h_16 hop => cases h; exact .pcadd (by rw [← eq_ofNat_of_toNat hop, packFU_fields])
      case h_17 hop => cases h; exact .jal (by rw [← eq_ofNat_of_toNat hop, packFJ_fields])
      case h_62 => split at h <;> cases h
      all_goals
        next hop =>
        rw [hop] at hfr hfi
        cases hfr <;> cases hfi

theorem Row.decodeRow_eq {w : IWord} {i : Instr} (h : Row w i) : decodeRow w = .ok i := by
  cases h with
  | fr hdec h => rw [decodeRow_of_decFR (by simpa using hdec)]; simpa using orReject_eq_ok.2 h
  | fi hdec h => rw [decodeRow_of_decFI (by simpa using hdec)]; simpa using orReject_eq_ok.2 h
  | ldhi hw | pcadd hw | jal hw => simp [hw, decodeRow]

theorem decodeRow_eq_ok_iff {w : IWord} {i : Instr} : decodeRow w = .ok i ↔ Row w i :=
  ⟨row_of_decodeRow, Row.decodeRow_eq⟩

/-- The words of all zeros and of all ones, which R185 takes out first, stand in no row. -/
theorem decode_eq_ok_iff {w : IWord} {i : Instr} : decode w = .ok i ↔ Row w i ∧ i.wf = true := by
  rw [← decodeRow_eq_ok_iff, decode]
  split
  case isTrue h =>
    rcases h with rfl | rfl
    · exact iff_of_false nofun fun h => nomatch h.1
    · exact iff_of_false nofun fun h => nomatch h.1
  case isFalse =>
    cases hrow : decodeRow w with
    | error r => simp
    | ok j =>
      by_cases hwf : j.wf = true
      · simp only [hwf, if_true, Except.ok.injEq]
        exact ⟨fun h => ⟨h, h ▸ hwf⟩, And.left⟩
      · simp only [hwf]
        refine iff_of_false nofun ?_
        rintro ⟨⟨⟩, hi⟩
        exact hwf hi

end Sys2Proof

end

section
/-! SUPPORT. The word of an instruction stands in the instruction's row (the first half of O2). -/

namespace Sys2Proof

/-! ## The parts of B and FN that hold operands (R180) -/

theorem typeField_fields (ty : BitVec 4) : (0#1 ++ ty).getLsbD 4 = false ∧ (0#1 ++ ty).extractLsb' 0 4 = ty := by
  decide +revert

theorem vsetvli_fields (blen : BitVec 3) (sat : Bool) :
    let fn : BitVec 7 := 1#1 ++ (blen ++ (BitVec.ofBool sat ++ 0#2))
    fn.getLsbD 6 = true ∧ fn.extractLsb' 0 2 = 0 ∧ fn.extractLsb' 3 3 = blen ∧ fn.getLsbD 2 = sat := by
  decide +revert

theorem acq_fields (n scope : BitVec 3) (x : BitVec 1) :
    let fn : BitVec 7 := n ++ (scope ++ x)
    fn.extractLsb' 4 3 = n ∧ fn.extractLsb' 1 3 = scope ∧ fn.getLsbD 0 = x.getLsbD 0 := by
  decide +revert

theorem rel_fields (n : BitVec 3) (rel : Bool) (scope : BitVec 3) :
    let fn : BitVec 7 := n ++ (BitVec.ofBool rel ++ scope)
    fn.extractLsb' 4 3 = n ∧ fn.getLsbD 3 = rel ∧ fn.extractLsb' 0 3 = scope := by
  decide +revert

theorem vbq_fields (src : BitVec 2) (bank : Bool) :
    let fn : BitVec 7 := 3#3 ++ (0#1 ++ (src ++ BitVec.ofBool bank))
    fn.extractLsb' 4 3 = 3#3 ∧ fn.getLsbD 3 = false ∧ fn.extractLsb' 1 2 = src ∧ fn.getLsbD 0 = bank := by
  decide +revert

/-! ## Every instruction -/

/-- The instruction words by what their row reads: the rows of formats F-U and F-J, those of F-I, F-M and F-B as a whole
or with a part of IMM, those of F-R with a part of B, D or FN, and all the others of F-R, which take their fields whole. -/
theorem row_encode (i : Instr) (h : i.hasWord = true) : Row (encode i) i := by
  cases i
  case ldhi => exact .ldhi rfl
  case pcadd => exact .pcadd rfl
  case jal => exact .jal rfl
  case addi | andi | ori | xori | slti | jalr | beq | bne | blt | bge | bltn | bgen | loop | ldb | ldbn | ldh | ldhn | ldw
      | ldwn | ldd | stb | sth | stw | std | pfR | pfS | pfW | pfDrop =>
    exact .fi rfl rfl
  case csrrw | csrrs | csrrc | slli | srli | srai | ldbAcq | ldbnAcq | ldhAcq | ldhnAcq | ldwAcq | ldwnAcq | lddAcq | stbRel
      | sthRel | stwRel | stdRel =>
    refine .fi rfl ?_
    simp only [decMajor02, decMajor0C, decMajor0D, decMajor0E, decMajor2B]
    rw [BitVec.extractLsb'_append_eq_left, BitVec.extractLsb'_append_eq_right]
    rfl
  case amoSwapW | amoSwapD | amoCasW | amoCasD | amoAddW | amoAddD | amoAndW | amoAndD | amoOrW | amoOrD | amoXorW | amoXorD
      | amoMinW | amoMinD | amoMaxW | amoMaxD | amoMinnW | amoMinnD | amoMaxnW | amoMaxnD | amoFaddS | amoFmaxS | amoFminS =>
    refine .fr (dec := decMajor2C) rfl ?_
    rw [decMajor2C, BitVec.extractLsb'_append_eq_left, BitVec.extractLsb'_append_eq_right]
    rfl
  case vtraise =>
    refine .fr (dec := decMajor3D) rfl ?_
    rw [decMajor3D, BitVec.extractLsb'_append_eq_left, BitVec.extractLsb'_append_eq_right]
    rfl
  case vsetvli _ _ ty _ blen sat =>
    obtain ⟨h4, hty⟩ := typeField_fields ty
    obtain ⟨h6, h0, hblen, hsat⟩ := vsetvli_fields blen sat
    refine .fr (dec := decMajor30) rfl ?_
    rw [decMajor30, h6, h4, hty, h0, hblen, hsat]
    rfl
  case vldX32Acq _ _ _ _ _ scope | vldXAcq _ _ _ _ _ scope | vldX32OAcq _ _ _ _ _ scope | vldXOAcq _ _ _ _ _ scope =>
    refine .fr (dec := decMajor31) rfl ?_
    obtain ⟨hn, hscope, hx⟩ := acq_fields _ scope _
    rw [decMajor31, hn, hscope, hx]
    rfl
  case vhaccX32 _ _ _ _ _ rel scope | vhaccX _ _ _ _ _ rel scope | vscaddX32 _ _ _ _ _ rel scope
      | vscaddX _ _ _ _ _ rel scope =>
    obtain ⟨hn, hrel, hscope⟩ := rel_fields _ rel scope
    refine .fr (dec := decMajor33) rfl ?_
    rw [decMajor33, hn, hrel, hscope]
    rfl
  case vcvt =>
    refine .fr (dec := decMajor37) rfl ?_
    rw [decMajor37, BitVec.extractLsb'_append_eq_left, BitVec.extractLsb'_append_eq_right]
    rfl
  case vbq _ _ _ _ src bank =>
    obtain ⟨hn, hzero, hsrc, hbank⟩ := vbq_fields src bank
    refine .fr (dec := decMajor37) rfl ?_
    rw [decMajor37, hn, hzero, hsrc, hbank]
    rfl
  all_goals cases h <;> exact .fr rfl rfl

end Sys2Proof

end

section
/-! SUPPORT. A word in an instruction's row is the word of that instruction (the second half of O2). -/

namespace Sys2Proof

theorem only_eq_some {ok : Bool} {i j : Instr} : only ok i = some j ↔ ok = true ∧ i = j := by
  cases ok <;> simp [only]

/-! ## B, D and FN from their parts -/

theorem fn_of_vsetvli (fn : BitVec 7) (h6 : fn.getLsbD 6 = true) (h0 : fn.extractLsb' 0 2 = 0) :
    1#1 ++ (fn.extractLsb' 3 3 ++ (BitVec.ofBool (fn.getLsbD 2) ++ 0#2)) = fn := by
  decide +revert

theorem fn_of_acq {fn : BitVec 7} {n : Nat} {x : Bool} (hn : (fn.extractLsb' 4 3).toNat = n) (hx : fn.getLsbD 0 = x) :
    BitVec.ofNat 3 n ++ (fn.extractLsb' 1 3 ++ BitVec.ofBool x) = fn := by
  rw [← eq_ofNat_of_toNat hn, ← hx]
  clear hn hx
  decide +revert

theorem fn_of_rel {fn : BitVec 7} {n : Nat} (hn : (fn.extractLsb' 4 3).toNat = n) :
    BitVec.ofNat 3 n ++ (BitVec.ofBool (fn.getLsbD 3) ++ fn.extractLsb' 0 3) = fn := by
  rw [← eq_ofNat_of_toNat hn]
  clear hn
  decide +revert

theorem fn_of_vcvt {fn : BitVec 7} (hn : (fn.extractLsb' 4 3).toNat = 1) : 1#3 ++ fn.extractLsb' 0 4 = fn := by
  decide +revert

theorem fn_of_vbq {fn : BitVec 7} (hn : (fn.extractLsb' 4 3).toNat = 3) (h3 : fn.getLsbD 3 = false) :
    3#3 ++ (0#1 ++ (fn.extractLsb' 1 2 ++ BitVec.ofBool (fn.getLsbD 0))) = fn := by
  decide +revert

theorem d_of_vtraise (d : BitVec 5) (h : d.extractLsb' 2 3 = 0) : 0#3 ++ d.extractLsb' 0 2 = d := by
  decide +revert

theorem b_of_typeField (b : BitVec 5) (h : b.getLsbD 4 = false) : 0#1 ++ b.extractLsb' 0 4 = b := by
  decide +revert

/-! ## The rows of each major -/

section

variable {op fn : BitVec 7} {d a b : BitVec 5} {fa fb xm : Bool} {imm : BitVec 14} {w : IWord} {ok : Bool} {i j : Instr}

/-- A row whose unused fields must be zero (R182) is the word of its instruction where it is so with those fields at zero. -/
theorem encode_of_only (h : only ok j = some i) (hj : j.hasWord = true) (henc : ok = true → encode j = w) :
    i.hasWord = true ∧ encode i = w := by
  obtain ⟨hok, rfl⟩ := only_eq_some.1 h
  exact ⟨hj, henc hok⟩

theorem encode_of_fnRow {n : Nat} (hfn : fn.toNat = n) (h : only ok j = some i) (hj : j.hasWord = true)
    (henc : ok = true → encode j = packFR op d a b fa fb xm (BitVec.ofNat 7 n)) :
    i.hasWord = true ∧ encode i = packFR op d a b fa fb xm fn :=
  eq_ofNat_of_toNat hfn ▸ encode_of_only h hj henc

theorem encode_of_decMajor2C (h : decMajor2C d a b fa fb xm fn = some i) :
    i.hasWord = true ∧ encode i = packFR 0x2c d a b fa fb xm fn := by
  unfold decMajor2C at h
  split at h <;> try contradiction
  all_goals
    refine encode_of_fnRow ‹_› h rfl fun hok => ?_
    simp only [Bool.and_eq_true, Bool.not_eq_true'] at hok
    obtain ⟨rfl, rfl⟩ := hok
    exact congrArg (packFR 0x2c d a · fa false false _) BitVec.extractLsb'_append_extractLsb'

theorem encode_of_decMajor30 (h : decMajor30 d a b fa fb xm fn = some i) :
    i.hasWord = true ∧ encode i = packFR 0x30 d a b fa fb xm fn := by
  unfold decMajor30 at h
  split at h
  case isTrue h6 =>
    refine encode_of_only h rfl fun hok => ?_
    simp only [Bool.and_eq_true, beq_iff_eq, Bool.not_eq_true'] at hok
    obtain ⟨⟨⟨h4, h0⟩, rfl⟩, rfl⟩ := hok
    exact congrArg₂ (packFR 0x30 d a · fa false false ·) (b_of_typeField b h4) (fn_of_vsetvli fn h6 h0)
  case isFalse =>
    split at h <;> try contradiction
    all_goals
      refine encode_of_fnRow ‹_› h rfl fun hok => ?_
      simp_all only [Bool.and_eq_true, beq_iff_eq, Bool.not_eq_true']
      rfl

theorem encode_of_acq {x : Bool} {n : Nat} (hn : (fn.extractLsb' 4 3).toNat = n) (hx : fn.getLsbD 0 = x)
    (h : only (!xm) j = some i) (hj : j.hasWord = true)
    (henc : encode j = packFR op d a b fa fb false (BitVec.ofNat 3 n ++ (fn.extractLsb' 1 3 ++ BitVec.ofBool x))) :
    i.hasWord = true ∧ encode i = packFR op d a b fa fb xm fn :=
  encode_of_only h hj fun hok => by
    rw [Bool.not_eq_true'] at hok
    rw [henc, fn_of_acq hn hx, hok]

theorem encode_of_decMajor31 (h : decMajor31 d a b fa fb xm fn = some i) :
    i.hasWord = true ∧ encode i = packFR 0x31 d a b fa fb xm fn := by
  unfold decMajor31 at h
  split at h
  case h_3 =>
    split at h <;> try contradiction
    all_goals
      refine encode_of_fnRow ‹_› h rfl fun hok => ?_
      simp_all only [Bool.and_eq_true, beq_iff_eq, Bool.not_eq_true']
      rfl
  all_goals
    rename_i hn
    split at h
    · next hx => exact encode_of_acq hn hx h rfl rfl
    · next hx => exact encode_of_acq hn (Bool.eq_false_of_not_eq_true hx) h rfl rfl

theorem encode_of_decMajor33 (h : decMajor33 d a b fa fb xm fn = some i) :
    i.hasWord = true ∧ encode i = packFR 0x33 d a b fa fb xm fn := by
  unfold decMajor33 at h
  split at h
  case h_5 =>
    split at h <;> try contradiction
    all_goals
      refine encode_of_fnRow ‹_› h rfl fun hok => ?_
      simp_all only [Bool.and_eq_true, beq_iff_eq, Bool.not_eq_true']
      rfl
  all_goals
    next hn =>
    refine encode_of_only h rfl fun hok => ?_
    rw [Bool.not_eq_true'] at hok
    exact congrArg₂ (packFR 0x33 d a b fa fb) hok.symm (fn_of_rel hn)

theorem encode_of_decMajor37 (h : decMajor37 d a b fa fb xm fn = some i) :
    i.hasWord = true ∧ encode i = packFR 0x37 d a b fa fb xm fn := by
  unfold decMajor37 at h
  split at h
  case h_1 hn =>
    refine encode_of_only h rfl fun hok => ?_
    simp only [Bool.and_eq_true, beq_iff_eq, Bool.not_eq_true'] at hok
    obtain ⟨rfl, rfl⟩ := hok
    exact congrArg (packFR 0x37 d a 0 fa false xm) (fn_of_vcvt hn)
  case h_2 hn =>
    refine encode_of_only h rfl fun hok => ?_
    simp only [Bool.and_eq_true, beq_iff_eq, Bool.not_eq_true'] at hok
    obtain ⟨⟨h3, rfl⟩, rfl⟩ := hok
    exact congrArg (packFR 0x37 d a 0 fa false xm) (fn_of_vbq hn h3)
  case h_3 =>
    split at h <;> try contradiction
    all_goals
      refine encode_of_fnRow ‹_› h rfl fun hok => ?_
      simp_all only [Bool.and_eq_true, beq_iff_eq, Bool.not_eq_true']
      rfl

theorem encode_of_decMajor3D (h : decMajor3D d a b fa fb xm fn = some i) :
    i.hasWord = true ∧ encode i = packFR 0x3d d a b fa fb xm fn := by
  unfold decMajor3D at h
  split at h <;> try contradiction
  case h_3 hfn =>
    refine encode_of_fnRow hfn h rfl fun hok => ?_
    simp only [Bool.and_eq_true, beq_iff_eq, Bool.not_eq_true'] at hok
    obtain ⟨⟨⟨hd, rfl⟩, rfl⟩, rfl⟩ := hok
    exact congrArg (packFR 0x3d · a 0 fa false false 2) (d_of_vtraise d hd)
  all_goals
    refine encode_of_fnRow ‹_› h rfl fun hok => ?_
    simp_all only [Bool.and_eq_true, beq_iff_eq, Bool.not_eq_true']
    rfl

/-- The majors of format F-R: those with operands in a part of a field each by its own lemma, the others row by row. -/
theorem encode_of_decFR {n : Nat} {dec} (hdec : decFR n = some dec) (h : dec d a b fa fb xm fn = some i) :
    i.hasWord = true ∧ encode i = packFR (BitVec.ofNat 7 n) d a b fa fb xm fn := by
  unfold decFR at hdec
  split at hdec <;> cases hdec
  case h_7 => exact encode_of_decMajor2C h
  case h_10 => exact encode_of_decMajor30 h
  case h_11 => exact encode_of_decMajor31 h
  case h_13 => exact encode_of_decMajor33 h
  case h_17 => exact encode_of_decMajor37 h
  case h_23 => exact encode_of_decMajor3D h
  all_goals
    simp only [decMajor01, decMajor03, decMajor04, decMajor05, decMajor06, decMajor1B, decMajor2D, decMajor2E, decMajor32,
      decMajor34, decMajor35, decMajor36, decMajor38, decMajor39, decMajor3A, decMajor3B, decMajor3C, decMajor40, decMajor41,
      decMajor42, decMajor43, decMajor44] at h
    split at h <;> try contradiction
  all_goals
    refine encode_of_fnRow ‹_› h rfl fun hok => ?_
    simp_all only [Bool.and_eq_true, beq_iff_eq, Bool.not_eq_true']
    rfl

theorem encode_of_decMajor02 (h : decMajor02 d a fa imm = some i) :
    i.hasWord = true ∧ encode i = packFI 0x02 d a fa imm := by
  unfold decMajor02 at h
  split at h <;> cases h
  all_goals
    next hn =>
    refine ⟨rfl, congrArg (packFI 0x02 d a fa) (?_ : _ ++ _ = imm)⟩
    rw [← eq_ofNat_of_toNat hn, BitVec.extractLsb'_append_extractLsb']

theorem encode_of_decMajor2B (h : decMajor2B d a fa imm = some i) :
    i.hasWord = true ∧ encode i = packFI 0x2b d a fa imm := by
  unfold decMajor2B at h
  split at h <;> cases h
  all_goals
    next hn =>
    refine ⟨rfl, congrArg (packFI 0x2b d a fa) (?_ : _ ++ _ = imm)⟩
    rw [← eq_ofNat_of_toNat hn, BitVec.extractLsb'_append_extractLsb']

theorem encode_of_decMajor2F (h : decMajor2F d a fa imm = some i) :
    i.hasWord = true ∧ encode i = packFI 0x2f d a fa imm := by
  unfold decMajor2F at h
  split at h <;> cases h
  all_goals
    next hd => exact ⟨rfl, congrArg (packFI 0x2f · a fa imm) (eq_ofNat_of_toNat hd).symm⟩

theorem encode_of_decMajor1A (h : decMajor1A d a fa imm = some i) :
    i.hasWord = true ∧ encode i = packFI 0x1a d a fa imm :=
  encode_of_only h rfl fun hd => congrArg (packFI 0x1a · a fa imm) (beq_iff_eq.1 hd).symm

theorem imm_of_shift (h : (imm.extractLsb' 6 8 == 0) = true) : 0#8 ++ imm.extractLsb' 0 6 = imm := by
  have hz : imm.extractLsb' 6 8 = 0#8 := beq_iff_eq.1 h
  rw [← hz, BitVec.extractLsb'_append_extractLsb']

theorem encode_of_decFI {n : Nat} {dec} (hdec : decFI n = some dec) (h : dec d a fa imm = some i) :
    i.hasWord = true ∧ encode i = packFI (BitVec.ofNat 7 n) d a fa imm := by
  unfold decFI at hdec
  split at hdec <;> cases hdec
  case h_1 => exact encode_of_decMajor02 h
  case h_6 | h_7 | h_8 => exact encode_of_only h rfl fun hok => congrArg (packFI _ d a fa) (imm_of_shift hok)
  case h_17 => exact encode_of_decMajor1A h
  case h_29 => exact encode_of_decMajor2B h
  case h_30 => exact encode_of_decMajor2F h
  all_goals cases h; exact ⟨rfl, rfl⟩

end

theorem Row.encode_eq {w : IWord} {i : Instr} (h : Row w i) : i.hasWord = true ∧ encode i = w := by
  cases h with
  | fr hdec h => simpa using encode_of_decFR hdec h
  | fi hdec h => simpa using encode_of_decFI hdec h
  | ldhi hw | pcadd hw | jal hw => exact ⟨rfl, hw.symm⟩

end Sys2Proof

end

section
/-! Decoding and encoding agree (O2), and words written out from the spec (O1). -/

namespace Sys2Proof

theorem decode_of_encode {w : IWord} {i : Instr} (hw : w = encode i) (hword : i.hasWord = true) (hwf : i.wf = true) :
    decode w = .ok i := hw ▸ decode_eq_ok_iff.2 ⟨row_encode i hword, hwf⟩

end Sys2Proof

open Sys2Proof

/-- Settles O2: decoding is standing in the instruction's row; an instruction's word stands in its row, and what stands in
the row is that word. -/
theorem decodeEncode : Obligations.DecodeEncode := by
  unfold Obligations.DecodeEncode
  refine ⟨fun i hword hwf => decode_eq_ok_iff.2 ⟨row_encode i hword, hwf⟩, fun w i h => ?_⟩
  obtain ⟨hrow, hwf⟩ := decode_eq_ok_iff.1 h
  obtain ⟨hword, hw⟩ := hrow.encode_eq
  exact ⟨hword, hwf, hw⟩

/-- Settles O1: each word is the word of its instruction, so that it decodes to it. -/
theorem decodeWords : Obligations.DecodeWords := by
  unfold Obligations.DecodeWords
  refine ⟨decode_of_encode (by decide) rfl rfl, decode_of_encode (by decide) rfl rfl, decode_of_encode (by decide) rfl rfl,
    ?zeros, ?ones, ?families⟩
  case zeros => rw [decode, if_pos (.inl rfl)]; rfl
  case ones => rw [decode, if_pos (.inr rfl)]; rfl
  case families =>
    intro d a b fa fb xm csr imm
    exact ⟨decode_of_encode (packFR_eq_append 0x04 d a b fa fb false 0x00) rfl rfl,
      decode_of_encode (packFI_eq_append_csr 0x02 d a fa 0 csr) rfl rfl,
      decode_of_encode (packFI_eq_append 0x20 d a fa imm) rfl rfl,
      decode_of_encode (packFR_eq_append_unary 0x31 d a 0 fa 0x00) rfl rfl,
      decode_of_encode (packFR_eq_append 0x34 d a b fa fb xm 0x00) rfl rfl,
      decode_of_encode (packFR_eq_append 0x36 d a b fa fb xm 0x00) rfl rfl,
      decode_of_encode (packFR_eq_append 0x3c d a b fa fb false 0x00) rfl rfl,
      decode_of_encode (packFR_eq_append 0x40 d a b fa fb false 0x08) rfl rfl,
      decode_of_encode (packFR_eq_append_unary 0x42 d a 0 fa 0x00) rfl rfl,
      decode_of_encode (packFR_eq_append_plain 0x44 d 0 0 0x04) rfl rfl⟩

end

section
/-! SUPPORT. How an instruction that goes wrong before it has any effect ends (O6, O15): the trap is taken, or the thread
waits, in the state in which it began. -/

namespace Sys2Proof.Machine

theorem finish_trap (cause : Nat) (tval telem tinfo : Word) (s : State) :
    finish (.trap cause tval telem tinfo) s = .next (takesTrap cause tval telem tinfo s) := by
  rw [finish, takesTrap]
  split <;> rfl

theorem liftT_error_atIssue {α : Type} {a : T α} {s : State} {e : Exit} (h : a s.th.begin = .error e s.th.begin) :
    liftT a s.atIssue = .error e s.atIssue := by
  refine (liftT_error (e := e) (t := s.th.begin) (by rw [atIssue_th, h])).trans ?_
  simp [State.atIssue]

theorem run_traps {s : State} {act : M Flow} {cause : Nat} {tval telem tinfo : Word} (hq : s.quiet)
    (h : act s.atIssue = .error (.trap cause tval telem tinfo) s.atIssue) :
    run act s = .next (takesTrap cause tval telem tinfo s.atIssue) := (run_error hq h).trans (finish_trap ..)

theorem runT_error {s : State} {act : T Flow} {e : Exit} (hq : s.quiet) (h : act s.th.begin = .error e s.th.begin) :
    runT act s = finish e s.atIssue := run_error hq (liftT_error_atIssue h)

/-- The state of a thread that waits for registers at the instruction it has begun (R189). -/
def State.awaitsRegs (s : State) : State := s.setTh { s.th.begin with wait := .regs, ended := .waiting }

theorem finish_awaitsRegs (s : State) : finish (.wait .regs) s.atIssue = .next s.awaitsRegs := by
  simp [finish, State.awaitsRegs, State.atIssue]

/-- An empty scalar source ends the instruction that begins, by its policy (R183, R189). -/
theorem finish_rx_empty (r : BitVec 5) (p : Bool) (s : State) :
    finish (if p then .trap 0x0D (w64 r.toNat) 0 0 else .wait .regs) s.atIssue =
      .next (if p then takesTrap 0x0D (w64 r.toNat) 0 0 s.atIssue else s.awaitsRegs) := by
  cases p
  · exact finish_awaitsRegs s
  · exact finish_trap ..

theorem wx_empty {r : BitVec 5} {t : Thread} (v : Word) (h : t.xFull r.toNat = false) :
    wx r v t = .error (.wait .regs) t := by
  simp [wx, h]

theorem addi_sourceEmpty {s : State} (d : BitVec 5) {a : BitVec 5} (fa : Bool) (imm : BitVec 14) (hq : s.quiet)
    (ha : s.th.xFull a.toNat = false) :
    exec (.addi d a fa imm) s = .next (if fa then takesTrap 0x0D (w64 a.toNat) 0 0 s.atIssue else s.awaitsRegs) :=
  (runS_error hq (T.bind_error (rx_empty fa (by simpa using ha)))).trans (finish_rx_empty a fa s)

theorem beq_sourceEmpty {s : State} {a : BitVec 5} (b : BitVec 5) (fa : Bool) (off : BitVec 14) (hq : s.quiet)
    (ha : s.th.xFull a.toNat = false) :
    exec (.beq a b fa off) s = .next (if fa then takesTrap 0x0D (w64 a.toNat) 0 0 s.atIssue else s.awaitsRegs) :=
  (runT_error hq (T.bind_error (rx_empty fa (by simpa using ha)))).trans (finish_rx_empty a fa s)

theorem addi_destinationEmpty {s : State} {d a : BitVec 5} (fa : Bool) (imm : BitVec 14) (hq : s.quiet)
    (ha : s.th.xFull a.toNat = true) (hd : s.th.xFull d.toNat = false) :
    exec (.addi d a fa imm) s = .next s.awaitsRegs := by
  have hwaits : alu1 d a fa (· + simm imm) s.th.begin = .error (.wait .regs) s.th.begin := by
    rw [alu1, T.bind_ok (rx_full fa (by simpa using ha)), wx_empty _ (by simpa using hd)]
  exact (runS_error hq hwaits).trans (finish_awaitsRegs s)

theorem ldhi_destinationEmpty {s : State} {d : BitVec 5} (imm : BitVec 20) (hq : s.quiet) (hd : s.th.xFull d.toNat = false) :
    exec (.ldhi d imm) s = .next s.awaitsRegs :=
  (runS_error hq (wx_empty _ (by simpa using hd))).trans (finish_awaitsRegs s)

end Sys2Proof.Machine

open Sys2Proof Sys2Proof.Machine

/-- Settles O6: the register file by its own rules, and the instructions by the first register that is not full. -/
theorem registerFullness : Obligations.RegisterFullness := by
  unfold Obligations.RegisterFullness
  refine ⟨?file, ?source, ?destination⟩
  case file =>
    intro t v r q
    exact ⟨t.getX_zero, rfl, t.setX_zero v, rfl, t.getX_setX_same v, t.getX_setX_ne v, t.setX_xempty r v, t.setX_v r v,
      t.setX_k r v, t.setX_pc r v⟩
  case source =>
    intro s d a b imm off hq ha
    exact ⟨addi_sourceEmpty d true imm hq ha, addi_sourceEmpty d false imm hq ha, beq_sourceEmpty b true off hq ha,
      beq_sourceEmpty b false off hq ha⟩
  case destination =>
    intro s d a fa imm up hq ha hd
    exact ⟨addi_destinationEmpty fa imm hq (ha a (by simp)) hd, ldhi_destinationEmpty up hq hd⟩

end

section
/-! SUPPORT. What the level does not permit (O15): the trap of an illegal instruction, before anything is read or
written. -/

namespace Sys2Proof.Machine

/-- An illegal instruction (R195): cause 0x01, with the word in `tval`. -/
def State.trapsIllegal (s : State) : Host.Outcome State Fault Refusal :=
  .next (takesTrap 0x01 (w64 s.th.ir.toNat) 0 0 s.atIssue)

theorem illegal_atIssue {α : Type} (s : State) :
    liftT (illegal (α := α)) s.atIssue = .error (.trap 0x01 (w64 s.th.ir.toNat) 0 0) s.atIssue :=
  liftT_error_atIssue (by rw [illegal, Thread.begin_ir])

theorem supervisorOnly_program {s : State} (h : s.th.level = .program) :
    liftT supervisorOnly s.atIssue = .error (.trap 0x01 (w64 s.th.ir.toNat) 0 0) s.atIssue :=
  liftT_error_atIssue (by simp [supervisorOnly, h])

/-- An instruction of supervisor level at program level (R263). -/
theorem run_supervisorOnly {s : State} {act : M Flow} (hq : s.quiet) (h : s.th.level = .program) :
    run (liftT supervisorOnly >>= fun _ => act) s = s.trapsIllegal :=
  run_traps hq (M.bind_error (supervisorOnly_program h))

/-! ## Control registers (R190) -/

theorem csrOp_notAllowed {s : State} {csr : BitVec 12} {writes : Bool} (d a : BitVec 5) (fa : Bool)
    (f : Word → Word → Word) (hq : s.quiet) (h : csrAllowed s.th.level csr.toNat writes = false) :
    run (csrOp d a fa csr writes f) s = s.trapsIllegal := by
  refine run_traps hq ?_
  rw [csrOp, M.bind_ok (getS_apply _)]
  simp only [atIssue_th, Thread.begin_level, h, Bool.not_false, if_true]
  exact M.bind_error (illegal_atIssue s)

theorem csrAllowed_program_write {c : Nat} (h : 0x100 ≤ c) : csrAllowed .program c true = false := by
  simp [csrAllowed, h]

theorem csrAllowed_program_supervisor {c : Nat} (h : 0x300 ≤ c) (writes : Bool) : csrAllowed .program c writes = false := by
  have h' : 0x100 ≤ c := le_trans (by decide) h
  simp [csrAllowed, h, h']

theorem csrAllowed_unassigned {c : Nat} (h : csrAssigned c = false) (l : Level) (writes : Bool) :
    csrAllowed l c writes = false := by
  simp [csrAllowed, h]

end Sys2Proof.Machine

open Sys2Proof Sys2Proof.Machine

/-- Settles O15: what R190 does not permit and what R263 keeps for supervisor level are tested first. -/
theorem privilegeTraps : Obligations.PrivilegeTraps := by
  unfold Obligations.PrivilegeTraps
  refine ⟨?registers, ?instructions⟩
  case registers =>
    intro s d a fa csr hq
    refine ⟨?write, ?writing, ?supervisor, ?unassigned⟩
    case write =>
      intro hl hc
      exact csrOp_notAllowed d a fa _ hq (hl ▸ csrAllowed_program_write hc)
    case writing =>
      intro hl hc ha
      have hnot : csrAllowed s.th.level csr.toNat (a != 0) = false := by
        rw [hl, bne_iff_ne.2 ha, csrAllowed_program_write hc]
      exact ⟨csrOp_notAllowed d a fa _ hq hnot, csrOp_notAllowed d a fa _ hq hnot⟩
    case supervisor =>
      intro hl hc
      have hnot : csrAllowed s.th.level csr.toNat (a != 0) = false := hl ▸ csrAllowed_program_supervisor hc _
      exact ⟨csrOp_notAllowed d a fa _ hq hnot, csrOp_notAllowed d a fa _ hq hnot⟩
    case unassigned =>
      intro hc
      have hnone : csrAssigned csr.toNat = false := by
        simp only [csrAssigned, Bool.or_eq_false_iff, Bool.and_eq_false_iff, decide_eq_false_iff_not]
        omega
      have hnot := csrAllowed_unassigned hnone s.th.level
      exact ⟨csrOp_notAllowed d a fa _ hq (hnot _), csrOp_notAllowed d a fa _ hq (hnot _),
        csrOp_notAllowed d a fa _ hq (hnot _)⟩
  case instructions =>
    intro s d a b scope fa fb hq hl
    exact ⟨run_supervisorOnly hq hl, run_supervisorOnly hq hl, run_supervisorOnly hq hl, run_supervisorOnly hq hl⟩

end

section
/-! SUPPORT. Writes of the control registers (O14, R190, R191): what a `csrrw` with its registers full leaves, for the
registers of a thread, those of its sequencer and its core, and `dxp`, whose write re-forks the lead. -/

namespace Sys2Proof.Machine

/-! ## An exchange -/

/-- The state once a control register is written: one of the thread, or one of its sequencer or core. -/
def State.csrStored (s : State) (c : Nat) (v : Word) : State :=
  if c < 0x300 ∨ c = 0x302 ∨ c = 0x303 then s.setTh (s.th.csrWrite c v) else s.csrWriteShared c v

/-- What a write of `dxp` that takes effect does before it (R39). -/
def State.reforked (s : State) (c : Nat) (v : Word) : State :=
  if decide (c = 0x300) && s.dxpTakes v then s.refork.fork else s

/-- The state once a `csrrw` with its registers full has written `v` to register `c` and the old value to `d` (R276). -/
def State.csrExchanged (s : State) (d : BitVec 5) (c : Nat) (v : Word) : State :=
  let u := ((s.csrRead c).2.reforked c v).csrStored c v
  u.setTh (u.th.setX d.toNat (s.csrRead c).1)

theorem liftT_ok_atIssue {α : Type} {a : T α} {s : State} {x : α} (h : a s.th.begin = .ok x s.th.begin) :
    liftT a s.atIssue = .ok x s.atIssue := by
  refine (liftT_ok (x := x) (t := s.th.begin) (by rw [atIssue_th, h])).trans ?_
  simp [State.atIssue]

theorem csrOp_exchanges {s : State} {d a : BitVec 5} (fa : Bool) {csr : BitVec 12} (hfull : s.fullX [d, a])
    (hallowed : csrAllowed s.th.level csr.toNat true = true)
    (hperformed : csr.toNat = 0x300 → performedM s.atIssue = .ok () s.atIssue) :
    csrOp d a fa csr true (fun _ x => x) s.atIssue = .ok .seq (s.atIssue.csrExchanged d csr.toNat (s.gx a)) := by
  have hx : liftT (rx a fa) s.atIssue = .ok (s.gx a) s.atIssue := by
    refine (liftT_ok_atIssue (rx_full fa (by simpa using hfull a (by simp)))).trans ?_
    rw [Thread.begin_getX]
    rfl
  have hdest : liftT (destX d) s.atIssue = .ok () s.atIssue :=
    liftT_ok_atIssue (destX_full (by simpa using hfull d (by simp)))
  rw [csrOp, M.bind_ok (getS_apply _)]
  simp only [atIssue_th, Thread.begin_level, hallowed, Bool.not_true, Bool.false_eq_true, if_false, Bool.true_and,
    decide_eq_true_eq, if_true]
  rw [M.bind_ok hx, M.bind_ok hdest]
  split
  case isTrue h =>
    rw [M.bind_ok (hperformed h)]
    rfl
  case isFalse => rfl

theorem csrrw_exchanges {s : State} {d a : BitVec 5} (fa : Bool) {csr : BitVec 12} (hq : s.quiet) (hfull : s.fullX [d, a])
    (hallowed : csrAllowed s.th.level csr.toNat true = true)
    (hperformed : csr.toNat = 0x300 → performedM s.atIssue = .ok () s.atIssue) :
    exec (.csrrw d a fa csr) s = .next (retire .seq (s.atIssue.csrExchanged d csr.toNat (s.gx a))) :=
  run_ok hq (csrOp_exchanges fa hfull hallowed hperformed)

/-! ## Reading a register that reading leaves as it is -/

/-- Reading the register settles nothing that is free (log 4, log 16). -/
abbrev csrSteady (c : Nat) : Prop := c ≠ 0x200 ∧ c ≠ 0x211 ∧ c ≠ 0x215 ∧ c ≠ 0x217

theorem csrRead_state (s : State) {c : Nat} (h : csrSteady c) : (s.csrRead c).2 = s := by
  obtain ⟨hcycle, hrefork, hwaste, hwait⟩ := h
  simp only [State.csrRead, hcycle, hrefork, hwaste, hwait, or_self, if_false]

theorem csrRead_atIssue (s : State) {c : Nat} (h : csrSteady c) : (s.atIssue.csrRead c).1 = (s.csrRead c).1 := by
  obtain ⟨hcycle, hrefork, hwaste, hwait⟩ := h
  simp only [State.csrRead, hcycle, hrefork, hwaste, hwait, or_self, if_false]
  simp [State.atIssue]
  rfl

/-- A `csrrw` of such a register at supervisor level that does not re-fork the lead. -/
theorem csrrw_steady {s : State} {d a : BitVec 5} (fa : Bool) {csr : BitVec 12} (hq : s.quiet) (hfull : s.fullX [d, a])
    (hlevel : s.th.level = .supervisor) (hassigned : csrAssigned csr.toNat = true) (hc : csrSteady csr.toNat)
    (hdxp : csr.toNat ≠ 0x300) :
    exec (.csrrw d a fa csr) s =
      .next (retire .seq ((s.atIssue.csrStored csr.toNat (s.gx a)).setTh
        ((s.atIssue.csrStored csr.toNat (s.gx a)).th.setX d.toNat (s.csrRead csr.toNat).1))) := by
  have hsmall : csr.toNat < 0x3C0 := by
    simp only [csrAssigned, Bool.or_eq_true, Bool.and_eq_true, decide_eq_true_eq] at hassigned
    omega
  have hallowed : csrAllowed s.th.level csr.toNat true = true := by simp [csrAllowed, hassigned, hlevel, hsmall]
  rw [csrrw_exchanges fa hq hfull hallowed (fun h => absurd h hdxp), State.csrExchanged, csrRead_state _ hc,
    csrRead_atIssue _ hc, State.reforked, decide_eq_false hdxp]
  rfl

/-- A register of the thread. -/
theorem csrrw_thread {s : State} {d a : BitVec 5} (fa : Bool) {csr : BitVec 12} (hq : s.quiet) (hfull : s.fullX [d, a])
    (hlevel : s.th.level = .supervisor) (hassigned : csrAssigned csr.toNat = true) (hc : csrSteady csr.toNat)
    (hown : csr.toNat < 0x300 ∨ csr.toNat = 0x302 ∨ csr.toNat = 0x303) :
    exec (.csrrw d a fa csr) s =
      .next (s.done fun t => (t.csrWrite csr.toNat (s.gx a)).setX d.toNat (s.csrRead csr.toNat).1) := by
  rw [csrrw_steady fa hq hfull hlevel hassigned hc (by omega), State.csrStored, if_pos hown, State.done]
  simp [State.atIssue]

/-- A register of the sequencer or the core. -/
theorem csrrw_shared {s : State} {d a : BitVec 5} (fa : Bool) {csr : BitVec 12} (hq : s.quiet) (hfull : s.fullX [d, a])
    (hlevel : s.th.level = .supervisor) (hassigned : csrAssigned csr.toNat = true) (hc : csrSteady csr.toNat)
    (hshared : 0x300 < csr.toNat ∧ csr.toNat ≠ 0x302 ∧ csr.toNat ≠ 0x303) :
    exec (.csrrw d a fa csr) s =
      .next (retire .seq ((s.atIssue.csrWriteShared csr.toNat (s.gx a)).setTh
        ((s.atIssue.csrWriteShared csr.toNat (s.gx a)).th.setX d.toNat (s.csrRead csr.toNat).1))) := by
  rw [csrrw_steady fa hq hfull hlevel hassigned hc (by omega), State.csrStored, if_neg (by omega)]

/-! ## Writes of a thread's own registers (R191) -/

theorem Thread.csrWrite_readOnly (t : Thread) (v : Word) {c : Nat}
    (h : c ≤ 0x001 ∨ (0x020 ≤ c ∧ c ≤ 0x025) ∨ (0x200 ≤ c ∧ c ≤ 0x204) ∨ (0x210 ≤ c ∧ c ≤ 0x217)) :
    t.csrWrite c v = t := by
  simp (disch := omega) only [Thread.csrWrite, if_neg]

theorem Thread.csrWrite_vt (t : Thread) (v : Word) {j : Nat} (h : j < 4) :
    t.csrWrite (0x010 + j) v = { t with vt := Sparse.set t.vt j (v &&& 0xFFFFFFFF#64) } := by
  simp (disch := omega) only [Thread.csrWrite, if_neg, if_pos, Nat.add_sub_cancel_left]

theorem Thread.csrWrite_qlen (t : Thread) (v : Word) {j : Nat} (h : j < 8) :
    t.csrWrite (0x018 + j) v =
      if 1024 < v.toNat % 2048 then t else { t with qlen := Sparse.set t.qlen j (v &&& 0x7FF#64) } := by
  simp (disch := omega) only [Thread.csrWrite, if_neg, if_pos, Nat.add_sub_cancel_left]
  rfl

theorem Thread.csrWrite_loop (t : Thread) (v : Word) {e : Nat} (h : e < 6) :
    t.csrWrite (0x040 + 4 * e) v = { t with lecnt := Sparse.set t.lecnt e v } ∧
    t.csrWrite (0x041 + 4 * e) v = { t with leidx := Sparse.set t.leidx e v } ∧
    t.csrWrite (0x042 + 4 * e) v = { t with lebeg := Sparse.set t.lebeg e (v &&& ~~~3#64) } ∧
    t.csrWrite (0x043 + 4 * e) v = { t with leend := Sparse.set t.leend e (v &&& ~~~3#64) } := by
  interval_cases e <;> exact ⟨rfl, rfl, rfl, rfl⟩

/-! ## Supervisor writes of shared registers -/

section

variable {s : State} {d a : BitVec 5} {csr : BitVec 12}

theorem State.setSq_atIssue_setTh (s : State) (q : Seq) (t : Thread) :
    (s.atIssue.setSq q).setTh t = (s.setSq q).setTh t := by
  simp [State.atIssue, State.setTh, State.setSq, State.setSeq]

theorem State.setCp_atIssue_setTh (s : State) (k : CorePair) (t : Thread) :
    (s.atIssue.setCp k).setTh t = (s.setCp k).setTh t := by
  simp [State.atIssue, State.setTh, State.setCp, State.setCore, State.coreNo]

theorem csrrw_sequencer (fa : Bool) (f : Seq → Seq) (hq : s.quiet) (hfull : s.fullX [d, a])
    (hlevel : s.th.level = .supervisor) (hassigned : csrAssigned csr.toNat = true) (hc : csrSteady csr.toNat)
    (hshared : 0x300 < csr.toNat ∧ csr.toNat ≠ 0x302 ∧ csr.toNat ≠ 0x303)
    (hwrite : ∀ u : State, u.csrWriteShared csr.toNat (s.gx a) = u.setSq (f u.sq)) :
    exec (.csrrw d a fa csr) s =
      .next (retire .seq ((s.setSq (f s.sq)).setTh (s.th.begin.setX d.toNat (s.csrRead csr.toNat).1))) := by
  rw [csrrw_shared fa hq hfull hlevel hassigned hc hshared, hwrite, State.setSq_atIssue_setTh, State.setSq_th,
    atIssue_th]
  rfl

theorem csrrw_core (fa : Bool) (f : CorePair → CorePair) (hq : s.quiet) (hfull : s.fullX [d, a])
    (hlevel : s.th.level = .supervisor) (hassigned : csrAssigned csr.toNat = true) (hc : csrSteady csr.toNat)
    (hshared : 0x300 < csr.toNat ∧ csr.toNat ≠ 0x302 ∧ csr.toNat ≠ 0x303)
    (hwrite : ∀ u : State, u.csrWriteShared csr.toNat (s.gx a) = u.setCp (f u.cp)) :
    exec (.csrrw d a fa csr) s =
      .next (retire .seq ((s.setCp (f s.cp)).setTh (s.th.begin.setX d.toNat (s.csrRead csr.toNat).1))) := by
  rw [csrrw_shared fa hq hfull hlevel hassigned hc hshared, hwrite, State.setCp_atIssue_setTh]
  exact congrArg (fun t : Thread => Host.Outcome.next (retire .seq ((s.setCp (f s.cp)).setTh (t.setX _ _)))) (atIssue_th s)

theorem csrrw_sharedReadOnly (fa : Bool) (hq : s.quiet) (hfull : s.fullX [d, a])
    (hlevel : s.th.level = .supervisor) (hcsr : csr.toNat = 0x311 ∨ csr.toNat = 0x318) :
    exec (.csrrw d a fa csr) s = .next (s.done fun t => t.setX d.toNat (s.csrRead csr.toNat).1) := by
  have hsame (u : State) (v : Word) : u.csrWriteShared csr.toNat v = u := by
    simp (disch := omega) only [State.csrWriteShared, if_neg]
  have hassigned : csrAssigned csr.toNat = true := by rcases hcsr with h | h <;> rw [h] <;> rfl
  rw [csrrw_shared fa hq hfull hlevel hassigned (by omega) (by omega), hsame, State.done, atIssue_th]
  simp [State.atIssue]

theorem csrrw_readOnly (fa : Bool) (hq : s.quiet) (hfull : s.fullX [d, a]) (hlevel : s.th.level = .supervisor)
    (hcsr : csr.toNat ∈ [0x000, 0x001, 0x201, 0x202, 0x203, 0x204, 0x210, 0x212, 0x213, 0x214, 0x216]) :
    exec (.csrrw d a fa csr) s = .next (s.done fun t => t.setX d.toNat (s.csrRead csr.toNat).1) := by
  simp only [List.mem_cons, List.not_mem_nil, or_false] at hcsr
  have hassigned : csrAssigned csr.toNat = true := by
    simp only [csrAssigned, Bool.or_eq_true, Bool.and_eq_true, decide_eq_true_eq]
    omega
  have hkeeps (t : Thread) : t.csrWrite csr.toNat (s.gx a) = t := t.csrWrite_readOnly _ (by omega)
  rw [csrrw_thread fa hq hfull hlevel hassigned (by omega) (by omega)]
  simp only [hkeeps]

end

/-! ## Writes of `dxp` (R38, R39) -/

theorem State.dxpTakes_iff (s : State) (v : Word) :
    s.dxpTakes v = true ↔
      v.toNat / 2 ^ 60 = 0 ∨ v.toNat / 2 ^ 60 = 0xA ∨ (v.toNat / 2 ^ 60 = 0xB ∧ s.feature 16 = true) := by
  have hmode : fld v 63 60 = v.toNat / 2 ^ 60 := by
    rw [fld, Nat.shiftRight_eq_div_pow]
    exact Nat.mod_eq_of_lt (by omega)
  simp only [State.dxpTakes, hmode, Bool.or_eq_true, Bool.and_eq_true, decide_eq_true_eq, or_assoc]

theorem performedM_atIssue {s : State} (h : s.settled = true) (hclaiming : s.th.claiming = false) :
    performedM s.atIssue = .ok () s.atIssue := by
  have hnone : s.atIssue.th.claiming = false := by simpa [atIssue_th, Thread.claiming] using hclaiming
  have hsettled : s.atIssue.settled = true := h
  rw [performedM, if_neg (Bool.eq_false_iff.1 hnone), if_pos hsettled]

/-- The state in which a `csrrw` of `dxp` writes: the lead re-forked where the value is one it takes (R39). -/
def State.beforeDxp (s : State) (v : Word) : State := if s.dxpTakes v then s.atIssue.refork.fork else s.atIssue

theorem csrrw_dxp {s : State} {d a : BitVec 5} (fa : Bool) (hq : s.quiet) (hfull : s.fullX [d, a])
    (hlevel : s.th.level = .supervisor) (hsettled : s.settled = true) (hclaiming : s.th.claiming = false) :
    exec (.csrrw d a fa 0x300) s = .next (retire .seq (((s.beforeDxp (s.gx a)).csrWriteShared 0x300 (s.gx a)).setTh
      (((s.beforeDxp (s.gx a)).csrWriteShared 0x300 (s.gx a)).th.setX d.toNat s.sq.dxp))) := by
  rw [csrrw_exchanges fa hq hfull (by rw [hlevel]; rfl) fun _ => performedM_atIssue hsettled hclaiming, State.csrExchanged,
    csrRead_state _ (by decide), csrRead_atIssue _ (by decide)]
  rfl

theorem csrrw_dxp_ignored {s : State} {d a : BitVec 5} (fa : Bool) (hq : s.quiet) (hfull : s.fullX [d, a])
    (hlevel : s.th.level = .supervisor) (hsettled : s.settled = true) (hclaiming : s.th.claiming = false)
    (hmode : s.dxpTakes (s.gx a) = false) :
    exec (.csrrw d a fa 0x300) s = .next (retire .seq ((s.setSq s.sq).setTh (s.th.begin.setX d.toNat s.sq.dxp))) := by
  have hbefore : s.beforeDxp (s.gx a) = s.atIssue := by
    rw [State.beforeDxp, hmode]
    rfl
  have hwrite : s.atIssue.csrWriteShared 0x300 (s.gx a) = s.atIssue.setSq s.sq := by
    have hmode' : s.atIssue.dxpTakes (s.gx a) = false := hmode
    rw [State.csrWriteShared, if_pos rfl, State.dxpWrite, hmode']
    rfl
  rw [csrrw_dxp fa hq hfull hlevel hsettled hclaiming, hbefore, hwrite, State.setSq_atIssue_setTh, State.setSq_th,
    atIssue_th]

/-! ## The lead orphaned (R94, R161) -/

theorem CorePair.waste_frame (c : CorePair) (p : Nat → Bool) :
    c.waste p = { c with prefetched := c.prefetched.filter (!p ·), counters := (c.waste p).counters } := by
  rw [CorePair.waste]
  split
  case isTrue h =>
    have hkept : c.prefetched.filter (!p ·) = c.prefetched := by
      rw [List.length_eq_zero_iff, List.filter_eq_nil_iff] at h
      exact List.filter_eq_self.2 fun n hn => by simpa using h n hn
    rw [hkept]
  case isFalse => rfl

theorem CorePair.waste_counted (c : CorePair) (p : Nat → Bool) :
    Sparse.get 0 (c.waste p).counters 0x215 = Sparse.get 0 c.counters 0x215 + w64 (c.prefetched.filter p).length := by
  rw [CorePair.waste]
  split
  case isTrue h => rw [h, w64, BitVec.add_zero]
  case isFalse => exact Sparse.get_set_same _ _ _ _

theorem CorePair.waste_counters_ne (c : CorePair) (p : Nat → Bool) {n : Nat} (h : n ≠ 0x215) :
    Sparse.get 0 (c.waste p).counters n = Sparse.get 0 c.counters n := by
  rw [CorePair.waste]
  split
  case isTrue => rfl
  case isFalse => exact Sparse.get_set_ne _ _ _ h

/-- The lines that a lead has outstanding. -/
def CorePair.leadsOut (c : CorePair) (n : Nat) : Bool := c.leadOut.any fun p => lineOf p.1 = n

/-- The core after a counted re-fork of its lead, where none of what it has outstanding has arrived. -/
def CorePair.reforked (c : CorePair) : CorePair :=
  CorePair.waste { c with counters := Sparse.set c.counters 0x211 (Sparse.get 0 c.counters 0x211 + 1) } c.leadsOut

theorem State.setCp_cp (s : State) (k : CorePair) : (s.setCp k).cp = k := Sparse.get_set_same _ _ _ _

theorem State.setCp_th (s : State) (k : CorePair) : (s.setCp k).th = s.th := rfl

theorem State.setCp_setCp (s : State) (k k' : CorePair) : (s.setCp k).setCp k' = s.setCp k' := by
  simp [State.setCp, State.setCore, State.coreNo]

/-- A copy that stands at the die's slices is a line that has arrived. -/
theorem State.refork_of_noCopies {s : State} (h : (s.die s.dieNo).copies = []) : s.refork = s.setCp s.cp.reforked := by
  have hnone (k : CorePair) : ((s.setCp k).die (s.setCp k).dieNo).copies = [] := h
  rw [State.refork, State.bump, State.orphanLead]
  simp only [hnone, List.any_nil, Bool.not_false, Bool.and_true, State.setCp_cp, State.setCp_setCp]
  rfl

theorem State.copies_of_plain {s : State} (h : s.plain) : (s.die s.dieNo).copies = [] := by
  have hdie := State.dieNo_lt_of_plain h
  obtain ⟨-, -, -, -, -, hdies, -⟩ := h
  obtain ⟨-, hcopies, -⟩ := hdies s.dieNo hdie
  exact hcopies

/-! ## A write of `dxp` that takes effect -/

/-- The state in which such a `csrrw` retires: the lead re-forked and the register written. -/
def State.dxpSet (s : State) (v : Word) : State :=
  ((s.atIssue.setCp s.cp.reforked).fork).setSq { s.sq with dxp := v &&& ~~~(1#64 <<< 47) }

theorem State.dxpSet_sq (s : State) (v : Word) : (s.dxpSet v).sq = { s.sq with dxp := v &&& ~~~(1#64 <<< 47) } :=
  State.setSq_sq _ _

theorem State.dxpSet_cp (s : State) (v : Word) : (s.dxpSet v).cp = s.cp.reforked := State.setCp_cp s.atIssue _

theorem State.dxpSet_th (s : State) (v : Word) :
    (s.dxpSet v).th = s.th.begin.fork (s.atIssue.setCp s.cp.reforked).counts := by
  rw [State.dxpSet, State.setSq_th, State.fork, State.setTh_th, State.setCp_th, atIssue_th]

theorem State.dxpSet_sameOthers (s : State) (v : Word) (t : Thread) : s.sameOthers ((s.dxpSet v).setTh t) := by
  intro k _ hk
  exact (Sparse.get_set_ne _ _ _ hk).trans ((Sparse.get_set_ne _ _ _ hk).trans (Sparse.get_set_ne _ _ _ hk))

theorem csrrw_dxp_takes {s : State} {d a : BitVec 5} (fa : Bool) (hq : s.quiet) (hfull : s.fullX [d, a])
    (hlevel : s.th.level = .supervisor) (hplain : s.plain) (hclaiming : s.th.claiming = false)
    (hmode : s.dxpTakes (s.gx a) = true) :
    exec (.csrrw d a fa 0x300) s = .next (retire .seq ((s.dxpSet (s.gx a)).setTh
      ((s.dxpSet (s.gx a)).th.setX d.toNat s.sq.dxp))) := by
  have hcopies : (s.atIssue.die s.atIssue.dieNo).copies = [] :=
    (State.copies_of_plain hplain : (s.die s.dieNo).copies = [])
  have hbefore : s.beforeDxp (s.gx a) = (s.atIssue.setCp s.cp.reforked).fork := by
    rw [State.beforeDxp, hmode, if_pos rfl, State.refork_of_noCopies hcopies]
    rfl
  have hwrite : ((s.atIssue.setCp s.cp.reforked).fork).csrWriteShared 0x300 (s.gx a) = s.dxpSet (s.gx a) := by
    have hmode' : ((s.atIssue.setCp s.cp.reforked).fork).dxpTakes (s.gx a) = true := hmode
    rw [State.csrWriteShared, if_pos rfl, State.dxpWrite, hmode']
    rfl
  rw [csrrw_dxp fa hq hfull hlevel (State.settled_of_plain hplain) hclaiming, hbefore, hwrite]

/-- A thread whose instruction forks the lead and writes a register makes no other progress than any that retires. -/
theorem Thread.fork_setX_progress (t : Thread) (counts : Stamp) (r : Nat) (v : Word) (u : Thread) :
    ((t.begin.fork counts).setX r v).progress u = (t.setX r v).progress u := by
  obtain ⟨opStart, opFirst, opLast, opVl, opMask, past, missed, hbegin⟩ := t.begin_frame
  rw [hbegin, Thread.setX, Thread.setX]
  split
  · rfl
  · rfl

theorem Thread.retired_forkSet_progress (t : Thread) (counts : Stamp) (r : Nat) (v : Word) (cap : Nat) :
    let u := ((t.begin.fork counts).setX r v).retired cap .seq
    u = (t.setX r v).progress u := by
  dsimp only
  rw [← Thread.fork_setX_progress, ← Thread.retired_seq_progress]

/-- The core's counters after a re-fork (R163). -/
theorem CorePair.reforked_counters (c : CorePair) :
    Sparse.get 0 c.reforked.counters 0x215 =
      Sparse.get 0 c.counters 0x215 + w64 (c.prefetched.filter c.leadsOut).length ∧
    Sparse.get 0 c.reforked.counters 0x211 = Sparse.get 0 c.counters 0x211 + 1 ∧
    ∀ n, n ≠ 0x211 → n ≠ 0x215 → Sparse.get 0 c.reforked.counters n = Sparse.get 0 c.counters n := by
  refine ⟨?_, ?_, fun n hrefork hwaste => ?_⟩
  · rw [CorePair.reforked, CorePair.waste_counted, Sparse.get_set_ne _ _ _ (by decide)]
  · rw [CorePair.reforked, CorePair.waste_counters_ne _ _ (by decide), Sparse.get_set_same]
  · rw [CorePair.reforked, CorePair.waste_counters_ne _ _ hwaste, Sparse.get_set_ne _ _ _ hrefork]

theorem retire_seq_setTh (s : State) (t : Thread) :
    retire .seq (s.setTh t) = s.setTh (t.retired s.sq.histCap .seq) := by
  rw [retire_seq, State.setTh_th, State.setTh_setTh, State.setTh_sq]

end Sys2Proof.Machine

open Sys2Proof Sys2Proof.Machine

/-- Settles O14: the writes of a thread's registers by their rows; the others by what their number is written to; and
`dxp` by whether it takes the value. -/
theorem csrFields : Obligations.CsrFields := by
  unfold Obligations.CsrFields
  refine ⟨?own, ?supervisor, ?dxp⟩
  case own =>
    intro t v
    have hreadOnly (c : Nat) (_ : c < 0x1000) (hc : c ∈ [0x000, 0x001, 0x020, 0x021, 0x022, 0x023, 0x024, 0x025,
        0x200, 0x201, 0x202, 0x203, 0x204] ∨ (0x210 ≤ c ∧ c ≤ 0x217)) : t.csrWrite c v = t := by
      simp only [List.mem_cons, List.not_mem_nil, or_false] at hc
      exact t.csrWrite_readOnly v (by omega)
    exact ⟨hreadOnly, rfl, rfl, rfl, rfl, rfl, rfl, rfl, rfl, rfl, fun j hj => t.csrWrite_vt v hj,
      fun j hj => t.csrWrite_qlen v hj, fun e he => t.csrWrite_loop v he, rfl, rfl, rfl, rfl, rfl, rfl, rfl, rfl, rfl⟩
  case supervisor =>
    intro s d a fa csr hq hfull hlevel
    refine ⟨csrrw_sequencer fa (fun q => { q with tvec := s.gx a &&& ~~~3#64 }) hq hfull hlevel rfl (by decide) (by decide)
        fun _ => rfl,
      csrrw_thread fa hq hfull hlevel rfl (by decide) (by decide),
      csrrw_thread fa hq hfull hlevel rfl (by decide) (by decide),
      csrrw_sequencer fa (fun q => { q with tsave := s.gx a &&& ~~~63#64 }) hq hfull hlevel rfl (by decide) (by decide)
        fun _ => rfl,
      csrrw_sequencer fa (fun q => { q with pfwait := s.gx a &&& 0xFFFFFFFF#64 }) hq hfull hlevel rfl (by decide) (by decide)
        fun _ => rfl,
      csrrw_sequencer fa (fun q => { q with boltlim := s.gx a &&& 0xFFFFFFFF#64 }) hq hfull hlevel rfl (by decide) (by decide)
        fun _ => rfl,
      csrrw_core fa (fun k => { k with trcctl :=
        (if (s.gx a).getLsbD 63 then (0 : Word) else k.trcctl &&& (1#64 <<< 63)) ||| (s.gx a &&& 0xF0F#64) }) hq hfull hlevel
        rfl (by decide) (by decide) fun _ => rfl,
      ?control, ?address, fun hcsr => csrrw_readOnly fa hq hfull hlevel hcsr, ?position, ?errors⟩
    case control =>
      intro j hj hcsr
      obtain rfl := eq_ofNat_of_toNat hcsr
      interval_cases j
      · exact csrrw_core fa (fun k => { k with trgctl := Sparse.set k.trgctl 0 (s.gx a &&& 0xF00000000000003F#64) }) hq hfull
          hlevel rfl (by decide) (by decide) fun _ => rfl
      · exact csrrw_core fa (fun k => { k with trgctl := Sparse.set k.trgctl 1 (s.gx a &&& 0xF00000000000003F#64) }) hq hfull
          hlevel rfl (by decide) (by decide) fun _ => rfl
    case address =>
      intro j hj hcsr
      obtain rfl := eq_ofNat_of_toNat hcsr
      interval_cases j
      · exact csrrw_core fa (fun k => { k with trgaddr := Sparse.set k.trgaddr 0 (s.gx a) }) hq hfull hlevel rfl (by decide)
          (by decide) fun _ => rfl
      · exact csrrw_core fa (fun k => { k with trgaddr := Sparse.set k.trgaddr 1 (s.gx a) }) hq hfull hlevel rfl (by decide)
          (by decide) fun _ => rfl
    case position =>
      intro hcsr
      obtain rfl := eq_ofNat_of_toNat hcsr
      exact csrrw_sharedReadOnly fa hq hfull hlevel (.inl rfl)
    case errors =>
      intro hcsr
      obtain rfl := eq_ofNat_of_toNat hcsr
      exact csrrw_sharedReadOnly fa hq hfull hlevel (.inr rfl)
  case dxp =>
    intro s d a fa hq hfull hlevel hplain hclaiming
    refine ⟨fun hmode => ?_, fun hmode => ?_⟩
    · have hmode' : s.dxpTakes (s.gx a) = false := Bool.eq_false_iff.2 fun h => hmode ((s.dxpTakes_iff _).1 h)
      exact csrrw_dxp_ignored fa hq hfull hlevel (State.settled_of_plain hplain) hclaiming hmode'
    · refine ⟨_, csrrw_dxp_takes fa hq hfull hlevel hplain hclaiming ((s.dxpTakes_iff _).2 hmode), ?_⟩
      rw [retire_seq_setTh, State.dxpSet_th]
      obtain ⟨hwaste, hrefork, hothers⟩ := s.cp.reforked_counters
      have hcp (t : Thread) : ((s.dxpSet (s.gx a)).setTh t).cp = s.cp.reforked := s.dxpSet_cp (s.gx a)
      have hth := s.th.retired_forkSet_progress (s.atIssue.setCp s.cp.reforked).counts d.toNat s.sq.dxp
      refine ⟨?sq, ?th, ?same, rfl, ?cp, ?waste, ?refork, ?counters, ?walked⟩
      case sq => rw [State.setTh_sq, State.dxpSet_sq]
      case th => rw [State.setTh_th, ← hth]
      case same => exact s.dxpSet_sameOthers _ _
      case cp =>
        rw [hcp]
        exact CorePair.waste_frame _ _
      case waste =>
        rw [hcp]
        exact hwaste
      case refork =>
        rw [hcp]
        exact hrefork
      case counters =>
        intro n _ hn hn'
        rw [hcp]
        exact hothers n hn hn'
      case walked =>
        intro acc va
        rw [State.walked, State.setTh_sq, State.dxpSet_sq, State.setTh_th, hth]
        have hsame : (s.th.setX d.toNat s.sq.dxp).level = s.th.level := Thread.setX_level ..
        exact congrArg (fun l => State.xlate _ _ _ l acc va) hsame

end

section
/-! SUPPORT. The magnitudes of a floating format (Table 10.1, for O60): the bits below the sign in the order of their values,
and the neighbour above each of them. -/

namespace Sys2Proof.Machine

/-- What the formats of Table 10.1 have in common that rounding needs. -/
structure Fmt.Sized (t : Fmt) : Prop where
  fraction_pos : 1 ≤ t.fb
  fraction_le : t.fb ≤ 52
  exponent : 2 ≤ t.eb

theorem Fmt.sized_of_mem {t : Fmt} (h : t ∈ [f64, f32, f16, bf16]) : t.Sized := by
  simp only [List.mem_cons, List.not_mem_nil, or_false] at h
  rcases h with rfl | rfl | rfl | rfl <;> exact ⟨by decide, by decide, by decide⟩

/-! ## Powers of two -/

theorem two_zpow_add_natCast (q : Int) (k : Nat) : (2 : ℝ) ^ (q + k) = (2 ^ k : Nat) * 2 ^ q := by
  rw [zpow_add₀ two_ne_zero, zpow_natCast, mul_comm]
  push_cast
  rfl

theorem two_zpow_eq_two_mul (q : Int) : (2 : ℝ) ^ q = 2 * 2 ^ (q - 1) := by
  rw [← zpow_one_add₀ two_ne_zero, add_sub_cancel]

/-! ## Infinities, zeros and the largest finite value as numbers -/

theorem Fmt.inf_false (t : Fmt) : t.inf false = (2 ^ t.eb - 1) * 2 ^ t.fb := by
  simp [Fmt.inf, Nat.shiftLeft_eq]

theorem Fmt.inf_false_add (t : Fmt) : t.inf false + 2 ^ t.fb = 2 ^ (t.eb + t.fb) := by
  rw [t.inf_false, pow_add, Nat.sub_mul, one_mul]
  exact Nat.sub_add_cancel (Nat.le_mul_of_pos_left _ (Nat.two_pow_pos _))

theorem Fmt.inf_false_lt (t : Fmt) : t.inf false < 2 ^ (t.eb + t.fb) := by
  have := t.inf_false_add
  have := Nat.two_pow_pos t.fb
  omega

theorem Fmt.inf_eq (t : Fmt) (neg : Bool) : t.inf neg = t.inf false + t.zero neg := by
  cases neg with
  | false => rfl
  | true =>
    have hor := Nat.two_pow_add_eq_or_of_lt t.inf_false_lt 1
    rw [mul_one] at hor
    calc t.inf true = t.inf false ||| 2 ^ (t.eb + t.fb) := by simp [Fmt.inf]
      _ = t.inf false + t.zero true := by rw [Nat.or_comm, ← hor, Nat.add_comm]; rfl

theorem Fmt.maxFinite_false (t : Fmt) : t.maxFinite false = t.inf false - 1 := by
  simp [Fmt.maxFinite, Fmt.inf]

theorem Fmt.Sized.inf_pos_even {t : Fmt} (ht : t.Sized) : 0 < t.inf false ∧ t.inf false % 2 = 0 := by
  obtain ⟨hf, -, he⟩ := ht
  have heb : 2 ^ 2 ≤ 2 ^ t.eb := Nat.pow_le_pow_right two_pos he
  rw [t.inf_false]
  refine ⟨Nat.mul_pos (by omega) (Nat.two_pow_pos _), Nat.mod_eq_zero_of_dvd ?_⟩
  exact (dvd_pow_self 2 (by omega)).mul_left _

/-! ## The value of a significand -/

/-- The exponent of the last place of the subnormals. -/
def Fmt.lastPlace (t : Fmt) : Int := t.emin - t.fb

/-- A significand n at the exponent `sh` above that of the subnormals: the bits count on from one binade to the next. -/
theorem Fmt.magnitude_significand (t : Fmt) {n sh : Nat} (hle : n ≤ 2 ^ (t.fb + 1)) (hge : 0 < sh → 2 ^ t.fb ≤ n) :
    t.magnitude (n + sh * 2 ^ t.fb) = n * 2 ^ (t.lastPlace + sh) := by
  have hpos := Nat.two_pow_pos t.fb
  have hdiv : (n + sh * 2 ^ t.fb) / 2 ^ t.fb = n / 2 ^ t.fb + sh := Nat.add_mul_div_right _ _ hpos
  have hmod : (n + sh * 2 ^ t.fb) % 2 ^ t.fb = n % 2 ^ t.fb := Nat.add_mul_mod_self_right ..
  rw [pow_succ] at hle
  simp only [Fmt.magnitude, hdiv, hmod, Fmt.lastPlace, Fmt.emin]
  obtain hlt | heq | ⟨hmid, htop⟩ : n < 2 ^ t.fb ∨ n = 2 ^ t.fb * 2 ∨ 2 ^ t.fb ≤ n ∧ n < 2 ^ t.fb * 2 := by omega
  · have hsh : sh = 0 := by omega
    subst hsh
    simp [Nat.div_eq_of_lt hlt]
  · subst heq
    rw [Nat.mul_div_cancel_left _ hpos, Nat.mul_mod_right, if_neg (by omega)]
    push_cast
    rw [add_zero, mul_assoc, ← zpow_one_add₀ two_ne_zero]
    congr 2
    ring
  · have hone : n / 2 ^ t.fb = 1 := Nat.div_eq_of_lt_le (by omega) (by omega)
    have hn : 2 ^ t.fb + n % 2 ^ t.fb = n := by
      have := Nat.div_add_mod n (2 ^ t.fb)
      rwa [hone, mul_one] at this
    rw [hone, if_neg (by omega), hn]
    push_cast
    congr 2
    ring

/-- Every pattern is a significand at an exponent, and the pattern after it the next significand at that exponent. -/
theorem Fmt.exists_significand (t : Fmt) (x : Nat) :
    ∃ n sh, x = n + sh * 2 ^ t.fb ∧ n < 2 ^ (t.fb + 1) ∧ (0 < sh → 2 ^ t.fb ≤ n) := by
  have hpos := Nat.two_pow_pos t.fb
  have hx := Nat.div_add_mod' x (2 ^ t.fb)
  have hr := Nat.mod_lt x hpos
  rw [pow_succ]
  obtain h0 | ⟨k, hk⟩ : x / 2 ^ t.fb = 0 ∨ ∃ k, x / 2 ^ t.fb = k + 1 := by
    cases x / 2 ^ t.fb with
    | zero => exact .inl rfl
    | succ k => exact .inr ⟨k, rfl⟩
  · exact ⟨x, 0, by omega, by rw [h0] at hx; omega, by omega⟩
  · rw [hk, Nat.succ_mul] at hx
    exact ⟨2 ^ t.fb + x % 2 ^ t.fb, k, by omega, by omega, by omega⟩

theorem Fmt.magnitude_strictMono (t : Fmt) : StrictMono t.magnitude := by
  refine strictMono_nat_of_lt_succ fun x => ?_
  obtain ⟨n, sh, rfl, hlt, hge⟩ := t.exists_significand x
  rw [add_right_comm, t.magnitude_significand hlt.le hge,
    t.magnitude_significand hlt (fun h => (hge h).trans (Nat.le_succ n))]
  exact mul_lt_mul_of_pos_right (by exact_mod_cast n.lt_succ_self) (by positivity)

/-! ## Magnitudes as real numbers -/

/-- The magnitude of bits, as `Fmt.Rounds` speaks of it. -/
noncomputable def Fmt.mag (t : Fmt) (x : Nat) : ℝ := (t.magnitude x : ℚ)

theorem Fmt.mag_significand (t : Fmt) {n sh : Nat} (hle : n ≤ 2 ^ (t.fb + 1)) (hge : 0 < sh → 2 ^ t.fb ≤ n) :
    t.mag (n + sh * 2 ^ t.fb) = n * 2 ^ (t.lastPlace + sh) := by
  rw [Fmt.mag, t.magnitude_significand hle hge]
  push_cast
  rfl

theorem Fmt.mag_strictMono (t : Fmt) : StrictMono t.mag :=
  fun _ _ h => Rat.cast_lt.2 (t.magnitude_strictMono h)

theorem Fmt.mag_lt_iff (t : Fmt) {x y : Nat} : t.mag x < t.mag y ↔ x < y := t.mag_strictMono.lt_iff_lt
theorem Fmt.mag_le_iff (t : Fmt) {x y : Nat} : t.mag x ≤ t.mag y ↔ x ≤ y := t.mag_strictMono.le_iff_le

/-- The smallest subnormal. -/
theorem Fmt.mag_one (t : Fmt) : t.mag 1 = 2 ^ t.lastPlace := by
  have h := t.mag_significand (n := 1) (sh := 0) Nat.one_le_two_pow (by omega)
  simpa using h

/-- The smallest normal. -/
theorem Fmt.mag_least (t : Fmt) : t.mag (2 ^ t.fb) = 2 ^ t.emin := by
  have h := t.mag_significand (n := 2 ^ t.fb) (sh := 0) (Nat.pow_le_pow_right two_pos (Nat.le_succ _)) (by omega)
  rw [Nat.zero_mul, Nat.add_zero, Nat.cast_zero, add_zero, ← two_zpow_add_natCast] at h
  rw [h, Fmt.lastPlace, sub_add_cancel]

/-- The last three patterns below an infinity and the infinity itself are equally far apart. -/
theorem Fmt.Sized.top_step {t : Fmt} (ht : t.Sized) :
    t.mag (t.maxFinite false) - t.mag (t.maxFinite false - 1) = t.mag (t.inf false) - t.mag (t.maxFinite false) := by
  obtain ⟨hf, -, he⟩ := ht
  have hfb : 2 ^ 1 ≤ 2 ^ t.fb := Nat.pow_le_pow_right two_pos hf
  have heb : 2 ^ 2 ≤ 2 ^ t.eb := Nat.pow_le_pow_right two_pos he
  have hinf : t.inf false = 2 ^ (t.fb + 1) + (2 ^ t.eb - 3) * 2 ^ t.fb := by
    rw [t.inf_false, pow_succ, mul_comm (2 ^ t.fb) 2, ← Nat.add_mul]
    congr 1
    omega
  have hsig (n : Nat) (hn : n ≤ 2) := t.mag_significand (n := 2 ^ (t.fb + 1) - n) (sh := 2 ^ t.eb - 3) (Nat.sub_le ..)
    (fun _ => by rw [pow_succ]; omega)
  have hsub (n : Nat) (hn : n ≤ 2) : t.inf false - n = 2 ^ (t.fb + 1) - n + (2 ^ t.eb - 3) * 2 ^ t.fb := by
    rw [hinf, pow_succ]
    omega
  have hcast (n : Nat) (hn : n ≤ 2) : ((2 ^ (t.fb + 1) - n : Nat) : ℝ) = 2 ^ (t.fb + 1) - n := by
    rw [Nat.cast_sub (by rw [pow_succ]; omega)]
    push_cast
    rfl
  have hmag (n : Nat) (hn : n ≤ 2) :
      t.mag (t.inf false - n) = (2 ^ (t.fb + 1) - n) * 2 ^ (t.lastPlace + (2 ^ t.eb - 3 : Nat)) := by
    rw [hsub n hn, hsig n hn, hcast n hn]
  rw [t.maxFinite_false, Nat.sub_sub, hmag 1 (by omega), hmag 2 le_rfl]
  have h0 := hmag 0 (by omega)
  rw [Nat.sub_zero] at h0
  rw [h0]
  push_cast
  ring

end Sys2Proof.Machine
end

section
/-! SUPPORT. What the model's rounding of m × 2^e to a multiple of 2^q does (R243, for O60): it picks one of the two
multiples around the number. The number may be one that m × 2^e only stands for, with a lowest bit for what was cut, as
in quotients and roots. -/

namespace Sys2Proof.Machine

/-! ## Modes (R243) -/

/-- The modes that take the nearest value. -/
def nearMode (mode : Nat) : Bool := mode = 0 || mode = 4

/-- The modes that cut a magnitude, by its sign. -/
def cutMode (mode : Nat) (neg : Bool) : Bool := mode = 1 || (mode = 2 && !neg) || (mode = 3 && neg)

/-- Whether a mode takes the upper of two neighbours, by whether the lower one is odd and where the number lies: above
the middle, in the middle, above the lower one. -/
def takesUpper (mode : Nat) (neg : Bool) (odd above middle inexact : Prop) : Prop :=
  if nearMode mode then above ∨ (middle ∧ (mode = 0 → odd)) else cutMode mode neg = false ∧ inexact

/-- A mode takes b for v, of the neighbours a ≤ v < b. -/
def picksUpper (mode : Nat) (neg : Bool) (odd : Prop) (a b v : ℝ) : Prop :=
  takesUpper mode neg odd ((a + b) / 2 < v) ((a + b) / 2 = v) (a < v)

theorem not_picksUpper_self (mode : Nat) (neg : Bool) (odd : Prop) {a b : ℝ} (h : a < b) :
    ¬ picksUpper mode neg odd a b a := by
  have h1 : ¬ (a + b) / 2 < a := by linarith
  have h2 : ¬ (a + b) / 2 = a := by intro he; linarith
  simp [picksUpper, takesUpper, h1, h2]

theorem picksUpper_of_near {mode : Nat} {neg : Bool} {odd : Prop} {a b v : ℝ} (h : nearMode mode = true) :
    picksUpper mode neg odd a b v ↔ (a + b) / 2 < v ∨ (a + b) / 2 = v ∧ (mode = 0 → odd) := by
  rw [picksUpper, takesUpper, if_pos h]

theorem picksUpper_of_not_near {mode : Nat} {neg : Bool} {odd : Prop} {a b v : ℝ} (h : nearMode mode = false) :
    picksUpper mode neg odd a b v ↔ cutMode mode neg = false ∧ a < v := by
  rw [picksUpper, takesUpper, if_neg (by simp [h])]

theorem not_near_of_cut {mode : Nat} {neg : Bool} (h : cutMode mode neg = true) : nearMode mode = false := by
  simp only [cutMode, nearMode, Bool.or_eq_true, Bool.and_eq_true, decide_eq_true_eq, Bool.or_eq_false_iff,
    decide_eq_false_iff_not] at *
  omega

/-- Over an odd lower neighbour the upper one is picked from a bound on. -/
theorem picksUpper_of_odd {mode : Nat} {neg : Bool} {odd : Prop} {a b v : ℝ} (hodd : odd) (h : v < b) :
    picksUpper mode neg odd a b v ↔
      if nearMode mode then (a + b) / 2 ≤ v else if cutMode mode neg then b ≤ v else a < v := by
  split
  · next hnear => simp only [picksUpper_of_near hnear, le_iff_lt_or_eq, hodd, implies_true, and_true]
  · next hnear =>
    rw [picksUpper_of_not_near (by simpa using hnear)]
    split
    · next hcut => simp [hcut, h]
    · next hcut => simp [hcut]

/-! ## Numbers that m × 2^e stands for -/

/-- m × 2^e lies to the multiples of 2^j × 2^e as v does. -/
def StandsFor (j m : Nat) (e : Int) (v : ℝ) : Prop :=
  ∀ c : Nat, 2 ^ j ∣ c → (m < c → v < c * 2 ^ e) ∧ (m = c → v = c * 2 ^ e) ∧ (c < m → (c : ℝ) * 2 ^ e < v)

theorem standsFor_self (m : Nat) (e : Int) : StandsFor 0 m e (m * 2 ^ e) := by
  have h2 : (0 : ℝ) < 2 ^ e := by positivity
  refine fun c _ => ⟨fun h => ?_, fun h => by rw [h], fun h => ?_⟩
  · exact mul_lt_mul_of_pos_right (Nat.cast_lt.2 h) h2
  · exact mul_lt_mul_of_pos_right (Nat.cast_lt.2 h) h2

/-- A number cut to a natural, with a lowest bit for what was cut. -/
theorem standsFor_sticky {x : ℝ} {k b : Nat} (h : b = 0 ∧ x = k ∨ b = 1 ∧ (k : ℝ) < x ∧ x < k + 1) (e : Int) :
    StandsFor 1 (2 * k + b) e (2 * x * 2 ^ e) := by
  have h2 : (0 : ℝ) < 2 ^ e := by positivity
  rintro c ⟨c, rfl⟩
  push_cast
  simp only [mul_lt_mul_iff_left₀ h2, mul_left_inj' h2.ne', mul_lt_mul_iff_right₀ two_pos,
    mul_right_inj' (two_ne_zero (α := ℝ))]
  obtain ⟨rfl, rfl⟩ | ⟨rfl, hlo, hhi⟩ := h
  · refine ⟨fun h => ?_, fun h => ?_, fun h => ?_⟩
    · exact Nat.cast_lt.2 (by omega)
    · exact congrArg _ (by omega)
    · exact Nat.cast_lt.2 (by omega)
  · refine ⟨fun h => ?_, fun h => by omega, fun h => ?_⟩
    · exact hhi.trans_le (by exact_mod_cast (by omega : k + 1 ≤ c))
    · exact hlo.trans_le' (Nat.cast_le.2 (by omega))

namespace StandsFor

variable {j m : Nat} {e : Int} {v : ℝ} (h : StandsFor j m e v) {c : Nat} (hc : 2 ^ j ∣ c)
include h hc

theorem lt_iff : v < c * 2 ^ e ↔ m < c := by
  obtain ⟨hlt, heq, hgt⟩ := h c hc
  obtain hm | hm | hm := Nat.lt_trichotomy m c
  · exact iff_of_true (hlt hm) hm
  · exact iff_of_false (heq hm).not_lt (by omega)
  · exact iff_of_false (hgt hm).not_gt (by omega)

theorem gt_iff : (c : ℝ) * 2 ^ e < v ↔ c < m := by
  obtain ⟨hlt, heq, hgt⟩ := h c hc
  obtain hm | hm | hm := Nat.lt_trichotomy m c
  · exact iff_of_false (hlt hm).not_gt (by omega)
  · exact iff_of_false (heq hm).not_gt (by omega)
  · exact iff_of_true (hgt hm) hm

theorem eq_iff : (c : ℝ) * 2 ^ e = v ↔ c = m := by
  rw [le_antisymm_iff, ← not_lt, ← not_lt, h.lt_iff hc, h.gt_iff hc, not_lt, not_lt, ← le_antisymm_iff]

theorem le_iff : (c : ℝ) * 2 ^ e ≤ v ↔ c ≤ m := by rw [← not_lt, h.lt_iff hc, not_lt]

end StandsFor

/-! ## The bits of a number -/

theorem bitLen_of_pos {m : Nat} (h : 0 < m) : 0 < bitLen m ∧ 2 ^ (bitLen m - 1) ≤ m ∧ m < 2 ^ bitLen m := by
  rw [bitLen, if_neg h.ne', Nat.add_sub_cancel]
  exact ⟨Nat.succ_pos _, Nat.log2_self_le h.ne', Nat.lt_log2_self⟩

theorem bitLen_eq {m k : Nat} (hlo : 2 ^ k ≤ m) (hhi : m < 2 ^ (k + 1)) : bitLen m = k + 1 := by
  have hm : m ≠ 0 := by have := Nat.two_pow_pos k; omega
  rw [bitLen, if_neg hm, (Nat.log2_eq_iff hm).2 ⟨hlo, hhi⟩]

theorem bitLen_le {m k : Nat} (h : m < 2 ^ k) : bitLen m ≤ k := by
  obtain rfl | hm := Nat.eq_zero_or_pos m
  · exact Nat.zero_le _
  · obtain ⟨-, hlo, -⟩ := bitLen_of_pos hm
    have := (Nat.pow_lt_pow_iff_right one_lt_two).1 (hlo.trans_lt h)
    omega

/-! ## Rounding to a multiple of 2^q -/

/-- `r` is a number v rounded to a multiple of 2^q and whether that is inexact, lo × 2^q being the multiple at or below
v. -/
structure RoundedAt (mode : Nat) (neg : Bool) (q : Int) (v : ℝ) (lo : Nat) (r : Nat × Bool) : Prop where
  lower : (lo : ℝ) * 2 ^ q ≤ v
  upper : v < (lo + 1) * 2 ^ q
  picked : r.1 = lo + 1 ∧ picksUpper mode neg (lo % 2 = 1) (lo * 2 ^ q) ((lo + 1) * 2 ^ q) v ∨
    r.1 = lo ∧ ¬ picksUpper mode neg (lo % 2 = 1) (lo * 2 ^ q) ((lo + 1) * 2 ^ q) v
  inexact : r.2 = true ↔ (lo : ℝ) * 2 ^ q ≠ v

theorem ite_succ_of_iff {b : Bool} {up : Prop} (h : b = true ↔ up) (k : Nat) :
    (if b then k + 1 else k) = k + 1 ∧ up ∨ (if b then k + 1 else k) = k ∧ ¬ up := by
  rw [← h]
  cases b <;> simp

theorem roundShift_picked {mode d : Nat} (hmode : mode < 5) (hd : 0 < d) (neg : Bool) (m : Nat) :
    let up := takesUpper mode neg (m / 2 ^ d % 2 = 1) (2 ^ (d - 1) < m % 2 ^ d) (2 ^ (d - 1) = m % 2 ^ d) (0 < m % 2 ^ d)
    (roundShift mode neg m d).1 = m / 2 ^ d + 1 ∧ up ∨ (roundShift mode neg m d).1 = m / 2 ^ d ∧ ¬ up := by
  rw [roundShift, if_neg hd.ne', Nat.shiftRight_eq_div_pow]
  refine ite_succ_of_iff ?_ _
  have hle := @Nat.le_iff_lt_or_eq (2 ^ (d - 1)) (m % 2 ^ d)
  interval_cases mode <;>
    simp [takesUpper, nearMode, cutMode, hle, Nat.pos_iff_ne_zero, eq_comm (a := m % 2 ^ d)]

theorem roundShift_inexact {d : Nat} (hd : 0 < d) (mode : Nat) (neg : Bool) (m : Nat) :
    (roundShift mode neg m d).2 = true ↔ m % 2 ^ d ≠ 0 := by
  rw [roundShift, if_neg hd.ne']
  simp

/-- A multiple of 2^q is its own rounding. -/
theorem roundedAt_of_le {m : Nat} {e q : Int} (mode : Nat) (neg : Bool) (h : q ≤ e) :
    RoundedAt mode neg q (m * 2 ^ e) (m <<< (e - q).toNat) (roundAt mode neg m e q) := by
  have hlo : ((m <<< (e - q).toNat : Nat) : ℝ) * 2 ^ q = m * 2 ^ e := by
    have he : e = q + (e - q).toNat := by omega
    conv_rhs => rw [he, two_zpow_add_natCast]
    rw [Nat.shiftLeft_eq]
    push_cast
    ring
  have hlt := lt_add_of_pos_right ((m : ℝ) * 2 ^ e) (by positivity : (0 : ℝ) < 2 ^ q)
  rw [roundAt, if_pos h]
  refine ⟨hlo.le, ?_, .inr ⟨rfl, ?_⟩, by simp [hlo]⟩
  · rwa [add_mul, one_mul, hlo]
  · rw [add_mul, one_mul, hlo]
    exact not_picksUpper_self _ _ _ hlt

/-- A number is cut at the multiple below it, and the rest, compared with the middle, decides. -/
theorem roundedAt_of_lt {mode j m d : Nat} {e q : Int} {v : ℝ} (hmode : mode < 5) (neg : Bool) (h : StandsFor j m e v)
    (hq : q = e + (d + 1 : Nat)) (hj : j ≤ d) :
    RoundedAt mode neg q v (m / 2 ^ (d + 1)) (roundAt mode neg m e q) := by
  obtain ⟨lo, hlodef⟩ : ∃ lo, lo = m / 2 ^ (d + 1) := ⟨_, rfl⟩
  have hm := Nat.div_add_mod m (2 ^ (d + 1))
  have hr := Nat.mod_lt m (Nat.two_pow_pos (d + 1))
  have hpick := roundShift_picked hmode d.succ_pos neg m
  have hinex := roundShift_inexact d.succ_pos mode neg m
  simp only [Nat.succ_eq_add_one, Nat.add_sub_cancel, ← hlodef] at hpick hinex
  rw [← hlodef] at hm ⊢
  have hpow : (2 : ℝ) ^ q = (2 ^ (d + 1) : Nat) * 2 ^ e := by rw [hq, two_zpow_add_natCast]
  have ha : (lo : ℝ) * 2 ^ q = (2 ^ (d + 1) * lo : Nat) * 2 ^ e := by
    rw [hpow]
    push_cast
    ring
  have hb : ((lo : ℝ) + 1) * 2 ^ q = (2 ^ (d + 1) * lo + 2 ^ (d + 1) : Nat) * 2 ^ e := by
    rw [hpow]
    push_cast
    ring
  have hmid : ((lo : ℝ) * 2 ^ q + (lo + 1) * 2 ^ q) / 2 = (2 ^ (d + 1) * lo + 2 ^ d : Nat) * 2 ^ e := by
    rw [ha, hb]
    push_cast
    ring
  have hdvd : 2 ^ j ∣ 2 ^ d := pow_dvd_pow 2 hj
  have hdvd' : 2 ^ j ∣ 2 ^ (d + 1) := hdvd.trans (pow_dvd_pow 2 d.le_succ)
  have hdvda : 2 ^ j ∣ 2 ^ (d + 1) * lo := hdvd'.mul_right _
  have hdvdmid : 2 ^ j ∣ 2 ^ (d + 1) * lo + 2 ^ d := hdvda.add hdvd
  have habove : 2 ^ d < m % 2 ^ (d + 1) ↔ 2 ^ (d + 1) * lo + 2 ^ d < m := by omega
  have hmiddle : 2 ^ d = m % 2 ^ (d + 1) ↔ 2 ^ (d + 1) * lo + 2 ^ d = m := by omega
  have hin : 0 < m % 2 ^ (d + 1) ↔ 2 ^ (d + 1) * lo < m := by omega
  have hdq : (q - e).toNat = d + 1 := by omega
  rw [roundAt, if_neg (by omega), hdq]
  refine ⟨?_, ?_, ?_, ?_⟩
  · rw [ha, h.le_iff hdvda]
    omega
  · rw [hb, h.lt_iff (hdvda.add hdvd')]
    omega
  · rw [picksUpper, hmid, ha, h.gt_iff hdvda, h.gt_iff hdvdmid, h.eq_iff hdvdmid, ← habove, ← hmiddle, ← hin]
    exact hpick
  · rw [hinex, ha, ne_eq, ne_eq, h.eq_iff hdvda]
    omega

/-- `roundAt` rounds the number that m × 2^e stands for. -/
theorem roundedAt {mode j m : Nat} {e q : Int} {v : ℝ} (hmode : mode < 5) (neg : Bool) (h : StandsFor j m e v)
    (hq : j = 0 ∨ e + j < q) : ∃ lo, RoundedAt mode neg q v lo (roundAt mode neg m e q) := by
  by_cases hqe : q ≤ e
  · obtain rfl : j = 0 := by omega
    have hv : (m : ℝ) * 2 ^ e = v := (h.eq_iff (one_dvd m)).2 rfl
    exact ⟨_, hv ▸ roundedAt_of_le mode neg hqe⟩
  · exact ⟨_, roundedAt_of_lt (d := (q - e).toNat - 1) hmode neg h (by omega) (by omega)⟩

end Sys2Proof.Machine
end

section
/-! SUPPORT. What R243 and R244 ask of a rounded number (`Fmt.Rounds`, for O60) follows from its being the one of two
neighbouring magnitudes that the mode picks. -/

namespace Sys2Proof.Machine

/-! ## The bounds of overflow and of tininess -/

/-- Rounded with an unbounded exponent the number is above the largest finite one (R243). -/
def Fmt.TooBig (t : Fmt) (mode : Nat) (neg : Bool) (v : ℝ) : Prop :=
  let top := t.mag (t.maxFinite false)
  let step := top - t.mag (t.maxFinite false - 1)
  if nearMode mode then top + step / 2 ≤ v else if cutMode mode neg then top + step ≤ v else top < v

/-- Rounded with an unbounded exponent the number is below the smallest normal one (R244). -/
def Fmt.Tiny (t : Fmt) (mode : Nat) (neg : Bool) (v : ℝ) : Prop :=
  if nearMode mode then v < t.mag (2 ^ t.fb) - t.mag 1 / 4
  else if cutMode mode neg then v < t.mag (2 ^ t.fb) else v ≤ t.mag (2 ^ t.fb) - t.mag 1 / 2

theorem Fmt.not_tiny_of_least_le {t : Fmt} {mode : Nat} {neg : Bool} {v : ℝ} (h : t.mag (2 ^ t.fb) ≤ v) :
    ¬ t.Tiny mode neg v := by
  have hfine : 0 < t.mag 1 := by rw [t.mag_one]; positivity
  rw [Fmt.Tiny]
  split
  · linarith
  · split <;> linarith

/-- Below the last number of the binade under the smallest normal every mode stays below that normal. -/
theorem Fmt.tiny_of_lt {t : Fmt} {mode : Nat} {neg : Bool} {v : ℝ} (h : v < t.mag (2 ^ t.fb) - t.mag 1 / 2) :
    t.Tiny mode neg v := by
  have hfine : 0 < t.mag 1 := by rw [t.mag_one]; positivity
  rw [Fmt.Tiny]
  split
  · linarith
  · split <;> linarith

/-- In the last gap under the smallest normal a number is tiny where the mode does not pick that normal. -/
theorem Fmt.tiny_iff_not_picksUpper {t : Fmt} {mode : Nat} {neg : Bool} {odd : Prop} {v : ℝ} (hodd : odd)
    (h : v < t.mag (2 ^ t.fb)) :
    t.Tiny mode neg v ↔ ¬ picksUpper mode neg odd (t.mag (2 ^ t.fb) - t.mag 1 / 2) (t.mag (2 ^ t.fb)) v := by
  have hmid : (t.mag (2 ^ t.fb) - t.mag 1 / 2 + t.mag (2 ^ t.fb)) / 2 = t.mag (2 ^ t.fb) - t.mag 1 / 4 := by ring
  rw [picksUpper_of_odd hodd h, Fmt.Tiny, hmid]
  split
  · exact not_le.symm
  · split
    · exact not_le.symm
    · exact not_lt.symm

/-- `y` is the one of the neighbours x and x + 1 around v that the mode picks. -/
structure Fmt.Picks (t : Fmt) (mode : Nat) (neg : Bool) (v : ℝ) (x y : Nat) : Prop where
  lower : t.mag x ≤ v
  upper : v < t.mag (x + 1)
  picked : y = x + 1 ∧ picksUpper mode neg (x % 2 = 1) (t.mag x) (t.mag (x + 1)) v ∨
    y = x ∧ ¬ picksUpper mode neg (x % 2 = 1) (t.mag x) (t.mag (x + 1)) v

/-- The patterns on the two sides of a gap. -/
theorem Fmt.mag_le_or_ge (t : Fmt) (x z : Nat) :
    (z ≤ x ∧ t.mag z ≤ t.mag x) ∨ (x + 1 ≤ z ∧ t.mag (x + 1) ≤ t.mag z) := by
  obtain hz | hz := Nat.lt_or_ge x z
  · exact .inr ⟨hz, t.mag_le_iff.2 hz⟩
  · exact .inl ⟨hz, t.mag_le_iff.2 hz⟩

namespace Fmt.Picks

variable {t : Fmt} {mode x y : Nat} {neg : Bool} {v : ℝ} (h : t.Picks mode neg v x y)
include h

theorem eq_or : y = x + 1 ∨ y = x := h.picked.imp And.left And.left

/-- Rounding is exact just where the lower neighbour is the number. -/
theorem mag_eq_iff : t.mag y = v ↔ t.mag x = v := by
  obtain ⟨hlo, hhi, ⟨rfl, hup⟩ | ⟨rfl, -⟩⟩ := h
  · refine iff_of_false hhi.ne' fun he => ?_
    rw [he] at hup
    exact not_picksUpper_self mode neg _ hhi hup
  · rfl

theorem nearest (hnear : nearMode mode = true) (z : Nat) :
    |v - t.mag y| ≤ |v - t.mag z| ∧
      (z ≠ y → |v - t.mag y| = |v - t.mag z| → if mode = 0 then y % 2 = 0 else z < y) := by
  have hz := t.mag_le_or_ge x z
  obtain ⟨hlo, hhi, hpick⟩ := h
  have hbelow : |v - t.mag x| = v - t.mag x := abs_of_nonneg (by linarith)
  have habove : |v - t.mag (x + 1)| = t.mag (x + 1) - v := by rw [abs_sub_comm, abs_of_nonneg (by linarith)]
  rw [picksUpper_of_near hnear] at hpick
  obtain ⟨hle, hmag⟩ | ⟨hge, hmag⟩ := hz
  · rw [abs_of_nonneg (show 0 ≤ v - t.mag z by linarith)]
    obtain ⟨rfl, hup⟩ | ⟨rfl, hdown⟩ := hpick
    · rw [habove]
      refine ⟨by rcases hup with hup | ⟨hup, -⟩ <;> linarith, fun _ he => ?_⟩
      split
      · next h0 =>
        obtain hup | ⟨-, hodd⟩ := hup
        · linarith
        · have := hodd h0
          omega
      · omega
    · rw [hbelow]
      refine ⟨by linarith, fun hne he => ?_⟩
      have := t.mag_lt_iff.2 (lt_of_le_of_ne hle hne)
      linarith
  · rw [abs_sub_comm v (t.mag z), abs_of_nonneg (show 0 ≤ t.mag z - v by linarith)]
    obtain ⟨rfl, hup⟩ | ⟨rfl, hdown⟩ := hpick
    · rw [habove]
      refine ⟨by linarith, fun hne he => ?_⟩
      have := t.mag_lt_iff.2 (lt_of_le_of_ne hge (Ne.symm hne))
      linarith
    · rw [hbelow]
      push Not at hdown
      obtain ⟨hle, htie⟩ := hdown
      refine ⟨by linarith, fun _ he => ?_⟩
      obtain ⟨h0, heven⟩ := htie (by linarith)
      rw [if_pos h0]
      omega

theorem greatest_below (hcut : cutMode mode neg = true) : t.mag y ≤ v ∧ ∀ z, t.mag z ≤ v → z ≤ y := by
  obtain ⟨hlo, hhi, ⟨-, hup⟩ | ⟨rfl, -⟩⟩ := h
  · rw [picksUpper_of_not_near (not_near_of_cut hcut), hcut] at hup
    exact absurd hup.1 (by simp)
  · exact ⟨hlo, fun z hz => Nat.lt_succ_iff.1 (t.mag_lt_iff.1 (hz.trans_lt hhi))⟩

theorem least_above (hnear : nearMode mode = false) (hcut : cutMode mode neg = false) :
    v ≤ t.mag y ∧ ∀ z, v ≤ t.mag z → y ≤ z := by
  obtain ⟨hlo, hhi, hpick⟩ := h
  rw [picksUpper_of_not_near hnear, and_iff_right hcut] at hpick
  obtain ⟨rfl, hup⟩ | ⟨rfl, hdown⟩ := hpick
  · exact ⟨hhi.le, fun z hz => t.mag_lt_iff.1 (hup.trans_le hz)⟩
  · exact ⟨not_lt.1 hdown, fun z hz => t.mag_le_iff.1 (hlo.trans hz)⟩

/-- The number overflows just where the pattern picked is that of an infinity or above it. -/
theorem tooBig_iff (ht : t.Sized) : t.TooBig mode neg v ↔ t.inf false ≤ y := by
  have hstep := ht.top_step
  obtain ⟨hinf, hodd⟩ := ht.inf_pos_even
  have hmax := t.maxFinite_false
  have hlt : t.mag (t.maxFinite false) < t.mag (t.inf false) := t.mag_lt_iff.2 (by omega)
  have hy := h.eq_or
  obtain ⟨hlo, hhi, hpick⟩ := h
  rw [Fmt.TooBig, hstep]
  obtain hx | hx | hx : x + 1 ≤ t.maxFinite false ∨ x = t.maxFinite false ∨ t.inf false ≤ x := by omega
  · have hv := hhi.trans_le (t.mag_le_iff.2 hx)
    refine iff_of_false ?_ (by omega)
    split
    · linarith
    · split <;> linarith
  · have hx1 : x + 1 = t.inf false := by omega
    rw [hx1] at hpick hhi
    have hup := picksUpper_of_odd (mode := mode) (neg := neg) (a := t.mag x) (show x % 2 = 1 by omega) hhi
    have hmid : t.mag x + (t.mag (t.inf false) - t.mag x) / 2 = (t.mag x + t.mag (t.inf false)) / 2 := by ring
    rw [← hx, hmid, add_sub_cancel, ← hup]
    obtain ⟨rfl, hp⟩ | ⟨rfl, hp⟩ := hpick
    · exact iff_of_true hp (by omega)
    · exact iff_of_false hp (by omega)
  · have hv := (t.mag_le_iff.2 hx).trans hlo
    refine iff_of_true ?_ (by omega)
    split
    · linarith
    · split <;> linarith

end Fmt.Picks

/-! ## A number rounded -/

theorem overflowBits_eq (t : Fmt) (mode : Nat) (neg : Bool) :
    overflowBits t mode neg (t.maxFinite false) =
      (if cutMode mode neg then t.maxFinite false else t.inf false) + t.zero neg := by
  have hcut : (mode = 1 ∨ mode = 2 ∧ neg = false ∨ mode = 3 ∧ neg = true) ↔ cutMode mode neg = true := by
    simp [cutMode, or_assoc]
  rw [overflowBits, if_congr hcut rfl rfl, t.inf_eq neg]
  split <;> rfl

/-- The number picked, with the flags of R243 and R244, is the number rounded. -/
theorem Fmt.Picks.rounds {t : Fmt} {mode x y : Nat} {neg : Bool} {v : ℝ} {r : Nat × Nat} (h : t.Picks mode neg v x y)
    (ht : t.Sized) (hover : t.inf false ≤ y → r = (overflowBits t mode neg (t.maxFinite false), 5))
    (hbits : y < t.inf false → r.1 = y + t.zero neg)
    (hexact : y < t.inf false → t.mag x = v → r.2 = 0)
    (htiny : y < t.inf false → t.mag x ≠ v → t.Tiny mode neg v → r.2 = 3)
    (hnormal : y < t.inf false → t.mag x ≠ v → ¬ t.Tiny mode neg v → r.2 = 1) : t.Rounds mode neg v r := by
  have hbig := h.tooBig_iff ht
  obtain hy | hy := Nat.lt_or_ge y (t.inf false)
  · refine ⟨y, hbits hy, fun hb => absurd (hbig.1 hb) (by omega), fun _ =>
      ⟨hy, fun hn z _ => h.nearest hn z, ?_, ?_, ?_, ?_, ?_⟩⟩
    · exact fun hc => ⟨(h.greatest_below hc).1, fun z _ => (h.greatest_below hc).2 z⟩
    · exact fun hn hc => ⟨(h.least_above hn hc).1, fun z _ => (h.least_above hn hc).2 z⟩
    · exact fun he => hexact hy (h.mag_eq_iff.1 he)
    · exact fun hne => htiny hy (mt h.mag_eq_iff.2 hne)
    · exact fun hne => hnormal hy (mt h.mag_eq_iff.2 hne)
  · rw [hover hy]
    exact ⟨_, overflowBits_eq t mode neg, fun _ => ⟨rfl, rfl⟩, fun hb => absurd (hbig.2 hy) hb⟩

end Sys2Proof.Machine
end

section
/-! SUPPORT. The model's rounding to a format (`Fmt.round`, for O60) is that of R243 and R244: where it rounds, the bits it
makes of the significand, and the flags. -/

namespace Sys2Proof.Machine

/-! ## The bits of a significand -/

/-- A significand of at most fb + 1 bits, or the power of two above them, is put at its place by adding the exponent. -/
theorem significandBits_eq {n sh fb : Nat} (hle : n ≤ 2 ^ (fb + 1)) (hge : 0 < sh → 2 ^ fb ≤ n) :
    (if n = 0 then 0 else if bitLen n + sh ≤ fb + 1 then n <<< sh
      else (n <<< (fb + 1 - bitLen n)) >>> (bitLen n - (fb + 1)) + (bitLen n + sh - (fb + 1)) * 2 ^ fb) =
      n + sh * 2 ^ fb := by
  have hpos := Nat.two_pow_pos fb
  have htwo : 2 ^ (fb + 1) = 2 ^ fb * 2 := pow_succ ..
  obtain rfl | hn := Nat.eq_zero_or_pos n
  · have hsh : sh = 0 := by omega
    simp [hsh]
  rw [if_neg hn.ne']
  obtain rfl | hlt := hle.eq_or_lt
  · have hlen : bitLen (2 ^ (fb + 1)) = fb + 1 + 1 :=
      bitLen_eq le_rfl (Nat.pow_lt_pow_right one_lt_two (Nat.lt_succ_self _))
    have hk : fb + 1 + 1 + sh - (fb + 1) = sh + 1 := by omega
    rw [hlen, if_neg (by omega), hk, Nat.sub_eq_zero_of_le (Nat.le_succ _), Nat.add_sub_cancel_left, Nat.shiftLeft_zero,
      Nat.shiftRight_one, htwo, Nat.mul_div_cancel _ two_pos]
    ring
  · obtain rfl | hsh := Nat.eq_zero_or_pos sh
    · rw [Nat.add_zero, if_pos (bitLen_le hlt)]
      simp
    · have hlen : bitLen n = fb + 1 := bitLen_eq (hge hsh) hlt
      have hk : fb + 1 + sh - (fb + 1) = sh := by omega
      rw [hlen, if_neg (by omega), hk]
      simp

/-! ## Where a number is rounded -/

/-- The exponent of the highest bit of m × 2^e. -/
def topPlace (m : Nat) (e : Int) : Int := e + bitLen m - 1

/-- The exponent of the last place of a format for m × 2^e. -/
def Fmt.roundPlace (t : Fmt) (m : Nat) (e : Int) : Int := max (topPlace m e - t.fb) t.lastPlace

/-- Whether the model finds m × 2^e tiny. -/
def Fmt.tinyFlag (t : Fmt) (mode : Nat) (neg : Bool) (m : Nat) (e : Int) : Bool :=
  topPlace m e < t.emin &&
    !(topPlace m e = t.emin - 1 && (roundAt mode neg m e (topPlace m e - t.fb)).1 = 2 ^ (t.fb + 1))

/-- `Fmt.round` answers the bits of the rounded significand, or those of an overflow. -/
theorem Fmt.round_eq {t : Fmt} {m sh : Nat} {e : Int} {r : Nat × Bool} (mode : Nat) (neg : Bool) (hm : 0 < m)
    (hr : roundAt mode neg m e (t.roundPlace m e) = r) (hsh : t.roundPlace m e = t.lastPlace + sh)
    (hle : r.1 ≤ 2 ^ (t.fb + 1)) (hge : 0 < sh → 2 ^ t.fb ≤ r.1) :
    t.round mode neg m e = if t.inf false ≤ r.1 + sh * 2 ^ t.fb then (overflowBits t mode neg (t.maxFinite false), 5)
      else (r.1 + sh * 2 ^ t.fb + t.zero neg,
        (if r.2 then 1 else 0) ||| (if r.2 && t.tinyFlag mode neg m e then 2 else 0)) := by
  have hplace : max (e + (bitLen m : Int) - 1 - (t.fb + 1 - 1 : Nat)) (t.emin - (t.fb + 1 - 1 : Nat)) =
      t.roundPlace m e := rfl
  have hshift : (t.roundPlace m e - (t.emin - t.fb)).toNat = sh := by
    rw [hsh, Fmt.lastPlace, add_sub_cancel_left, Int.toNat_natCast]
  have hinf : (2 ^ t.eb - 1) <<< t.fb = t.inf false := by rw [t.inf_false, Nat.shiftLeft_eq]
  have hmax : t.inf false - 2 ^ (t.fb + 1 - (t.fb + 1)) = t.maxFinite false := by
    rw [t.maxFinite_false, Nat.sub_self, pow_zero]
  rw [Fmt.round, roundTo, if_neg hm.ne']
  simp only [hplace, hr, hshift, significandBits_eq hle hge, hinf, hmax]
  rfl

/-! ## The number between its neighbours -/

section
variable {t : Fmt} {mode j m : Nat} {e : Int} {v : ℝ}

/-- A number that m × 2^e stands for closely enough for a format: it is m × 2^e, or m has a lowest bit for what was cut
below two bits more than the format's significand. -/
def Fmt.Fits (t : Fmt) (j m : Nat) (e : Int) (v : ℝ) : Prop :=
  0 < m ∧ StandsFor j m e v ∧ (j = 0 ∨ j = 1 ∧ 2 ^ (t.fb + 2) ≤ m)

theorem Fmt.Fits.bounds (h : t.Fits j m e v) : 2 ^ topPlace m e ≤ v ∧ v < 2 ^ (topPlace m e + 1) := by
  obtain ⟨hm, hst, hj⟩ := h
  obtain ⟨hlen, hlo, hhi⟩ := bitLen_of_pos hm
  have hjle : j ≤ bitLen m - 1 := by
    obtain rfl | ⟨rfl, hbig⟩ := hj
    · exact Nat.zero_le _
    · have := (Nat.pow_lt_pow_iff_right one_lt_two).1 (hbig.trans_lt hhi)
      omega
  have hl := (hst.le_iff (pow_dvd_pow 2 hjle)).2 hlo
  have hu := (hst.lt_iff (pow_dvd_pow 2 (hjle.trans (Nat.sub_le ..)))).2 hhi
  rw [← two_zpow_add_natCast] at hl hu
  have hk : e + (bitLen m - 1 : Nat) = topPlace m e := by rw [topPlace]; omega
  have hk' : e + (bitLen m : Nat) = topPlace m e + 1 := by rw [topPlace]; omega
  exact ⟨hk ▸ hl, hk' ▸ hu⟩

/-- A number that fits is rounded at the format's last place, or at any above. -/
theorem Fmt.Fits.roundedAt (h : t.Fits j m e v) (hmode : mode < 5) (neg : Bool) {q : Int}
    (hq : topPlace m e - t.fb ≤ q) : ∃ lo, RoundedAt mode neg q v lo (roundAt mode neg m e q) := by
  obtain ⟨hm, hst, hj⟩ := h
  refine Machine.roundedAt hmode neg hst (hj.imp_right ?_)
  rintro ⟨rfl, hbig⟩
  obtain ⟨-, -, hhi⟩ := bitLen_of_pos hm
  have := (Nat.pow_lt_pow_iff_right one_lt_two).1 (hbig.trans_lt hhi)
  rw [topPlace] at hq
  omega

/-- The place of rounding is that of the subnormals, or the significand has its highest bit. -/
theorem Fmt.Fits.significand (h : t.Fits j m e v) {lo : Nat} (hlo : (lo : ℝ) * 2 ^ t.roundPlace m e ≤ v)
    (hhi : v < (lo + 1) * 2 ^ t.roundPlace m e) :
    ∃ sh : Nat, t.roundPlace m e = t.lastPlace + sh ∧ lo < 2 ^ (t.fb + 1) ∧ (0 < sh → 2 ^ t.fb ≤ lo) := by
  obtain ⟨hbelow, habove⟩ := h.bounds
  have hplace : t.roundPlace m e = max (topPlace m e - t.fb) t.lastPlace := rfl
  have h2 : (0 : ℝ) < 2 ^ t.roundPlace m e := by positivity
  refine ⟨(t.roundPlace m e - t.lastPlace).toNat, by omega, ?_, fun hsh => ?_⟩
  · have hq : topPlace m e + 1 ≤ t.roundPlace m e + (t.fb + 1 : Nat) := by
      push_cast
      omega
    have hv := hlo.trans_lt (habove.trans_le (zpow_le_zpow_right₀ one_le_two hq))
    rw [two_zpow_add_natCast] at hv
    exact_mod_cast lt_of_mul_lt_mul_right hv h2.le
  · have hq : t.roundPlace m e + (t.fb : Nat) = topPlace m e := by omega
    have hv := hbelow.trans_lt hhi
    rw [← hq, two_zpow_add_natCast] at hv
    have : 2 ^ t.fb < lo + 1 := by exact_mod_cast lt_of_mul_lt_mul_right hv h2.le
    omega

/-- A number rounded at a significand's place is picked from the two patterns around it. -/
theorem RoundedAt.picks {neg : Bool} {q : Int} {lo sh : Nat} {r : Nat × Bool} (h : RoundedAt mode neg q v lo r)
    (hf : 1 ≤ t.fb) (hq : q = t.lastPlace + sh) (hlt : lo < 2 ^ (t.fb + 1)) (hge : 0 < sh → 2 ^ t.fb ≤ lo) :
    t.Picks mode neg v (lo + sh * 2 ^ t.fb) (r.1 + sh * 2 ^ t.fb) ∧ (r.2 = true ↔ t.mag (lo + sh * 2 ^ t.fb) ≠ v) := by
  obtain ⟨hlo, hhi, hpick, hinex⟩ := h
  have hmag : t.mag (lo + sh * 2 ^ t.fb) = lo * 2 ^ q := by rw [t.mag_significand hlt.le hge, hq]
  have hmag' : t.mag (lo + sh * 2 ^ t.fb + 1) = (lo + 1) * 2 ^ q := by
    rw [add_right_comm, t.mag_significand hlt (fun hs => (hge hs).trans (Nat.le_succ _)), hq]
    push_cast
    rfl
  have hodd : (lo + sh * 2 ^ t.fb) % 2 = lo % 2 := by
    obtain ⟨k, hk⟩ := dvd_pow_self 2 (Nat.one_le_iff_ne_zero.1 hf)
    rw [hk, mul_left_comm, Nat.add_mul_mod_self_left]
  refine ⟨⟨hmag ▸ hlo, hmag' ▸ hhi, ?_⟩, hmag ▸ hinex⟩
  rw [hmag, hmag', hodd]
  exact hpick.imp (And.imp_left (by omega)) (And.imp_left (by omega))

/-- The last number of the binade under the smallest normal, and that normal, in units of that binade's last place. -/
theorem Fmt.mag_one_eq_two_mul (t : Fmt) : t.mag 1 = 2 * 2 ^ (t.emin - 1 - t.fb) := by
  rw [t.mag_one, two_zpow_eq_two_mul, Fmt.lastPlace, sub_right_comm]

theorem Fmt.mag_least_eq_mul (t : Fmt) : t.mag (2 ^ t.fb) = (2 ^ (t.fb + 1) : Nat) * 2 ^ (t.emin - 1 - t.fb) := by
  rw [t.mag_least, ← two_zpow_add_natCast]
  congr 1
  push_cast
  ring

/-- In the binade under the smallest normal a number is tiny unless it is rounded up to that normal. -/
theorem Fmt.Fits.tiny_iff_of_topPlace_eq (h : t.Fits j m e v) (hmode : mode < 5) (neg : Bool)
    (htop : topPlace m e = t.emin - 1) :
    t.Tiny mode neg v ↔ (roundAt mode neg m e (topPlace m e - t.fb)).1 ≠ 2 ^ (t.fb + 1) := by
  obtain ⟨-, habove⟩ := h.bounds
  obtain ⟨lo, hlo, hhi, hpick, -⟩ := h.roundedAt hmode neg (q := topPlace m e - t.fb) le_rfl
  rw [htop] at hlo hhi hpick habove ⊢
  rw [sub_add_cancel, ← t.mag_least] at habove
  have hlt : lo < 2 ^ (t.fb + 1) := by
    rw [t.mag_least_eq_mul] at habove
    have hunit : (0 : ℝ) < 2 ^ (t.emin - 1 - t.fb) := by positivity
    exact_mod_cast lt_of_mul_lt_mul_right (hlo.trans_lt habove) hunit.le
  obtain hl | hl : lo + 1 + 1 ≤ 2 ^ (t.fb + 1) ∨ lo + 1 = 2 ^ (t.fb + 1) := by omega
  · refine iff_of_true (Fmt.tiny_of_lt (hhi.trans_le ?_)) (by obtain ⟨he, -⟩ | ⟨he, -⟩ := hpick <;> omega)
    have hle : ((lo + 1 + 1 : Nat) : ℝ) * 2 ^ (t.emin - 1 - t.fb) ≤ t.mag (2 ^ t.fb) := by
      rw [t.mag_least_eq_mul]
      gcongr
    push_cast at hle
    rw [t.mag_one_eq_two_mul]
    linarith
  · have hb : ((lo : ℝ) + 1) * 2 ^ (t.emin - 1 - t.fb) = t.mag (2 ^ t.fb) := by
      rw [t.mag_least_eq_mul, ← hl]
      push_cast
      rfl
    have ha : (lo : ℝ) * 2 ^ (t.emin - 1 - t.fb) = t.mag (2 ^ t.fb) - t.mag 1 / 2 := by
      rw [t.mag_one_eq_two_mul, ← hb]
      ring
    have hodd : lo % 2 = 1 := by
      rw [pow_succ] at hl
      omega
    rw [ha, hb] at hpick
    rw [Fmt.tiny_iff_not_picksUpper hodd habove]
    obtain ⟨he, hp⟩ | ⟨he, hp⟩ := hpick
    · exact iff_of_false (not_not.2 hp) (by omega)
    · exact iff_of_true hp (by omega)

/-- The model finds a number tiny just where R244 does. -/
theorem Fmt.Fits.tinyFlag_iff (h : t.Fits j m e v) (hmode : mode < 5) (neg : Bool) (hf : 1 ≤ t.fb) :
    t.tinyFlag mode neg m e = true ↔ t.Tiny mode neg v := by
  obtain ⟨hbelow, habove⟩ := h.bounds
  rw [Fmt.tinyFlag]
  obtain hge | heq | hlt : t.emin ≤ topPlace m e ∨ topPlace m e = t.emin - 1 ∨
      topPlace m e + 1 ≤ t.emin - 1 := by omega
  · refine iff_of_false (by simp [hge]) (Fmt.not_tiny_of_least_le ?_)
    rw [t.mag_least]
    exact (zpow_le_zpow_right₀ one_le_two hge).trans hbelow
  · rw [h.tiny_iff_of_topPlace_eq hmode neg heq]
    simp [heq]
  · have h1 : topPlace m e < t.emin := by omega
    have h2 : topPlace m e ≠ t.emin - 1 := by omega
    refine iff_of_true (by simp [h1, h2]) (Fmt.tiny_of_lt ?_)
    have hv := habove.trans_le (zpow_le_zpow_right₀ (one_le_two (α := ℝ)) hlt)
    have hle : (2 : ℝ) ^ t.lastPlace ≤ 2 ^ (t.emin - 1) :=
      zpow_le_zpow_right₀ one_le_two (by rw [Fmt.lastPlace]; omega)
    have hpos : (0 : ℝ) < 2 ^ (t.emin - 1) := by positivity
    rw [t.mag_least, t.mag_one, two_zpow_eq_two_mul t.emin]
    linarith

/-- The model's rounding is that of R243 and R244. -/
theorem Fmt.Fits.rounds (h : t.Fits j m e v) (ht : t.Sized) (hmode : mode < 5) (neg : Bool) :
    t.Rounds mode neg v (t.round mode neg m e) := by
  obtain ⟨lo, hr⟩ := h.roundedAt hmode neg (q := t.roundPlace m e) (le_max_left ..)
  obtain ⟨sh, hsh, hlt, hge⟩ := h.significand hr.lower hr.upper
  obtain ⟨hpicks, hinex⟩ := hr.picks ht.fraction_pos hsh hlt hge
  have htiny := h.tinyFlag_iff hmode neg ht.fraction_pos
  have hn := hr.picked.imp And.left And.left
  generalize hround : roundAt mode neg m e (t.roundPlace m e) = r at hr hpicks hinex hn
  rw [t.round_eq mode neg h.1 hround hsh (by omega) (by omega)]
  refine hpicks.rounds ht (fun hy => if_pos hy) ?_ ?_ ?_ ?_ <;> intro hy <;> rw [if_neg (not_le.2 hy)]
  · intro he
    simp [Bool.eq_false_iff.2 (mt hinex.1 (not_not.2 he))]
  · intro hne ht
    simp [hinex.2 hne, htiny.2 ht]
  · intro hne ht
    simp [hinex.2 hne, Bool.eq_false_iff.2 (mt htiny.1 ht)]

end

end Sys2Proof.Machine
end

section
/-! SUPPORT. Bits and the exact numbers they stand for (Table 10.1, for O60): finite values, infinities, zeros and NaNs. -/

namespace Sys2Proof.Machine

/-! ## The parts of a pattern -/

section
variable {t : Fmt} {x : Nat}

theorem Fmt.body_eq (t : Fmt) (x : Nat) :
    x % 2 ^ (t.eb + t.fb) = x / 2 ^ t.fb % 2 ^ t.eb * 2 ^ t.fb + x % 2 ^ t.fb := by
  rw [add_comm t.eb, pow_add, Nat.mod_mul, add_comm, mul_comm]

theorem Fmt.body_div (t : Fmt) (x : Nat) : x % 2 ^ (t.eb + t.fb) / 2 ^ t.fb = x / 2 ^ t.fb % 2 ^ t.eb := by
  rw [add_comm t.eb, pow_add, Nat.mod_mul_right_div_self]

theorem Fmt.body_mod (t : Fmt) (x : Nat) : x % 2 ^ (t.eb + t.fb) % 2 ^ t.fb = x % 2 ^ t.fb :=
  Nat.mod_mod_of_dvd _ (pow_dvd_pow 2 (Nat.le_add_left ..))

/-- The patterns above an infinity's have the highest exponent and a fraction. -/
theorem Fmt.inf_lt_body_iff (t : Fmt) (x : Nat) :
    t.inf false < x % 2 ^ (t.eb + t.fb) ↔ x / 2 ^ t.fb % 2 ^ t.eb = 2 ^ t.eb - 1 ∧ x % 2 ^ t.fb ≠ 0 := by
  have hfr := Nat.mod_lt x (Nat.two_pow_pos t.fb)
  have hex := Nat.mod_lt (x / 2 ^ t.fb) (Nat.two_pow_pos t.eb)
  rw [t.body_eq, t.inf_false]
  obtain heq | hlt : x / 2 ^ t.fb % 2 ^ t.eb = 2 ^ t.eb - 1 ∨ x / 2 ^ t.fb % 2 ^ t.eb + 1 ≤ 2 ^ t.eb - 1 := by omega
  · rw [heq]
    omega
  · have := Nat.mul_le_mul_right (2 ^ t.fb) hlt
    rw [Nat.succ_mul] at this
    exact iff_of_false (by omega) (by omega)

/-! ## The exact number of a value -/

/-- The number that sign, m and e stand for; 0 for what is no number. -/
def FVal.rat : FVal → ℚ
  | .num neg m e => (if neg then -1 else 1) * (m * 2 ^ e)
  | _ => 0

@[simp] theorem FVal.rat_num (neg : Bool) (m : Nat) (e : Int) :
    (FVal.num neg m e).rat = (if neg then -1 else 1) * (m * 2 ^ e) := rfl

theorem FVal.rat_eq_zero_iff (neg : Bool) (m : Nat) (e : Int) : (FVal.num neg m e).rat = 0 ↔ m = 0 := by
  cases neg <;> simp [zpow_ne_zero]

theorem FVal.rat_neg_iff {neg : Bool} {m : Nat} (e : Int) (hm : 0 < m) : (FVal.num neg m e).rat < 0 ↔ neg = true := by
  have : (0 : ℚ) < m * 2 ^ e := by positivity
  cases neg
  · simp [this.le]
  · simp [this]

theorem FVal.rat_negate (neg : Bool) (m : Nat) (e : Int) :
    (FVal.num (!neg) m e).rat = -(FVal.num neg m e).rat := by
  cases neg <;> simp

theorem FVal.rat_mul (a b : Bool) (m n : Nat) (e g : Int) :
    (FVal.num (a != b) (m * n) (e + g)).rat = (FVal.num a m e).rat * (FVal.num b n g).rat := by
  simp only [FVal.rat_num, zpow_add₀ (two_ne_zero (α := ℚ)), Nat.cast_mul]
  cases a <;> cases b <;> simp <;> ring

/-- The significand and the exponent of finite bits. -/
theorem Fmt.val_of_finite (h : t.finite x) :
    ∃ m e, t.val x = .num (t.negative x) m e ∧ t.value x = (FVal.num (t.negative x) m e).rat := by
  obtain ⟨hx, hex⟩ := h
  have hval (mag : ℚ) (hmag : t.magnitude (x % 2 ^ (t.eb + t.fb)) = mag) :
      t.value x = (if t.negative x then -1 else 1) * mag := by
    rw [Fmt.value, hmag]
    split <;> ring
  have hbody := t.body_eq x
  simp only [Fmt.val, Nat.mod_eq_of_lt hx, Nat.shiftRight_eq_div_pow, if_neg hex]
  simp only [Fmt.magnitude, t.body_div, t.body_mod] at hval
  split
  · next h0 =>
    rw [h0, Nat.zero_mul, Nat.zero_add] at hbody
    refine ⟨_, _, rfl, hval _ ?_⟩
    rw [if_pos h0, hbody, Fmt.emin]
  · next h0 =>
    refine ⟨_, _, rfl, hval _ ?_⟩
    rw [if_neg h0, Fmt.emin, Nat.cast_sub (Nat.pos_of_ne_zero h0)]
    congr 2
    push_cast
    ring

/-! ## NaNs, infinities and zeros -/

theorem Fmt.val_of_nan (ht : t.Sized) (hx : x < 2 ^ t.width) (h : t.inf false < x % 2 ^ (t.eb + t.fb)) :
    t.val x = .nan (!x.testBit (t.fb - 1)) (isAbn t x) := by
  obtain ⟨hex, hfr⟩ := (t.inf_lt_body_iff x).1 h
  have hbit : (x % 2 ^ t.fb).testBit (t.fb - 1) = x.testBit (t.fb - 1) := by
    have := ht.fraction_pos
    rw [Nat.testBit_mod_two_pow, decide_eq_true (by omega), Bool.true_and]
  simp only [Fmt.val, Nat.mod_eq_of_lt hx, Nat.shiftRight_eq_div_pow, if_pos hex, if_neg hfr, hbit]

theorem Fmt.val_isNan_iff (hx : x < 2 ^ t.width) : (t.val x).isNan = true ↔ t.inf false < x % 2 ^ (t.eb + t.fb) := by
  rw [t.inf_lt_body_iff]
  simp only [Fmt.val, Nat.mod_eq_of_lt hx, Nat.shiftRight_eq_div_pow]
  split
  · next h =>
    split
    · next h0 => simp [FVal.isNan, h0]
    · next h0 => simp [FVal.isNan, h, h0]
  · next h => split <;> simp [FVal.isNan, h]

theorem Fmt.zero_le (t : Fmt) (neg : Bool) : t.zero neg ≤ 2 ^ (t.eb + t.fb) := by
  cases neg <;> simp [Fmt.zero]

theorem Fmt.two_pow_width (t : Fmt) : 2 ^ t.width = 2 ^ (t.eb + t.fb) * 2 := by
  rw [Fmt.width, add_assoc, add_comm, pow_succ]

theorem Fmt.inf_lt (t : Fmt) (neg : Bool) : t.inf neg < 2 ^ t.width := by
  have := t.inf_false_lt
  have := t.zero_le neg
  rw [t.inf_eq, t.two_pow_width]
  omega

theorem Fmt.testBit_sign (t : Fmt) {y : Nat} (hy : y < 2 ^ (t.eb + t.fb)) (neg : Bool) :
    (y + t.zero neg).testBit (t.eb + t.fb) = neg := by
  cases neg with
  | false => exact Nat.testBit_lt_two_pow hy
  | true =>
    rw [Fmt.zero, if_pos rfl, Nat.add_comm, Nat.testBit_two_pow_add_eq, Nat.testBit_lt_two_pow hy]
    rfl

theorem Fmt.sign_mod (t : Fmt) (y : Nat) (neg : Bool) : (y + t.zero neg) % 2 ^ (t.eb + t.fb) = y % 2 ^ (t.eb + t.fb) := by
  cases neg <;> simp [Fmt.zero]

theorem Fmt.val_inf (t : Fmt) (neg : Bool) : t.val (t.inf neg) = .inf neg := by
  have hpos := Nat.two_pow_pos t.eb
  have hbody := t.sign_mod (t.inf false) neg
  rw [← t.inf_eq, Nat.mod_eq_of_lt t.inf_false_lt] at hbody
  have hex : t.inf neg / 2 ^ t.fb % 2 ^ t.eb = 2 ^ t.eb - 1 := by
    rw [← t.body_div, hbody, t.inf_false, Nat.mul_div_cancel _ (Nat.two_pow_pos _)]
  have hfr : t.inf neg % 2 ^ t.fb = 0 := by rw [← t.body_mod, hbody, t.inf_false, Nat.mul_mod_left]
  have hsign : (t.inf neg).testBit (t.eb + t.fb) = neg := by rw [t.inf_eq, t.testBit_sign t.inf_false_lt]
  simp only [Fmt.val, Nat.mod_eq_of_lt (t.inf_lt neg), Nat.shiftRight_eq_div_pow, if_pos hex, if_pos hfr, hsign]

theorem Fmt.val_zero (ht : t.Sized) (neg : Bool) : t.val (t.zero neg) = .num neg 0 (t.emin - t.fb) := by
  have hpos := Nat.two_pow_pos (t.eb + t.fb)
  have heb : 2 ^ 2 ≤ 2 ^ t.eb := Nat.pow_le_pow_right two_pos ht.exponent
  have hlt : t.zero neg < 2 ^ t.width := by
    have := t.zero_le neg
    rw [t.two_pow_width]
    omega
  have hbody := t.sign_mod 0 neg
  rw [Nat.zero_add, Nat.zero_mod] at hbody
  have hex : t.zero neg / 2 ^ t.fb % 2 ^ t.eb = 0 := by rw [← t.body_div, hbody, Nat.zero_div]
  have hfr : t.zero neg % 2 ^ t.fb = 0 := by rw [← t.body_mod, hbody, Nat.zero_mod]
  have hsign := t.testBit_sign hpos neg
  rw [Nat.zero_add] at hsign
  simp only [Fmt.val, Nat.mod_eq_of_lt hlt, Nat.shiftRight_eq_div_pow, hex, hfr, hsign]
  rw [if_neg (by omega), if_pos trivial]

/-- Finite bits are no NaN, and so no abandoned result. -/
theorem isAbn_of_finite (h : t.finite x) : isAbn t x = false := by
  obtain ⟨hx, hex⟩ := h
  by_contra habn
  rw [Bool.not_eq_false] at habn
  simp only [isAbn, Bool.or_eq_true, Bool.and_eq_true, decide_eq_true_eq] at habn
  rcases habn with ⟨rfl, habn⟩ | ⟨rfl, rfl⟩
  · refine hex ?_
    simp only [f32] at *
    omega
  · exact hex (by decide)

end

end Sys2Proof.Machine
end

section
/-! SUPPORT. Exact results rounded once (R243, R244, R248, for O60): sums, products, fused ones, and integers. -/

namespace Sys2Proof.Machine

/-- `r` is the rational number v, not 0, rounded under a mode. -/
def Fmt.RoundsRat (t : Fmt) (mode : Nat) (v : ℚ) (r : Nat × Nat) : Prop :=
  t.Rounds mode (decide (v < 0)) ((|v| : ℚ) : ℝ) r

section
variable {t : Fmt} {mode : Nat}

/-- A number that m × 2^e is, rounded. -/
theorem Fmt.round_rounds (ht : t.Sized) (hmode : mode < 5) (neg : Bool) {m : Nat} (hm : 0 < m) (e : Int) :
    t.Rounds mode neg (m * 2 ^ e) (t.round mode neg m e) :=
  Fmt.Fits.rounds ⟨hm, standsFor_self m e, .inl rfl⟩ ht hmode neg

/-- A number is rounded by its sign and its magnitude. -/
theorem Fmt.Rounds.signed {neg : Bool} {u : ℚ} {r : Nat × Nat} (h : t.Rounds mode neg (u : ℝ) r) (hu : 0 < u) :
    t.RoundsRat mode ((if neg then -1 else 1) * u) r := by
  have hsign : decide ((if neg then -1 else 1) * u < 0) = neg := by
    cases neg
    · simp [hu.le]
    · simp [hu]
  have habs : |(if neg then -1 else 1) * u| = u := by cases neg <;> simp [abs_of_pos hu]
  rwa [Fmt.RoundsRat, hsign, habs]

theorem Fmt.round_roundsRat (ht : t.Sized) (hmode : mode < 5) {neg : Bool} {m : Nat} {e : Int}
    (h : (FVal.num neg m e).rat ≠ 0) : t.RoundsRat mode (FVal.num neg m e).rat (t.round mode neg m e) := by
  have hm : 0 < m := Nat.pos_of_ne_zero (mt (FVal.rat_eq_zero_iff neg m e).2 h)
  refine Fmt.Rounds.signed ?_ (by positivity)
  push_cast
  exact t.round_rounds ht hmode neg hm e

/-- An integer at an exponent, rounded. -/
theorem Fmt.round_int_roundsRat (ht : t.Sized) (hmode : mode < 5) {z : Int} (hz : z ≠ 0) (e : Int) :
    t.RoundsRat mode (z * 2 ^ e) (t.round mode (z < 0) z.natAbs e) := by
  have hrat : (FVal.num (z < 0) z.natAbs e).rat = z * 2 ^ e := by
    obtain hneg | hpos := lt_or_ge z 0
    · have habs : ((z.natAbs : Nat) : ℚ) = -z := by rw [Nat.cast_natAbs, abs_of_neg hneg, Int.cast_neg]
      simp [hneg, habs]
    · have habs : ((z.natAbs : Nat) : ℚ) = z := by rw [Nat.cast_natAbs, abs_of_nonneg hpos]
      simp [hpos.not_gt, habs]
  rw [← hrat]
  refine t.round_roundsRat ht hmode ?_
  rw [Ne, FVal.rat_eq_zero_iff]
  omega

/-! ## Sums -/

theorem scaled_mul (neg : Bool) (m : Nat) {e q : Int} (h : q ≤ e) :
    (scaled neg m e q : ℚ) * 2 ^ q = (FVal.num neg m e).rat := by
  have hpow : (2 : ℚ) ^ (e - q).toNat * 2 ^ q = 2 ^ e := by
    rw [← zpow_natCast, ← zpow_add₀ two_ne_zero]
    congr 1
    omega
  rw [scaled, FVal.rat_num, ← hpow, Nat.shiftLeft_eq]
  cases neg
  · simp
    ring
  · simp
    ring

theorem minExp_le (l : List FVal) (q : Int) : minExp l q ≤ q := by
  induction l generalizing q with
  | nil => exact le_rfl
  | cons x l ih =>
    cases x with
    | num n m e =>
      rw [minExp]
      split
      · exact ih q
      · exact (ih _).trans (min_le_right ..)
    | nan => exact ih q
    | inf => exact ih q

theorem minExp_le_of_mem {l : List FVal} {n : Bool} {m : Nat} {e : Int} (h : .num n m e ∈ l) (hm : m ≠ 0) (q : Int) :
    minExp l q ≤ e := by
  induction l generalizing q with
  | nil => simp at h
  | cons x l ih =>
    obtain rfl | hmem := List.mem_cons.1 h
    · rw [minExp, if_neg hm]
      exact (minExp_le l _).trans (min_le_left ..)
    · cases x with
      | num n' m' e' =>
        rw [minExp]
        split <;> exact ih hmem _
      | nan => exact ih hmem q
      | inf => exact ih hmem q

theorem sumAt_mul {l : List FVal} {q : Int} (h : ∀ n m e, .num n m e ∈ l → m ≠ 0 → q ≤ e) :
    (sumAt q l : ℚ) * 2 ^ q = (l.map FVal.rat).sum := by
  induction l with
  | nil => simp [sumAt]
  | cons x l ih =>
    have ih := ih fun n m e hx => h n m e (List.mem_cons_of_mem _ hx)
    rw [List.map_cons, List.sum_cons, ← ih]
    cases x with
    | num n m e =>
      by_cases hm : m = 0
      · simp [sumAt, hm]
      · rw [← scaled_mul n m (h n m e List.mem_cons_self hm), sumAt, if_neg hm]
        push_cast
        ring
    | nan => simp [sumAt, FVal.rat]
    | inf => simp [sumAt, FVal.rat]

/-- Two finite terms are added exactly; a zero sum has their sign, or the one of R244. -/
theorem sumRound_num (n1 n2 : Bool) (m1 m2 : Nat) (e1 e2 : Int) :
    let x := FVal.num n1 m1 e1
    let y := FVal.num n2 m2 e2
    (x.rat + y.rat = 0 → n1 ≠ n2 → sumRound t mode [x, y] = (t.zero (mode = 2), 0)) ∧
    (t.Sized → mode < 5 → x.rat + y.rat ≠ 0 → t.RoundsRat mode (x.rat + y.rat) (sumRound t mode [x, y])) := by
  intro x y
  have hsum := sumAt_mul (l := [x, y]) (q := minExp [x, y] 4096) fun _ _ _ h hm => minExp_le_of_mem h hm _
  have hround : sumRound t mode [x, y] =
      let q := minExp [x, y] 4096
      let v := sumAt q [x, y]
      if v = 0 then
        if n1 && n2 then (t.zero true, 0) else if !n1 && !n2 then (t.zero false, 0) else (t.zero (mode = 2), 0)
      else t.round mode (v < 0) v.natAbs q := by
    simp [sumRound, FVal.isNan, FVal.neg?, x, y]
  have h2 : (2 : ℚ) ^ minExp [x, y] 4096 ≠ 0 := zpow_ne_zero _ two_ne_zero
  rw [List.map_cons, List.map_cons, List.map_nil, List.sum_cons, List.sum_cons, List.sum_nil, add_zero] at hsum
  refine ⟨fun h0 hne => ?_, fun ht hmode h0 => ?_⟩
  · have hz : sumAt (minExp [x, y] 4096) [x, y] = 0 := by
      rw [h0, mul_eq_zero, or_iff_left h2] at hsum
      exact_mod_cast hsum
    rw [hround]
    simp only [hz, if_pos]
    cases n1 <;> cases n2 <;> simp at hne ⊢
  · have hz : sumAt (minExp [x, y] 4096) [x, y] ≠ 0 := fun hz => h0 (by rw [← hsum, hz, Int.cast_zero, zero_mul])
    rw [hround]
    simp only [if_neg hz]
    rw [← hsum]
    exact t.round_int_roundsRat ht hmode hz _

end

/-! ## Operations on finite values -/

section
variable {t : Fmt} {mode x y z : Nat}

theorem fAdd_finite (ht : t.Sized) (hmode : mode < 5) (hx : t.finite x) (hy : t.finite y) :
    (t.value x + t.value y ≠ 0 → t.RoundsRat mode (t.value x + t.value y) (fAdd t mode x y)) ∧
    (t.value x + t.value y = 0 → t.negative x ≠ t.negative y → fAdd t mode x y = (t.zero (mode = 2), 0)) := by
  obtain ⟨m, e, hvx, hx⟩ := t.val_of_finite hx
  obtain ⟨k, g, hvy, hy⟩ := t.val_of_finite hy
  have hadd : fAdd t mode x y = sumRound t mode [.num (t.negative x) m e, .num (t.negative y) k g] := by
    simp [fAdd, hvx, hvy, FVal.nanFlags]
  obtain ⟨hzero, hne⟩ := sumRound_num (t := t) (mode := mode) (t.negative x) (t.negative y) m k e g
  rw [hadd, hx, hy]
  exact ⟨hne ht hmode, hzero⟩

theorem fSub_finite (ht : t.Sized) (hmode : mode < 5) (hx : t.finite x) (hy : t.finite y)
    (h : t.value x - t.value y ≠ 0) : t.RoundsRat mode (t.value x - t.value y) (fSub t mode x y) := by
  obtain ⟨m, e, hvx, hx⟩ := t.val_of_finite hx
  obtain ⟨k, g, hvy, hy⟩ := t.val_of_finite hy
  have hsub : fSub t mode x y = sumRound t mode [.num (t.negative x) m e, .num (!t.negative y) k g] := by
    simp [fSub, hvx, hvy, FVal.nanFlags, FVal.negate]
  rw [hx, hy, sub_eq_add_neg, ← FVal.rat_negate] at h ⊢
  rw [hsub]
  exact (sumRound_num _ _ m k e g).2 ht hmode h

theorem fMul_finite (hx : t.finite x) (hy : t.finite y) :
    ∃ m e, fMul t mode x y = t.round mode (t.negative x != t.negative y) m e ∧
      t.value x * t.value y = (FVal.num (t.negative x != t.negative y) m e).rat := by
  obtain ⟨m, e, hvx, hx⟩ := t.val_of_finite hx
  obtain ⟨k, g, hvy, hy⟩ := t.val_of_finite hy
  exact ⟨m * k, e + g, by simp [fMul, hvx, hvy, FVal.mul, FVal.nanFlags], by rw [hx, hy, FVal.rat_mul]⟩

theorem fMul_rounds (ht : t.Sized) (hmode : mode < 5) (hx : t.finite x) (hy : t.finite y)
    (h : t.value x * t.value y ≠ 0) : t.RoundsRat mode (t.value x * t.value y) (fMul t mode x y) := by
  obtain ⟨m, e, hmul, hv⟩ := fMul_finite (mode := mode) hx hy
  rw [hv] at h ⊢
  rw [hmul]
  exact t.round_roundsRat ht hmode h

theorem fMul_zero (hx : t.finite x) (hy : t.finite y) (h : t.value x * t.value y = 0) :
    fMul t mode x y = (t.zero (t.negative x != t.negative y), 0) := by
  obtain ⟨m, e, hmul, hv⟩ := fMul_finite (mode := mode) hx hy
  rw [hv, FVal.rat_eq_zero_iff] at h
  rw [hmul, h, Fmt.round, roundTo, if_pos rfl]

/-- The product is added, or subtracted, before it is rounded. -/
theorem fFma_rounds (ht : t.Sized) (hmode : mode < 5) (sub : Bool) (hx : t.finite x) (hy : t.finite y)
    (hz : t.finite z) (h : (if sub then -1 else 1) * (t.value x * t.value y) + t.value z ≠ 0) :
    t.RoundsRat mode ((if sub then -1 else 1) * (t.value x * t.value y) + t.value z) (fFma t mode sub x y z) := by
  obtain ⟨m, e, hvx, hx⟩ := t.val_of_finite hx
  obtain ⟨k, g, hvy, hy⟩ := t.val_of_finite hy
  obtain ⟨l, i, hvz, hz⟩ := t.val_of_finite hz
  have hfma : fFma t mode sub x y z = sumRound t mode
      [.num (sub != (t.negative x != t.negative y)) (m * k) (e + g), .num (t.negative z) l i] := by
    cases sub <;> simp [fFma, hvx, hvy, hvz, FVal.mul, FVal.nanFlags, FVal.negate]
  have hprod : (if sub then -1 else 1) * (t.value x * t.value y) =
      (FVal.num (sub != (t.negative x != t.negative y)) (m * k) (e + g)).rat := by
    rw [hx, hy, ← FVal.rat_mul]
    cases sub with
    | false => rw [Bool.false_bne, if_neg Bool.false_ne_true, one_mul]
    | true => rw [Bool.true_bne, FVal.rat_negate, if_pos rfl, neg_one_mul]
  rw [hfma]
  rw [hprod, hz] at h ⊢
  exact (sumRound_num _ _ (m * k) l (e + g) i).2 ht hmode h

theorem fOfInt_rounds (ht : t.Sized) (hmode : mode < 5) {i : Int} (h : i ≠ 0) :
    t.RoundsRat mode i (fOfInt t mode i) := by
  have := t.round_int_roundsRat ht hmode h 0
  rwa [zpow_zero, mul_one] at this

/-- A finite value goes to any format as the number it is. -/
theorem fCvt_rounds {u : Fmt} (hu : u.Sized) (hmode : mode < 5) (hx : t.finite x) (h : t.value x ≠ 0) :
    u.RoundsRat mode (t.value x) (fCvt t u mode x) := by
  have habn := isAbn_of_finite hx
  have hmod := Nat.mod_eq_of_lt hx.1
  obtain ⟨m, e, hvx, hx⟩ := t.val_of_finite hx
  have hcvt : fCvt t u mode x = u.round mode (t.negative x) m e := by
    simp [fCvt, hmod, habn, hvx]
  rw [hx] at h ⊢
  rw [hcvt]
  exact u.round_roundsRat hu hmode h

end

end Sys2Proof.Machine
end

section
/-! SUPPORT. Quotients and roots (R243, R245, for O60): the model keeps a lowest bit for what it cuts off an infinite
expansion, so far below the significand that they round as the exact numbers do. -/

namespace Sys2Proof.Machine

/-! ## Quotients -/

/-- The lowest bit for a remainder. -/
theorem sticky_div (a : Nat) {n : Nat} (hn : 0 < n) :
    (if a % n = 0 then 0 else 1) = 0 ∧ (a : ℝ) / n = (a / n : Nat) ∨
      (if a % n = 0 then 0 else 1) = 1 ∧ ((a / n : Nat) : ℝ) < (a : ℝ) / n ∧ (a : ℝ) / n < (a / n : Nat) + 1 := by
  have hnR : (0 : ℝ) < n := Nat.cast_pos.2 hn
  have hsplit : (a : ℝ) / n = (a / n : Nat) + (a % n : Nat) / n := by
    rw [div_eq_iff hnR.ne', add_mul, div_mul_cancel₀ _ hnR.ne']
    exact_mod_cast (Nat.div_add_mod' a n).symm
  rw [hsplit]
  by_cases h0 : a % n = 0
  · exact .inl ⟨if_pos h0, by rw [h0, Nat.cast_zero, zero_div, add_zero]⟩
  · refine .inr ⟨if_neg h0, lt_add_of_pos_right _ ?_, add_lt_add_right ?_ _⟩
    · exact div_pos (Nat.cast_pos.2 (Nat.pos_of_ne_zero h0)) hnR
    · exact (div_lt_one hnR).2 (Nat.cast_lt.2 (Nat.mod_lt a hn))

theorem quot_fits {t : Fmt} (ht : t.Sized) {m n : Nat} (hm : 0 < m) (hn : 0 < n) (e : Int) :
    t.Fits 1 (quot m n e).1 (quot m n e).2 ((m : ℝ) / n * 2 ^ e) := by
  obtain ⟨k, hk⟩ : ∃ k, k = bitLen n + 130 := ⟨_, rfl⟩
  have hquot : quot m n e = (2 * (m * 2 ^ k / n) + (if m * 2 ^ k % n = 0 then 0 else 1), e - k - 1) := by
    rw [quot, Nat.shiftLeft_eq, hk]
  have hv : (m : ℝ) / n * 2 ^ e = 2 * ((m * 2 ^ k : Nat) / n) * 2 ^ (e - k - 1) := by
    have hpow : (2 : ℝ) ^ e = 2 ^ k * 2 * 2 ^ (e - k - 1) := by
      rw [← pow_succ, ← zpow_natCast, ← zpow_add₀ two_ne_zero]
      congr 1
      push_cast
      ring
    rw [hpow]
    push_cast
    ring
  have hbig : 2 ^ (t.fb + 2) ≤ m * 2 ^ k / n := by
    obtain ⟨-, -, hlt⟩ := bitLen_of_pos hn
    have hexp : t.fb + 2 + bitLen n ≤ k := by
      have := ht.fraction_le
      omega
    rw [Nat.le_div_iff_mul_le hn]
    calc 2 ^ (t.fb + 2) * n ≤ 2 ^ (t.fb + 2) * 2 ^ bitLen n := Nat.mul_le_mul_left _ hlt.le
      _ ≤ 2 ^ k := by rw [← pow_add]; exact Nat.pow_le_pow_right two_pos hexp
      _ ≤ m * 2 ^ k := Nat.le_mul_of_pos_left _ hm
  have hpos := Nat.two_pow_pos (t.fb + 2)
  rw [hquot, hv]
  exact ⟨by omega, standsFor_sticky (sticky_div _ hn) _, .inr ⟨rfl, by omega⟩⟩

/-! ## Integer roots -/

/-- Bit by bit, the root found so far stays at or below the root, and within what the bits left can add. -/
theorem isqrt_spec {n : Nat} (b r : Nat) (hlo : r * r ≤ n) (hhi : n < (r + 2 ^ b) * (r + 2 ^ b)) :
    isqrt n b r * isqrt n b r ≤ n ∧ n < (isqrt n b r + 1) * (isqrt n b r + 1) := by
  induction b generalizing r with
  | zero => exact ⟨hlo, hhi⟩
  | succ b ih =>
    rw [isqrt]
    split
    · next h => exact ih _ h (by rwa [add_assoc, ← mul_two, ← pow_succ])
    · next h => exact ih r hlo (not_le.1 h)

theorem isqrt_bitLen (n : Nat) : isqrt n ((bitLen n + 1) / 2 + 1) 0 = Nat.sqrt n := by
  have hlt : n < 2 ^ bitLen n := by
    obtain rfl | hn := Nat.eq_zero_or_pos n
    · exact Nat.two_pow_pos _
    · exact (bitLen_of_pos hn).2.2
  have hle : 2 ^ bitLen n ≤ 2 ^ ((bitLen n + 1) / 2 + 1) * 2 ^ ((bitLen n + 1) / 2 + 1) := by
    rw [← pow_add]
    exact Nat.pow_le_pow_right two_pos (by omega)
  obtain ⟨hlo, hhi⟩ := isqrt_spec ((bitLen n + 1) / 2 + 1) 0 (Nat.zero_le n) (by rw [Nat.zero_add]; omega)
  exact (Nat.eq_sqrt.2 ⟨hlo, hhi⟩)

/-! ## Roots -/

/-- The lowest bit for the remainder of a root. -/
theorem sticky_sqrt (a : Nat) :
    (if Nat.sqrt a * Nat.sqrt a = a then 0 else 1) = 0 ∧ Real.sqrt a = Nat.sqrt a ∨
      (if Nat.sqrt a * Nat.sqrt a = a then 0 else 1) = 1 ∧ (Nat.sqrt a : ℝ) < Real.sqrt a ∧
        Real.sqrt a < Nat.sqrt a + 1 := by
  have heq : Real.sqrt a = Nat.sqrt a ↔ Nat.sqrt a * Nat.sqrt a = a := by
    rw [Real.sqrt_eq_iff_mul_self_eq (Nat.cast_nonneg _) (Nat.cast_nonneg _), eq_comm]
    exact_mod_cast Iff.rfl
  by_cases hsq : Nat.sqrt a * Nat.sqrt a = a
  · exact .inl ⟨if_pos hsq, heq.2 hsq⟩
  · exact .inr ⟨if_neg hsq, lt_of_le_of_ne Real.nat_sqrt_le_real_sqrt fun h => hsq (heq.1 h.symm),
      Real.real_sqrt_lt_nat_sqrt_succ⟩

theorem rootOf_fits {t : Fmt} (ht : t.Sized) {m : Nat} (hm : 0 < m) (e : Int) :
    t.Fits 1 (rootOf m e).1 (rootOf m e).2 (Real.sqrt (m * 2 ^ e)) := by
  obtain ⟨k, hk⟩ : ∃ k, k = 2 * 70 + (if e % 2 = 0 then 0 else 1) := ⟨_, rfl⟩
  obtain ⟨i, hi⟩ : ∃ i : Int, e = k + i * 2 := by
    refine ⟨(e - k) / 2, ?_⟩
    rw [hk]
    split <;> omega
  obtain ⟨a, ha⟩ : ∃ a, a = m * 2 ^ k := ⟨_, rfl⟩
  have hroot : rootOf m e = (2 * Nat.sqrt a + (if Nat.sqrt a * Nat.sqrt a = a then 0 else 1), i - 1) := by
    have hhalf : (e - k) / 2 = i := by omega
    rw [rootOf, Nat.shiftLeft_eq, ← hk, ← ha]
    simp only [isqrt_bitLen, hhalf]
  have hv : Real.sqrt (m * 2 ^ e) = 2 * Real.sqrt a * 2 ^ (i - 1) := by
    have hpow : (m : ℝ) * 2 ^ e = a * (2 ^ i) ^ 2 := by
      rw [hi, zpow_add₀ two_ne_zero, zpow_mul, zpow_natCast, ha]
      push_cast
      rw [mul_assoc]
      rfl
    rw [hpow, Real.sqrt_mul (Nat.cast_nonneg a), Real.sqrt_sq (by positivity), two_zpow_eq_two_mul i]
    ring
  have hbig : 2 ^ (t.fb + 2) ≤ Nat.sqrt a := by
    have hexp : t.fb + 2 + (t.fb + 2) ≤ k := by
      have := ht.fraction_le
      omega
    rw [Nat.le_sqrt, ← pow_add, ha]
    exact (Nat.pow_le_pow_right two_pos hexp).trans (Nat.le_mul_of_pos_left _ hm)
  have hpos := Nat.two_pow_pos (t.fb + 2)
  rw [hroot, hv]
  exact ⟨by omega, standsFor_sticky (sticky_sqrt a) _, .inr ⟨rfl, by omega⟩⟩

/-! ## Operations on finite values -/

section
variable {t : Fmt} {mode x y : Nat}

theorem fDiv_rounds (ht : t.Sized) (hmode : mode < 5) (hx : t.finite x) (hy : t.finite y) (hv : t.value x ≠ 0)
    (hw : t.value y ≠ 0) : t.RoundsRat mode (t.value x / t.value y) (fDiv t mode x y) := by
  obtain ⟨m, e, hvx, hx⟩ := t.val_of_finite hx
  obtain ⟨n, g, hvy, hy⟩ := t.val_of_finite hy
  rw [hx, Ne, FVal.rat_eq_zero_iff] at hv
  rw [hy, Ne, FVal.rat_eq_zero_iff] at hw
  have hm := Nat.pos_of_ne_zero hv
  have hn := Nat.pos_of_ne_zero hw
  have hdiv : fDiv t mode x y = t.round mode (t.negative x != t.negative y) (quot m n (e - g)).1 (quot m n (e - g)).2 := by
    simp [fDiv, hvx, hvy, hv, hw]
  have hval : t.value x / t.value y = (if t.negative x != t.negative y then -1 else 1) * ((m : ℚ) / n * 2 ^ (e - g)) := by
    rw [hx, hy, FVal.rat_num, FVal.rat_num, zpow_sub₀ two_ne_zero]
    cases t.negative x <;> cases t.negative y <;> simp [neg_div, div_neg, div_mul_div_comm]
  rw [hval, hdiv]
  refine Fmt.Rounds.signed ?_ (by positivity)
  push_cast
  exact (quot_fits ht hm hn (e - g)).rounds ht hmode _

theorem fDiv_by_zero (hx : t.finite x) (hy : t.finite y) (hw : t.value y = 0) :
    fDiv t mode x y = if t.value x = 0 then (t.nan, 16) else (t.inf (t.negative x != t.negative y), 8) := by
  obtain ⟨m, e, hvx, hx⟩ := t.val_of_finite hx
  obtain ⟨n, g, hvy, hy⟩ := t.val_of_finite hy
  rw [hy, FVal.rat_eq_zero_iff] at hw
  rw [hx, if_congr (FVal.rat_eq_zero_iff (t.negative x) m e) rfl rfl]
  simp [fDiv, hvx, hvy, hw, fNV, fDZ]

theorem fSqrt_rounds (ht : t.Sized) (hmode : mode < 5) (hx : t.finite x) (h : 0 < t.value x) :
    t.Rounds mode false (Real.sqrt ((t.value x : ℚ) : ℝ)) (fSqrt t mode x) := by
  obtain ⟨m, e, hvx, hx⟩ := t.val_of_finite hx
  rw [hx] at h ⊢
  have hm : 0 < m := Nat.pos_of_ne_zero (mt (FVal.rat_eq_zero_iff _ m e).2 h.ne')
  have hneg : t.negative x = false := Bool.eq_false_iff.2 fun hn => ((FVal.rat_neg_iff e hm).2 hn).not_gt h
  have hsqrt : fSqrt t mode x = t.round mode false (rootOf m e).1 (rootOf m e).2 := by
    simp [fSqrt, hvx, hneg, hm.ne']
  have hv : (((FVal.num (t.negative x) m e).rat : ℚ) : ℝ) = m * 2 ^ e := by
    rw [hneg]
    simp
  rw [hsqrt, hv]
  exact (rootOf_fits ht hm e).rounds ht hmode false

theorem fSqrt_negative (hx : t.finite x) (h : t.value x < 0) : fSqrt t mode x = (t.nan, 16) := by
  obtain ⟨m, e, hvx, hx⟩ := t.val_of_finite hx
  rw [hx] at h
  have hm : 0 < m := Nat.pos_of_ne_zero (mt (FVal.rat_eq_zero_iff _ m e).2 h.ne)
  simp [fSqrt, hvx, (FVal.rat_neg_iff e hm).1 h, hm.ne', fNV]

end

end Sys2Proof.Machine
end

section
/-! SUPPORT. NaNs and infinities (R242, R244, R245, for O60), and conversions to an integer (R247, Table 10.5). -/

namespace Sys2Proof.Machine

/-! ## NaN operands (R242) -/

section
variable {t : Fmt} {mode x y : Nat}

theorem sumRound_of_nan {a b : FVal} (h : a.isNan = true ∨ b.isNan = true) : sumRound t mode [a, b] = (t.nan, 0) := by
  cases a <;> cases b <;> simp [FVal.isNan] at h <;> simp [sumRound, FVal.isNan]

theorem FVal.isNan_negate (a : FVal) : a.negate.isNan = a.isNan := by cases a <;> rfl

theorem FVal.mul_of_nan {a b : FVal} (h : a.isNan = true ∨ b.isNan = true) : a.mul b = (.nan false false, 0) := by
  cases a <;> cases b <;> simp [FVal.isNan] at h <;> rfl

/-- A NaN operand gives the canonical NaN, with the flags of the two operands. -/
theorem arithmetic_of_nan (h : (t.val x).isNan = true ∨ (t.val y).isNan = true) :
    let r := (t.nan, (t.val x).nanFlags ||| (t.val y).nanFlags)
    fAdd t mode x y = r ∧ fSub t mode x y = r ∧ fMul t mode x y = r ∧ fDiv t mode x y = r := by
  have hneg : (t.val x).isNan = true ∨ (t.val y).negate.isNan = true := by rwa [FVal.isNan_negate]
  refine ⟨?_, ?_, ?_, ?_⟩
  · simp [fAdd, sumRound_of_nan h]
  · simp [fSub, sumRound_of_nan hneg]
  · simp [fMul, FVal.mul_of_nan h]
  · rw [fDiv]
    generalize t.val x = a at h ⊢
    generalize t.val y = b at h ⊢
    cases a <;> cases b <;> simp [FVal.isNan] at h <;> rfl

/-- The flags of an operand that is no abandoned result: NV for a signalling NaN. -/
theorem Fmt.nanFlags_val (ht : t.Sized) (hx : x < 2 ^ t.width) (habn : isAbn t x = false) :
    (t.val x).nanFlags =
      if t.inf false < x % 2 ^ (t.eb + t.fb) → x.testBit (t.fb - 1) = true then 0 else 16 := by
  by_cases hnan : t.inf false < x % 2 ^ (t.eb + t.fb)
  · rw [t.val_of_nan ht hx hnan, habn]
    cases x.testBit (t.fb - 1) <;> simp [FVal.nanFlags, fNV, hnan]
  · rw [if_pos fun h => absurd h hnan]
    have hnum : (t.val x).isNan ≠ true := mt (Fmt.val_isNan_iff hx).1 hnan
    generalize t.val x = a at hnum ⊢
    cases a with
    | nan => simp [FVal.isNan] at hnum
    | inf => rfl
    | num => rfl

theorem fSqrt_nan (ht : t.Sized) (hx : x < 2 ^ t.width) (h : t.inf false < x % 2 ^ (t.eb + t.fb)) :
    (fSqrt t mode x).1 = t.nan := by
  rw [fSqrt, t.val_of_nan ht hx h]

theorem fCvt_nan (ht : t.Sized) (hx : x < 2 ^ t.width) (h : t.inf false < x % 2 ^ (t.eb + t.fb))
    (habn : isAbn t x = false) (u : Fmt) :
    fCvt t u mode x = (u.nan, if x.testBit (t.fb - 1) then 0 else 16) := by
  have hval := t.val_of_nan ht hx h
  rw [habn] at hval
  cases hbit : x.testBit (t.fb - 1) <;> simp [fCvt, Nat.mod_eq_of_lt hx, habn, hval, hbit, FVal.nanFlags, fNV]

/-! ## Infinities that are invalid (R245) -/

theorem fAdd_inf (t : Fmt) (mode : Nat) (n1 n2 : Bool) :
    fAdd t mode (t.inf n1) (t.inf n2) = if n1 = n2 then (t.inf n1, 0) else (t.nan, 16) := by
  cases n1 <;> cases n2 <;> simp [fAdd, t.val_inf, sumRound, FVal.isNan, FVal.nanFlags, fNV]

theorem fMul_zero_inf (ht : t.Sized) (n1 n2 : Bool) :
    fMul t mode (t.zero n1) (t.inf n2) = (t.nan, 16) ∧ fMul t mode (t.inf n1) (t.zero n2) = (t.nan, 16) := by
  constructor <;> simp [fMul, t.val_inf, t.val_zero ht, FVal.mul, FVal.nanFlags, fNV]

end

/-! ## Conversions to an integer (R247) -/

/-- A natural number that a magnitude rounds to. -/
structure RoundsToNat (mode : Nat) (neg : Bool) (u : ℚ) (n : Nat) : Prop where
  near : nearMode mode = true → |u - n| ≤ 1 / 2 ∧ (|u - n| = 1 / 2 → if mode = 0 then n % 2 = 0 else u < n)
  below : cutMode mode neg = true → (n : ℚ) ≤ u ∧ u < n + 1
  above : nearMode mode = false → cutMode mode neg = false → u ≤ n ∧ (n : ℚ) < u + 1

theorem RoundsToNat.roundsTo {mode n : Nat} {neg : Bool} {u : ℚ} (h : RoundsToNat mode neg u n)
    (hu : 0 ≤ u) : Machine.roundsTo mode ((if neg then -1 else 1) * u) (if neg then -(n : Int) else n) := by
  have hn : (0 : ℚ) ≤ n := Nat.cast_nonneg n
  cases neg with
  | false =>
    simp only [Machine.roundsTo, Bool.false_eq_true, if_false, one_mul, Int.cast_natCast, abs_of_nonneg hu, abs_of_nonneg hn]
    refine ⟨?_, ?_, ?_, ?_, ?_⟩ <;> rintro rfl
    · obtain ⟨hle, htie⟩ := h.near rfl
      exact ⟨hle, fun he => by exact_mod_cast htie he⟩
    · obtain ⟨hle, hlt⟩ := h.below rfl
      exact ⟨hle, abs_lt.2 ⟨by linarith, by linarith⟩, by positivity⟩
    · exact h.below rfl
    · exact h.above rfl rfl
    · exact h.near rfl
  | true =>
    have hneg : |-u - -(n : ℚ)| = |u - n| := by rw [← neg_sub', abs_neg]
    simp only [Machine.roundsTo, if_true, neg_one_mul, Int.cast_neg, Int.cast_natCast, hneg, abs_neg, abs_of_nonneg hu,
      abs_of_nonneg hn, neg_mul_neg]
    refine ⟨?_, ?_, ?_, ?_, ?_⟩ <;> rintro rfl
    · obtain ⟨hle, htie⟩ := h.near rfl
      exact ⟨hle, fun he => by have := htie he; rw [if_pos rfl] at this; omega⟩
    · obtain ⟨hle, hlt⟩ := h.below rfl
      exact ⟨hle, abs_lt.2 ⟨by linarith, by linarith⟩, by positivity⟩
    · obtain ⟨hle, hlt⟩ := h.above rfl rfl
      exact ⟨by linarith, by linarith⟩
    · obtain ⟨hle, hlt⟩ := h.below rfl
      exact ⟨by linarith, by linarith⟩
    · exact h.near rfl

/-- Between neighbouring naturals a mode picks as it does between the rational numbers they are. -/
theorem RoundsToNat.of_picked {mode lo n : Nat} {neg : Bool} {u : ℚ} (hlo : (lo : ℚ) ≤ u) (hhi : u < lo + 1)
    (hpick : n = lo + 1 ∧ takesUpper mode neg (lo % 2 = 1) (lo + 1 / 2 < u) (lo + 1 / 2 = u) (lo < u) ∨
      n = lo ∧ ¬ takesUpper mode neg (lo % 2 = 1) (lo + 1 / 2 < u) (lo + 1 / 2 = u) (lo < u)) :
    RoundsToNat mode neg u n := by
  have habs : |u - lo| = u - lo := abs_of_nonneg (by linarith)
  have habs' : |u - (lo + 1)| = lo + 1 - u := by rw [abs_sub_comm, abs_of_nonneg (by linarith)]
  rw [takesUpper] at hpick
  split at hpick
  · next hnear =>
    refine ⟨fun _ => ?_, fun hcut => absurd hnear (by simp [not_near_of_cut hcut]), fun h => absurd hnear (by simp [h])⟩
    obtain ⟨rfl, hup⟩ | ⟨rfl, hdown⟩ := hpick
    · push_cast
      rw [habs']
      refine ⟨by rcases hup with hup | ⟨hup, -⟩ <;> linarith, fun he => ?_⟩
      split
      · next h0 =>
        obtain hup | ⟨-, hodd⟩ := hup
        · linarith
        · have := hodd h0
          omega
      · linarith
    · rw [habs]
      push Not at hdown
      obtain ⟨hle, htie⟩ := hdown
      refine ⟨by linarith, fun he => ?_⟩
      obtain ⟨h0, heven⟩ := htie (by linarith)
      rw [if_pos h0]
      omega
  · next hnear =>
    refine ⟨fun h => absurd h hnear, fun hcut => ?_, fun _ hcut => ?_⟩
    · rw [hcut] at hpick
      obtain ⟨-, hfalse, -⟩ | ⟨rfl, -⟩ := hpick
      · cases hfalse
      · exact ⟨hlo, hhi⟩
    · rw [and_iff_right hcut] at hpick
      obtain ⟨rfl, hup⟩ | ⟨rfl, hdown⟩ := hpick
      · push_cast
        exact ⟨hhi.le, by linarith⟩
      · exact ⟨not_lt.1 hdown, by linarith⟩

/-- The model's rounding of a magnitude to a multiple of 1, and what it says of being exact. -/
theorem roundAt_zero {mode : Nat} (hmode : mode < 5) (neg : Bool) (m : Nat) (e : Int) :
    RoundsToNat mode neg (m * 2 ^ e) (roundAt mode neg m e 0).1 ∧
      ((roundAt mode neg m e 0).2 = true ↔ ((roundAt mode neg m e 0).1 : ℚ) ≠ m * 2 ^ e) := by
  obtain ⟨lo, hlo, hhi, hpick, hinex⟩ := roundedAt hmode neg (standsFor_self m e) (q := 0) (.inl rfl)
  obtain ⟨u, hu⟩ : ∃ u : ℚ, u = m * 2 ^ e := ⟨_, rfl⟩
  have hcast : (m : ℝ) * 2 ^ e = (u : ℝ) := by rw [hu]; push_cast; rfl
  have hmid : ((lo : ℝ) + (lo + 1)) / 2 = ((lo + 1 / 2 : ℚ) : ℝ) := by push_cast; ring
  have hnat : (lo : ℝ) = ((lo : ℚ) : ℝ) := by push_cast; rfl
  rw [zpow_zero, mul_one, hcast] at hlo hhi hinex
  rw [zpow_zero, mul_one, mul_one, hcast, picksUpper, hmid, hnat, Rat.cast_lt, Rat.cast_lt, Rat.cast_inj] at hpick
  replace hlo : (lo : ℚ) ≤ u := by exact_mod_cast hlo
  replace hhi : u < lo + 1 := by exact_mod_cast hhi
  replace hinex : (roundAt mode neg m e 0).2 = true ↔ (lo : ℚ) ≠ u := by rw [hinex]; norm_cast
  rw [← hu]
  refine ⟨.of_picked hlo hhi hpick, hinex.trans (not_congr ?_)⟩
  obtain ⟨he, hup⟩ | ⟨he, -⟩ := hpick
  · rw [he]
    push_cast
    refine iff_of_false (fun h => ?_) hhi.ne'
    rw [← h] at hup
    norm_num [takesUpper] at hup
  · rw [he]

/-- A finite value is converted to the integer it rounds to where that is in range (Table 10.5). -/
theorem fToInt_finite {t : Fmt} {mode x : Nat} (hmode : mode < 5) (signed : Bool) (n : Nat) (hx : t.finite x) :
    let hi : Int := if signed then 2 ^ (n - 1) - 1 else 2 ^ n - 1
    let lo : Int := if signed then -(2 ^ (n - 1)) else 0
    ∃ z : Int, roundsTo mode (t.value x) z ∧ fToInt t mode signed n x =
      if hi < z then (hi, 16) else if z < lo then (lo, 16) else (z, if (z : ℚ) = t.value x then 0 else 1) := by
  intro hi lo
  obtain ⟨m, e, hvx, hx⟩ := t.val_of_finite hx
  obtain ⟨hround, hinex⟩ := roundAt_zero hmode (t.negative x) m e
  rw [hx, FVal.rat_num]
  refine ⟨_, hround.roundsTo (by positivity), ?_⟩
  have hexact : ((if t.negative x then -((roundAt mode (t.negative x) m e 0).1 : Int)
      else (roundAt mode (t.negative x) m e 0).1 : Int) : ℚ) = (if t.negative x then -1 else 1) * (m * 2 ^ e) ↔
      (roundAt mode (t.negative x) m e 0).2 = false := by
    rw [← Bool.not_eq_true, hinex, not_not]
    cases t.negative x <;> simp
  rw [fToInt, hvx, FVal.toInt]
  simp only [hexact]
  cases (roundAt mode (t.negative x) m e 0).2 <;> rfl

theorem fToInt_nan {t : Fmt} {mode x : Nat} (ht : t.Sized) (signed : Bool) (n : Nat) (hx : x < 2 ^ t.width)
    (h : t.inf false < x % 2 ^ (t.eb + t.fb)) (habn : isAbn t x = false) :
    fToInt t mode signed n x = (if signed then 2 ^ (n - 1) - 1 else 2 ^ n - 1, 16) := by
  rw [fToInt, t.val_of_nan ht hx h, habn]
  rfl

theorem fToInt_inf (t : Fmt) (mode : Nat) (signed : Bool) (n : Nat) (neg : Bool) :
    fToInt t mode signed n (t.inf neg) =
      (if neg then (if signed then -(2 ^ (n - 1)) else 0) else if signed then 2 ^ (n - 1) - 1 else 2 ^ n - 1, 16) := by
  rw [fToInt, t.val_inf]
  rfl

end Sys2Proof.Machine
end

section
/-! Rounding (O60): the model's floating operations give their exact results rounded. -/

open Sys2Proof Sys2Proof.Machine

/-- Settles O60: what is rounded lies between two neighbouring numbers of the format, of which the model picks the one that
R243 asks for (`Fmt.Fits.rounds`); sums and products of finite values are exact before that, and quotients and roots have
a lowest bit for what is cut. -/
theorem roundingRules : Obligations.RoundingRules := by
  unfold Obligations.RoundingRules
  refine ⟨by decide, fun t hmem mode hmode => ?_⟩
  have ht := Fmt.sized_of_mem hmem
  refine ⟨?exact, ?finite, ?ofInt, ?nans, fAdd_inf t mode, fun n1 n2 => fMul_zero_inf ht n1 n2, ?toInt⟩
  case exact => exact fun neg m e hm => t.round_rounds ht hmode neg hm e
  case finite =>
    intro x y z hx hy hz v w
    obtain ⟨hadd, hcancel⟩ := fAdd_finite ht hmode hx hy
    refine ⟨hadd, fSub_finite ht hmode hx hy, hcancel, fMul_rounds ht hmode hx hy, fMul_zero hx hy, fun h => ?fma,
      fun h => ?fmaSub, fun hw hv => fDiv_rounds ht hmode hx hy hv hw, fun hw hv => ?divZero, fun hw hv => ?zeroByZero,
      fSqrt_rounds ht hmode hx, fSqrt_negative hx, fun u hu h => fCvt_rounds (Fmt.sized_of_mem hu) hmode hx h⟩
    case fma =>
      have hfma := fFma_rounds ht hmode false hx hy hz
      rw [if_neg Bool.false_ne_true, one_mul] at hfma
      exact hfma h
    case fmaSub =>
      have hfma := fFma_rounds ht hmode true hx hy hz
      rw [if_pos rfl, neg_one_mul, neg_add_eq_sub] at hfma
      exact hfma h
    case divZero => rw [fDiv_by_zero hx hy hw, if_neg hv]
    case zeroByZero => rw [fDiv_by_zero hx hy hw, if_pos hv]
  case ofInt => exact fun i hi => fOfInt_rounds ht hmode hi
  case nans =>
    intro x y hx hy hax hay
    refine ⟨fun hnan => ?_, fun hnan => ⟨fSqrt_nan ht hx hnan, fun u _ => fCvt_nan ht hx hnan hax u⟩⟩
    obtain ⟨hadd, hsub, hmul, hdiv⟩ := arithmetic_of_nan (t := t) (mode := mode) (x := x) (y := y)
      (hnan.imp (Fmt.val_isNan_iff hx).2 (Fmt.val_isNan_iff hy).2)
    rw [hadd, hsub, hmul, hdiv, Fmt.nanFlags_val ht hx hax, Fmt.nanFlags_val ht hy hay]
    refine ⟨rfl, rfl, rfl, rfl, fun hsig => ?signalling, fun hqx hqy => ?quiet⟩
    case signalling => rcases hsig with hsig | hsig <;> rw [if_neg hsig] <;> split <;> exact ⟨rfl, rfl, rfl, rfl⟩
    case quiet =>
      rw [if_pos hqx, if_pos hqy]
      exact ⟨rfl, rfl, rfl, rfl⟩
  case toInt =>
    intro signed n hn hi lo
    exact ⟨fun x hx => fToInt_finite hmode signed n hx, fun x hx hnan habn => fToInt_nan ht signed n hx hnan habn,
      fToInt_inf t mode signed n false, fToInt_inf t mode signed n true⟩

end
